-- ==== Sys2Proof/Word.lean ====
section
/-! DEFINITION. The word types of the part and their plainest arithmetic. -/

namespace Sys2Proof

/-- One byte of memory, of a packet or of a message. -/
abbrev Byte := BitVec 8

/-- A run of bytes, lowest address first. -/
abbrev Bytes := List Byte

/-- A completion status code (R176). -/
abbrev Status := BitVec 8

/-- A 64-byte descriptor (R83). -/
abbrev Desc := BitVec 512

/-- A value of fabric time in 48.16 fixed point (R6). -/
abbrev FT := BitVec 64

/-- A finite map held as key and value pairs, keys rising. -/
abbrev Tbl (α : Type) := List (Nat × α)

/-- Bits [lo + w - 1 : lo] of a word, as the manual writes a field. -/
def bits {n : Nat} (x : BitVec n) (lo w : Nat) : Nat := (x.toNat >>> lo) % 2 ^ w

/-- One bit of a word. -/
def bit {n : Nat} (x : BitVec n) (i : Nat) : Bool := x.getLsbD i

end Sys2Proof
end

