-- ==== Sys2Proof/Syntax.lean ====
section
/-! DEFINITION. The commands of the part: one constructor of Instr for each row of the
table of operations and events, with the operands that the row's event carries. -/

namespace Sys2Proof

/-- A fabric packet (R145): common header, operand or data extension, payload and end-to-end
check. A control packet has no payload and its check is not used. -/
structure Packet where
  hdr : BitVec 128 := 0
  ext : BitVec 128 := 0
  payload : Bytes := []
  check : BitVec 64 := 0
deriving DecidableEq, Repr

/-- A descriptor in flight, named by its context, queue and sequence number (R76). -/
structure DescRef where
  ctx : Nat
  queue : Nat
  seq : Nat
deriving DecidableEq, Repr

/-- How a dictionary command reaches the part (R433): from principal F over the internal port,
or as a request numbered `seq` of an open Dexol session. -/
inductive Via where
  | firmware
  | session (id seq : Nat)
deriving DecidableEq, Repr

/-- A RoCEv2 packet as it arrives at a queue pair (R415), with the fields its kind uses. -/
structure RocePkt where
  port : Nat := 0
  qpn : Nat := 0
  psn : Nat := 0
  /-- First and last packet of a message. -/
  first : Bool := true
  last : Bool := true
  /-- Remote address, length of the whole message and R_Key. -/
  va : Nat := 0
  len : Nat := 0
  rkey : BitVec 32 := 0
  data : Bytes := []
  imm : BitVec 32 := 0
  qkey : BitVec 32 := 0
  /-- Add or swap value, and compare value. -/
  operand : BitVec 64 := 0
  compare : BitVec 64 := 0
  /-- Marked CE, and ECN-capable. -/
  ce : Bool := false
  ect : Bool := false
deriving DecidableEq, Repr

/-- A response to the part's own RC requests (R423). -/
inductive RoceReply where
  | ack
  | readData (data : Bytes)
  | rnrNak (timer : Nat)
  | nak (code : Nat)
deriving DecidableEq, Repr

/-- A PTP message as a client port takes it in (R427). -/
inductive PtpMsg where
  /-- An Announce: rank of the grandmaster under the best master clock algorithm (lower is
  better), identity, PTP timescale, UTC offset, leap flag and announce interval in ms. -/
  | announce (rank identity : Nat) (ptpScale : Bool) (utcOffset : Nat) (leap : Bool)
      (interval : Nat)
  /-- A Sync exchange: measured offset in ns, PTP time in ns, mean path delay in ns. -/
  | sync (offset : Int) (time delay : Nat)
deriving DecidableEq, Repr

/-- Outcome of the replay of a sampled segment (R242 to R244). The model's lanes compute what the
rules say, so a mismatch is the environment's to report. -/
inductive Verdict where
  | same
  /-- First differing element, count of differing elements, and with which computation a third
  agrees when CHECK_HOLD asks for one: 0 the first, 1 the replay, 2 neither. -/
  | differs (first count third : Nat)
deriving DecidableEq, Repr

/-- What patrol scrub meets at a line (R284). -/
inductive Scrub where
  | clean
  | corrected
  | uncorrectable
deriving DecidableEq, Repr

/-- The straps as sampled (R480, Table 2). -/
structure Straps where
  id : Nat := 0
  role : Nat := 0
  taper : Nat := 0
deriving DecidableEq, Repr

/-- The reference clocks (R497, Table 7). -/
inductive RefClock where
  | core
  | serdes (quarter : Nat)
  | eth
  | mgmt
deriving DecidableEq, Repr

/-- The commands of the part, one constructor per row of the table. -/
inductive Instr where
  /-- FT_TICK_FIRE_TEE (R23). -/
  | ftTickFireTee (cycles : Nat)
  /-- BEACON_SEND (R10). -/
  | beaconSend (port : Nat)
  /-- TIME_BEACON (R10). -/
  | timeBeacon (port : Nat) (pkt : Packet)
  /-- FT_LOCK_REACHED (R12). -/
  | ftLockReached
  /-- FT_OFFSET_LIMIT_EXCEEDED (R12). -/
  | ftOffsetLimitExceeded
  /-- PARENT_LOST (R12). -/
  | parentLost
  /-- HOLDOVER_HUDDLE_LIMIT (R21). -/
  | holdoverHuddleLimit
  /-- ANNOUNCE_SEND (R16). -/
  | announceSend
  /-- TIME_ANNOUNCE (R16). -/
  | timeAnnounce (port : Nat) (pkt : Packet)
  /-- TAI_STEP_MASTER (R18). -/
  | taiStepMaster
  /-- EXTERNAL_LOCK_GAINED (R14). -/
  | externalLockGained
  /-- PPS_EDGE (R14). -/
  | ppsEdge
  /-- FT_STEP_COMMAND (R9). -/
  | ftStepCommand (via : Via) (value : BitVec 64)
  /-- ARM_TEE (R22). -/
  | armTee (d : DescRef)
  /-- DISARM_TEE (R26). -/
  | disarmTee (d : DescRef)
  /-- TEE_ARM_DICT (R22). -/
  | teeArmDict (via : Via) (quarter : Nat) (data : Bytes)
  /-- TEE_DISARM_DICT (R26). -/
  | teeDisarmDict (via : Via) (quarter : Nat) (data : Bytes)
  /-- HUDDLE_ARM (R27). -/
  | huddleArm (d : DescRef)
  /-- HUDDLE_ARRIVE (R28). -/
  | huddleArrive (d : DescRef)
  /-- HUDDLE_ARRIVE_PACKET (R30). -/
  | huddleArrivePacket (pkt : Packet)
  /-- HUDDLE_RELEASE (R27). -/
  | huddleRelease (pkt : Packet)
  /-- HUDDLE_ROOT_TIMEOUT (R32). -/
  | huddleRootTimeout (ctx : Nat) (no : Nat)
  /-- HUDDLE_RELEASE_TIMEOUT (R32). -/
  | huddleReleaseTimeout (ctx : Nat) (no : Nat)
  /-- MAP (R51). -/
  | map (d : DescRef)
  /-- UNMAP (R53). -/
  | unmap (d : DescRef)
  /-- UNMAP_DRAIN_END (R56). -/
  | unmapDrainEnd (d : DescRef)
  /-- UNMAP_WAIT_LIMIT (R56). -/
  | unmapWaitLimit (d : DescRef)
  /-- WALK_COMPLETE (R63). -/
  | walkComplete (quarter : Nat)
  /-- OPEN_WINDOW (R66). -/
  | openWindow (d : DescRef)
  /-- CLOSE_WINDOW (R67). -/
  | closeWindow (d : DescRef)
  /-- RESERVATION_EXPIRE (R72). -/
  | reservationExpire (quarter : Nat) (id : Nat)
  /-- DESCRIPTOR_DISPATCH (R86). -/
  | descriptorDispatch (quarter : Nat) (ctx : Nat) (queue : Nat)
  /-- DESCRIPTOR_COMPLETE (R88). -/
  | descriptorComplete (d : DescRef)
  /-- NOP (R82). -/
  | nop (d : DescRef)
  /-- WAIT_FLAG (R98). -/
  | waitFlag (d : DescRef)
  /-- WAIT_FLAG_TIMEOUT (R98). -/
  | waitFlagTimeout (d : DescRef)
  /-- START_PLAY (R99). -/
  | startPlay (d : DescRef)
  /-- LOAD_PLAY (R97). -/
  | loadPlay (d : DescRef)
  /-- ARM_PLAY (R97). -/
  | armPlay (d : DescRef)
  /-- DISARM_PLAY (R111). -/
  | disarmPlay (d : DescRef)
  /-- PLAY_APPEND (R99). -/
  | playAppend (ctx : Nat) (play : Nat)
  /-- WHISTLE (R104). -/
  | whistle (d : DescRef)
  /-- OPEN_QUEUE (R76). -/
  | openQueue (d : DescRef)
  /-- CLOSE_QUEUE (R109). -/
  | closeQueue (d : DescRef)
  /-- RESUME_QUEUE (R88). -/
  | resumeQueue (d : DescRef)
  /-- OPEN_RING (R104). -/
  | openRing (d : DescRef)
  /-- CLOSE_RING (R108). -/
  | closeRing (d : DescRef)
  /-- COALESCE_TIMEOUT (R106). -/
  | coalesceTimeout (ctx : Nat) (ring : Nat) (queue : Nat)
  /-- RING_HEAD_REREAD (R107). -/
  | ringHeadReread (ctx : Nat) (ring : Nat)
  /-- COPY (R91). -/
  | copy (d : DescRef)
  /-- FILL (R91). -/
  | fill (d : DescRef)
  /-- CACHE_LINE_EXPIRE (R120). -/
  | cacheLineExpire (quarter : Nat) (cls : Nat) (ctx : Nat) (name : Nat)
  /-- FLAG_HOLD_TIMEOUT (R134). -/
  | flagHoldTimeout (quarter : Nat) (src : Nat) (srcQueue : Nat) (seq : Nat)
  /-- READ_REQ (R149). -/
  | readReq (pkt : Packet)
  /-- PROBE (R71). -/
  | probe (pkt : Packet)
  /-- WRITE (R115). -/
  | write (inPort : Nat) (pkt : Packet)
  /-- FLAGGED_WRITE (R132). -/
  | flaggedWrite (inPort : Nat) (pkt : Packet)
  /-- QUEUE_PUSH (R80). -/
  | queuePush (inPort : Nat) (pkt : Packet)
  /-- REDUCE_CONTRIB (R228). -/
  | reduceContrib (inPort : Nat) (pkt : Packet)
  /-- ATOMIC (R158). -/
  | atomic (pkt : Packet)
  /-- CAS64 (R158). -/
  | cas64 (inPort : Nat) (pkt : Packet)
  /-- CAS128 (R158). -/
  | cas128 (inPort : Nat) (pkt : Packet)
  /-- RELAY_WRITE (R173). -/
  | relayWrite (inPort : Nat) (pkt : Packet)
  /-- RELAY_FLAGGED_WRITE (R174). -/
  | relayFlaggedWrite (inPort : Nat) (pkt : Packet)
  /-- RESERVED_OPCODE_PACKET (R157). -/
  | reservedOpcodePacket (pkt : Packet)
  /-- ACK (R166). -/
  | ack (pkt : Packet)
  /-- NACK (R166). -/
  | nack (pkt : Packet)
  /-- ATOMIC_REPLY (R166). -/
  | atomicReply (pkt : Packet)
  /-- READ_REPLY (R166). -/
  | readReply (pkt : Packet)
  /-- CAS128_REPLY (R166). -/
  | cas128Reply (pkt : Packet)
  /-- RESEND_TIMER_EXPIRE (R165). -/
  | resendTimerExpire (node : Nat) (srcQueue : Nat) (seq : Nat)
  /-- NACK_BACKOFF_EXPIRE (R166). -/
  | nackBackoffExpire (node : Nat) (srcQueue : Nat) (seq : Nat)
  /-- REQUEST_GIVE_UP (R167). -/
  | requestGiveUp (node : Nat) (srcQueue : Nat) (seq : Nat)
  /-- ACK_MERGE_EXPIRE (R169). -/
  | ackMergeExpire (src : Nat) (srcQueue : Nat)
  /-- FLOW_RECORD_EXPIRE (R161). -/
  | flowRecordExpire (src : Nat) (srcQueue : Nat) (srcInc : Nat)
  /-- RESULT_ENTRY_EXPIRE (R164). -/
  | resultEntryExpire (src : Nat) (srcQueue : Nat) (srcInc : Nat) (seq : Nat)
  /-- PACKET_ROUTE (R204). -/
  | packetRoute (port : Nat) (fifo : Nat)
  /-- CELL_ADMIT (R191). -/
  | cellAdmit (port : Nat) (fifo : Nat) (middle : Nat)
  /-- CELL_TO_OUTPUT (R195). -/
  | cellToOutput (middle : Nat) (output : Nat)
  /-- SPILL_FETCH (R193). -/
  | spillFetch (middle : Nat) (output : Nat)
  /-- PACKET_TRANSMIT (R196). -/
  | packetTransmit (port : Nat)
  /-- FLOW_REFRESH (R389). -/
  | flowRefresh (port : Nat)
  /-- FLOW_WORD (R389). -/
  | flowWord (port : Nat) (word : BitVec 64)
  /-- PORT_LOAD_SAMPLE (R204). -/
  | portLoadSample
  /-- CONG_NOTE (R211). -/
  | congNote (pkt : Packet)
  /-- LIMITER_INCREASE (R211). -/
  | limiterIncrease (srcQueue : Nat)
  /-- GROUP_ARM (R225). -/
  | groupArm (d : DescRef)
  /-- GROUP_DISARM (R238). -/
  | groupDisarm (d : DescRef)
  /-- CONTRIBUTE (R235). -/
  | contribute (d : DescRef)
  /-- ROUND_WAIT (R237). -/
  | roundWait (d : DescRef)
  /-- ROUND_WAIT_TIMEOUT (R237). -/
  | roundWaitTimeout (d : DescRef)
  /-- ROUND_END (R233). -/
  | roundEnd (ctx : Nat) (group : Nat)
  /-- SEGMENT_FEED (R231). -/
  | segmentFeed (ctx : Nat) (group : Nat) (segment : Nat)
  /-- DUPLICATE_CHECK_DONE (R242). -/
  | duplicateCheckDone (check : Nat) (verdict : Verdict)
  /-- STREAM_ARM (R251). -/
  | streamArm (d : DescRef)
  /-- STREAM_DISARM (R252). -/
  | streamDisarm (d : DescRef)
  /-- STEP_APPLY (R256). -/
  | stepApply (d : DescRef)
  /-- APPLY_COMPLETE (R257). -/
  | applyComplete (d : DescRef)
  /-- LEDGER_ARM (R263). -/
  | ledgerArm (d : DescRef)
  /-- PARITY_ARM (R269). -/
  | parityArm (d : DescRef)
  /-- LEDGER_ABORT (R266). -/
  | ledgerAbort (d : DescRef)
  /-- LEDGER_RESOLVE (R267). -/
  | ledgerResolve (d : DescRef)
  /-- EMIT_COMMITTED (R260). -/
  | emitCommitted (d : DescRef)
  /-- PARITY_COMPLETE (R270). -/
  | parityComplete (ctx : Nat)
  /-- ARENA_ARM (R294). -/
  | arenaArm (d : DescRef)
  /-- ARENA_DISARM (R302). -/
  | arenaDisarm (d : DescRef)
  /-- TILE_PACK (R297). -/
  | tilePack (d : DescRef)
  /-- TILE_UNPACK (R291). -/
  | tileUnpack (d : DescRef)
  /-- TILE_MOVE (R297). -/
  | tileMove (d : DescRef)
  /-- TILE_FREE (R295). -/
  | tileFree (d : DescRef)
  /-- TILE_STAT (R295). -/
  | tileStat (d : DescRef)
  /-- COMPACTION_MOVE (R303). -/
  | compactionMove (ctx : Nat) (arena : Nat) (tile : Nat)
  /-- BACKGROUND_ZERO_FILL (R283). -/
  | backgroundZeroFill (pa : Nat)
  /-- PATROL_SCRUB (R284). -/
  | patrolScrub (pa : Nat) (outcome : Scrub)
  /-- CADDIE_ARM (R309). -/
  | caddieArm (d : DescRef)
  /-- CADDIE_DISARM (R322). -/
  | caddieDisarm (d : DescRef)
  /-- CADDIE_WAIT (R322). -/
  | caddieWait (d : DescRef)
  /-- CADDIE_WAIT_TIMEOUT (R322). -/
  | caddieWaitTimeout (d : DescRef)
  /-- CADDIE_FLUSH (R322). -/
  | caddieFlush (d : DescRef)
  /-- CADDIE_ENTRY_START (R310). -/
  | caddieEntryStart (quarter : Nat) (ctx : Nat) (stream : Nat)
  /-- CADDIE_ENTRY_LAND (R314). -/
  | caddieEntryLand (quarter : Nat) (ctx : Nat) (stream : Nat) (entry : Nat)
  /-- CADDIE_DEADLINE_MISS (R319). -/
  | caddieDeadlineMiss (quarter : Nat) (ctx : Nat) (stream : Nat) (entry : Nat)
  /-- CONTEXT_CREATE (R333). -/
  | contextCreate (via : Via) (ctx : Nat)
  /-- CONTEXT_TEARDOWN (R337). -/
  | contextTeardown (via : Via) (ctx : Nat)
  /-- CONTEXT_RESET (R345). -/
  | contextReset (via : Via) (ctx : Nat)
  /-- TEARDOWN_DRAIN_END (R339). -/
  | teardownDrainEnd (ctx : Nat)
  /-- TEARDOWN_DRAIN_LIMIT (R340). -/
  | teardownDrainLimit (ctx : Nat)
  /-- CLEAR_PHASE_END (R342). -/
  | clearPhaseEnd (ctx : Nat)
  /-- QUEUE_RESUME_DICT (R349). -/
  | queueResumeDict (via : Via) (ctx : Nat) (queue : Nat)
  /-- GROUP_ENTRY_WRITE (R350). -/
  | groupEntryWrite (via : Via) (ctx : Nat) (data : Bytes)
  /-- NODE_LOSS_TIMEOUT (R354). -/
  | nodeLossTimeout (node : Nat)
  /-- FENCE_NOTICE (R357). -/
  | fenceNotice (port : Nat) (pkt : Packet)
  /-- FENCE_NOTICE_REPEAT (R357). -/
  | fenceNoticeRepeat (node : Nat)
  /-- FENCE_COMMAND (R359). -/
  | fenceCommand (via : Via) (node : Nat)
  /-- LAST_GASP (R367). -/
  | lastGasp (port : Nat) (pkt : Packet)
  /-- GASP_MARK_EXPIRE (R367). -/
  | gaspMarkExpire (node : Nat)
  /-- POWER_WARNING (R365). -/
  | powerWarning
  /-- POWER_STOP_ISSUE (R365). -/
  | powerStopIssue
  /-- POWER_STOP_ABANDON (R365). -/
  | powerStopAbandon
  /-- POWER_WARNING_CLEAR (R366). -/
  | powerWarningClear
  /-- REBUILD_START (R368). -/
  | rebuildStart (via : Via) (data : Bytes)
  /-- REBUILD_RECORD_DONE (R370). -/
  | rebuildRecordDone (ctx : Nat) (record : Nat)
  /-- ADOPT_INNINGS (R371). -/
  | adoptInnings (via : Via) (data : Bytes)
  /-- INNINGS_REPLAY (R372). -/
  | inningsReplay (via : Via) (ctx : Nat)
  /-- FAULT_RECORDS_CONSUME (R373). -/
  | faultRecordsConsume (via : Via) (count : Nat)
  /-- FAULT_SUMMARY_CLEAR (R373). -/
  | faultSummaryClear (via : Via) (value : Nat)
  /-- SUSPECT_DECAY (R377). -/
  | suspectDecay
  /-- UNIT_RESTORE (R378). -/
  | unitRestore (via : Via) (value : Nat)
  /-- COMMA_LOCK (R390). -/
  | commaLock (port : Nat) (lane : Nat)
  /-- SERVE_MESSAGE_SEND (R391). -/
  | serveMessageSend (port : Nat)
  /-- SERVE_MESSAGE (R392). -/
  | serveMessage (port : Nat) (lane : Nat) (message : BitVec 128)
  /-- SERVE_TIMEOUT (R397). -/
  | serveTimeout (port : Nat)
  /-- TRAINING_FRAME (R394). -/
  | trainingFrame (port : Nat) (lane : Nat) (request : BitVec 32) (status : BitVec 32) (satisfied : Bool)
  /-- EQUALISE_TIMEOUT (R397). -/
  | equaliseTimeout (port : Nat)
  /-- ALIGN_BLOCK (R398). -/
  | alignBlock (port : Nat) (lane : Nat) (word : BitVec 64) (block : Nat) (sinceBad : Nat) (skew : Nat)
  /-- LOCK_TIMEOUT (R397). -/
  | lockTimeout (port : Nat)
  /-- LINK_FRAME (R388). -/
  | linkFrame (port : Nat) (word : BitVec 64) (body : Bytes) (tag : Bytes)
  /-- CAP_FRAGMENT (R400). -/
  | capFragment (port : Nat) (pkt : Packet)
  /-- CAP_FRAGMENT_TIMEOUT (R400). -/
  | capFragmentTimeout (port : Nat) (message : Nat)
  /-- CAP_MESSAGE_REPEAT (R400). -/
  | capMessageRepeat (port : Nat)
  /-- HELLO (R402). -/
  | hello (port : Nat)
  /-- CONFIRM (R402). -/
  | confirm (port : Nat)
  /-- RESUME (R406). -/
  | resume (port : Nat)
  /-- READY (R402). -/
  | ready (port : Nat)
  /-- CAPABILITY_TIMEOUT (R397). -/
  | capabilityTimeout (port : Nat)
  /-- HELD_BACKOFF_END (R397). -/
  | heldBackoffEnd (port : Nat)
  /-- LOSS_OF_SIGNAL (R399). -/
  | lossOfSignal (port : Nat) (lane : Nat)
  /-- ALIGN_MISSING (R399). -/
  | alignMissing (port : Nat) (lane : Nat)
  /-- UNCORRECTABLE_LIMIT (R399). -/
  | uncorrectableLimit (port : Nat) (lane : Nat) (count : Nat)
  /-- TAG_FAILURE_LIMIT (R399). -/
  | tagFailureLimit (port : Nat)
  /-- SYMBOL_ERROR_LIMIT (R399). -/
  | symbolErrorLimit (port : Nat) (lane : Nat)
  /-- RECOVERY_NOTICE (R399). -/
  | recoveryNotice (port : Nat)
  /-- RECOVER_END (R397). -/
  | recoverEnd (port : Nat)
  /-- RDMA_WRITE (R418). -/
  | rdmaWrite (pkt : RocePkt)
  /-- RDMA_WRITE_PUSH (R420). -/
  | rdmaWritePush (pkt : RocePkt)
  /-- RDMA_READ (R418). -/
  | rdmaRead (pkt : RocePkt)
  /-- SEND_WITH_IMMEDIATE (R420). -/
  | sendWithImmediate (pkt : RocePkt)
  /-- FETCH_ADD (R415). -/
  | fetchAdd (pkt : RocePkt)
  /-- COMPARE_SWAP (R415). -/
  | compareSwap (pkt : RocePkt)
  /-- ROCE_UNSUPPORTED_OPCODE (R415). -/
  | roceUnsupportedOpcode (pkt : RocePkt)
  /-- ROCE_REQUESTER_RESPONSE (R423). -/
  | roceRequesterResponse (qpn : Nat) (psn : Nat) (reply : RoceReply)
  /-- ROCE_REQUESTER_TIMEOUT (R423). -/
  | roceRequesterTimeout (qpn : Nat)
  /-- CONGESTION_NOTIFICATION (R426). -/
  | congestionNotification (qpn : Nat)
  /-- QUEUE_PAIR_CREATE (R416). -/
  | queuePairCreate (via : Via) (data : Bytes)
  /-- QUEUE_PAIR_DESTROY (R416). -/
  | queuePairDestroy (via : Via) (qpn : Nat)
  /-- UDP_DOORBELL (R422). -/
  | udpDoorbell (port : Nat) (source : Nat) (data : Bytes)
  /-- PTP_MESSAGE (R427). -/
  | ptpMessage (port : Nat) (domain : Nat) (message : PtpMsg)
  /-- PTP_ANNOUNCE_TIMEOUT (R427). -/
  | ptpAnnounceTimeout
  /-- ETHERNET_LINK_UP (R412). -/
  | ethernetLinkUp (port : Nat) (rate : Nat)
  /-- ARP_REQUEST (R413). -/
  | arpRequest (port : Nat) (address : Nat)
  /-- NEIGHBOR_SOLICITATION (R413). -/
  | neighborSolicitation (port : Nat) (address : Nat)
  /-- ICMP_ECHO (R414). -/
  | icmpEcho (port : Nat) (data : Bytes)
  /-- ETHERNET_FRAME_DISCARD (R413). -/
  | ethernetFrameDiscard (port : Nat)
  /-- OPEN (R442). -/
  | openSession (port : Nat) (address : Bytes) (datagram : Bytes)
  /-- CLOSE (R445). -/
  | close (id : Nat) (seq : Nat)
  /-- KEEPALIVE (R445). -/
  | keepalive (id : Nat) (seq : Nat)
  /-- DEXOL_READ (R448). -/
  | dexolRead (via : Via) (index : Nat) (sub : Nat) (offset : Nat) (length : Nat) (arg : Bytes)
  /-- DEXOL_WRITE (R435). -/
  | dexolWrite (via : Via) (index : Nat) (sub : Nat) (group : Nat) (offset : Nat) (last : Bool) (data : Bytes)
  /-- COMMIT (R449). -/
  | commit (via : Via) (group : Nat) (scope : Option Nat)
  /-- DISCARD (R449). -/
  | discard (via : Via) (group : Nat) (scope : Option Nat)
  /-- SUBSCRIBE (R450). -/
  | subscribe (id : Nat) (seq : Nat) (subId : Nat) (index : Nat) (sub : Nat) (periodic : Bool) (period : Nat)
  /-- UNSUBSCRIBE (R450). -/
  | unsubscribe (id : Nat) (seq : Nat) (subId : Nat)
  /-- NOTIFY (R450). -/
  | notify (id : Nat) (subscription : Nat)
  /-- SESSION_IDLE_TIMEOUT (R445). -/
  | sessionIdleTimeout (id : Nat)
  /-- DEXOL_DATAGRAM_DISCARD (R441). -/
  | dexolDatagramDiscard
  /-- C0_QUEUE_PUSH (R508). -/
  | c0QueuePush (via : Via) (quarter : Nat) (data : Bytes)
  /-- F_QUEUE_OPEN (R508). -/
  | fQueueOpen (via : Via) (quarter : Nat) (data : Bytes)
  /-- IMAGE_SEGMENT_WRITE (R468). -/
  | imageSegmentWrite (via : Via) (offset : Nat) (data : Bytes)
  /-- UPDATE_VERIFY (R468). -/
  | updateVerify (via : Via)
  /-- UPDATE_ACTIVATE (R469). -/
  | updateActivate (via : Via)
  /-- UPDATE_CANCEL (R468). -/
  | updateCancel (via : Via)
  /-- UPDATE_COMMIT (R471). -/
  | updateCommit (via : Via)
  /-- FIRMWARE_RESTART (R468). -/
  | firmwareRestart (via : Via)
  /-- ACTIVATION_DEFERRAL_END (R470). -/
  | activationDeferralEnd
  /-- TRIAL_FAIL (R472). -/
  | trialFail
  /-- WATCHDOG_EXPIRE (R473). -/
  | watchdogExpire (core : Nat)
  /-- OPERATOR_KEY_WRITE (R462). -/
  | operatorKeyWrite (via : Via) (key : Bytes)
  /-- TRUST_LIST_LOAD (R464). -/
  | trustListLoad (via : Via) (data : Bytes)
  /-- TOPOLOGY_MAP_LOAD (R466). -/
  | topologyMapLoad (via : Via) (data : Bytes)
  /-- TENANT_POLICY_LOAD (R467). -/
  | tenantPolicyLoad (via : Via) (data : Bytes)
  /-- ATTESTATION_QUOTE (R474). -/
  | attestationQuote (via : Via) (nonce : Bytes)
  /-- POWER_OK_RISE (R482). -/
  | powerOkRise (straps : Straps) (cold : Bool) (hot : Bool)
  /-- POWER_OK_FALL (R485). -/
  | powerOkFall (aonLost : Bool)
  /-- RESET_N (R485). -/
  | resetN
  /-- RESET_COMMAND (R487). -/
  | resetCommand (via : Via) (value : Nat)
  /-- PLATE_TRAINING_END (R275). -/
  | plateTrainingEnd (stack : Nat) (trained : Bool)
  /-- SLAB_TRAINING_END (R276). -/
  | slabTrainingEnd (module : Nat) (size : Nat) (trained : Bool)
  /-- STARTUP_COMPLETE (R482). -/
  | startupComplete
  /-- STARTUP_TEMPERATURE_OK (R484). -/
  | startupTemperatureOk
  /-- EPO_ASSERT (R488). -/
  | epoAssert
  /-- EPO_RELEASE (R489). -/
  | epoRelease
  /-- REFERENCE_CLOCK_LOSS (R498). -/
  | referenceClockLoss (clock : RefClock)
  /-- GOVERNOR_LIMIT_WRITE (R490). -/
  | governorLimitWrite (via : Via) (watts : Nat)
  /-- POWER_SAMPLE (R491). -/
  | powerSample (watts : Nat)
  /-- GOVERNOR_STEP (R492). -/
  | governorStep (prediction : Nat)
  /-- GOVERNOR_RELAX (R493). -/
  | governorRelax (prediction : Nat)
  /-- THERMAL_SAMPLE (R495). -/
  | thermalSample (quarter : Nat) (reading : Option Int)
  /-- THERMAL_STEP_CLEAR (R495). -/
  | thermalStepClear (quarter : Nat)
  /-- COMMA_LOCK_LOST (R390). -/
  | commaLockLost (port : Nat) (lane : Nat)
  /-- TRAINING_FRAME_SEND (R396). -/
  | trainingFrameSend (port : Nat)
  /-- ETHERNET_LINK_DOWN (R412). -/
  | ethernetLinkDown (port : Nat)
  /-- MANAGEMENT_AUTONEG_TIMEOUT (R428). -/
  | managementAutonegTimeout
  /-- RESET_N_RELEASE (R485). -/
  | resetNRelease (straps : Straps)
  /-- REFERENCE_CLOCK_RETURN (R498). -/
  | referenceClockReturn (clock : RefClock)
  /-- FIRMWARE_CORE_RUNNING (R469). -/
  | firmwareCoreRunning (core : Nat)
  /-- ARENA_LARGEST_SAMPLE (R303). -/
  | arenaLargestSample
  /-- ROCE_RNR_TIMER_EXPIRE (R423). -/
  | roceRnrTimerExpire (qpn : Nat)
deriving DecidableEq, Repr

end Sys2Proof
end

