-- ==== Sys2Proof/Decode.lean ====
section
/-! DEFINITION. The decoder of command words. The table of operations and events gives no row
any bits, so no word spells a command. -/

namespace Sys2Proof

/-- The command that a word of a number of bits spells: none, as no row of the table has an
encoding. -/
def decodeTableWord (_nbits _w : Nat) : Option Instr := none

end Sys2Proof
end

