-- ==== Sys2Proof/Machine/Flags.lean ====
section
/-! DEFINITION. Number formats and arithmetic shared by the atomics (R158), Scrum (R216 to R223),
the step engine (R253) and Pewter: exact values, correct rounding, and the special results. -/

namespace Sys2Proof.Machine

/-- A binary floating-point format of the IEEE kind: exponent and stored significand bits. -/
structure Fmt where
  eb : Nat
  mb : Nat
deriving DecidableEq, Repr

def fp64 : Fmt := ⟨11, 52⟩
def fp32 : Fmt := ⟨8, 23⟩
def fp16 : Fmt := ⟨5, 10⟩
def bf16 : Fmt := ⟨8, 7⟩

/-- A value: a NaN, an infinity, or a sign with m · 2^e. -/
inductive Num where
  | nan
  | inf (neg : Bool)
  | fin (neg : Bool) (m : Nat) (e : Int)
deriving DecidableEq, Repr

/-- How a result is rounded. -/
inductive Rnd where
  /-- To nearest, ties to even. -/
  | nearest
  /-- Stochastic (R222): the 16-bit draw is added to the discarded bits. -/
  | stochastic (r : Nat)
  | down
deriving DecidableEq, Repr

def Fmt.bias (f : Fmt) : Int := 2 ^ (f.eb - 1) - 1
def Fmt.bits (f : Fmt) : Nat := 1 + f.eb + f.mb
/-- Largest exponent field. -/
def Fmt.top (f : Fmt) : Nat := 2 ^ f.eb - 1
/-- The canonical quiet NaN (R141). -/
def Fmt.qnan (f : Fmt) : Nat := f.top * 2 ^ f.mb + 2 ^ (f.mb - 1)
def Fmt.infWord (f : Fmt) : Nat := f.top * 2 ^ f.mb
def Fmt.signWord (f : Fmt) : Nat := 2 ^ (f.eb + f.mb)

/-- The value of a word of a format. -/
def Fmt.decode (f : Fmt) (x : Nat) : Num :=
  let neg := decide (x / f.signWord % 2 = 1)
  let ef := x / 2 ^ f.mb % 2 ^ f.eb
  let m := x % 2 ^ f.mb
  if ef = f.top then (if m = 0 then .inf neg else .nan)
  else if ef = 0 then .fin neg m (1 - f.bias - f.mb)
  else .fin neg (m + 2 ^ f.mb) (ef - f.bias - f.mb)

/-- m / 2^k rounded to an integer; `sticky` stands for a discarded part below m. -/
def roundShift (r : Rnd) (m k : Nat) (sticky : Bool) : Nat :=
  let q := m / 2 ^ k
  let rem := m % 2 ^ k
  match r with
  | .down => q
  | .nearest =>
    let half := if k = 0 then 0 else 2 ^ (k - 1)
    if k = 0 then q
    else if rem > half || (rem = half && sticky) then q + 1
    else if rem = half && q % 2 = 1 then q + 1
    else q
  | .stochastic d =>
    let add := if k ≤ 16 then d / 2 ^ (16 - k) else d * 2 ^ (k - 16)
    if 2 ^ k ≤ rem + add then q + 1 else q

/-- The rounded significand of m · 2^e in a format, and the exponent of its unit. -/
def Fmt.roundTo (f : Fmt) (r : Rnd) (m : Nat) (e : Int) (sticky : Bool) : Nat × Int :=
  let top : Int := Nat.log2 m + e
  let qe : Int := max (top - f.mb) (1 - f.bias - f.mb)
  if qe ≤ e then (m * 2 ^ (e - qe).toNat, qe)
  else (roundShift r m (qe - e).toNat sticky, qe)

/-- The word of m · 2^e in a format; a result beyond the largest finite value is an infinity. -/
def Fmt.pack (f : Fmt) (r : Rnd) (neg : Bool) (m : Nat) (e : Int) (sticky : Bool := false) : Nat :=
  let sign := if neg then f.signWord else 0
  if m = 0 then sign
  else
    let p := f.roundTo r m e sticky
    let w := (p.2 + f.mb + f.bias - 1).toNat * 2 ^ f.mb + p.1
    sign + (if w < f.infWord then w else f.infWord)

/-- The word of a value in a format. -/
def Fmt.encode (f : Fmt) (r : Rnd) (x : Num) : Nat :=
  match x with
  | .nan => f.qnan
  | .inf neg => (if neg then f.signWord else 0) + f.infWord
  | .fin neg m e => f.pack r neg m e

/-- A signed significand. -/
def signed (neg : Bool) (m : Nat) : Int := if neg then -(m : Int) else m

/-- An exact sum. -/
def Num.add (x y : Num) : Num :=
  match x, y with
  | .nan, _ => .nan
  | _, .nan => .nan
  | .inf a, .inf b => if a = b then .inf a else .nan
  | .inf a, _ => .inf a
  | _, .inf b => .inf b
  | .fin a m e, .fin b n g =>
    let k := min e g
    let i := signed a (m * 2 ^ (e - k).toNat) + signed b (n * 2 ^ (g - k).toNat)
    if i = 0 then .fin (a && b) 0 k else .fin (decide (i < 0)) i.natAbs k

/-- The value with its sign turned. -/
def Num.neg (x : Num) : Num :=
  match x with
  | .nan => .nan
  | .inf a => .inf (!a)
  | .fin a m e => .fin (!a) m e

/-- An exact product. -/
def Num.mul (x y : Num) : Num :=
  match x, y with
  | .nan, _ => .nan
  | _, .nan => .nan
  | .inf a, .inf b => .inf (a != b)
  | .inf a, .fin b n _ => if n = 0 then .nan else .inf (a != b)
  | .fin a m _, .inf b => if m = 0 then .nan else .inf (a != b)
  | .fin a m e, .fin b n g => .fin (a != b) (m * n) (e + g)

/-- A value is below another; −0 is below +0, and NaNs compare with nothing. -/
def Num.lt (x y : Num) : Bool :=
  match x, y with
  | .nan, _ => false
  | _, .nan => false
  | .inf a, .inf b => a && !b
  | .inf a, .fin _ _ _ => a
  | .fin _ _ _, .inf b => !b
  | .fin a m e, .fin b n g =>
    let k := min e g
    let i := signed a (m * 2 ^ (e - k).toNat)
    let j := signed b (n * 2 ^ (g - k).toNat)
    decide (i < j) || (decide (i = j) && a && !b)

/-- A value is NaN. -/
def Num.isNan (x : Num) : Bool := match x with | .nan => true | _ => false

/-- A value is finite. -/
def Num.isFinite (x : Num) : Bool := match x with | .fin _ _ _ => true | _ => false

/-- Minimum and maximum (R141): any NaN gives NaN. -/
def Num.min (x y : Num) : Num := if x.isNan || y.isNan then .nan else if y.lt x then y else x
def Num.max (x y : Num) : Num := if x.isNan || y.isNan then .nan else if x.lt y then y else x

/-- The magnitude of a value. -/
def Num.abs (x : Num) : Num :=
  match x with
  | .nan => .nan
  | .inf _ => .inf false
  | .fin _ m e => .fin false m e

/-- Integer square root by bits, highest first; the fuel is the number of result bits. -/
def isqrt : Nat → Nat → Nat → Nat
  | 0, r, _ => r
  | k + 1, r, n =>
    let t := r + 2 ^ k
    if t * t ≤ n then isqrt k t n else isqrt k r n

/-- A quotient rounded into a format. -/
def Fmt.div (f : Fmt) (r : Rnd) (x y : Num) : Nat :=
  match x, y with
  | .nan, _ => f.qnan
  | _, .nan => f.qnan
  | .inf _, .inf _ => f.qnan
  | .inf a, .fin b _ _ => (if a != b then f.signWord else 0) + f.infWord
  | .fin a _ _, .inf b => if a != b then f.signWord else 0
  | .fin a m e, .fin b n g =>
    if n = 0 then
      if m = 0 then f.qnan else (if a != b then f.signWord else 0) + f.infWord
    else
      let k := Nat.log2 n + f.mb + 4
      f.pack r (a != b) (m * 2 ^ k / n) (e - g - k) (m * 2 ^ k % n != 0)

/-- A square root rounded into a format. -/
def Fmt.sqrt (f : Fmt) (r : Rnd) (x : Num) : Nat :=
  match x with
  | .nan => f.qnan
  | .inf neg => if neg then f.qnan else f.infWord
  | .fin neg m e =>
    if m = 0 then (if neg then f.signWord else 0)
    else if neg then f.qnan
    else
      let k := 2 * (f.mb + 4) + (e % 2).toNat
      let n := m * 2 ^ k
      let root := isqrt (Nat.log2 n / 2 + 1) 0 n
      f.pack r false root ((e - k) / 2) (root * root != n)

/-- Operations of a format on its words, rounded to nearest even. -/
def Fmt.addW (f : Fmt) (x y : Nat) : Nat := f.encode .nearest ((f.decode x).add (f.decode y))
def Fmt.subW (f : Fmt) (x y : Nat) : Nat := f.encode .nearest ((f.decode x).add (f.decode y).neg)
def Fmt.mulW (f : Fmt) (x y : Nat) : Nat := f.encode .nearest ((f.decode x).mul (f.decode y))
def Fmt.fmaW (f : Fmt) (x y z : Nat) : Nat :=
  f.encode .nearest (((f.decode x).mul (f.decode y)).add (f.decode z))
def Fmt.divW (f : Fmt) (x y : Nat) : Nat := f.div .nearest (f.decode x) (f.decode y)
def Fmt.sqrtW (f : Fmt) (x : Nat) : Nat := f.sqrt .nearest (f.decode x)
def Fmt.minW (f : Fmt) (x y : Nat) : Nat := f.encode .nearest ((f.decode x).min (f.decode y))
def Fmt.maxW (f : Fmt) (x y : Nat) : Nat := f.encode .nearest ((f.decode x).max (f.decode y))

/-! ## Atomic operations (R158, Table 8a) -/

/-- The signed value of a word of a width. -/
def toSigned (w x : Nat) : Int := (BitVec.ofNat w x).toInt

/-- The new operand of an atomic: opcode, old operand, operand value. -/
def atomicResult (op old v : Nat) : Nat :=
  let smin (w : Nat) : Nat := if toSigned w v < toSigned w old then v else old
  let smax (w : Nat) : Nat := if toSigned w old < toSigned w v then v else old
  match op with
  | 0x10 => (old + v) % 2 ^ 32
  | 0x11 => (old + v) % 2 ^ 64
  | 0x12 => fp32.addW old v
  | 0x13 => fp16.addW old v
  | 0x14 => bf16.addW old v
  | 0x15 => smin 32
  | 0x16 => smin 64
  | 0x17 => min old v
  | 0x18 => min old v
  | 0x19 => fp32.minW old v
  | 0x1A => fp16.minW old v
  | 0x1B => bf16.minW old v
  | 0x1C => smax 32
  | 0x1D => smax 64
  | 0x1E => max old v
  | 0x1F => max old v
  | 0x20 => fp32.maxW old v
  | 0x21 => fp16.maxW old v
  | 0x22 => bf16.maxW old v
  | _ => old

/-- Switch-core cycles an atomic occupies its operand (R159): 4, 6 or 8. -/
def atomicCycles (op : Nat) : Nat :=
  match op with
  | 0x12 | 0x13 | 0x14 | 0x19 | 0x1A | 0x1B | 0x20 | 0x21 | 0x22 => 6
  | 0x46 => 8
  | _ => 4

end Sys2Proof.Machine
end

