-- ==== Sys2Proof/Config.lean ====
section
/-! DEFINITION. What the manual leaves open or leaves to the part: free values with no body, so
that nothing can be proved of them, and the cryptographic functions named by standard. -/

namespace Sys2Proof.Config

/-! ## Free values. Each takes the state's draw counter, so that two draws need not agree. -/

/-- Output format of a reduction group of another node, by node, context and group: a CONTRIBUTE descriptor
does not name it (R227, R235). -/
opaque remoteFmt : Nat → Nat → Nat → BitVec 4

/-- A value the manual does not state, 64 bits wide. -/
opaque freeWord : Nat → BitVec 64

/-- A byte the manual does not state: draw, then place within the draw. -/
opaque freeByte : Nat → Nat → Byte

/-- A choice the manual leaves open. -/
opaque freeBit : Nat → Bool

/-- A number below 65,536 drawn by one of the part's random generators. -/
opaque draw16 : Nat → BitVec 16

/-- Bytes drawn by the hardware random source: draw, then how many. -/
opaque randomBytes : Nat → Nat → Bytes

/-- Receiver figures of a lane (3000+n:10 to :13): lane, instant. The manual names them and gives
neither their number nor their meaning. -/
opaque receiverFigures : Nat → Nat → Bytes

/-- The LOAD code of R375; the model measures no activity. -/
opaque loadPattern : Nat → BitVec 8

/-- The NaN that an addition (1) or a maximum (5) of two FP64 values gives: sign and payload, of which the
manual states nothing. -/
opaque nanBits : Nat → BitVec 64 → BitVec 64 → BitVec 64

/-- Granules in which a correctable error, or an uncorrectable one, has come to lie since the last draw. -/
opaque softErrors : Nat → List Nat
opaque hardErrors : Nat → List Nat

/-- What a counter shows past the largest value of its type: entry, exact count. -/
opaque counterPast : Nat → Nat → Nat

/-! ## What the part was made with. -/

opaque serialNumber : Bytes
/-- The base MAC address held in fuses (R413). -/
opaque macBase : Nat
opaque identityKey : Bytes
opaque identitySecret : Bytes
opaque vendorKey : Bytes
/-- The endorsement of identityKey under vendorKey (R401). -/
opaque endorsement : Bytes
opaque factoryKey : Bytes
/-- The Utaerad signing keys of the boot ROM (R459). -/
opaque signingKey : Nat → Bytes
/-- Factory calibration of a port: port, subindex. -/
opaque factoryLatency : Nat → Nat → Int
/-- Factory transmit preset of a lane: lane. -/
opaque factoryTaps : Nat → Bytes

/-! ## Cryptographic functions, named by standard and not interpreted. -/

/-- Ed25519 verification: public key, message, signature. -/
opaque ed25519Verify : Bytes → Bytes → Bytes → Bool
/-- Ed25519 signature: secret key, message. -/
opaque ed25519Sign : Bytes → Bytes → Bytes
/-- X25519: secret scalar, public value. -/
opaque x25519 : Bytes → Bytes → Bytes
/-- X25519 public value of a secret scalar. -/
opaque x25519Base : Bytes → Bytes
/-- HMAC-SHA-512: key, message. -/
opaque hmacSha512 : Bytes → Bytes → Bytes
/-- HKDF with HMAC-SHA-512: salt, input key, info, length. -/
opaque hkdfSha512 : Bytes → Bytes → Bytes → Nat → Bytes
/-- The 32-byte memory root key held in fuses (R330). -/
opaque rootKey : Bytes
/-- SHA-512. -/
opaque sha512 : Bytes → Bytes
/-- AES-256-CTR: key, initial counter block, data. -/
opaque aesCtr : Bytes → Bytes → Bytes → Bytes
/-- AES-256-GCM open: key, nonce, associated data, ciphertext with tag. -/
opaque gcmOpen : Bytes → Bytes → Bytes → Bytes → Option Bytes

/-- Length in bits of the code word of a distance in one of Pewter's tables (R289), which the manual does not
print. -/
opaque codeLength : Nat → Nat → Nat

end Sys2Proof.Config
end

