-- ==== Sys2Proof/Machine/Check.lean ====
section
/-! DEFINITION. Byte order and the cyclic checks: CRC-64 of data packets (R155) and CRC-32C of
tiles and fragments (R286). -/

namespace Sys2Proof.Machine

/-- The bytes of a number, least significant first (R145). -/
def leBytes : Nat → Nat → Bytes
  | 0, _ => []
  | n + 1, x => BitVec.ofNat 8 x :: leBytes n (x / 256)

/-- The number whose bytes are given, least significant first. -/
def ofLe : Bytes → Nat
  | [] => 0
  | b :: bs => b.toNat + 256 * ofLe bs

/-- One bit of a reflected CRC register. -/
def crcBit (poly c : Nat) : Nat := if c % 2 = 1 then (c / 2) ^^^ poly else c / 2

/-- Eight bits of a reflected CRC register. -/
def crcByte (poly c : Nat) (b : Byte) : Nat :=
  crcBit poly (crcBit poly (crcBit poly (crcBit poly (crcBit poly (crcBit poly (crcBit poly
    (crcBit poly (c ^^^ b.toNat))))))))

/-- A reflected CRC over bytes. -/
def crcRun (poly : Nat) : Nat → Bytes → Nat
  | c, [] => c
  | c, b :: bs => crcRun poly (crcByte poly c b) bs

/-- The ECMA-182 polynomial 0x42F0E1EBA9EA3693, reflected (R155). -/
def poly64 : Nat := 0xC96C5795D7870F42

/-- CRC-64 as R155 computes it. -/
def crc64 (bs : Bytes) : BitVec 64 :=
  BitVec.ofNat 64 (crcRun poly64 0xFFFFFFFFFFFFFFFF bs ^^^ 0xFFFFFFFFFFFFFFFF)

/-- CRC-32C, the Castagnoli polynomial 0x1EDC6F41 reflected. -/
def crc32c (bs : Bytes) : BitVec 32 :=
  BitVec.ofNat 32 (crcRun 0x82F63B78 0xFFFFFFFF bs ^^^ 0xFFFFFFFF)

/-- Bytes extended with zeros, or cut, to a length. -/
def padTo (n : Nat) (bs : Bytes) : Bytes := (bs ++ List.replicate (n - bs.length) 0).take n

/-- A length rounded up to a multiple. -/
def roundUp (n m : Nat) : Nat := (n + m - 1) / m * m

end Sys2Proof.Machine
end

