-- ==== Sys2Proof/Machine/Entries.lean ====
section
/-! DEFINITION. The object dictionary's entries: type, access code, default and range of each,
as the entry tables of the chapters give them (R430 to R432, R452). -/

namespace Sys2Proof.Machine

/-- Entry types (R431, Table 1). -/
inductive Ty where
  | u8 | u16 | u32 | u64 | i32 | i64 | bool | fixed
  /-- OCTET_STRING of a length the entry sets. -/
  | octets (n : Nat)
  | domain
deriving DecidableEq, Repr

/-- Access codes (R432). -/
inductive Access where
  | ro | rw | wo | rws | rwl
deriving DecidableEq, Repr

/-- One row of an entry table: a block of indexes and subindexes with one meaning. -/
structure Entry where
  idx : Nat
  nIdx : Nat
  sub : Nat
  nSub : Nat
  ty : Ty
  access : Access
  dflt : Nat
  lo : Nat
  hi : Nat
  step : Nat := 1
  /-- Applies at the next reset (R438). -/
  atReset : Bool := false
deriving DecidableEq, Repr

/-- A single entry. -/
def ent (idx sub : Nat) (ty : Ty) (access : Access) (dflt : Nat := 0) (lo : Nat := 0)
    (hi : Nat := 2 ^ 64 - 1) (step : Nat := 1) : Entry :=
  { idx := idx, nIdx := 1, sub := sub, nSub := 1, ty := ty, access := access, dflt := dflt,
    lo := lo, hi := hi, step := step }

/-- An entry repeated over indexes. -/
def entI (idx n sub : Nat) (ty : Ty) (access : Access) (dflt : Nat := 0) (lo : Nat := 0)
    (hi : Nat := 2 ^ 64 - 1) : Entry :=
  { idx := idx, nIdx := n, sub := sub, nSub := 1, ty := ty, access := access, dflt := dflt,
    lo := lo, hi := hi }

/-- An entry repeated over subindexes. -/
def entS (idx sub m : Nat) (ty : Ty) (access : Access) (dflt : Nat := 0) (lo : Nat := 0)
    (hi : Nat := 2 ^ 64 - 1) : Entry :=
  { idx := idx, nIdx := 1, sub := sub, nSub := m, ty := ty, access := access, dflt := dflt,
    lo := lo, hi := hi }

/-- Identity, communication and quarters (R453, Table 13). -/
def entriesIdentity : List Entry :=
  [ ent 0x1000 0x01 .u32 .ro 0x4B464096
  , ent 0x1000 0x02 (.octets 6) .ro
  , ent 0x1000 0x03 .u16 .ro 1
  , ent 0x1000 0x04 (.octets 16) .ro
  , ent 0x1000 0x05 (.octets 32) .ro
  , ent 0x1000 0x06 .u16 .ro
  , ent 0x1000 0x07 .u8 .ro
  , { ent 0x1000 0x08 .u8 .rw 0xFF 0 0xFF with atReset := true }
  , ent 0x1000 0x09 .u16 .ro 1
  , ent 0x1000 0x0A .u8 .ro
  , ent 0x1010 0x01 .u8 .ro
  , ent 0x1010 0x02 .u8 .rw 16 1 16
  , ent 0x1010 0x03 .u32 .rw 30000 1000 300000
  , ent 0x1010 0x04 .u64 .ro
  , ent 0x1010 0x05 .u8 .rws 0x55 0 0x55
  , ent 0x1010 0x06 .u32 .rw 1000 100 1000000
  , ent 0x1010 0x07 .u64 .ro
  , ent 0x1010 0x08 .domain .ro
  , ent 0x1010 0x09 .u64 .ro
  , entI 0x2000 4 0x01 .u8 .ro
  , entI 0x2000 4 0x02 .i32 .ro
  , entI 0x2000 4 0x03 .u16 .ro 3600
  , entI 0x2000 4 0x20 .domain .wo
  , entI 0x2000 4 0x21 .domain .ro
  , entI 0x2000 4 0x22 .domain .wo
  , entI 0x2000 4 0x23 .domain .wo ]

/-- Translation (R75, Table 12). -/
def entriesXlat : List Entry :=
  [ ent 0x2800 0x01 .u16 .rw 2048 256 8192
  , ent 0x2800 0x02 .u8 .rw 4 1 16
  , ent 0x2800 0x03 .u8 .rwl 32 8 64
  , ent 0x2800 0x04 .u32 .rw 1000 10 2000
  , ent 0x2800 0x05 .u32 .rwl 1024 256 4096
  , ent 0x2800 0x06 .u32 .rw 2000 100 10000
  , ent 0x2800 0x07 .u64 .ro
  , ent 0x2800 0x08 .u64 .ro
  , ent 0x2800 0x09 .u64 .ro
  , ent 0x2800 0x0A .u32 .ro ]

/-- Fabric ports (R410, Table 18 of 13). -/
def entriesPorts : List Entry :=
  [ entI 0x3000 64 0x01 .u8 .ro 1
  , entI 0x3000 64 0x02 .u8 .ro
  , entI 0x3000 64 0x03 .u8 .rws 2 0 2
  , entI 0x3000 64 0x04 .u8 .ro
  , entI 0x3000 64 0x05 .domain .ro
  , entI 0x3000 64 0x06 .bool .rws 0 0 1
  , entI 0x3000 64 0x07 .u64 .ro
  , entI 0x3000 64 0x08 .u64 .ro
  , entI 0x3000 64 0x09 .u32 .ro
  , entI 0x3000 64 0x0A .u32 .ro
  , entI 0x3000 64 0x0B .u64 .ro
  , entI 0x3000 64 0x0C .u8 .rws 2 1 2
  , entI 0x3000 64 0x0D .u64 .ro
  , entI 0x3000 64 0x0E .u64 .ro
  , entI 0x3000 64 0x0F .u32 .ro
  , { idx := 0x3000, nIdx := 64, sub := 0x10, nSub := 4, ty := .domain, access := .ro,
      dflt := 0, lo := 0, hi := 0 }
  , ent 0x3B00 0x01 .u32 .rw 1000 100 10000
  , ent 0x3B00 0x02 .u16 .rw 4 1 100
  , ent 0x3B00 0x03 .u32 .rw 20 5 100
  , ent 0x3B00 0x04 .u8 .rw 50 40 70
  , ent 0x3B00 0x05 .u32 .rw 1000 10 60000
  , ent 0x3B00 0x06 .u16 .rw 16 1 1024
  , ent 0x3B00 0x07 .u8 .rw 37 30 50
  , ent 0x3B00 0x08 .u32 .rw 10 1 100 ]

/-- Switch core (R213, Table 8 of 06). -/
def entriesCore : List Entry :=
  [ entS 0x3C00 0x01 64 .u8 .rwl 0 0 2
  , entS 0x3C01 0x01 64 .u32 .ro
  , ent 0x3D00 0x01 .u32 .rwl 4096 0 8192
  , ent 0x3D00 0x02 .u32 .rw 160 16 512
  , ent 0x3D00 0x03 .u32 .rw 1900 100 1900
  , ent 0x3D00 0x04 .u32 .rw 2000 500 20000
  , ent 0x3D00 0x05 .bool .rw 1 0 1
  , entS 0x3D00 0x06 6 .u64 .ro
  , ent 0x3D01 0x01 .u8 .rw 9
  , entS 0x3D01 0x02 2 .u8 .rw 7
  , entS 0x3D01 0x04 2 .u8 .rw 5
  , ent 0x3D02 0x01 .u32 .rw 64
  , entS 0x3D02 0x02 2 .u32 .rw 256
  , entS 0x3D02 0x04 2 .u32 .rw 1760
  , ent 0x3D03 0x01 .u32 .rw 8192
  , ent 0x3D03 0x02 .u32 .rw 32768
  , ent 0x3D03 0x03 .u32 .rw 8192
  , ent 0x3D03 0x04 .u32 .rw 2048
  , ent 0x3D03 0x05 .u32 .rw 16384
  , ent 0x3D03 0x06 .u32 .rw 32768
  , ent 0x3D03 0x07 .u32 .rw 512
  , ent 0x3D03 0x08 .u32 .rw 8192
  , ent 0x3D03 0x09 .u32 .rw 65536
  , ent 0x3D04 0x01 .domain .rw ]

/-- Transactions (R179) and time (R40). -/
def entriesNetTime : List Entry :=
  [ ent 0x3E00 0x01 .u32 .rw 40 10 1000
  , ent 0x3E00 0x02 .u32 .rw 200 50 1000
  , ent 0x3E00 0x03 .u8 .ro 7
  , ent 0x3E00 0x04 .u32 .rwl 4000
  , ent 0x3E00 0x05 .u16 .rw 500 0 2000
  , entS 0x3E00 0x06 7 .u64 .ro
  , ent 0x3F00 0x01 .fixed .ro
  , ent 0x3F00 0x02 .u8 .ro
  , ent 0x3F00 0x03 .u16 .ro
  , ent 0x3F00 0x04 .u8 .ro
  , ent 0x3F00 0x05 .bool .rwl 1 0 1
  , ent 0x3F00 0x06 .u32 .rwl 10000 5000 20000
  , ent 0x3F00 0x07 .u32 .rw 20000
  , ent 0x3F00 0x08 .u32 .rw 50
  , ent 0x3F00 0x09 .u16 .rw 8192
  , ent 0x3F00 0x0A .u16 .rw 4096
  , ent 0x3F00 0x0B .bool .rws 0 0 1
  , ent 0x3F00 0x0C .i32 .rws
  , ent 0x3F00 0x0D .i64 .wo
  , ent 0x3F00 0x0E .u16 .rws 200 10 1000
  , entS 0x3F00 0x10 2 .u32 .ro ]

/-- Ethernet (R429, Table 10 of 14). -/
def entriesEth : List Entry :=
  [ ent 0x4000 0x03 .u16 .rw 256
  , ent 0x4000 0x05 .u8 .rw 14
  , ent 0x4000 0x06 .u8 .rws 2 0 2
  , ent 0x4000 0x07 (.octets 5) .rws
  , ent 0x4000 0x08 .bool .rw 0 0 1
  , entI 0x4100 8 0x01 .u8 .ro
  , entI 0x4100 8 0x02 .u8 .rws 2 0 2
  , entI 0x4100 8 0x04 (.octets 5) .rws
  , entI 0x4100 8 0x05 (.octets 17) .rws
  , entI 0x4100 8 0x08 .i32 .rw
  , entI 0x4100 8 0x09 .i32 .rw
  , entI 0x4100 8 0x0A .u64 .ro
  , entI 0x4100 8 0x0B .u64 .ro
  , entI 0x4100 8 0x0C .u64 .ro
  , ent 0x4200 0x01 .domain .rw
  , ent 0x4200 0x02 .u32 .wo
  , ent 0x4200 0x03 .u16 .ro
  , ent 0x4200 0x04 .u64 .ro
  , ent 0x4300 0x01 .domain .rw
  , ent 0x4300 0x02 .u64 .ro
  , ent 0x4400 0x01 .domain .rw
  , ent 0x4400 0x02 .u64 .ro
  , ent 0x4500 0x02 .u8 .rws
  , ent 0x4500 0x03 .u8 .rws 0x55
  , ent 0x4500 0x04 .domain .ro ]

/-- Tiers (R304) and engines (R112, R144, R246, R272, R324). -/
def entriesEngines : List Entry :=
  [ ent 0x5000 0x01 .u32 .ro 11264
  , ent 0x5000 0x02 .u32 .rwl 1024 256 4096
  , ent 0x5000 0x03 .u16 .ro
  , ent 0x5000 0x04 .u32 .ro
  , ent 0x5000 0x05 .bool .rw 1 0 1
  , ent 0x5000 0x06 .u16 .rw 24 1 168
  , ent 0x5000 0x07 .u8 .rw 25 0 50
  , ent 0x5000 0x08 .u8 .rw 25 5 90
  , entS 0x5000 0x09 8 .u64 .ro
  , ent 0x6000 0x01 .u16 .ro 4096
  , ent 0x6000 0x02 .u16 .rw 64 1 512
  , ent 0x6000 0x03 .u16 .rw 4096 256 8192 256
  , ent 0x6000 0x04 .u32 .rw 10 1 1000
  , ent 0x6000 0x06 .u32 .rwl 16 4 256
  , entS 0x6000 0x07 4 .u64 .ro
  , ent 0x6000 0x0B .u32 .rw 200 10 1000
  , ent 0x6000 0x0C .bool .rwl 1 0 1
  , entS 0x6000 0x0D 3 .u64 .ro
  , ent 0x6100 0x01 .u32 .rwl 4096 256 8192
  , ent 0x6100 0x02 .u32 .rwl 256 16 1024
  , ent 0x6100 0x03 .bool .rw 1 0 1
  , entS 0x6100 0x04 4 .u32 .ro 0xFFFFFFFF
  , entS 0x6100 0x08 6 .u64 .ro
  , ent 0x6200 0x01 .u16 .ro 64
  , entS 0x6200 0x02 7 .u64 .ro
  , ent 0x6200 0x09 .u16 .rw 512 64 512
  , ent 0x6300 0x01 .u16 .ro 256
  , ent 0x6300 0x02 .u16 .ro 4096
  , ent 0x6300 0x03 .u8 .rw 64 8 64
  , entS 0x6300 0x04 6 .u64 .ro ]

/-- The context records (R325, R349) and the part-wide context entries (R351). -/
def entriesContexts : List Entry :=
  [ entI 0x7000 4096 0x01 .u8 .ro
  , entI 0x7000 4096 0x02 .u16 .rwl 1 1 0xFFFF
  , entI 0x7000 4096 0x03 .u8 .wo 0 1 3
  , entI 0x7000 4096 0x04 .u8 .rwl 11 0 18
  , entI 0x7000 4096 0x05 .u64 .ro
  , entI 0x7000 4096 0x06 .u64 .rwl
  , entI 0x7000 4096 0x07 .u8 .rw 12
  , entI 0x7000 4096 0x08 .u8 .rw 1 1 64
  , entI 0x7000 4096 0x09 .u16 .rw 0xFFFF
  , entI 0x7000 4096 0x0A .u16 .rw 0xFFFF
  , entI 0x7000 4096 0x0B .u16 .rw 256
  , entI 0x7000 4096 0x0C .u16 .rw 256
  , entI 0x7000 4096 0x10 .u16 .rwl 64 1 1024
  , entI 0x7000 4096 0x11 .u16 .rwl 0 0 16383
  , entI 0x7000 4096 0x12 .u16 .rwl 0 0 16383
  , entI 0x7000 4096 0x13 .u16 .rwl 64
  , entI 0x7000 4096 0x14 .u16 .rwl 256
  , entI 0x7000 4096 0x15 .u16 .rwl 16
  , entI 0x7000 4096 0x16 .u16 .rwl 64
  , entI 0x7000 4096 0x17 .u16 .rwl 256
  , entI 0x7000 4096 0x18 .u16 .rwl 64
  , entI 0x7000 4096 0x19 .u16 .rwl 16
  , entI 0x7000 4096 0x1A .u16 .rwl 16
  , entI 0x7000 4096 0x1B .u16 .rwl 16
  , entI 0x7000 4096 0x1C .u16 .rwl 1024
  , entI 0x7000 4096 0x1D .u16 .rwl 256
  , entI 0x7000 4096 0x1E .u16 .rwl 0
  , entI 0x7000 4096 0x1F .u16 .rwl 0 0 4095
  , entI 0x7000 4096 0x20 .u16 .rwl 0 0 4096
  , entI 0x7000 4096 0x21 (.octets 32) .rwl 0 0 (2 ^ 256 - 1)
  , entI 0x7000 4096 0x22 .u16 .wo
  , entI 0x7000 4096 0x23 .u32 .ro
  , entI 0x7000 4096 0x24 .u64 .ro
  , entI 0x7000 4096 0x25 .u32 .ro
  , entI 0x7000 4096 0x28 .domain .ro
  , entI 0x7000 4096 0x30 .domain .rw
  , ent 0x7000 0x80 .u16 .ro
  , ent 0x7000 0x81 .u32 .rw 2000 100 10000
  , ent 0x7000 0x82 .u64 .ro
  , ent 0x7000 0x83 .u64 .ro
  , ent 0x7000 0x84 .u32 .ro ]

/-- Faults and recovery (R380, Table 13 of 12). -/
def entriesRecovery : List Entry :=
  [ ent 0x8000 0x01 .u16 .ro 4096
  , ent 0x8000 0x02 .u16 .ro
  , ent 0x8000 0x03 .u8 .rw 0 0 3
  , ent 0x8000 0x04 .domain .ro
  , ent 0x8000 0x05 .u16 .wo
  , ent 0x8000 0x06 .u32 .ro
  , entS 0x8010 0x01 0x19 .u32 .ro
  , ent 0x8100 0x01 .u32 .rw 50 10 1000
  , ent 0x8100 0x02 .u16 .wo 0 0 4095
  , ent 0x8100 0x03 .domain .wo
  , ent 0x8100 0x04 .domain .ro
  , ent 0x8100 0x05 .u32 .rw 266 16 800
  , ent 0x8100 0x06 .domain .wo
  , ent 0x8100 0x07 .u16 .wo 0 0 4095
  , ent 0x8100 0x08 .domain .ro
  , ent 0x8100 0x09 .u32 .ro
  , ent 0x8100 0x0A .u64 .ro
  , ent 0x8200 0x01 .u16 .rw 16384 1024 65535
  , ent 0x8200 0x02 .domain .wo
  , ent 0x8200 0x03 .domain .ro
  , ent 0x8300 0x01 .domain .rw ]

/-- Power (Table 11 of 17), firmware (Table 8 of 16) and calibration (R440). -/
def entriesPower : List Entry :=
  [ ent 0x9000 0x01 .u32 .rw 1800 1000 (2 ^ 32 - 1)
  , ent 0x9000 0x02 .u32 .ro 2000
  , ent 0x9000 0x03 .u32 .ro
  , ent 0x9000 0x04 .u16 .rw 2400 1800 3600 100
  , ent 0x9000 0x05 .u8 .ro
  , ent 0x9000 0x06 .u64 .ro
  , ent 0x9000 0x07 .u64 .ro
  , entS 0x9000 0x08 4 .u8 .ro
  , ent 0x9000 0x10 .u8 .wo 0 1 1
  , ent 0x9000 0x11 .u8 .ro
  , ent 0x9000 0x12 .u8 .ro
  , entS 0x9000 0x13 4 .u32 .ro
  , ent 0xA000 0x01 .u8 .ro
  , ent 0xA000 0x02 .u32 .ro
  , ent 0xA000 0x03 .u8 .ro
  , ent 0xA000 0x04 .domain .wo
  , ent 0xA000 0x05 .u8 .wo 0 1 5
  , ent 0xA000 0x06 .u8 .ro
  , ent 0xA000 0x07 (.octets 32) .wo 0 0 (2 ^ 256 - 1)
  , ent 0xA000 0x08 .domain .wo
  , ent 0xA000 0x09 .domain .wo
  , ent 0xA000 0x0A .domain .wo
  , ent 0xA000 0x0B .domain .ro
  , ent 0xA000 0x0C .domain .ro
  , ent 0xA000 0x0D .u8 .ro
  , ent 0xA000 0x0E .u32 .rw 2000 500 10000
  , ent 0xA000 0x0F .u64 .ro
  , entI 0xE000 64 0x01 .i32 .rw
  , entI 0xE000 64 0x02 .i32 .rw
  , { idx := 0xE000, nIdx := 64, sub := 0x10, nSub := 4, ty := .domain, access := .rw,
      dflt := 0, lo := 0, hi := 0 }
  , entI 0xF000 64 0x01 .i32 .rw
  , entI 0xF000 64 0x02 .i32 .rw
  , { idx := 0xF000, nIdx := 64, sub := 0x10, nSub := 4, ty := .domain, access := .rw,
      dflt := 0, lo := 0, hi := 0 } ]

/-- The entries of one thousand-hex block of the index map (R452, Table 12). -/
def entriesOf (idx : Nat) : List Entry :=
  match idx / 0x1000 with
  | 1 => entriesIdentity
  | 2 => entriesIdentity ++ entriesXlat
  | 3 => entriesPorts ++ (entriesCore ++ entriesNetTime)
  | 4 => entriesEth ++
      [ ent 0x4600 0x01 .u32 .rw 256, ent 0x4600 0x02 .u32 .rw 448
      , ent 0x4600 0x03 .u32 .rw 4096, ent 0x4600 0x04 .u32 .rw 128
      , ent 0x4600 0x05 .u32 .rw 384, ent 0x4600 0x06 .u32 .rw 16384
      , ent 0x4600 0x07 .u32 .rw 32, ent 0x4600 0x08 .u32 .rw 256
      , ent 0x4600 0x09 .u32 .rw 65536 ]
  | 5 | 6 => entriesEngines
  | 7 => entriesContexts
  | 8 => entriesRecovery
  | _ => entriesPower

/-- Whether a row covers an index and subindex. -/
def Entry.covers (e : Entry) (idx sub : Nat) : Bool :=
  e.idx ≤ idx && idx < e.idx + e.nIdx && e.sub ≤ sub && sub < e.sub + e.nSub

/-- The entry named by an index and subindex, if it exists (R430). -/
def entryAt (idx sub : Nat) : Option Entry := (entriesOf idx).find? fun e => e.covers idx sub

/-- The highest subindex in use at an index (R430). -/
def highestSub (idx : Nat) : Nat :=
  (entriesOf idx).foldl
    (fun m e => if e.idx ≤ idx && idx < e.idx + e.nIdx then max m (e.sub + e.nSub - 1) else m) 0

/-- The default of an entry; zero for one that does not exist. -/
def defaultOf (idx sub : Nat) : Nat := ((entryAt idx sub).map (·.dflt)).getD 0

/-- Bytes of a value of a type; none for a block of open length (R431). -/
def Ty.bytes : Ty → Option Nat
  | .u8 => some 1
  | .u16 => some 2
  | .u32 => some 4
  | .u64 => some 8
  | .i32 => some 4
  | .i64 => some 8
  | .bool => some 1
  | .fixed => some 8
  | .octets n => some n
  | .domain => none

end Sys2Proof.Machine
end

