-- ==== Sys2Proof/Machine/State.lean ====
section
/-! DEFINITION. The state of the part as plain data, the reasons a step can stop, and the state
right after reset. -/

namespace Sys2Proof.Machine

/-- Why a step stops with a fault. -/
inductive Fault where
  /-- Raised by a command that carries a raw physical address which R42 says does not exist.
  Safe: the machine stops. -/
  | noSuchAddress (pa : Nat)
deriving DecidableEq, Repr

/-- Why a command is refused. -/
inductive Refusal where
  /-- Raised by exec for a command whose meaning is not written. Safe: the machine stops. -/
  | notModelled (mnemonic : String)
deriving DecidableEq, Repr


/-- One value for each quarter Q0 to Q3. -/
structure Quad (α : Type) where
  q0 : α
  q1 : α
  q2 : α
  q3 : α
deriving DecidableEq, Repr

/-! ## Fabric time (01) -/

/-- FT states in the order of Table 1 (R9). -/
inductive FtState where
  | free | locked | holdover | master
deriving DecidableEq, Repr

/-- A TIME_ANNOUNCE as last heard from a neighbour (R15, Table 3). -/
structure Announce where
  masterId : Nat := 0
  masterClass : Nat := 7
  steps : Nat := 255
  utcOffset : Nat := 0
  leapPending : Bool := false
  senderClass : Nat := 7
  senderId : Nat := 0
  taiValid : Bool := false
  heardAt : Nat := 0
deriving DecidableEq, Repr

/-- Beacon and announce state of one link (R10, R11, R16). -/
structure LinkTime where
  /-- SEQ of the next beacon. -/
  nextSeq : Nat := 0
  /-- Send times t1 of the part's own recent beacons, by SEQ. -/
  sent : Tbl FT := []
  /-- SEQ and arrival time t2 of the last beacon of the peer. -/
  echo : Option (Nat × FT) := none
  /-- The last 16 values of d, newest first, in units of 2^-16 ns. -/
  delays : List Int := []
  /-- The last offset measured, in units of 2^-16 ns. -/
  offset : Option Int := none
  lastSent : Nat := 0
  lastBeacon : Option Nat := none
  announce : Option Announce := none
deriving DecidableEq, Repr

/-- State of the time service. -/
structure TimeState where
  /-- The four FT counters, 48.48 fixed point (R8). -/
  ft : Quad (BitVec 96)
  /-- Rate adjustment in units of 2^-48 ns per switch-core cycle (R8). -/
  adj : Int := 0
  state : FtState := .free
  /-- LOCKED has been reached since reset (R9). -/
  everLocked : Bool := false
  /-- The step of the first lock has been made since reset (R9). -/
  firstStep : Bool := false
  taiValid : Bool := false
  links : Tbl LinkTime := []
  /-- Port whose neighbour is the parent (R16). -/
  parent : Option Nat := none
  hadParent : Bool := false
  masterId : Option Nat := none
  masterClass : Nat := 7
  steps : Nat := 255
  /-- Consecutive beacons of the parent with an offset below 2 ns (R12). -/
  inLimit : Nat := 0
  /-- Consecutive beacons of the parent with an offset above 10 ns (R12). -/
  outLimit : Nat := 0
  holdoverSince : Nat := 0
  /-- The 100 ms of R21 in HOLDOVER have passed. -/
  huddleBarred : Bool := false
  externalLock : Bool := false
  /-- External lock has been held since reset (R15). -/
  externalHeld : Bool := false
  utcOffset : Nat := 0
  leapPending : Bool := false
  lastAnnounce : Nat := 0
  /-- Last 1PPS edge taken, as FT of the whole second it set, and its instant (R14). -/
  ppsPhase : Option (FT × Nat) := none
  /-- Integral term of the servo, in the units of `adj` (R12). -/
  integral : Int := 0
  /-- Instant of the servo's last run since the parent was taken. -/
  servoAt : Option Nat := none
deriving DecidableEq, Repr

/-- A tee slot (R22, Table 6) with its run-time state. -/
structure TeeSlot where
  fireTime : FT := 0
  period : Nat := 0
  repeats : Nat := 0
  ctx : Nat := 0
  action : Nat := 0
  target : Nat := 0
  enable : Bool := false
  lateFire : Bool := false
  whistle : Bool := false
  skipMissed : Bool := false
  lateLimit : Nat := 0
  fired : Nat := 0
  late : Nat := 0
  done : Bool := false
  ring : Nat := 0
  /-- Instant of the next firing. -/
  next : FT := 0
  /-- Firings left; none means until disarmed. -/
  left : Option Nat := none
deriving DecidableEq, Repr

/-- One counted or held arrival of a huddle round (R30, R34). -/
structure Arrival where
  /-- A local member (its queue number) or, from 65536 up, a child node. -/
  who : Nat := 0
  /-- The HUDDLE_ARRIVE descriptor of a local member. -/
  seq : Option Nat := none
  count : Nat := 1
  value : BitVec 64 := 0
  stamp : FT := 0
deriving DecidableEq, Repr

/-- Lateness score of a member or child part (R35, R36). -/
structure Lateness where
  score : Nat := 0
  suspect : Bool := false
deriving DecidableEq, Repr

/-- States of a huddle entry (R27, Table 8). -/
inductive HuddleState where
  | idle | gathering | sentUp | released | failed
deriving DecidableEq, Repr

/-- A huddle entry (R27, Table 8) with its run-time state. -/
structure Huddle where
  ctx : Nat := 0
  no : Nat := 0
  localMembers : Nat := 0
  childParts : Nat := 0
  parent : Nat := 0
  root : Bool := false
  combine : Nat := 0
  round : Nat := 0
  timeout : Nat := 0
  whistleRel : Bool := false
  whistleFail : Bool := false
  advanceInnings : Bool := false
  childGroup : Nat := 0
  value : BitVec 64 := 0
  arrived : Nat := 0
  state : HuddleState := .idle
  ring : Nat := 0
  arrivals : List Arrival := []
  /-- Arrivals held for ROUND + 1 (EARLY). -/
  early : List Arrival := []
  firstAt : Option Nat := none
  sentUpAt : Option Nat := none
  failStatus : Status := 0
  scores : Tbl Lateness := []
  /-- Value and round of the last release, as latched for the step engine (R254). -/
  lastValue : BitVec 64 := 0
  lastRound : Option Nat := none
  /-- Status of the round that ended last. -/
  lastStatus : Status := 0
deriving DecidableEq, Repr

/-- The innings ledger of a context (R37, Table 12) with the arming of R263. -/
structure Ledger where
  innings : Nat := 1
  committed : Nat := 0
  openFt : FT := 0
  commitFt : FT := 0
  /-- Commit state, values of R264. -/
  state : Nat := 0
  replaying : Bool := false
  armed : Bool := false
  prepareEn : Bool := false
  prepare : Nat := 0
  commit : Nat := 0
  /-- An abort is recorded for the commit vote (R266). -/
  abortRecorded : Bool := false
  prepareSent : Bool := false
  voted : Bool := false
  /-- The last advance of INNINGS: its instant, and whether a commit made it (R39). -/
  raisedAt : Option (Nat × Bool) := none
deriving DecidableEq, Repr

/-! ## Spaces, windows and translation (02) -/

/-- A run of mapped pages of one size (R46): VA and PA of the first, and how many. -/
structure Extent where
  va : Nat := 0
  pa : Nat := 0
  /-- 0 64 KiB, 1 2 MiB, 2 1 GiB. -/
  size : Nat := 0
  count : Nat := 0
  read : Bool := false
  write : Bool := false
  atomic : Bool := false
  reduce : Bool := false
  codec : Bool := false
deriving DecidableEq, Repr

/-- A TLB entry (R59): one page of any size of one context. -/
structure TlbEntry where
  ctx : Nat := 0
  va : Nat := 0
  size : Nat := 0
  used : Nat := 0
deriving DecidableEq, Repr

/-- A walk-cache entry (R59): a first- or second-level table pointer. -/
structure WalkEntry where
  ctx : Nat := 0
  level : Nat := 1
  index : Nat := 0
  used : Nat := 0
deriving DecidableEq, Repr

/-- A translation stream slot with its missing pages (R61, R62). -/
structure StreamSlot where
  /-- The stream: requester unit, context and issuer. -/
  stream : Nat := 0
  ctx : Nat := 0
  /-- Distinct missing pages, at most 2800:03 (R62). -/
  misses : List Nat := []
  /-- Page of each of the up to 512 requests that wait behind the missing pages (R62). -/
  behind : List Nat := []
  used : Nat := 0
deriving DecidableEq, Repr

/-- A miss that waits for a stream slot or for room in its stream's miss queue (R61, R62). -/
structure XlatMiss where
  stream : Nat := 0
  ctx : Nat := 0
  va : Nat := 0
  size : Nat := 0
deriving DecidableEq, Repr

/-- A walk in one of the 16 walkers (R63). -/
structure Walk where
  stream : Nat := 0
  ctx : Nat := 0
  va : Nat := 0
deriving DecidableEq, Repr

/-- One quarter's translation unit (R59). -/
structure TransUnit where
  tlb : List TlbEntry := []
  walkCache : List WalkEntry := []
  streams : List StreamSlot := []
  walks : List Walk := []
  /-- Misses that wait, oldest first (R61, R62). -/
  waiting : List XlatMiss := []
  /-- Stream to which the last free walker went: the place of the round robin (R63). -/
  turn : Nat := 0
deriving DecidableEq, Repr

/-- A window table entry (R65, Table 10). -/
structure Window where
  valid : Bool := false
  read : Bool := false
  write : Bool := false
  atomic : Bool := false
  reduce : Bool := false
  flagged : Bool := false
  ctx : Nat := 0
  gen : Nat := 0
  srcBase : Nat := 0
  srcMask : Nat := 0
  baseVa : Nat := 0
  length : Nat := 0
  refused : Nat := 0
deriving DecidableEq, Repr

/-- Operations a window or a page may allow (R68). -/
inductive Acc where
  | read | write | atomic | reduce | flagged
deriving DecidableEq, Repr

/-- A probe reservation in a quarter's range tracker (R71, R72). -/
structure Reservation where
  srcNode : Nat := 0
  srcQueue : Nat := 0
  srcInc : Nat := 0
  ctx : Nat := 0
  window : Nat := 0
  offset : Nat := 0
  length : Nat := 0
  op : Acc := .read
  /-- SEQ of the probe, and of the data packet that ends the range once it has come (R72). -/
  seq : Nat := 0
  last : Option Nat := none
  since : Nat := 0
  /-- Status of later data packets once an UNMAP or CLOSE_WINDOW ended it. -/
  ended : Option Status := none
deriving DecidableEq, Repr

/-- A command's translations in a quarter's range tracker (R70). -/
structure TrackEntry where
  ctx : Nat := 0
  /-- Flight key of the command. -/
  owner : Nat := 0
  ranges : List (Nat × Nat) := []
deriving DecidableEq, Repr

/-- An UNMAP between its cut and its release (R54 to R57). -/
structure UnmapJob where
  ctx : Nat := 0
  /-- Flight key of the UNMAP. -/
  owner : Nat := 0
  va : Nat := 0
  length : Nat := 0
  cut : List Extent := []
  cutAt : Nat := 0
  /-- WAIT_LIMIT in µs; none once the remaining work has been aborted. -/
  limit : Option Nat := none
  aborted : Nat := 0
deriving DecidableEq, Repr

/-- A MAP or UNMAP that waits for an UNMAP of its context (R54). -/
structure MapWait where
  ctx : Nat := 0
  /-- Flight key of the command. -/
  owner : Nat := 0
deriving DecidableEq, Repr

/-- State of the translation service. -/
structure XlatState where
  pages : Tbl (List Extent) := []
  units : Quad TransUnit
  windows : Tbl Window := []
  resv : Quad (Tbl Reservation)
  track : Quad (List TrackEntry)
  unmaps : List UnmapJob := []
  /-- MAP and UNMAP commands that wait, in the order in which they came (R54). -/
  mapQueue : List MapWait := []
  /-- Window entries cached by each quarter's end-point block, at most 1,024, with the cycle of their
  last use (R65). -/
  windowCache : Quad (List (Nat × Nat))
deriving DecidableEq, Repr

/-! ## Queues, plays and whistles (03) -/

/-- Queue states (R76, Table 1). -/
inductive QState where
  | closed | opened | error | draining
deriving DecidableEq, Repr

/-- A descriptor waiting in a queue's ring, with its play run if it has one. -/
structure Waiting where
  desc : Desc := 0
  run : Option Nat := none
  lastOfRun : Bool := false
deriving DecidableEq, Repr

/-- A queue record (R76, Table 1) with its descriptor ring. -/
structure Queue where
  ctx : Nat := 0
  queue : Nat := 0
  quarter : Nat := 0
  cls : Nat := 0
  state : QState := .closed
  ringLog2 : Nat := 8
  srcBase : Nat := 0
  srcMask : Nat := 0
  ring : Nat := 0
  /-- Queue record number within the quarter (R146). -/
  record : Nat := 0
  /-- First byte of its descriptor ring in the quarter's queue-ring area (R280). -/
  ringAt : Nat := 0
  pushed : Nat := 0
  dispatched : Nat := 0
  completed : Nat := 0
  errors : Nat := 0
  refused : Nat := 0
  /-- Undispatched descriptors, oldest first. -/
  slots : List Waiting := []
  /-- A descriptor has failed since the last release or fence completed (R128). -/
  failedSpan : Bool := false
  /-- Opened by principal F or from an F-queue (R508). -/
  fQueue : Bool := false
  /-- Flight key of a CLOSE_QUEUE waiting for the queue to empty (R109). -/
  closing : Option Nat := none
deriving DecidableEq, Repr

/-- Progress of a dispatched descriptor. -/
inductive Progress where
  /-- Dispatched, its own command not yet run. -/
  | issued
  /-- Its command has run; it waits for requests, time or another event. -/
  | working
  /-- Final, with the status and DETAIL it completes with. -/
  | final (status : Status) (detail : BitVec 64)
deriving DecidableEq, Repr

/-- A descriptor in flight (R86, R88). -/
structure Flight where
  ctx : Nat := 0
  queue : Nat := 0
  seq : Nat := 0
  desc : Desc := 0
  quarter : Nat := 0
  /-- Engine within the quarter, numbered 0 to 22 as R94 lists them. -/
  engine : Nat := 0
  run : Option Nat := none
  lastOfRun : Bool := false
  progress : Progress := .issued
  /-- When its own command ran, for the timeouts of its operand. -/
  since : Nat := 0
  /-- No further request may be issued (R337, R365). -/
  stopped : Bool := false
  /-- Status forced on it by an event outside it (UNMAP, teardown, power stop). -/
  forced : Option Status := none
deriving DecidableEq, Repr

/-- Play entry states (R96, Table 10). -/
inductive PState where
  | idle | armed | pending | running
deriving DecidableEq, Repr

/-- A play entry (R96, Table 10) with its descriptors in the play store. -/
structure Play where
  ctx : Nat := 0
  no : Nat := 0
  trigger : Nat := 0
  queue : Nat := 0
  flagCmp : Nat := 0
  oneShot : Bool := false
  whistleStart : Bool := false
  whistleEnd : Bool := false
  flagVa : Nat := 0
  huddleNo : Nat := 0
  flagValue : BitVec 64 := 0
  descBase : Nat := 0
  store : Nat := 0
  descs : List Desc := []
  state : PState := .idle
  /-- The trigger is armed (R97, R111). -/
  armed : Bool := false
  latched : Bool := false
  starts : Nat := 0
  overruns : Nat := 0
  failedRuns : Nat := 0
  /-- First failing status of the run in progress (R101). -/
  runStatus : Status := 0
  /-- The start in progress was the play's one shot. -/
  shot : Bool := false
deriving DecidableEq, Repr

/-- What a flag watch serves (R98). -/
inductive Watcher where
  | play (no : Nat)
  | wait (flight : Nat)
  | caddie (stream entry : Nat)
deriving DecidableEq, Repr

/-- A flag watch of a quarter (R98). -/
structure Watch where
  ctx : Nat := 0
  va : Nat := 0
  cmp : Nat := 0
  value : BitVec 64 := 0
  who : Watcher := .play 0
deriving DecidableEq, Repr

/-- A whistle record (R102, Table 12). -/
structure Whistle where
  kind : Nat := 0
  status : Status := 0
  ctx : Nat := 0
  queue : Nat := 0
  quarter : Nat := 0
  tag : Nat := 0
  detail : BitVec 64 := 0
  ft : FT := 0
  seq : Nat := 0
  count : Nat := 1
  /-- Flight key of the WHISTLE descriptor that completes with the record's write (R125). -/
  owner : Option Nat := none
deriving DecidableEq, Repr

/-- A held completion record of one queue (R106). -/
structure Held where
  record : Whistle := {}
  since : Nat := 0
  /-- A completion merged into it was URGENT. -/
  urgent : Bool := false
deriving DecidableEq, Repr

/-- A whistle ring (R104, Table 14). -/
structure Ring where
  ctx : Nat := 0
  no : Nat := 0
  udp : Bool := false
  baseKind : Bool := false
  sizeLog2 : Nat := 4
  coalCount : Nat := 0
  server : Nat := 0
  coalTime : Nat := 0
  base : BitVec 64 := 0
  head : BitVec 64 := 0
  written : Nat := 0
  lostCount : Nat := 0
  /-- Completions merged and not yet written, by queue (R106). -/
  held : Tbl Held := []
  /-- Records waiting for room in the ring (R107). -/
  waiting : List Whistle := []
  lastHead : Nat := 0
  /-- Records dropped while full and not yet reported by kind 0x0A (R107). -/
  dropped : Nat := 0
  /-- A HEAD read is outstanding or due, with the instant of the last one. -/
  headAsked : Bool := false
  headAt : Nat := 0
  /-- The ring is lost (R108), with the failing status. -/
  lost : Option Status := none
  /-- Flight key of a CLOSE_RING waiting for its last writes. -/
  closing : Option Nat := none
deriving DecidableEq, Repr

/-- State of the queue, play and whistle services. -/
structure QueueState where
  queues : Tbl Queue := []
  flights : Tbl Flight := []
  plays : Tbl Play := []
  watches : Quad (List Watch)
  rings : Tbl Ring := []
  /-- Weighted round-robin credit of each context, by quarter (R86). -/
  turn : Quad (Tbl Nat)
deriving DecidableEq, Repr

/-! ## Memory (04, 09) -/

/-- A line of an engine read cache (R119, R120). -/
structure CacheLine where
  ctx : Nat := 0
  /-- Window handle of the line's first byte. -/
  name : Nat := 0
  data : Bytes := []
  since : Nat := 0
  lifetime : Nat := 0
  used : Nat := 0
  /-- Job and piece whose fill of this line is outstanding; the line holds no data until then. -/
  fill : Option (Nat × Nat) := none
deriving DecidableEq, Repr

/-- Memory of the four tiers and what protects it. -/
structure MemState where
  /-- Bytes by physical address, in canonical form: addresses rising, no entry zero. -/
  bytes : List Host.Cell := []
  /-- Context and generation under whose key a 64 KiB region was last filled; a region
  with no entry has its clear-map bit set (R283). -/
  region : Tbl (Nat × Nat) := []
  /-- Context and generation under whose key a granule was last written, where it is not
  that of its region. -/
  granule : Tbl (Nat × Nat) := []
  /-- Granules with an uncorrectable error (R284). -/
  poison : List Nat := []
  /-- Granules with a correctable error that no read has met yet (R284). -/
  soft : List Nat := []
  /-- Numbers of the 64-byte lines that each controller's atomic unit holds, the last used first (R159). -/
  lines : Tbl (List Nat) := []
  /-- Engine read caches, by quarter * 8 + class. -/
  caches : Tbl (List CacheLine) := []
  /-- Atomics queued at each memory controller, oldest first: operand address, start and end
  (R159). -/
  atomics : Tbl (List (Nat × Nat × Nat)) := []
  /-- Sizes in MiB of the areas of the Foil hardware region as laid out at the last reset
  (R278, R279): fixed tables, page tables, queue rings, play store, spill, Scrum overflow. -/
  layout : List Nat := [64, 1024, 1024, 16, 4096, 4096]
  /-- Size in GiB of the Slab module fitted in a slot (R276). -/
  slab : Tbl Nat := []
deriving DecidableEq, Repr

/-! ## Fabric transactions (05) -/

/-- A flow record at a target (R161). -/
structure Flow where
  src : Nat := 0
  srcQueue : Nat := 0
  srcInc : Nat := 0
  base : Nat := 0
  /-- SEQs above the base that have been performed. -/
  done : List Nat := []
  /-- SEQs refused and not yet consumed by a flagged write (R135). -/
  refused : List Nat := []
  /-- SEQs answered with a failing status. -/
  final : List Nat := []
  /-- Flagged writes completed ABORTED (R135). -/
  aborted : List Nat := []
  /-- SEQs in progress. -/
  busy : List Nat := []
  /-- SEQ of the last flagged write that ended a span (R135). -/
  spanFrom : Nat := 0
  used : Nat := 0
deriving DecidableEq, Repr

/-- An atomic-result cache entry (R164). -/
structure ResultEntry where
  status : Status := 0
  old : BitVec 128 := 0
  ctx : Nat := 0
  since : Nat := 0
deriving DecidableEq, Repr

/-- What an outstanding request of this part serves. -/
inductive Owner where
  /-- Request number `idx` of the work of a job. -/
  | job (key idx : Nat)
  /-- A whistle record written to a ring, for a WHISTLE descriptor if it has one. -/
  | ring (key : Nat) (flight : Option Nat)
  /-- A read of a ring's HEAD. -/
  | head (key : Nat)
  /-- A huddle's combined arrival to its parent. -/
  | huddleUp (key : Nat)
  /-- A huddle's release to a child. -/
  | huddleDown (key : Nat)
  /-- A failed release from child to parent (R33). -/
  | huddleFail (key : Nat)
  /-- No engine takes its reply. -/
  | none
deriving DecidableEq, Repr

/-- An outstanding request of this part (R160, R165 to R167). -/
structure Req where
  pkt : Packet := {}
  owner : Owner := .none
  quarter : Nat := 0
  engine : Nat := 0
  firstSent : Nat := 0
  timerFrom : Nat := 0
  resends : Nat := 0
  /-- NACKs the request has drawn. -/
  nacks : Nat := 0
  /-- Back-off in force: when it began and its length in µs. -/
  backoff : Option (Nat × Nat) := none
  /-- A re-send waits for the limiter of its issuing queue (R211). -/
  due : Bool := false
  drewCheck : Bool := false
  drewOther : Bool := false
deriving DecidableEq, Repr

/-- Numbering of a flow at its source (R160). -/
structure SrcFlow where
  next : Nat := 1
  /-- SEQs without a final reply, oldest first. -/
  unacked : List Nat := []
deriving DecidableEq, Repr

/-- A side of a transfer: a VA of the context, or a window handle. -/
inductive Place where
  | va (a : Nat)
  | handle (h : BitVec 64)
deriving DecidableEq, Repr

/-- Where the bytes of a read go. -/
inductive Sink where
  /-- Written to a place. -/
  | place (p : Place)
  /-- Kept in the job's buffer at an offset. -/
  | buffer (off : Nat)
  /-- Exclusive-ored into the job's buffer at an offset (R270). -/
  | xorBuffer (off : Nat)
  /-- Sent on as one REDUCE_CONTRIB, with its AUX (R235). -/
  | contrib (h : BitVec 64) (aux : Nat)
deriving DecidableEq, Repr

/-- One elementary piece of an engine's work. -/
inductive Work where
  | probe (h : BitVec 64) (len : Nat) (op : Nat)
  | copy (src : Place) (sink : Sink) (len : Nat)
  /-- A read by handle served line by line (R120): the lines it has, and those it takes from
  outstanding fills, each with the job and piece of its fill. -/
  | lines (h : BitVec 64) (sink : Sink) (len : Nat) (have_ : List (Nat × Bytes))
      (need : List (Nat × Nat × Nat))
  | store (dst : Place) (data : Bytes)
  | flag (dst : Place) (value : BitVec 64)
  /-- A flagged write with data before its flag, as a relay re-issues it (R173). -/
  | flagRun (dst : BitVec 64) (data : Bytes)
  /-- Write part of the job's buffer. -/
  | drain (off len : Nat) (dst : Place)
  /-- One REDUCE_CONTRIB packet. -/
  | contrib (h : BitVec 64) (group : Nat) (data : Bytes)
  /-- A relay write or relay flagged write to a group of another part. -/
  | relay (h : BitVec 64) (group : Nat) (flagged : Bool) (data : Bytes)
  /-- Nothing may be issued past this point until all before it is final. -/
  | barrier
deriving DecidableEq, Repr

/-- What a job is the work of. -/
inductive JobKind where
  | flight (key : Nat)
  | relay (reply : Packet)
  | gather (group bank : Nat)
  | emission (stream : Nat)
  | parity (record row : Nat)
  | rebuild (record : Nat)
  | caddie (stream entry : Nat)
  | idle
deriving DecidableEq, Repr

/-- Work of an engine on requests: what is still to issue and what is outstanding. -/
structure Job where
  kind : JobKind := .idle
  ctx : Nat := 0
  gen : Nat := 0
  quarter : Nat := 0
  engine : Nat := 0
  cls : Nat := 0
  srcQueue : Nat := 0
  order : Nat := 0
  todo : List (Nat × Work) := []
  live : List (Nat × Work) := []
  issued : Nat := 0
  /-- Lowest-numbered failure so far: request, status and DETAIL. -/
  failed : Option (Nat × Status × BitVec 64) := none
  buffer : Bytes := []
  /-- A failure does not stop the rest: a multicast, whose DETAIL is that of R172. -/
  multicast : Bool := false
deriving DecidableEq, Repr

/-- A multicast or relay group entry (R171, Tables 11 and 12). -/
structure GroupEntry where
  kind : Nat := 0
  ctx : Nat := 0
  gen : Nat := 0
  srcBase : Nat := 0
  srcMask : Nat := 0
  members : List (BitVec 32) := []
deriving DecidableEq, Repr

/-- An ACK waiting to be merged with later ones of its flow (R169). -/
structure MergedAck where
  last : Packet := {}
  run : Nat := 1
  since : Nat := 0
deriving DecidableEq, Repr

/-- A flagged write held until its covered SEQs are final (R134). -/
structure HeldWrite where
  pkt : Packet := {}
  flow : Nat := 0
  since : Nat := 0
deriving DecidableEq, Repr

/-- What a Caddie guard may hold (R315). -/
inductive HeldWhat where
  /-- A request past its window checks. -/
  | request (p : Packet)
  /-- The first waiting request of a queue pair. -/
  | pair (qpn : Nat)
  /-- A piece of a job. -/
  | piece (job n : Nat)
  /-- The destination write of a segment that is being finalised. -/
  | segment (group seg : Nat)
  /-- The next segment of a stream's apply. -/
  | apply (stream : Nat)
  /-- A descriptor that has not run yet. -/
  | command (flight : Nat)
deriving DecidableEq, Repr

/-- An access held at a Caddie guard, with the bytes of its context that it touches. -/
structure HeldReq where
  what : HeldWhat := .request {}
  ctx : Nat := 0
  va : Nat := 0
  len : Nat := 1
deriving DecidableEq, Repr

/-- A request of the part that waits for its flow to take it (R160). -/
structure Deferred where
  quarter : Nat := 0
  engine : Nat := 0
  owner : Owner := .none
  pkt : Packet := {}
deriving DecidableEq, Repr

/-- State of the end-point blocks and of the part's own requests. -/
structure NetState where
  flows : Tbl Flow := []
  results : Tbl ResultEntry := []
  srcFlows : Tbl SrcFlow := []
  reqs : Tbl Req := []
  /-- Huddle requests that wait for their flow, oldest first (R160). -/
  deferred : List Deferred := []
  jobs : Tbl Job := []
  groups : Tbl GroupEntry := []
  acks : Tbl MergedAck := []
  heldFlags : Quad (List HeldWrite)
  /-- Pushes that wait for lower SEQs of their flow, in the order in which they came (R81). -/
  heldPushes : List HeldWrite := []
  /-- LAST_INC of the nodes whose incarnation is known (R507). -/
  lastInc : Tbl Nat := []
deriving DecidableEq, Repr

/-! ## Switch core (06) -/

/-- A packet in the switch core with its side band (R182). -/
structure CorePkt where
  pkt : Packet := {}
  inp : Nat := 0
  /-- VL on which it arrived. -/
  vlIn : Nat := 0
  fromUp : Bool := false
  /-- Output chosen by R204. -/
  out : Option Nat := none
  vlOut : Nat := 0
  /-- 0 green, 1 yellow, 2 red. -/
  colour : Nat := 0
  bytes : Nat := 32
  cells : Nat := 1
  /-- Age in µs on arrival, and the instant of entry (R197). -/
  age : Nat := 0
  entered : Nat := 0
  /-- Cells admitted by middles, and cells received at the output. -/
  admitted : Nat := 0
  got : Nat := 0
  reserved : Bool := false
  marked : Bool := false
  /-- Poisoned by a spilled cell: the quarter in whose Foil it lay (R193). -/
  dead : Option Nat := none
  /-- Its port has left service while it was partly held (R208). -/
  cut : Bool := false
  /-- Order of completion at the output. -/
  order : Nat := 0
deriving DecidableEq, Repr

/-- A cell held in a middle buffer: the packets it carries (one, or up to four control
packets), and whether it lies in the spill area (R182, R183, R190). -/
structure CoreCell where
  pkts : List Nat := []
  vl : Nat := 0
  spilled : Bool := false
  /-- Fetched back into staging SRAM (R193). -/
  staged : Bool := false
  /-- Place of a spilled cell in the spill area of its quarter, in 128-byte slots (R190). -/
  slot : Nat := 0
  order : Nat := 0
deriving DecidableEq, Repr

/-- A route table entry (R203, Table 5); LOCAL is computed and FENCED is kept apart. -/
structure Route where
  down : Nat := 0
  up : Nat := 0
  valid : Bool := false
  rack : Bool := false
deriving DecidableEq, Repr

/-- Token buckets of a context's marker on a quarter (R209), in eighteenths of a byte. -/
structure Marker where
  committed : Nat := 0
  peak : Nat := 0
  since : Nat := 0
deriving DecidableEq, Repr

/-- A congestion-note limiter (R211); rates in MB/s. -/
structure Limiter where
  rate : Nat := 0
  rmax : Nat := 0
  lastCut : Option Nat := none
  lastChange : Nat := 0
  /-- Instant before which the queue sends no further data packet. -/
  nextAt : Nat := 0
deriving DecidableEq, Repr

/-- Turn of the output scheduler of one core port (R196). -/
structure OutTurn where
  control : Nat := 0
  data : Nat := 0
  lastControl : Nat := 2
  lastData : Nat := 4
  /-- Deficits, by VL * 4096 + context, and the context last served on each VL. -/
  deficit : Tbl Nat := []
  lastCtx : Tbl Nat := []
deriving DecidableEq, Repr

/-- State of the switch core. -/
structure CoreState where
  /-- Ingress FIFOs, by port * 8 + FIFO: VL0, VL1, VL2, VL3 and VL4 green, VL3 and VL4 excess. -/
  fifo : Tbl (List Nat) := []
  pkts : Tbl CorePkt := []
  nextPkt : Nat := 0
  /-- Cells held, by middle * 80 + output, oldest first. -/
  cells : Tbl (List CoreCell) := []
  nextOrder : Nat := 0
  turns : Tbl OutTurn := []
  /-- XOFF state sent and received, by port * 8 + VL: 1 EXCESS, 2 ALL. -/
  xoffSent : Tbl Nat := []
  xoffRecv : Tbl Nat := []
  /-- LAST_GASP and fence notices held by XOFF of VL0, by port, oldest first: opcode, operand and the
  instant from which they are held (R200). -/
  localHeld : Tbl (List (Nat × BitVec 128 × Nat)) := []
  refreshed : Tbl Nat := []
  routes : Tbl Route := []
  loads : Tbl Nat := []
  sampledAt : Nat := 0
  rotate : Tbl Nat := []
  markers : Tbl Marker := []
  noted : Tbl Nat := []
  limiters : Quad (Tbl Limiter)
  /-- Alternation of VL1/VL2, VL3/VL4 green and excess at each input (R186). -/
  alternate : Tbl Nat := []
  /-- Cycle after the one in which each input, and each middle, last sent a cell (R182). -/
  fed : Tbl Nat := []
  gave : Tbl Nat := []
  /-- The core is stopped by a quarter shutdown or EPO_N (R367, R488). -/
  stopped : Bool := false
deriving DecidableEq, Repr

/-! ## Scrum (07) -/

/-- One accumulator bank of a segment in one round. -/
structure SegBank where
  /-- Contributions accumulated. -/
  count : Nat := 0
  /-- Accumulators: FP32 words, 32-bit patterns, or 64-bit integers. -/
  acc : List Nat := []
  /-- The segment-round is sampled for a duplicate check, with its capture (R241). -/
  sampled : Bool := false
  capture : List Bytes := []
  initial : List Nat := []
  /-- Cluster fixed at the first contribution of the round (R245). -/
  cluster : Nat := 0
deriving DecidableEq, Repr

/-- A segment of a group. -/
structure GroupSeg where
  /-- 0 gathering, 1 waiting for the step stream, 2 withheld for its check, 3 finalised, 4 its destination
  write held by a Caddie guard. -/
  stage : Nat := 0
  /-- Status with which its held destination write ends (R320). -/
  fate : Option Status := none
  cur : SegBank := {}
  /-- Round G + 1. -/
  nxt : SegBank := {}
deriving DecidableEq, Repr

/-- A reduction group record (R224, Table 4) with its segments. -/
structure Group where
  ctx : Nat := 0
  no : Nat := 0
  op : Nat := 0
  inFmt : Nat := 0
  outFmt : Nat := 0
  stochastic : Bool := false
  twoBanks : Bool := false
  init : Bool := false
  checkHold : Bool := false
  segLog2 : Nat := 8
  feed : Nat := 0
  gatherEn : Bool := false
  flagEn : Bool := false
  normEn : Bool := false
  elements : Nat := 0
  contributors : Nat := 1
  micro : Nat := 1
  destWindow : Nat := 0
  destOffset : Nat := 0
  gatherGroup : Nat := 0
  gatherBase : Nat := 0
  flagOffset : Nat := 0
  normHuddle : Nat := 0
  stepStream : Nat := 0
  round : Nat := 0
  /-- 0 gathering, 1 ending round, 2 failed. -/
  state : Nat := 0
  segDone : Nat := 0
  checks : Nat := 0
  mismatches : Nat := 0
  refused : Nat := 0
  norm : BitVec 64 := 0
  /-- Norm accumulator of the round in progress. -/
  normAcc : BitVec 64 := 0
  /-- VA of element 0 at the held destination (R225). -/
  destVa : Nat := 0
  segs : Tbl GroupSeg := []
  /-- Number of the gather job of the round in progress. -/
  bank : Nat := 0
  /-- First failing destination write of the round: segment and status. -/
  writeFail : Option (Nat × Status) := none
  /-- Status of the last ended round, and status that failed the group. -/
  lastStatus : Status := 0
  failStatus : Status := 0
  /-- The round's segments are final and the last gather requests are still to be issued (R233). -/
  ending : Bool := false
  /-- The group is stopped, and its finalisations in progress complete; and the GROUP_DISARM that waits
  for them (R238). -/
  disarm : Bool := false
  disarmBy : Option Nat := none
  /-- Accumulator bytes reserved in SRAM and in Foil (R226). -/
  sram : Nat := 0
  foil : Nat := 0
deriving DecidableEq, Repr

/-- A duplicate check waiting to be replayed (R242). -/
structure DupCheck where
  group : Nat := 0
  round : Nat := 0
  seg : Nat := 0
  quarter : Nat := 0
  checker : Nat := 0
  /-- Clusters on both quarters. -/
  cluster : Nat := 0
  checkCluster : Nat := 0
  capture : List Bytes := []
  initial : List Nat := []
  /-- The result is withheld until the check passes (R244). -/
  hold : Bool := false
  /-- What is withheld: the bank as it was finalised. -/
  bank : SegBank := {}
  /-- The group has been disarmed since: the check ends without it. -/
  orphan : Bool := false
deriving DecidableEq, Repr

/-- State of Scrum. -/
structure ScrumState where
  /-- Groups, by context * 65536 + group number. -/
  groups : Tbl Group := []
  checks : Tbl DupCheck := []
  nextCheck : Nat := 0
  /-- Samples taken by each quarter, and its next checking cluster. -/
  samples : Quad Nat
  rotation : Quad Nat
deriving DecidableEq, Repr

/-! ## Step engine (08) -/

/-- A stream record (R248, Table 1) with its apply in progress. -/
structure Stream where
  ctx : Nat := 0
  no : Nat := 0
  quarter : Nat := 0
  rule : Nat := 0
  nesterov : Bool := false
  fromMemory : Bool := false
  gradFmt : Nat := 0
  emitFmt : Nat := 0
  emitEn : Bool := false
  emitStochastic : Bool := false
  readyFlag : Bool := false
  commitFlag : Bool := false
  params : Nat := 0
  bank0 : Nat := 0
  bank1 : Nat := 0
  gradVa : Nat := 0
  emitGroup : Nat := 0
  emitBase : Nat := 0
  emitAlt : Nat := 0
  flagOffset : Nat := 0
  applied : Nat := 0
  /-- 0 idle, 1 applying, 2 applied, 3 failed. -/
  state : Nat := 0
  done : Nat := 0
  /-- Flight key of the apply in progress. -/
  flight : Option Nat := none
  /-- Innings of the last apply started. -/
  innings : Option Nat := none
  /-- Segments of the apply already taken: first parameter and length. -/
  taken : List (Nat × Nat) := []
  /-- Clip factor of the apply in progress, as an FP32 word (R254). -/
  clip : Nat := 0x3F800000
  nonFinite : Nat := 0
  /-- Status with which a bank access stopped the apply. -/
  failing : Option Status := none
deriving DecidableEq, Repr

/-- A parity record (R269, Table 7) with the progress of its row. -/
structure ParityRec where
  ctx : Nat := 0
  quarter : Nat := 0
  stream : Nat := 0
  index : Nat := 0
  nodes : List Nat := [0, 0, 0, 0]
  window : Nat := 0
  offset0 : Nat := 0
  offset1 : Nat := 0
  parVa0 : Nat := 0
  parVa1 : Nat := 0
  /-- The row of the innings in PARITY: 0 none, 1 being written, 2 written, 3 failed,
  4 cut by an UNMAP. -/
  row : Nat := 0
deriving DecidableEq, Repr

/-- State of the step engine. -/
structure StepState where
  /-- Streams and parity records, by quarter * 64 + stream number. -/
  streams : Tbl Stream := []
  parity : Tbl ParityRec := []
deriving DecidableEq, Repr

/-! ## Arenas and Pewter (09) -/

/-- A replaced run waiting for the tile commands that read it (R298). -/
structure RetiredRun where
  first : Nat := 0
  sectors : Nat := 0
  readers : List Nat := []
deriving DecidableEq, Repr

/-- An arena record (R293, Table 6) with its allocator. -/
structure Arena where
  ctx : Nat := 0
  no : Nat := 0
  home : Nat := 0
  adopt : Bool := false
  failed : Bool := false
  base : Nat := 0
  sectors : Nat := 0
  tiles : Nat := 0
  largest : Nat := 0
  /-- Allocated runs, retired ones included: first sector and length, rising. -/
  used : List (Nat × Nat) := []
  retired : List RetiredRun := []
  /-- Tile commands in flight that have read the directory. -/
  readers : List Nat := []
  cursor : Nat := 0
  /-- Closed to new tile commands, by ARENA_DISARM or the stop of its context (R302, R337). -/
  closing : Bool := false
  /-- Flight key of an ARENA_DISARM waiting for the commands in flight. -/
  closer : Option Nat := none
deriving DecidableEq, Repr

/-- State of a tile command between its directory read and its end. -/
structure TileWork where
  arena : Nat := 0
  /-- Source arena of a TILE_MOVE. -/
  source : Option Nat := none
  tile : Nat := 0
  /-- Run, header's MODE and VERSION as read from the directory. -/
  first : Nat := 0
  sectors : Nat := 0
  version : Nat := 0
  /-- 0 reading the plain side, 1 writing the plain side, 2 writing the flag, 3 probing the plain side. -/
  phase : Nat := 0
  /-- DETAIL of the completion. -/
  detail : BitVec 64 := 0
deriving DecidableEq, Repr

/-- State of Pewter. -/
structure PewterState where
  /-- Arenas, by context * 256 + arena number. -/
  arenas : Tbl Arena := []
  /-- When LARGEST was sampled last (R293). -/
  sampledAt : Nat := 0
  /-- Tile commands in flight, by flight key. -/
  works : Tbl TileWork := []
deriving DecidableEq, Repr

/-! ## Caddie (10) -/

/-- A schedule entry (R307, Table 2). -/
structure SchedEntry where
  trigger : Nat := 0
  destKind : Nat := 0
  codec : Nat := 0
  writeback : Bool := false
  flagEn : Bool := false
  flagHandle : Bool := false
  srcWait : Bool := false
  stochastic : Bool := false
  outFmt : Nat := 0
  position : Nat := 0
  srcArena : Nat := 0
  srcTile : Nat := 0
  tiles : Nat := 0
  deadline : Nat := 0
  dest : BitVec 64 := 0
  flagAddr : BitVec 64 := 0
  flagValue : BitVec 64 := 0
deriving DecidableEq, Repr

/-- An entry of a stream in flight. -/
structure FlyEntry where
  index : Nat := 0
  pass : Nat := 0
  /-- Reference instant (R319). -/
  reference : Nat := 0
  missed : Bool := false
  /-- Runs of the source tiles as their directory entries gave them: first sector, sectors. -/
  runs : List (Nat × Nat) := []
  /-- Plain bytes of one tile of the set. -/
  tileBytes : Nat := 0
  /-- Tiles of the set, from 0, whose bytes have been performed: their guard has lifted (R315). -/
  filled : List Nat := []
  /-- A held request has escalated the entry (R316). -/
  escalated : Bool := false
  /-- The Pewter unit that works on the tiles of a window destination (R305). -/
  unit : Option Nat := none
deriving DecidableEq, Repr

/-- Occupant of a slot (R314, R317). -/
structure Occupant where
  index : Nat := 0
  pass : Nat := 0
  dirty : Bool := false
  /-- MODE of each tile, the shape of the tiles, and the format landed. -/
  modes : List Nat := []
  rows : Nat := 0
  cols : Nat := 0
  fmt : Nat := 0
deriving DecidableEq, Repr

/-- A Caddie stream record (R306, Table 1) with its schedule. -/
structure CaddieStream where
  ctx : Nat := 0
  no : Nat := 0
  quarter : Nat := 0
  /-- 0 running, 1 ended, 2 disarming, 3 failed. -/
  state : Nat := 0
  loop : Bool := false
  lookahead : Nat := 0
  cursorVa : Nat := 0
  cursorCount : Nat := 0
  /-- VA from which the entries were copied. -/
  entryVa : Nat := 0
  slotLog2 : Nat := 16
  slotVa : Nat := 0
  slots : Nat := 1
  inflight : Nat := 0
  span : Nat := 0
  count : Nat := 1
  next : Nat := 0
  pass : Nat := 0
  teePending : Nat := 0
  landed : Nat := 0
  misses : Nat := 0
  lastMiss : Nat := 0
  lastMissFt : FT := 0
  held : Nat := 0
  failStatus : Status := 0
  entries : List SchedEntry := []
  /-- Largest value written to each cursor word since arming. -/
  words : Tbl Nat := []
  /-- Values the cursor has reached since arming, with the instants, newest first. -/
  reached : List (Nat × Nat) := []
  /-- Instants of the firings not yet consumed, oldest first. -/
  firings : List Nat := []
  /-- Instant of the latest landing of each entry, by index (R319). -/
  landTimes : Tbl Nat := []
  flying : List FlyEntry := []
  occupants : Tbl Occupant := []
  /-- Index and pass of the entries that have counted their miss before they started. -/
  waitMissed : List (Nat × Nat) := []
  armedAt : Nat := 0
  /-- Index and pass of the entries that failed. -/
  lost : List (Nat × Nat) := []
  /-- Flight key of a CADDIE_DISARM waiting for the entries in flight. -/
  closing : Option Nat := none
deriving DecidableEq, Repr

/-- State of the Caddie units. -/
structure CaddieState where
  /-- Streams, by (quarter * 4096 + context) * 256 + stream number. -/
  streams : Tbl CaddieStream := []
  /-- Accesses held by guards, in arrival order (R315). -/
  guarded : List HeldReq := []
deriving DecidableEq, Repr


/-! ## Links (13) -/

/-- One lane of a port in bring-up. -/
structure Lane where
  /-- Comma lock of this part's receiver (R390). -/
  comma : Bool := false
  /-- Transmit taps in steps of 0.005, c(−3) to c(1) (R394, Table 10). -/
  taps : List Int := [0, 0, 0, 200, 0]
  /-- Taps when the port was last in ACTIVE. -/
  lastTaps : List Int := [0, 0, 0, 200, 0]
  /-- Response to the peer's requests: TAP, RESULT and ACK_ID (Table 9). -/
  ackTap : Nat := 0
  result : Nat := 0
  ackId : Option Nat := none
  /-- Pattern and precoding the peer asked for. -/
  pattern : Nat := 0
  precode : Bool := false
  /-- Own request in force: TAP, STEP, PRESET, REQ_ID (Table 8). -/
  reqTap : Nat := 0
  reqStep : Nat := 0
  reqPreset : Nat := 0
  reqId : Nat := 0
  done : Bool := false
  peerDone : Bool := false
  /-- Block number of the last ALIGN found, and whether it followed another by 4,000 (R398). -/
  lastAlign : Option Nat := none
  locked : Bool := false
  peerLocked : Bool := false
  /-- ALIGN blocks sent on the lane. -/
  count : Nat := 0
deriving DecidableEq, Repr

/-- Fragments of a capability message being collected (R400). -/
structure Collect where
  last : Nat := 0
  got : Tbl Bytes := []
  since : Nat := 0
deriving DecidableEq, Repr

/-- What the part knows of a neighbour (3000+n:05). -/
structure Neighbour where
  node : Nat := 0
  port : Nat := 0
  role : Nat := 0
  revision : Nat := 1
  kf4096 : Bool := false
  identity : Bytes := []
  incarnation : Nat := 0
deriving DecidableEq, Repr

/-- A link in bring-up or in service; its state and quarantine causes are 3000+n:01 and :02. -/
structure Link where
  /-- When the present state was entered. -/
  since : Nat := 0
  lanes : Tbl Lane := []
  attempt : Nat := 0
  peerAttempt : Nat := 0
  /-- The peer's latest OFFER. -/
  offer : Option (BitVec 128) := none
  /-- The side sends ACCEPT, with rate, width, lanes and FAST chosen (R392). -/
  accepting : Bool := false
  rate : Nat := 2
  width : Nat := 4
  txLanes : Nat := 15
  rxLanes : Nat := 15
  fast : Bool := false
  /-- COUNTDOWN in force (R396). -/
  countdown : Option Nat := none
  /-- The peer's COUNTDOWN has reached 0. -/
  peerStarted : Bool := false
  /-- Modes and revisions offered, as the limits stood at the entry to SERVE (R410). -/
  rates : Nat := 7
  revs : Nat := 3
  /-- Successive failures of EQUALISE by rate, and rates left out (R397). -/
  failures : Tbl Nat := []
  leftOut : List Nat := []
  recoverReq : Bool := false
  /-- Capability exchange. -/
  collects : Tbl Collect := []
  inbox : Tbl Bytes := []
  /-- Messages sent, repeated every 20 µs, and the instant of the last repeat. -/
  sent : Tbl Bytes := []
  repeatedAt : Nat := 0
  secret : Bytes := []
  nonce : Bytes := []
  revision : Nat := 1
  /-- HELLO of the peer, once it has been taken. -/
  peerHello : Bytes := []
  txKey : Option Bytes := none
  rxKey : Option Bytes := none
  txSalt : Bytes := []
  rxSalt : Bytes := []
  /-- Next frame counter sent, and expected. -/
  txCtr : Nat := 0
  rxCtr : Nat := 0
  resume : Option Bytes := none
  confirmed : Bool := false
  readySent : Bool := false
  neighbour : Option Neighbour := none
  /-- Recovery (R406). -/
  leftActive : Option Nat := none
  fastTries : Nat := 0
  fastRefused : Bool := false
  /-- Instants of the tag failures of the last ms (R399). -/
  tagFails : List Nat := []
deriving DecidableEq, Repr


/-! ## Ethernet (14) -/

/-- A request of the part as RC requester (R423): a whistle write or a HEAD read of a ring. -/
structure RingReq where
  psn : Nat := 0
  /-- Key of the ring it serves. -/
  ring : Nat := 0
  /-- Flight key of the WHISTLE descriptor that waits for it. -/
  flight : Option Nat := none
  isHead : Bool := false
  /-- Remote address. -/
  va : Nat := 0
  data : Bytes := []
  since : Nat := 0
  tries : Nat := 0
  rnrTries : Nat := 0
  /-- RNR wait in force: when it began and its timer code. -/
  rnrFrom : Option (Nat × Nat) := none
deriving DecidableEq, Repr

/-- Kind of a RoCEv2 request (Table 2). -/
inductive RoceOp where
  /-- A WRITE through a window. -/
  | write
  /-- A WRITE with R_Key window 0: a queue push. -/
  | push
  | read
  /-- A SEND with immediate. -/
  | send
  | add
  | swap
deriving DecidableEq, Repr

/-- A message of several packets in progress at a queue pair (R418, R420). -/
structure RoceRun where
  op : RoceOp := .write
  /-- Its first packet. -/
  head : RocePkt := {}
  /-- Bytes taken, and for a push the bytes themselves. -/
  taken : Nat := 0
  data : Bytes := []
deriving DecidableEq, Repr

/-- A request packet in sequence that has not been performed: it waits for a guard, or behind one
that does (R315, R419). -/
structure RoceWait where
  op : RoceOp := .write
  pkt : RocePkt := {}
  /-- It has been held by a guard. -/
  held : Bool := false
  /-- The entry whose guard held it failed with this status. -/
  refused : Option Status := none
deriving DecidableEq, Repr

/-- A queue pair (R416, Table 3). -/
structure QueuePair where
  ud : Bool := false
  /-- 0 reset, 1 ready, 2 error. -/
  state : Nat := 1
  port : Nat := 0
  ipv6 : Bool := false
  ctx : Nat := 0
  proxy : Nat := 0
  remoteQpn : Nat := 0
  pmtu : Nat := 0
  maxRd : Nat := 1
  expectedPsn : Nat := 0
  sendPsn : Nat := 0
  dscp : Nat := 0
  ackTimeout : Nat := 0
  retryCnt : Nat := 0
  rnrRetry : Nat := 0
  sport : Nat := 0
  remoteIp : Nat := 0
  nextHop : Nat := 0
  targetVa : Nat := 0
  targetRkey : BitVec 32 := 0
  qkey : BitVec 32 := 0
  run : Option RoceRun := none
  /-- Requests in sequence, not yet performed, oldest first. -/
  waiting : List RoceWait := []
  /-- The out-of-sequence gap, or an RNR condition, has been answered. -/
  nakSent : Bool := false
  /-- Responder resources: old values of the last atomics, by PSN (R419). -/
  atomics : List (Nat × BitVec 64) := []
  sends : List RingReq := []
  /-- Requester limiter (R426). -/
  limiter : Option Limiter := none
  cnpAt : Option Nat := none
deriving DecidableEq, Repr

/-- A doorbell slot (R422). -/
structure Doorbell where
  ctx : Nat := 0
  key : Bytes := []
  address : Nat := 0
  prefixLen : Nat := 0
  ipv6 : Bool := false
  proxy : Nat := 0
  highest : Option Nat := none
  /-- SEQs accepted among the 64 up to the highest. -/
  seen : List Nat := []
deriving DecidableEq, Repr

/-- A UDP whistle target (R424). -/
structure UdpTarget where
  address : Nat := 0
  ipv6 : Bool := false
  udpPort : Nat := 0
  port : Nat := 0
deriving DecidableEq, Repr

/-- A PTP client port (R427). -/
structure PtpClient where
  rank : Nat := 0
  identity : Nat := 0
  ptpScale : Bool := false
  utcOffset : Nat := 0
  leap : Bool := false
  interval : Nat := 1000
  heard : Nat := 0
  offset : Option Int := none
  delay : Nat := 0
  /-- PTP time in ns at the last Sync, and the instant of that Sync. -/
  time : Nat := 0
  timeAt : Nat := 0
  /-- Since when the offset has stayed within ±100 ns. -/
  within : Option Nat := none
deriving DecidableEq, Repr

/-! ## What leaves the part -/

/-- One thing the part sent or drove, oldest first in State.out. -/
inductive Sent where
  /-- A packet on a fabric link, with the age written in its frame. -/
  | packet (port age : Nat) (pkt : Packet)
  /-- A packet delivered to an internal core port. -/
  | inner (port age : Nat) (pkt : Packet)
  /-- A FLOW word: the state of the five VLs (R200, R389). -/
  | flow (port : Nat) (states : List Nat)
  /-- A word of link bring-up on a lane or port, by kind and contents. -/
  | linkWord (port kind : Nat) (data : Bytes)
  /-- A message of capability exchange (R400). -/
  | capability (port kind : Nat) (data : Bytes)
  /-- An Ethernet answer outside RoCEv2, by port (8 is the management port) and kind:
  0 ARP, 1 neighbour advertisement, 2 ICMP echo. -/
  | ethernet (port kind : Nat) (data : Bytes)
  /-- A RoCEv2 response from a queue pair: queue pair, PSN, kind (0 ACK, 1 read data, 2 atomic
  response, 3 NAK Remote Access Error, 4 NAK Invalid Request, 5 RNR NAK, 6 NAK Remote
  Operational Error, 7 NAK PSN Sequence Error) and data; the data of an RNR NAK is its timer code. -/
  | roce (qpn psn kind : Nat) (data : Bytes)
  /-- A RoCEv2 request of the part: queue pair, PSN, remote address, R_Key, read length or data. -/
  | roceReq (qpn psn va : Nat) (rkey : BitVec 32) (len : Nat) (data : Bytes)
  /-- A congestion notification packet of a queue pair (R426). -/
  | cnp (qpn : Nat)
  /-- A Dexol datagram to a session. -/
  | dexol (session : Nat) (data : Bytes)
  /-- An answer to principal F over the internal port: status, then value bytes. -/
  | answer (status : Status) (data : Bytes)
  /-- A UDP whistle (R424). -/
  | udpWhistle (ctx : Nat) (data : Bytes)
deriving DecidableEq, Repr

/-- A frame in a port's egress buffer (R426): its place in the order of service (1 PTP events, 2 acknowledgements,
notifications and messages, 3 data), the context of its data, and its bytes. -/
structure EthFrame where
  rank : Nat
  ctx : Nat
  size : Nat
  what : Sent
deriving DecidableEq, Repr

/-- An Ethernet port. -/
structure EthPort where
  up : Bool := false
  /-- Rate in use in Gb/s. -/
  rate : Nat := 0
  /-- Bytes in the ingress buffer at an instant; it drains at the port's rate. -/
  ingress : Nat := 0
  bufferedAt : Nat := 0
  /-- Frames in the egress buffer, oldest first, and the instant until which the transmitter is busy. -/
  egress : List EthFrame := []
  busyUntil : Nat := 0
  /-- Deficits of the contexts with data in the egress buffer, and the context served last (R426). -/
  deficit : Tbl Nat := []
  lastCtx : Option Nat := none
  ptp : Option PtpClient := none
deriving DecidableEq, Repr

/-- State of the Ethernet ports. -/
structure EthState where
  ports : Tbl EthPort := []
  qps : Tbl QueuePair := []
  doorbells : Tbl Doorbell := []
  targets : Tbl UdpTarget := []
  /-- Port of the active PTP client. -/
  ptpActive : Option Nat := none
  /-- Management port mode in force: 0 1000BASE-X, 1 SGMII; the instant it was entered. -/
  mgmtMode : Nat := 0
  mgmtSince : Nat := 0
deriving DecidableEq, Repr

/-! ## Contexts (11) -/

/-- A teardown in progress (R337 to R342). -/
structure Teardown where
  since : Nat := 0
  /-- A CREATE follows (R345). -/
  reset : Bool := false
  clearFrom : Nat := 0
  /-- GENERATION was 0xFFFF before the generation step (R332). -/
  exhausted : Bool := false
deriving DecidableEq, Repr

/-- A key slot of the key engine: the keys of a context at a generation (R330, R331). -/
structure KeySlot where
  gen : Nat := 0
  /-- AES-256-XTS key pair. -/
  xtsKey : Bytes := []
  /-- AES-CMAC key. -/
  macKey : Bytes := []
deriving DecidableEq, Repr

/-- State of the contexts beyond their dictionary record (R325). -/
structure CtxState where
  /-- Filled key slots, by context (R331). -/
  keys : Tbl KeySlot := []
  /-- Nonce of this boot (R330): empty right after power-on, drawn before the first keys are derived. -/
  bootNonce : Bytes := []
  teardowns : Tbl Teardown := []
deriving DecidableEq, Repr

/-! ## Failures and recovery (12) -/

/-- A fault record (R374, Table 9). -/
structure FaultRec where
  seq : Nat := 0
  cls : Nat := 0
  critical : Bool := false
  quarter : Nat := 0
  partWide : Bool := false
  status : Status := 0
  load : BitVec 8 := 0
  ft : FT := 0
  temp : Int := 0
  ctx : Nat := 0
  node : Nat := 0
  unitKind : Nat := 0
  unit : Nat := 0
  d0 : Nat := 0
  d1 : Nat := 0
  d2 : Nat := 0
deriving DecidableEq, Repr

/-- A suspect record (R377, R379, Table 12). -/
structure Suspect where
  score : Nat := 0
  out : Bool := false
  lastLoad : BitVec 8 := 0
  band0 : Nat := 0
  band1 : Nat := 0
  band2 : Nat := 0
  band3 : Nat := 0
  lastFt : FT := 0
deriving DecidableEq, Repr

/-- A node domain entry (R352, Table 1). -/
structure Domain where
  valid : Bool := false
  switch : Bool := false
  group : Nat := 0
  shelf : Nat := 0
  loop : Nat := 0
  spare : Bool := false
deriving DecidableEq, Repr

/-- A fence or unfence notice applied, with the repeats still due (R357). -/
structure Notice where
  operand : BitVec 128 := 0
  since : Nat := 0
  repeats : Nat := 0
deriving DecidableEq, Repr

/-- Rebuild status of a context (R368 to R370, 8100:04). -/
structure Rebuild where
  lost : Nat := 0
  spare : Nat := 0
  /-- 1 running, 2 done, 3 failed. -/
  state : Nat := 1
  records : Nat := 0
  done : Nat := 0
  written : Nat := 0
  status : Status := 0
deriving DecidableEq, Repr

/-- State of failure detection and recovery. -/
structure RecState where
  domains : Tbl Domain := []
  /-- Fenced nodes, with the cause of the last fence of each node that has had one. -/
  fenced : Tbl Bool := []
  causes : Tbl Nat := []
  /-- When the last link to a neighbour node left ACTIVE (R354). -/
  lossFrom : Tbl Nat := []
  /-- Whether the node faced a down-facing port when it was lost. -/
  lossDown : Tbl Bool := []
  /-- Gasp marks and the instant of each (R367). -/
  gasps : Tbl Nat := []
  notices : List Notice := []
  /-- Own incarnation counter, 8100:09. -/
  incarnation : Nat := 0
  faults : List FaultRec := []
  suspects : Tbl Suspect := []
  decayedAt : Nat := 0
  rebuilds : Tbl Rebuild := []
  /-- When the last write of a rebuild was issued, and its bytes (R369). -/
  rebuildSent : Option (Nat × Nat) := none
  /-- Instant of the power warning in force and the phase of the stop reached (R365). -/
  warnedAt : Option Nat := none
  warnPhase : Nat := 0
  /-- Instant since which PWR_WARN_N has been high again (R366). -/
  warnHigh : Option Nat := none
deriving DecidableEq, Repr

/-! ## Object dictionary (15) -/

/-- A pending shadow of a staged entry (R436). -/
structure Shadow where
  value : Nat := 0
  bytes : Bytes := []
  group : Nat := 0
  /-- 0 T, 1 C, 2 M, 3 F. -/
  principal : Nat := 0
  ctx : Nat := 0
deriving DecidableEq, Repr

/-- A DOMAIN value being written in segments (R447). -/
structure Transfer where
  idx : Nat := 0
  sub : Nat := 0
  segments : Tbl Bytes := []
deriving DecidableEq, Repr

/-- A subscription (R450). -/
structure Subscription where
  idx : Nat := 0
  sub : Nat := 0
  periodic : Bool := false
  period : Nat := 0
  since : Nat := 0
  lastSent : Option Nat := none
  /-- Value last sent, or for 8000:04 the next fault SEQ to send. -/
  lastValue : Bytes := []
  nextFault : Nat := 0
deriving DecidableEq, Repr

/-- An open Dexol session (R442 to R445). -/
structure Session where
  principal : Nat := 0
  ctx : Nat := 0
  /-- Port of the client: 8 for the management port, else the Ethernet port. -/
  port : Nat := 8
  address : Bytes := []
  key : Bytes := []
  encClient : Bytes := []
  encPart : Bytes := []
  mac : Bytes := []
  highest : Nat := 0
  /-- Replies of the SEQs answered within the window (R444). -/
  replies : Tbl Bytes := []
  notified : Nat := 0
  heard : Nat := 0
  transfer : Option Transfer := none
  subs : Tbl Subscription := []
deriving DecidableEq, Repr

/-- State of the dictionary and of Dexol. -/
structure DictState where
  /-- Effective values that differ from the entry's default, by index * 256 + subindex. -/
  od : Tbl Nat := []
  /-- Effective values of OCTET_STRING and calibration DOMAIN entries. -/
  blocks : Tbl Bytes := []
  shadows : Tbl Shadow := []
  /-- Reset-class values waiting for the next reset (R438). -/
  atReset : Tbl Nat := []
  sessions : Tbl Session := []
deriving DecidableEq, Repr

/-! ## Firmware (16) -/

/-- A host-loaded item in force (R463). -/
structure Item where
  svn : Nat := 0
  version : Nat := 0
  hash : Bytes := []
  body : Bytes := []
deriving DecidableEq, Repr

/-- An image found in a bank (R459). -/
structure Image where
  kind : Nat := 0
  keyIndex : Nat := 0
  svn : Nat := 0
  version : Nat := 0
  length : Nat := 0
  hash : Bytes := []
deriving DecidableEq, Repr

/-- A firmware core's watchdog (R473). -/
structure Core where
  /-- Instant of the last expiry. -/
  expired : Option Nat := none
  /-- Its duties have been handed over. -/
  stopped : Bool := false
deriving DecidableEq, Repr

/-- State of flash, fuses, host-loaded items and the firmware cores. -/
structure FwState where
  /-- Bytes of banks A and B by offset, in canonical form. -/
  bankA : List Host.Cell := []
  bankB : List Host.Cell := []
  /-- Trial flag of the boot configuration block. -/
  trial : Bool := false
  operatorKey : Option Bytes := none
  /-- Signing keys revoked by fuse. -/
  revoked : List Nat := []
  trust : Option Item := none
  map : Option Item := none
  policy : Option Item := none
  cores : Tbl Core := []
  /-- The images of the bank in force, kinds 1 to 5; none where no bank is valid. -/
  images : List Image := []
  /-- The bench complex runs. -/
  bench : Bool := false
  /-- A deferred activation (1) or commit (2), and when the last deferring condition ended. -/
  deferred : Nat := 0
  clearSince : Option Nat := none
  /-- An activation is under way, and when the cores were last reloaded. -/
  activating : Bool := false
  reloadedAt : Nat := 0
  /-- A second expiry of one core during a trial (R472). -/
  twice : Bool := false
deriving DecidableEq, Repr

/-! ## Power, reset and pins (17) -/

/-- State of supplies, reset, governor and thermal ladder. -/
structure PowerState where
  /-- PWR_OK has risen and the part is not held in reset. -/
  up : Bool := false
  /-- The part has been started since supplies were last lost. -/
  warm : Bool := false
  /-- Straps as last sampled. -/
  straps : Straps := {}
  /-- Start of the start-up in progress. -/
  startedAt : Nat := 0
  pwrOk : Bool := false
  /-- PWR_WARN_N is low. -/
  warnLow : Bool := false
  /-- RESET_N is low. -/
  resetNLow : Bool := false
  /-- Instant of the last reset. -/
  resetAt : Option Nat := none
  epo : Bool := false
  /-- Clocks out of tolerance: 0 core, 1 to 4 serdes, 5 Ethernet, 6 management. -/
  clocksLost : List Nat := []
  /-- Stacks and modules whose training has ended. -/
  stacksDone : List Nat := []
  modulesDone : List Nat := []
  /-- Outputs. -/
  partReady : Bool := false
  thermAlert : Bool := false
  thermTrip : Bool := false
  /-- Governor: background paused, 100 MHz steps down, 1/16 steps of pacing down, held last. -/
  paused : Bool := false
  clockSteps : Nat := 0
  paceSteps : Nat := 0
  stageSince : Nat := 0
  overSince : Option Nat := none
  lastStep : Nat := 0
  lastRelax : Nat := 0
  lastSample : Nat := 0
  /-- The bench complex holds the governor at this limit (R473). -/
  benchLimit : Option Nat := none
  /-- Since when each quarter has been below the leave threshold of its step (R495). -/
  coolSince : Tbl Nat := []
  /-- Quarters shut down (R367). -/
  shut : List Nat := []
deriving DecidableEq, Repr


/-- The state of the part. -/
structure State where
  time : TimeState
  /-- Armed tee slots of each quarter, by slot number (R22). -/
  tees : Quad (Tbl TeeSlot)
  /-- Huddle entries, by context * 65536 + huddle number (R27). -/
  huddles : Tbl Huddle := []
  /-- Innings ledgers, by context (R37). -/
  ledgers : Tbl Ledger := []
  xlat : XlatState
  q : QueueState
  mem : MemState := {}
  net : NetState
  core : CoreState
  scrum : ScrumState
  step : StepState := {}
  pewter : PewterState := {}
  caddie : CaddieState := {}
  ctx : CtxState := {}
  recov : RecState := {}
  eth : EthState := {}
  dict : DictState := {}
  links : Tbl Link := []
  fw : FwState := {}
  pwr : PowerState := {}
  /-- What has left the part, oldest first. -/
  out : List Sent := []
  /-- Draws of free values so far; the model's own counter. -/
  fresh : Nat := 0
  /-- Switch-core cycles since reset; the model's own counter. -/
  now : Nat := 0
  /-- Commands waiting, first in first out. -/
  pending : List Instr := []
deriving DecidableEq, Repr

/-- The same value in every quarter. -/
def Quad.all {α : Type} (a : α) : Quad α := ⟨a, a, a, a⟩

/-- The part right after reset, before PWR_OK rises: every field at the value the manual gives
it, and every field without one empty or zero. -/
def State.reset : State :=
  { time := { ft := Quad.all 0 }
    tees := Quad.all []
    xlat := { units := Quad.all {}, resv := Quad.all [], track := Quad.all [], windowCache := Quad.all [] }
    q := { watches := Quad.all [], turn := Quad.all [] }
    net := { heldFlags := Quad.all [] }
    core := { limiters := Quad.all [] }
    scrum := { samples := Quad.all 0, rotation := Quad.all 0 } }

end Sys2Proof.Machine
end

