-- ==== Sys2Proof/Machine/Tables.lean ====
section
/-! DEFINITION. Operations on finite maps kept as lists of key and value pairs with rising
keys, so that equal maps are equal data. -/

namespace Sys2Proof.Machine

/-- The value at a key. -/
def tget {α : Type} : Tbl α → Nat → Option α
  | [], _ => none
  | (k, v) :: t, i => if k = i then some v else tget t i

/-- Whether a key is present. -/
def thas {α : Type} (t : Tbl α) (i : Nat) : Bool := (tget t i).isSome

/-- The map with a key set to a value. -/
def tset {α : Type} : Tbl α → Nat → α → Tbl α
  | [], i, v => [(i, v)]
  | (k, w) :: t, i, v =>
    if i < k then (i, v) :: (k, w) :: t
    else if i = k then (i, v) :: t
    else (k, w) :: tset t i v

/-- The map with a key removed. -/
def tdel {α : Type} : Tbl α → Nat → Tbl α
  | [], _ => []
  | (k, w) :: t, i => if k = i then tdel t i else (k, w) :: tdel t i

/-- The map with the value at a key changed, where the key is present. -/
def tmod {α : Type} : Tbl α → Nat → (α → α) → Tbl α
  | [], _, _ => []
  | (k, w) :: t, i, f => if k = i then (k, f w) :: t else (k, w) :: tmod t i f

/-- The map with every value changed. -/
def tmap {α : Type} (t : Tbl α) (f : Nat → α → α) : Tbl α := t.map fun p => (p.1, f p.1 p.2)

/-- The entries whose key and value satisfy a test. -/
def tfilter {α : Type} (t : Tbl α) (p : Nat → α → Bool) : Tbl α := t.filter fun e => p e.1 e.2

/-- How many entries satisfy a test. -/
def tcount {α : Type} (t : Tbl α) (p : Nat → α → Bool) : Nat := (tfilter t p).length

/-- Whether some entry satisfies a test. -/
def tany {α : Type} (t : Tbl α) (p : Nat → α → Bool) : Bool := t.any fun e => p e.1 e.2

/-- The least number below a bound that a test accepts. -/
def leastBelow (p : Nat → Bool) : Nat → Nat → Option Nat
  | 0, _ => none
  | fuel + 1, i => if p i then some i else leastBelow p fuel (i + 1)

/-- The least key not in the map, from a given key up, where keys rise. -/
def freeFrom {α : Type} : Tbl α → Nat → Nat
  | [], i => i
  | (k, _) :: t, i => if k < i then freeFrom t i else if k = i then freeFrom t (i + 1) else i

/-- Deficit round robin over the keys of a map, each with what waits first there: what is served, and the deficits and
the key after. A key takes its quantum as its turn comes, and is served while its deficit covers what waits. -/
def drr {α : Type} (quantum : Nat → Nat) (size : α → Nat) (hs : Tbl α) :
    Nat → Tbl Nat → Option Nat → Option (α × Tbl Nat × Nat)
  | 0, _, _ => none
  | fuel + 1, d, cur =>
    let next : Nat → Option Nat := fun c =>
      match hs.find? fun x => decide (c < x.1) with
      | some x => some x.1
      | none => hs.head?.map (·.1)
    let advance (c : Option Nat) : Option (α × Tbl Nat × Nat) :=
      match (match c with
        | some c => next c
        | none => hs.head?.map (·.1)) with
      | none => none
      | some n => drr quantum size hs fuel (tset d n ((tget d n).getD 0 + quantum n)) (some n)
    match cur with
    | none => advance none
    | some c =>
      match tget hs c with
      | none => advance (some c)
      | some x =>
        let have_ := (tget d c).getD 0
        if size x ≤ have_ then some (x, tset d c (have_ - size x), c) else advance (some c)

end Sys2Proof.Machine
end

