-- ==== Sys2Proof/Machine/Ops.lean ====
section
/-! DEFINITION. The named operations over the state that every family of commands shares:
quarters, dictionary registers, time, contexts, fault records, whistles and descriptors. -/

namespace Sys2Proof.Machine

/-- The outcome type of a meaning. -/
abbrev Out := Host.Outcome State Fault Refusal

/-! ## Completion status codes (R176, Table 13) -/

namespace Code
def ok : Status := 0x00
def translationFault : Status := 0x01
def protection : Status := 0x02
def targetLost : Status := 0x03
def outcomeUnknown : Status := 0x04
def contextRetired : Status := 0x05
def timeout : Status := 0x06
def integrity : Status := 0x07
def aborted : Status := 0x08
def deferred : Status := 0x09
def misaligned : Status := 0x0A
def quota : Status := 0x0B
def locked : Status := 0x0C
def staleIncarnation : Status := 0x0D
end Code

/-! ## Quarters -/

/-- The value of a quarter, taken modulo 4. -/
def Quad.get {α : Type} (v : Quad α) (q : Nat) : α :=
  match q % 4 with
  | 0 => v.q0
  | 1 => v.q1
  | 2 => v.q2
  | _ => v.q3

/-- The four values with that of one quarter replaced. -/
def Quad.set {α : Type} (v : Quad α) (q : Nat) (a : α) : Quad α :=
  match q % 4 with
  | 0 => { v with q0 := a }
  | 1 => { v with q1 := a }
  | 2 => { v with q2 := a }
  | _ => { v with q3 := a }

/-- The four values changed alike. -/
def Quad.map {α β : Type} (v : Quad α) (f : α → β) : Quad β := ⟨f v.q0, f v.q1, f v.q2, f v.q3⟩

/-- The four values with that of one quarter changed. -/
def Quad.mod {α : Type} (v : Quad α) (q : Nat) (f : α → α) : Quad α := v.set q (f (v.get q))

/-- The values as a list, Q0 first. -/
def Quad.list {α : Type} (v : Quad α) : List α := [v.q0, v.q1, v.q2, v.q3]

/-! ## Dictionary registers (R430 to R435) -/

/-- The effective value of a numeric entry. -/
def reg (s : State) (idx sub : Nat) : Nat :=
  (tget s.dict.od (idx * 256 + sub)).getD (defaultOf idx sub)

/-- The state with the effective value of a numeric entry set. -/
def setReg (s : State) (idx sub v : Nat) : State :=
  let od := if v = defaultOf idx sub then tdel s.dict.od (idx * 256 + sub)
    else tset s.dict.od (idx * 256 + sub) v
  { s with dict := { s.dict with od := od } }

/-- Bits of a numeric entry (R431). -/
def entryBits (idx sub : Nat) : Nat := 8 * (((entryAt idx sub).bind (·.ty.bytes)).getD 8)

/-- The state with a counter entry advanced by an amount. The manual does not say what a counter shows
past the largest value of its type: there it is a free value of that type. -/
def bumpBy (s : State) (idx sub n : Nat) : State :=
  let v := reg s idx sub + n
  let w := 2 ^ entryBits idx sub
  setReg s idx sub (if v < w then v else Config.counterPast (idx * 256 + sub) v % w)

/-- The state with a counter entry advanced by one. -/
def bump (s : State) (idx sub : Nat) : State := bumpBy s idx sub 1

/-- One more than a count, held at the largest value of a width. -/
def satInc (w n : Nat) : Nat := if n + 1 < 2 ^ w then n + 1 else 2 ^ w - 1

/-! ## Free values -/

/-- The state after one draw of a free value; the draw is numbered by the counter before it. -/
def draw (s : State) : State := { s with fresh := s.fresh + 1 }

/-- A draw together with the state after it. -/
def drawn (s : State) : Nat × State := (s.fresh, draw s)

/-- A number below `limit` that a test accepts, where there is one; which of them is a free value of
draw `n`. -/
def pickBelow (p : Nat → Bool) (limit n : Nat) : Option Nat :=
  let first := (Config.freeWord n).toNat
  (leastBelow (fun i => p ((first + i) % limit)) limit 0).map fun i => (first + i) % limit

/-! ## Time -/

/-- Whether at least a number of ns have passed since an instant; a switch-core cycle is 5/9 ns. -/
def passedNs (s : State) (since ns : Nat) : Bool := ns * 9 ≤ (s.now - since) * 5

/-- The same in µs. -/
def passedUs (s : State) (since us : Nat) : Bool := passedNs s since (us * 1000)

/-- The same in ms. -/
def passedMs (s : State) (since ms : Nat) : Bool := passedNs s since (ms * 1000000)

/-- The visible fabric time of a quarter (R6): the top 64 of the counter's 96 bits. -/
def ftOf (s : State) (q : Nat) : FT := (s.time.ft.get q).extractLsb' 32 64

/-- Whether one FT value is later than another (R7). -/
def ftLater (a b : FT) : Bool := decide (1 ≤ (a - b).toNat) && decide ((a - b).toNat < 2 ^ 63)

/-- FT plus a number of whole ns. -/
def ftAddNs (a : FT) (ns : Nat) : FT := a + BitVec.ofNat 64 (ns * 65536)

/-- A difference of two FT values as a signed count of 2^-16 ns. -/
def ftDiff (a b : FT) : Int := (a - b).toInt

/-! ## The part itself -/

/-- This part's node ID (1000:06). -/
def nodeId (s : State) : Nat := reg s 0x1000 0x06

/-- Role in force (1000:07): 0 leaf, 1 spine, 2 standalone memory node, 3 test. -/
def role (s : State) : Nat := reg s 0x1000 0x07

/-- Low four bits of the part's incarnation counter (R360). -/
def ownInc (s : State) : Nat := s.recov.incarnation % 16

/-- The part accepts dispatch and triggers: no power warning is in force (R365). -/
def running (s : State) : Bool := s.recov.warnedAt.isNone

/-! ## Contexts (R325 to R331) -/

/-- Dictionary index of a context's record. -/
def ctxIdx (c : Nat) : Nat := 0x7000 + c

/-- STATE of a context: 0 FREE, 1 ACTIVE, 2 DRAINING, 3 CLEARING, 4 EXHAUSTED. -/
def ctxState (s : State) (c : Nat) : Nat := reg s (ctxIdx c) 0x01

/-- GENERATION of a context. -/
def ctxGen (s : State) (c : Nat) : Nat := reg s (ctxIdx c) 0x02

/-- Whether a context is ACTIVE. -/
def ctxActive (s : State) (c : Nat) : Bool := ctxState s c == 1

/-- L1_SIZE of a context. -/
def ctxL1 (s : State) (c : Nat) : Nat := reg s (ctxIdx c) 0x04

/-- WEIGHT of a context. -/
def ctxWeight (s : State) (c : Nat) : Nat := reg s (ctxIdx c) 0x08

/-- Whether a context may hold one more of something of which it holds `n` (R327); C0 has no
quotas. -/
def underQuota (s : State) (c sub n : Nat) : Bool := c == 0 || decide (n < reg s (ctxIdx c) sub)

/-- The status R505 gives a command that names another context which is not ACTIVE. -/
def namedCtxStatus (s : State) (c : Nat) : Status :=
  if ctxState s c = 1 then Code.ok
  else if ctxState s c = 0 then Code.protection
  else Code.contextRetired

/-! ## Keys of tables -/

def queueKey (ctx queue : Nat) : Nat := ctx * 1024 + queue
def flightKey (ctx queue seq : Nat) : Nat := (ctx * 1024 + queue) * 2 ^ 32 + seq
def playKey (ctx no : Nat) : Nat := ctx * 65536 + no
def ringKey (ctx no : Nat) : Nat := ctx * 65536 + no
def huddleKey (ctx no : Nat) : Nat := ctx * 65536 + no
def flowKey (src srcQueue srcInc : Nat) : Nat := (src * 65536 + srcQueue) * 16 + srcInc
def srcKey (dst srcQueue : Nat) : Nat := dst * 65536 + srcQueue
def reqKey (dst srcQueue seq : Nat) : Nat := srcKey dst srcQueue * 2 ^ 24 + seq

/-- A number with its low bits and a tag, so that keys of several kinds share a table. -/
def tagKey (tag n : Nat) : Nat := n * 16 + tag

/-- The key under which the work of a kind of job is held. -/
def jobKey : JobKind → Nat
  | .flight k => tagKey 0 k
  | .relay p => tagKey 1 (reqKey (bits p.hdr 16 12) (bits p.hdr 68 16) (bits p.hdr 84 24))
  | .gather g b => tagKey 2 (g * 256 + b)
  | .emission st => tagKey 3 st
  | .parity r w => tagKey 4 (r * 4 + w)
  | .rebuild r => tagKey 5 r
  | .caddie st e => tagKey 6 (st * 131072 + e)
  | .idle => tagKey 7 0

/-! ## Whistles (R102 to R108) -/

/-- The state with one ring changed. -/
def modRing (s : State) (key : Nat) (f : Ring → Ring) : State :=
  { s with q := { s.q with rings := tmod s.q.rings key f } }

/-- Records waiting for room in full rings served by a quarter (R107). -/
def ringBacklog (s : State) (q : Nat) : Nat :=
  s.q.rings.foldl (fun n p => if p.2.server = q then n + p.2.waiting.length else n) 0

/-- A record enters its ring's order: it joins the records waiting to be written. With no such
ring open, or the ring lost, it is dropped and counted (R104, R108); when the ring is full and
the quarter's 256 places are taken, it is dropped and counted in LOST too (R107). -/
def ringPut (s : State) (w : Whistle) (ring : Nat) : State :=
  match tget s.q.rings (ringKey w.ctx ring) with
  | none => bump s 0x6000 0x08
  | some r =>
    if r.lost.isSome then
      bump (modRing s (ringKey w.ctx ring) fun r => { r with lostCount := satInc 16 r.lostCount })
        0x6000 0x08
    else if decide (256 ≤ ringBacklog s r.server) && decide (2 ^ r.sizeLog2 ≤ (r.written + 2 ^ 32 - r.lastHead) % 2 ^ 32) then
      bump (modRing s (ringKey w.ctx ring) fun r =>
        { r with lostCount := satInc 16 r.lostCount, dropped := r.dropped + 1 }) 0x6000 0x08
    else
      modRing s (ringKey w.ctx ring) fun r => { r with waiting := r.waiting ++ [w] }

/-- The record of a queue that a ring holds for merging is written (R106). -/
def flushHeld (s : State) (ctx ring queue : Nat) : State :=
  match (tget s.q.rings (ringKey ctx ring)).bind fun r => tget r.held queue with
  | none => s
  | some h =>
    ringPut (modRing s (ringKey ctx ring) fun r => { r with held := tdel r.held queue })
      h.record ring

/-- Whether records of a kind belong to a queue: completions, those of plays, and user whistles. -/
def queueKind (kind : Nat) : Bool := decide (1 ≤ kind) && decide (kind ≤ 4) || kind == 9

/-- The records of a queue held in any ring of its context are written. -/
def flushQueue (s : State) (ctx queue : Nat) : State :=
  s.q.rings.foldl (fun s p => if p.2.ctx = ctx then flushHeld s ctx p.2.no queue else s) s

/-- A record of a kind that is not merged: where it belongs to a queue, the queue's held record goes
first, whichever ring each of the two names (R106). -/
def whistleNow (s : State) (w : Whistle) (ring : Nat) : State :=
  ringPut (if queueKind w.kind then flushQueue s w.ctx w.queue else s) w ring

/-- Every held record of every ring is written, rings and queues in order. -/
def flushAll (s : State) (rings : List (Nat × Ring)) : State :=
  rings.foldl (fun s p => p.2.held.foldl (fun s h => flushHeld s p.2.ctx p.2.no h.1) s) s

/-! ## Fault records (R373 to R376) -/

/-- What the raiser of a fault record states. -/
structure FaultInfo where
  cls : Nat
  critical : Bool := false
  quarter : Option Nat := none
  status : Status := 0
  ctx : Option Nat := none
  node : Option Nat := none
  unitKind : Nat := 0
  unit : Nat := 0
  d0 : Nat := 0
  d1 : Nat := 0
  d2 : Nat := 0

/-- The node domain entry of a node as its 32 bits (R352), for the records that name it. -/
def domainWord (d : Domain) : Nat :=
  (if d.valid then 1 else 0) + (if d.switch then 2 else 0) + d.group * 4 + d.shelf * 2 ^ 12 +
    d.loop * 2 ^ 20 + (if d.spare then 2 ^ 28 else 0)

/-- Die temperature of a quarter in 1/8 °C as two's complement. -/
def tempOf (s : State) (q : Nat) : Int := (BitVec.ofNat 32 (reg s (0x2000 + q) 0x02)).toInt

/-- The record that a raiser's statement makes, with its SEQ and the load of a draw (R374). -/
def faultRecord (s : State) (f : FaultInfo) : FaultRec :=
  let q := f.quarter.getD 0
  { seq := reg s 0x8000 0x06, cls := f.cls, critical := f.critical, quarter := q
    partWide := f.quarter.isNone, status := f.status, load := Config.loadPattern s.fresh
    ft := ftOf s q, temp := tempOf s q, ctx := f.ctx.getD 0, node := f.node.getD (nodeId s)
    unitKind := f.unitKind, unit := f.unit, d0 := f.d0, d1 := f.d1, d2 := f.d2 }

/-- SEQ advances, and the record is admitted to the fault queue or counted as lost (R373). -/
def noteFault (s : State) (f : FaultInfo) : State :=
  let held := s.recov.faults.length
  let t := setReg (draw s) 0x8000 0x06 ((reg s 0x8000 0x06 + 1) % 2 ^ 32)
  if held < (if f.critical then 4096 else 4032) then
    setReg { t with recov := { t.recov with faults := t.recov.faults ++ [faultRecord s f] } } 0x8000 0x02 (held + 1)
  else
    let t := bump t 0x8010 f.cls
    setReg t 0x8000 0x03 (reg t 0x8000 0x03 ||| (if f.critical then 2 else 1))

/-- A fault record is raised: it is noted, and one that names a context is whistled on that context's ring 0
(R376). -/
def raise (s : State) (f : FaultInfo) : State :=
  let t := noteFault s f
  match f.ctx with
  | none => t
  | some c =>
    if thas t.q.rings (ringKey c 0) then
      ringPut t
        { kind := 0x08, status := f.status, ctx := c, quarter := f.quarter.getD 0
          detail := BitVec.ofNat 64 (f.cls + reg s 0x8000 0x06 * 2 ^ 32), ft := ftOf s (f.quarter.getD 0)
          seq := reg s 0x8000 0x06 } 0
    else t

/-! ## Suspect scores (R377 to R379) -/

/-- Key of a unit's suspect record. -/
def suspectKey (kind unit : Nat) : Nat := kind * 65536 + unit

/-- A unit is charged; at the threshold it goes out of service with a critical record. -/
def charge (s : State) (kind unit quarter weight : Nat) : State :=
  let (n, s) := drawn s
  let old := (tget s.recov.suspects (suspectKey kind unit)).getD {}
  let t := tempOf s quarter
  let score := min 65535 (old.score + weight)
  let goes := !old.out && decide (reg s 0x8200 0x01 ≤ score)
  let new : Suspect :=
    { old with
      score := score, out := old.out || goes, lastLoad := Config.loadPattern n
      lastFt := ftOf s quarter
      band0 := if t < 560 then satInc 8 old.band0 else old.band0
      band1 := if 560 ≤ t ∧ t < 680 then satInc 8 old.band1 else old.band1
      band2 := if 680 ≤ t ∧ t < 760 then satInc 8 old.band2 else old.band2
      band3 := if 760 ≤ t then satInc 8 old.band3 else old.band3 }
  let s := { s with recov := { s.recov with
    suspects := tset s.recov.suspects (suspectKey kind unit) new } }
  if goes then
    raise s { cls := 0x17, critical := true, quarter := some quarter, unitKind := kind, unit := unit }
  else s

/-- Whether a unit is out of service. -/
def unitOut (s : State) (kind unit : Nat) : Bool :=
  ((tget s.recov.suspects (suspectKey kind unit)).map (·.out)).getD false

/-! ## Queues and descriptors in flight (R76, R86 to R89) -/

/-- The queue of a context by number. -/
def queueOf (s : State) (ctx queue : Nat) : Option Queue := tget s.q.queues (queueKey ctx queue)

/-- The state with one queue changed. -/
def modQueue (s : State) (ctx queue : Nat) (f : Queue → Queue) : State :=
  { s with q := { s.q with queues := tmod s.q.queues (queueKey ctx queue) f } }

/-- Key of the descriptor a reference names. -/
def refKey (d : DescRef) : Nat := flightKey d.ctx d.queue d.seq

/-- Whether one descriptor of a queue comes before another: the same queue, and an earlier SEQ by
serial order of 32 bits. -/
def earlierKey (a b : Nat) : Bool :=
  a / 2 ^ 32 == b / 2 ^ 32 && a != b && decide ((b + 2 ^ 32 - a) % 2 ^ 32 < 2 ^ 31)

/-- The descriptor in flight that a reference names. -/
def flightOf (s : State) (d : DescRef) : Option Flight := tget s.q.flights (refKey d)

/-- The state with one descriptor in flight changed. -/
def modFlight (s : State) (key : Nat) (f : Flight → Flight) : State :=
  { s with q := { s.q with flights := tmod s.q.flights key f } }

/-- A descriptor in flight becomes final with a status and DETAIL, unless it already is. -/
def finish (s : State) (key : Nat) (status : Status) (detail : BitVec 64 := 0) : State :=
  modFlight s key fun f =>
    match f.progress with
    | .final _ _ => f
    | _ => { f with progress := .final (f.forced.getD status) detail }

/-- A descriptor's own command has run and the descriptor waits. -/
def waitOn (s : State) (key : Nat) : State :=
  modFlight s key fun f => { f with progress := .working, since := s.now }

/-- OPCODE of a descriptor. -/
def opcodeOf (d : Desc) : Nat := bits d 0 8

/-- ORDER of a descriptor: 0 relaxed, 1 acquire, 2 release, 3 fence. -/
def orderOf (d : Desc) : Nat := bits d 8 3

/-- A field of the operand area: operand bit 0 is descriptor bit 64 (R83). -/
def opnd (d : Desc) (lo w : Nat) : Nat := bits d (64 + lo) w

/-- One bit of the operand area. -/
def opBit (d : Desc) (i : Nat) : Bool := bit d (64 + i)

/-- Whether a descriptor's reserved header bits are zero (R5, R83). -/
def headerClean (d : Desc) : Bool := bits d 14 2 == 0 && bits d 32 32 == 0 && orderOf d < 4

/-- A descriptor in flight that waits for its own command of a given opcode. -/
def issuedOp (s : State) (d : DescRef) (opcode : Nat) : Option Flight :=
  match flightOf s d with
  | some f => if f.progress = .issued ∧ opcodeOf f.desc = opcode then some f else none
  | none => none

/-! ## What leaves the part -/

/-- Something leaves the part. -/
def send (s : State) (x : Sent) : State := { s with out := s.out ++ [x] }

end Sys2Proof.Machine
end

