-- ==== Sys2Proof/Machine/Memory.lean ====
section
/-! DEFINITION. The bytes of the four tiers by physical address: canonical cells, valid
addresses (R41 to R43), encryption and integrity at rest (R281, R282), the clear map (R283) and
error handling (R284). -/

namespace Sys2Proof.Machine

/-! ## Cells in canonical form -/

/-- The byte at an address; an unlisted byte reads as zero. -/
def readCell : List Host.Cell → Nat → Byte
  | [], _ => 0
  | (k, b) :: m, a => if k = a then b else readCell m a

/-- The cells with one byte written; a zero byte is not listed. -/
def writeCell : List Host.Cell → Nat → Byte → List Host.Cell
  | [], a, b => if b = 0 then [] else [(a, b)]
  | (k, c) :: m, a, b =>
    if a < k then (if b = 0 then (k, c) :: m else (a, b) :: (k, c) :: m)
    else if a = k then (if b = 0 then m else (a, b) :: m)
    else (k, c) :: writeCell m a b

/-- Whether cells are in canonical form: addresses rising from a bound, and no zero byte. -/
def cellsWf : Nat → List Host.Cell → Bool
  | _, [] => true
  | lo, (k, b) :: m => decide (lo ≤ k) && decide (b ≠ 0) && cellsWf (k + 1) m

/-- The canonical form of the memory. -/
abbrev Memory.wf (s : State) : Bool := cellsWf 0 s.mem.bytes

/-- A run of bytes. -/
def readRun (m : List Host.Cell) : Nat → Nat → Bytes
  | _, 0 => []
  | a, n + 1 => readCell m a :: readRun m (a + 1) n

/-- The cells with a run of bytes written, lowest address first. -/
def writeRun : List Host.Cell → Nat → Bytes → List Host.Cell
  | m, _, [] => m
  | m, a, b :: bs => writeRun (writeCell m a b) (a + 1) bs

/-- The cells with a run of bytes set to zero. -/
def zeroRun (m : List Host.Cell) (a n : Nat) : List Host.Cell :=
  m.filter fun c => !(decide (a ≤ c.1) && decide (c.1 < a + n))

/-- The state with its cells changed. -/
def setCells (s : State) (m : List Host.Cell) : State := { s with mem := { s.mem with bytes := m } }

/-! ## Physical addresses (R41, R42) -/

def paTier (pa : Nat) : Nat := pa / 2 ^ 45
def paUnit (pa : Nat) : Nat := pa / 2 ^ 40 % 32
def paOffset (pa : Nat) : Nat := pa % 2 ^ 40

/-- 1 GiB. -/
def gib : Nat := 2 ^ 30

/-- Offset bound of a unit, zero where the unit does not exist or is not fitted (R41, R277). -/
def unitBound (s : State) (tier unit : Nat) : Nat :=
  match tier with
  | 0 => if unit < 4 then 24 * gib else 0
  | 1 => if unit < 20 ∧ (reg s 0x5000 0x04).testBit unit then 128 * gib else 0
  | 2 => if unit < 12 ∧ (reg s 0x5000 0x03).testBit unit then
      ((tget s.mem.slab unit).getD 0) / 32 * 31 * gib else 0
  | 3 => if unit < 4 then 32 * 2 ^ 20 else 0
  | _ => 0

/-- Whether a physical address is valid. -/
def paValid (s : State) (pa : Nat) : Bool := decide (paOffset pa < unitBound s (paTier pa) (paUnit pa))

/-- End of the Foil hardware region in bytes (R278). -/
def hwEnd (s : State) : Nat := reg s 0x5000 0x01 * 2 ^ 20

/-- Whether an address lies in a hardware region (R43). -/
def inHardware (s : State) (pa : Nat) : Bool := paTier pa == 0 && decide (paOffset pa < hwEnd s)

/-- Start in MiB of the area that follows areas of the given sizes, each on a 64 MiB boundary
(R278). -/
def areaEnd (sizes : List Nat) : Nat := sizes.foldl (fun a n => roundUp (a + n) 64) 0

/-- Start in bytes of one of the six areas of the hardware region, in the order of Table 2. -/
def areaStart (s : State) (i : Nat) : Nat := areaEnd (s.mem.layout.take i) * 2 ^ 20

/-- HW_END in MiB of a layout: the end of the last area, rounded up to a GiB (R278). -/
def hwEndOf (sizes : List Nat) : Nat :=
  roundUp (areaEnd (sizes.take 5) + sizes.getD 5 0) 1024

/-- Quarter that owns the unit of an address (R4). -/
def paQuarter (pa : Nat) : Nat :=
  match paTier pa with
  | 1 => paUnit pa / 5
  | 2 => paUnit pa / 3
  | _ => paUnit pa

/-- Number of the memory controller that holds an address: Foil 0 to 3, Plate 4 to 23, Slab 24
to 35, scratchpad 36 to 39. -/
def controllerOf (pa : Nat) : Nat :=
  match paTier pa with
  | 0 => paUnit pa
  | 1 => 4 + paUnit pa
  | 2 => 24 + paUnit pa
  | _ => 36 + paUnit pa

/-- Bytes of a MAC granule, and on Foil of a line (R281, Table 3). -/
def granuleSize (pa : Nat) : Nat := if paTier pa = 2 then 256 else 64

/-- Suspect-score unit of a tier's unit (R377, Table 11). -/
def memUnitKind (pa : Nat) : Nat :=
  match paTier pa with
  | 1 => 4
  | 2 => 5
  | _ => 6

/-! ## Keys at rest -/

/-- The key of the device itself, under which the hardware regions are encrypted (R281). -/
def deviceKey : Nat × Nat := (4096, 0)

/-- The key under which a granule was last written; none while its clear-map bit is set. -/
def keyAt (s : State) (g : Nat) : Option (Nat × Nat) :=
  if inHardware s g then some deviceKey
  else match tget s.mem.region (g / 65536) with
    | none => none
    | some k => some ((tget s.mem.granule g).getD k)

/-- The clear-map bit of a region is set: its stored contents no longer count (R283). -/
def clearRegion (s : State) (r : Nat) : State :=
  { s with mem := { s.mem with
    region := tdel s.mem.region r
    granule := tfilter s.mem.granule fun g _ => g / 65536 != r } }

/-- A region is filled with zeros under a key and its clear-map bit clears (R283). -/
def fillRegion (s : State) (r : Nat) (k : Nat × Nat) : State :=
  { s with mem := { s.mem with
    bytes := zeroRun s.mem.bytes (r * 65536) 65536
    region := tset s.mem.region r k
    granule := tfilter s.mem.granule fun g _ => g / 65536 != r
    poison := s.mem.poison.filter fun g => g / 65536 != r
    soft := s.mem.soft.filter fun g => g / 65536 != r } }

/-- A granule is marked as written under a key. -/
def keyGranule (s : State) (g : Nat) (k : Nat × Nat) : State :=
  { s with mem := { s.mem with
    granule := if tget s.mem.region (g / 65536) = some k then tdel s.mem.granule g
      else tset s.mem.granule g k } }

/-! ## Reads and writes of one granule -/

/-- An uncorrectable error is met (R284): counted, recorded and charged. -/
def uncorrectable (s : State) (g : Nat) (ctx : Option Nat) : State :=
  let s := bump s 0x5000 0x0A
  let s := raise s
    { cls := 0x0A, critical := inHardware s g && decide (paOffset g < areaStart s 4)
      quarter := some (paQuarter g), status := Code.integrity, ctx := ctx
      unitKind := memUnitKind g, unit := paUnit g, d0 := g }
  charge s (memUnitKind g) (paUnit g) (paQuarter g) 8192

/-- A correctable error is corrected and written back: counted, recorded and charged (R284). -/
def corrected (s : State) (g : Nat) (ctx : Option Nat) : State :=
  let s := { s with mem := { s.mem with soft := s.mem.soft.filter fun x => x != g } }
  let s := raise (bump s 0x5000 0x09)
    { cls := 0x09, quarter := some (paQuarter g), ctx := ctx, unitKind := memUnitKind g
      unit := paUnit g, d0 := g }
  charge s (memUnitKind g) (paUnit g) (paQuarter g) 64

/-- A granule is read for a context: a correctable error in it is met. -/
def meetSoft (s : State) (g : Nat) (ctx : Nat) : State :=
  if s.mem.soft.contains g then corrected s g (if inHardware s g then none else some ctx) else s

/-- Memory errors come with time: the granules that have one from now on, which the manual does not state
(R284; DESIGN CHOICE, log entry 33: they come with the ticks). -/
def strike (s : State) : State :=
  let hit (held l : List Nat) : List Nat :=
    held ++ l.filter fun g => paValid s g && paTier g != 3 && g % granuleSize g == 0 && !held.contains g
  { s with
    mem := { s.mem with
      soft := hit s.mem.soft (Config.softErrors s.fresh), poison := hit s.mem.poison (Config.hardErrors s.fresh) }
    fresh := s.fresh + 1 }

/-! ## Lines of the atomic units (R159) -/

/-- Whether the atomic unit of a run's controller holds every line of the run, and so serves it. -/
def lineHeld (s : State) (pa len : Nat) : Bool :=
  match tget s.mem.lines (controllerOf pa) with
  | none => false
  | some l => (List.range ((pa % 64 + len + 63) / 64)).all fun i => l.contains (pa / 64 + i)

/-- An atomic unit takes a line, the least recently used of 4,096 leaving for it (DESIGN CHOICE, log entry
33: R159 gives no order of replacement). -/
def touchLine (s : State) (pa : Nat) : State :=
  let c := controllerOf pa
  let l := ((tget s.mem.lines c).getD []).filter fun x => x != pa / 64
  if paTier pa = 3 then s
  else { s with mem := { s.mem with lines := tset s.mem.lines c ((pa / 64 :: l).take 4096) } }

/-- Result of an access: state after it, status and the bytes read. -/
structure Access1 where
  st : State
  status : Status := Code.ok
  data : Bytes := []

/-- Bytes with no stated value. -/
def freeBytes (n : Nat) (len : Nat) : Bytes := (List.range len).map fun i => Config.freeByte n i

/-- A read of part of one granule under a context's key (R282, R283, R284, R50). -/
def readPiece (s : State) (k : Nat × Nat) (pa len : Nat) : Access1 :=
  let g := pa / granuleSize pa * granuleSize pa
  if paTier pa = 3 then ⟨s, Code.ok, readRun s.mem.bytes pa len⟩
  else match keyAt s g with
    | none => ⟨s, Code.ok, List.replicate len 0⟩
    | some k' =>
      let held := lineHeld s pa len
      let s := if held then s else meetSoft s g k.1
      if s.mem.poison.contains g && !held then
        ⟨uncorrectable s g (if inHardware s g then none else some k.1), Code.integrity, []⟩
      else if k' = k then ⟨s, Code.ok, readRun s.mem.bytes pa len⟩
      else if paTier pa = 0 then ⟨draw s, Code.ok, freeBytes s.fresh len⟩
      else ⟨bump s 0x5000 0x0B, Code.integrity, []⟩

/-- A write to part of one granule under a context's key (R282, R283). -/
def writePiece (s : State) (k : Nat × Nat) (pa : Nat) (data : Bytes) : Access1 :=
  let size := granuleSize pa
  let g := pa / size * size
  let put (s : State) : State := setCells s (writeRun s.mem.bytes pa data)
  let unpoison (s : State) : State :=
    { s with mem := { s.mem with
      poison := s.mem.poison.filter fun x => x != g, soft := s.mem.soft.filter fun x => x != g } }
  if paTier pa = 3 then ⟨put s, Code.ok, []⟩
  else if inHardware s g then ⟨put s, Code.ok, []⟩
  else
    let s := if (keyAt s g).isNone then fillRegion s (g / 65536) k else s
    if data.length = size then ⟨put (unpoison (keyGranule s g k)), Code.ok, []⟩
    else
    let held := lineHeld s pa data.length
    let s := if held then s else meetSoft s g k.1
    if s.mem.poison.contains g && !held then ⟨uncorrectable s g (some k.1), Code.integrity, []⟩
    else if keyAt s g = some k then ⟨put s, Code.ok, []⟩
    else if paTier pa = 0 then
      ⟨put (keyGranule (draw (setCells s (writeRun s.mem.bytes g (freeBytes s.fresh size)))) g k),
        Code.ok, []⟩
    else ⟨bump s 0x5000 0x0B, Code.integrity, []⟩

/-! ## Reads and writes of a run within one page -/

/-- Length of the part of a run that lies in the run's first granule. -/
def firstPiece (pa len : Nat) : Nat := min len (granuleSize pa - pa % granuleSize pa)

/-- A read of a run, granule by granule; a failing granule gives no byte and the run fails with
INTEGRITY. The fuel is the number of granules touched. -/
def readPieces : Nat → State → Nat × Nat → Nat → Nat → Access1
  | 0, s, _, _, _ => ⟨s, Code.ok, []⟩
  | fuel + 1, s, k, pa, len =>
    if len = 0 then ⟨s, Code.ok, []⟩
    else
      let n := firstPiece pa len
      let a := readPiece s k pa n
      let r := readPieces fuel a.st k (pa + n) (len - n)
      if a.status = Code.ok then ⟨r.st, r.status, a.data ++ r.data⟩
      else ⟨r.st, a.status, []⟩

/-- A write of a run, granule by granule; a failing granule is left unchanged. -/
def writePieces : Nat → State → Nat × Nat → Nat → Bytes → Access1
  | 0, s, _, _, _ => ⟨s, Code.ok, []⟩
  | fuel + 1, s, k, pa, data =>
    if data.isEmpty then ⟨s, Code.ok, []⟩
    else
      let n := firstPiece pa data.length
      let a := writePiece s k pa (data.take n)
      let r := writePieces fuel a.st k (pa + n) (data.drop n)
      ⟨r.st, if a.status = Code.ok then r.status else a.status, []⟩

/-- The memory key of a context as it now stands, by what names it within one boot: the context and its
generation, from which `contextKeys` takes it (R330, R331). Two such keys are taken to differ (log entry 35). -/
def ctxKey (s : State) (ctx : Nat) : Nat × Nat := (ctx, ctxGen s ctx)

/-- A read of physical bytes for a context. -/
def readPhys (s : State) (ctx pa len : Nat) : Access1 :=
  readPieces (len / 64 + 2) s (ctxKey s ctx) pa len

/-- A write of physical bytes for a context. -/
def writePhys (s : State) (ctx pa : Nat) (data : Bytes) : Access1 :=
  writePieces (data.length / 64 + 2) s (ctxKey s ctx) pa data

end Sys2Proof.Machine
end

