-- ==== Sys2Proof/Machine/Translate.lean ====
section
/-! DEFINITION. Context spaces (R44 to R50), the translation units (R59 to R63), windows and the
inbound checks of Table 11 (R64 to R69), and reads and writes by VA (R70). -/

namespace Sys2Proof.Machine

/-! ## Pages -/

/-- Bytes of a page by PAGE_SIZE: 64 KiB, 2 MiB or 1 GiB (R44). -/
def pageBytes (size : Nat) : Nat :=
  match size with
  | 0 => 2 ^ 16
  | 1 => 2 ^ 21
  | _ => 2 ^ 30

/-- End of a context's virtual space (R45). -/
def spaceEnd (s : State) (ctx : Nat) : Nat := 2 ^ (30 + ctxL1 s ctx)

/-- Bytes of an extent. -/
def Extent.len (e : Extent) : Nat := e.count * pageBytes e.size

/-- Whether an extent covers a VA. -/
def Extent.covers (e : Extent) (va : Nat) : Bool := decide (e.va ≤ va) && decide (va < e.va + e.len)

/-- Whether an extent touches a range of VAs. -/
def Extent.touches (e : Extent) (va len : Nat) : Bool :=
  decide (e.va < va + len) && decide (va < e.va + e.len)

/-- The extents of a context, VAs rising. -/
def extentsOf (s : State) (ctx : Nat) : List Extent := (tget s.xlat.pages ctx).getD []

/-- The extent that maps a VA of a context. -/
def extentAt (s : State) (ctx va : Nat) : Option Extent :=
  (extentsOf s ctx).find? fun e => e.covers va

/-- Whether a page allows an operation (R46). -/
def Extent.allows (e : Extent) (a : Acc) : Bool :=
  match a with
  | .read => e.read
  | .write => e.write
  | .flagged => e.write
  | .atomic => e.atomic
  | .reduce => e.reduce

/-- A part of a range that lies in one extent. -/
structure Seg where
  va : Nat
  len : Nat
  ext : Extent

/-- PA of the first byte of a part. -/
def Seg.pa (g : Seg) : Nat := g.ext.pa + (g.va - g.ext.va)

/-- VA of the page of an extent that holds a VA. -/
def Extent.pageOf (e : Extent) (va : Nat) : Nat := va / pageBytes e.size * pageBytes e.size

/-- The parts of a range up to the first unmapped byte, and that byte's 64 KiB page if there is
one. The fuel is one more than the number of extents. -/
def cover (s : State) (ctx : Nat) : Nat → Nat → Nat → List Seg × Option Nat
  | 0, va, len => ([], if len = 0 then none else some (va / 65536 * 65536))
  | fuel + 1, va, len =>
    if len = 0 then ([], none)
    else match extentAt s ctx va with
      | none => ([], some (va / 65536 * 65536))
      | some e =>
        let n := min len (e.va + e.len - va)
        let r := cover s ctx fuel (va + n) (len - n)
        (⟨va, n, e⟩ :: r.1, r.2)

/-- The parts of a range of a context, with room for every extent. -/
def coverOf (s : State) (ctx va len : Nat) : List Seg × Option Nat :=
  cover s ctx ((extentsOf s ctx).length + 1) va len

/-- The extents with one added in rising order. -/
def insertExtent (e : Extent) : List Extent → List Extent
  | [] => [e]
  | x :: xs => if e.va < x.va then e :: x :: xs else x :: insertExtent e xs

/-- The pages of every context together with those that an UNMAP has cut and not yet released: what the
work that held translations at the cut still reaches (R56), and what tables still stand for (R57). -/
def uncutPages (s : State) : Tbl (List Extent) :=
  s.xlat.unmaps.foldl (fun t u => tset t u.ctx (u.cut.foldl (fun l e => insertExtent e l) ((tget t u.ctx).getD [])))
    s.xlat.pages

/-- The state with no page cut but those released. -/
def uncut (s : State) : State :=
  if s.xlat.unmaps.isEmpty then s else { s with xlat := { s.xlat with pages := uncutPages s } }

/-- The parts of a range by the translations that work in flight holds (R56, R70). -/
def heldCover (s : State) (ctx va len : Nat) : List Seg × Option Nat := coverOf (uncut s) ctx va len

/-- A failed check: status and the VA or offset of the failing page. -/
abbrev Fail := Status × Nat

/-- Whether a page refuses a byte-level operation of the part's own engines (R46, R49). -/
def Seg.refuses (g : Seg) (a : Acc) : Bool := g.ext.codec || !g.ext.allows a

/-- The status of a local range for an engine: that of the lowest-addressed failing page (R70). -/
def localCheck (s : State) (ctx va len : Nat) (a : Acc) : Option Fail :=
  let c := coverOf s ctx va len
  match c.1.find? fun g => g.refuses a with
  | some g => some (Code.protection, g.ext.pageOf g.va)
  | none => c.2.map fun p => (Code.translationFault, p)

/-- The status of a range inbound through a window: check 8 of every page, then check 9 (R68). -/
def inboundPages (s : State) (ctx va len : Nat) (a : Acc) : Option Fail :=
  let c := coverOf s ctx va len
  match c.2 with
  | some p => some (Code.translationFault, p)
  | none => (c.1.find? fun g => g.refuses a || paTier g.ext.pa == 3).map fun g =>
      (Code.protection, g.ext.pageOf g.va)

/-- Pages a range touches, an unmapped stretch counted in 64 KiB pages (R70). -/
def pagesTouched (s : State) (ctx va len : Nat) : Nat :=
  let c := coverOf s ctx va len
  let mapped := c.1.foldl (fun n g =>
    n + ((g.va + g.len - 1) / pageBytes g.ext.size - g.va / pageBytes g.ext.size + 1)) 0
  match c.2 with
  | none => mapped
  | some p => mapped + ((va + len - 1) / 65536 - p / 65536 + 1)

/-! ## Translation units: TLB, walk cache, stream slots and walkers (R59 to R63) -/

/-- Streams (R61, Table 8), as a number: kind and unit, then context, then issuer. -/
def moverStream (mover ctx : Nat) : Nat := tagKey 0 (mover * 4096 + ctx)
def unitStream (engine ctx queue : Nat) : Nat := tagKey 1 ((engine * 4096 + ctx) * 65536 + queue)
def inboundStream (node ctx : Nat) : Nat := tagKey 2 (node * 4096 + ctx)

/-- Whether a page of a context is in a unit's TLB. -/
def TransUnit.hits (u : TransUnit) (ctx va size : Nat) : Bool :=
  u.tlb.any fun t => t.ctx == ctx && t.va == va && t.size == size

/-- The unit with a slot for a stream: its own, a free one, or the least recently used one without a
pending miss; none where every slot has one (R61). -/
def slotFor (s : State) (u : TransUnit) (stream ctx : Nat) : Option TransUnit :=
  let fresh : StreamSlot := { stream := stream, ctx := ctx, used := s.now }
  if u.streams.any fun x => x.stream == stream then some u
  else if u.streams.length < 1024 then some { u with streams := u.streams ++ [fresh] }
  else
    (((u.streams.filter fun x => x.misses.isEmpty).foldl (fun (b : Option StreamSlot) x =>
      match b with
      | none => some x
      | some y => if x.used < y.used then some x else some y) none)).map fun y =>
        { u with streams := (u.streams.filter fun x => x.stream != y.stream) ++ [fresh] }

/-- A slot after a miss on a page: the page is queued unless it already is, with the request behind it;
none where the slot has no room for one of the two (R62). -/
def StreamSlot.miss (x : StreamSlot) (limit now va : Nat) : Option StreamSlot :=
  if 512 ≤ x.behind.length then none
  else if x.misses.contains va then some { x with behind := x.behind ++ [va], used := now }
  else if limit ≤ x.misses.length then none
  else some { x with misses := x.misses ++ [va], behind := x.behind ++ [va], used := now }

/-- A miss of a stream joins its slot, or waits: for a slot, or behind the stream's full queue, which
holds up that stream's further misses alone (R61, R62). -/
def queueMiss (s : State) (u : TransUnit) (m : XlatMiss) : TransUnit :=
  let wait : TransUnit := { u with waiting := u.waiting ++ [m] }
  match slotFor s u m.stream m.ctx with
  | none => wait
  | some u' =>
    match (u'.streams.find? fun x => x.stream == m.stream).bind fun x => x.miss (reg s 0x2800 0x03) s.now m.va with
    | none => wait
    | some y => { u' with streams := u'.streams.map fun x => if x.stream = m.stream then y else x }

/-- The unit after a lookup of a page: a hit marks the entry used, a miss is queued (R60 to R62). -/
def lookupPage (s : State) (u : TransUnit) (m : XlatMiss) : TransUnit :=
  if u.hits m.ctx m.va m.size then
    { u with tlb := u.tlb.map fun t =>
        if t.ctx = m.ctx ∧ t.va = m.va ∧ t.size = m.size then { t with used := s.now } else t }
  else queueMiss s u m

/-- The misses that wait are offered again, oldest first. -/
def retryMisses (s : State) (u : TransUnit) : TransUnit :=
  u.waiting.foldl (lookupPage s) { u with waiting := [] }

/-- Walkers a stream holds. -/
def walkersOf (u : TransUnit) (stream : Nat) : Nat :=
  (u.walks.filter fun w => w.stream == stream).length

/-- Streams with a miss not yet started and fewer walkers than a limit: stream, context and page. -/
def wantWalk (limit : Nat) (u : TransUnit) : List Walk :=
  u.streams.filterMap fun x =>
    match x.misses.find? fun va => !(u.walks.any fun w => w.ctx == x.ctx && w.va == va) with
    | some va => if walkersOf u x.stream < limit then some { stream := x.stream, ctx := x.ctx, va := va } else none
    | none => none

/-- The stream a free walker goes to: of those that hold the fewest, the first after the stream served
last, round robin in the order of stream numbers (R63; DESIGN CHOICE: the order, log entry 31). -/
def nextWalk (limit : Nat) (u : TransUnit) : Option Walk :=
  let ws := wantWalk limit u
  let least := ws.foldl (fun n w => min n (walkersOf u w.stream)) 16
  let tied := ws.filter fun w => walkersOf u w.stream == least
  let first (l : List Walk) : Option Walk := l.foldl (fun (b : Option Walk) w =>
    match b with
    | none => some w
    | some y => if w.stream < y.stream then some w else some y) none
  (first (tied.filter fun w => decide (u.turn < w.stream))).orElse fun _ => first tied

/-- Free walkers go to streams one at a time, up to the limit 2800:02 of one stream (R63). -/
def startWalks (limit : Nat) : Nat → TransUnit → TransUnit
  | 0, u => u
  | fuel + 1, u =>
    if 16 ≤ u.walks.length then u
    else match nextWalk limit u with
      | none => u
      | some w => startWalks limit fuel { u with walks := u.walks ++ [w], turn := w.stream }

/-- The state after a stream's lookups of the pages of some parts on a quarter. -/
def lookups (s : State) (q stream ctx : Nat) (segs : List Seg) (gap : Option Nat) : State :=
  let u := s.xlat.units.get q
  let u := segs.foldl (fun u g => lookupPage s u ⟨stream, ctx, g.ext.pageOf g.va, g.ext.size⟩) u
  let u := match gap with
    | none => u
    | some va => lookupPage s u ⟨stream, ctx, va, 0⟩
  let u := startWalks (reg s 0x2800 0x02) 16 u
  { s with xlat := { s.xlat with units := s.xlat.units.set q u } }

/-- The state after a stream's lookups of a range. -/
def lookupRange (s : State) (q stream ctx va len : Nat) : State :=
  let c := coverOf s ctx va len
  lookups s q stream ctx c.1 c.2

/-- Bytes of the space that a walk-cache entry stands for. -/
def WalkEntry.span (w : WalkEntry) : Nat := if w.level = 1 then 2 ^ 30 else 2 ^ 21

/-- TLB and walk-cache entries of a context that cover a range are gone, in all four units. -/
def shootdown (s : State) (ctx va len : Nat) : State :=
  let cut (u : TransUnit) : TransUnit :=
    { u with
      tlb := u.tlb.filter fun t =>
        !(t.ctx == ctx && decide (t.va < va + len) && decide (va < t.va + pageBytes t.size))
      walkCache := u.walkCache.filter fun w =>
        !(w.ctx == ctx && decide (w.index * w.span < va + len) &&
          decide (va < w.index * w.span + w.span)) }
  { s with xlat := { s.xlat with units := s.xlat.units.map cut } }

/-! ## Reads and writes by VA -/

/-- A read of a range of a context's space, part by part; an unmapped page ends it. -/
def readSegs (s : State) (ctx : Nat) : List Seg → Access1
  | [] => ⟨s, Code.ok, []⟩
  | g :: gs =>
    let a := readPhys s ctx g.pa g.len
    if a.status = Code.ok then
      let r := readSegs a.st ctx gs
      ⟨r.st, r.status, a.data ++ r.data⟩
    else ⟨a.st, a.status, []⟩

/-- A read by VA, where every page has passed its checks: by the translations held then (R56, R70). -/
def readVa (s : State) (ctx va len : Nat) : Access1 :=
  let c := heldCover s ctx va len
  match c.2 with
  | some _ => ⟨bump s 0x2800 0x07, Code.translationFault, []⟩
  | none => readSegs s ctx c.1

/-- A write of a range, part by part. -/
def writeSegs (s : State) (ctx : Nat) : List Seg → Bytes → Access1
  | [], _ => ⟨s, Code.ok, []⟩
  | g :: gs, data =>
    let a := writePhys s ctx g.pa (data.take g.len)
    let r := writeSegs a.st ctx gs (data.drop g.len)
    ⟨r.st, if a.status = Code.ok then r.status else a.status, []⟩

/-- A write by VA, where every page has passed its checks: by the translations held then. -/
def writeVa (s : State) (ctx va : Nat) (data : Bytes) : Access1 :=
  let c := heldCover s ctx va data.length
  match c.2 with
  | some _ => ⟨bump s 0x2800 0x07, Code.translationFault, []⟩
  | none => writeSegs s ctx c.1 data

/-- The 8 bytes of a flag, as an unsigned number. -/
def flagValue (s : State) (ctx va : Nat) : Nat := ofLe (readVa s ctx va 8).data

/-! ## Windows (R64 to R68) -/

/-- Fields of a window handle (R64). -/
def handleOffset (h : BitVec 64) : Nat := bits h 0 38
def handleWindow (h : BitVec 64) : Nat := bits h 38 14
def handleNode (h : BitVec 64) : Nat := bits h 52 12

/-- A handle with an amount added to its OFFSET. -/
def handleAdd (h : BitVec 64) (n : Nat) : BitVec 64 :=
  BitVec.ofNat 64 (h.toNat - handleOffset h + (handleOffset h + n) % 2 ^ 38)

/-- A handle from its fields. -/
def mkHandle (node window offset : Nat) : BitVec 64 :=
  BitVec.ofNat 64 (node % 4096 * 2 ^ 52 + window % 2 ^ 14 * 2 ^ 38 + offset % 2 ^ 38)

/-- Whether a window allows an operation (R65). -/
def Window.allows (w : Window) (a : Acc) : Bool :=
  match a with
  | .read => w.read
  | .write => w.write
  | .atomic => w.atomic
  | .reduce => w.reduce
  | .flagged => w.flagged

/-- A source node passes a filter (R65, R76, R171). -/
def sourcePasses (node base mask : Nat) : Bool := (node &&& mask) == (base &&& mask)

/-- What an inbound request brings to the checks of Table 11. -/
structure Inbound where
  handle : BitVec 64
  ctx : Nat
  gen : Nat
  src : Nat
  len : Nat
  op : Acc
  /-- A copy of a performed read, which a context still answers while it drains (R163, R338). -/
  again : Bool := false

/-- Check 2 of Table 11: the generation is the context's, and the context is ACTIVE; while it drains, a copy
of a performed read passes (R338). -/
def Inbound.live (s : State) (r : Inbound) : Bool :=
  r.gen == ctxGen s r.ctx && (ctxActive s r.ctx || (r.again && ctxState s r.ctx == 2))

/-- Checks 1 to 7 of Table 11 (R68): the failing status, or the window. -/
def windowCheck (s : State) (r : Inbound) : Except Status Window :=
  if handleNode r.handle ≠ nodeId s then .error Code.protection
  else if r.live s = false then .error Code.contextRetired
  else if handleWindow r.handle = 0 then .error Code.protection
  else match tget s.xlat.windows (handleWindow r.handle) with
    | none => .error Code.protection
    | some w =>
      if ¬ (w.valid = true ∧ w.gen = ctxGen s w.ctx) then .error Code.protection
      else if r.ctx ≠ w.ctx then .error Code.protection
      else if ¬ sourcePasses r.src w.srcBase w.srcMask then .error Code.protection
      else if ¬ w.allows r.op then .error Code.protection
      else if w.length * 65536 < handleOffset r.handle + r.len then .error Code.protection
      else .ok w

/-- An end-point block reads a window's entry through its cache of 1,024; the least recently used one
makes room (R65; DESIGN CHOICE: which one, log entry 31). -/
def touchWindow (s : State) (q n : Nat) : State :=
  let c := (s.xlat.windowCache.get q).filter fun x => x.1 != n
  let old := c.foldl (fun t x => min t x.2) s.now
  let c := if c.length < 1024 then c
    else match c.find? fun x => x.2 == old with
      | some v => c.filter fun x => x.1 != v.1
      | none => c
  { s with xlat := { s.xlat with windowCache := s.xlat.windowCache.set q (c ++ [(n, s.now)]) } }

/-- Window entries leave every end-point cache (R67). -/
def dropWindows (s : State) (gone : Nat → Bool) : State :=
  { s with xlat := { s.xlat with windowCache := s.xlat.windowCache.map fun c => c.filter fun x => !gone x.1 } }

/-- All checks of Table 11: the failing status with the failing page's offset, or the VA. -/
def inboundCheck (s : State) (r : Inbound) : Except Fail Nat :=
  match windowCheck s r with
  | .error e => .error (e, 0)
  | .ok w =>
    let va := w.baseVa + handleOffset r.handle
    match inboundPages s r.ctx va r.len r.op with
    | some (e, p) => .error (e, p - w.baseVa)
    | none => .ok va

/-- The state with one window entry changed. -/
def modWindow (s : State) (n : Nat) (f : Window → Window) : State :=
  let t := tmod s.xlat.windows n f
  { s with xlat := { s.xlat with windows := t } }

/-- An arrival that a context's generation or state refuses is counted in 2800:08 and RETIRED_ARRIVALS (R68,
R338, R341). -/
def countRetired (s : State) (c : Nat) : State :=
  setReg (bump s 0x2800 0x08) (ctxIdx c) 0x23 (satInc 32 (reg s (ctxIdx c) 0x23))

/-- A refusal by Table 11 is counted: in 2800:09, in the window, for check 2 in 2800:08 and
RETIRED_ARRIVALS, and for a page in 2800:07. -/
def countRefusal (s : State) (r : Inbound) (status : Status) : State :=
  let s := bump s 0x2800 0x09
  let s := if handleNode r.handle ≠ nodeId s then s
    else modWindow s (handleWindow r.handle) fun w => { w with refused := satInc 32 w.refused }
  let s := if status = Code.contextRetired then countRetired s r.ctx else s
  if status = Code.translationFault then bump s 0x2800 0x07 else s

end Sys2Proof.Machine
end

