-- ==== Sys2Proof/Machine/Operands.lean ====
section
/-! DEFINITION. Fields of packets (R146 to R154), their checks (R155, R157) and their building,
and the fields of whistle records. -/

namespace Sys2Proof.Machine

/-! ## The common header (R146, Table 1) -/

/-- The header's fields. -/
structure Hdr where
  opcode : Nat := 0
  vl : Nat := 0
  colour : Nat := 0
  cn : Bool := false
  resend : Bool := false
  data : Bool := false
  src : Nat := 0
  dst : Nat := 0
  ctx : Nat := 0
  gen : Nat := 0
  srcQueue : Nat := 0
  seq : Nat := 0
  floor : Nat := 0
  srcInc : Nat := 0
  dstInc : Nat := 0
  dstKnown : Bool := false
deriving DecidableEq, Repr

/-- One for true. -/
def b2n (b : Bool) : Nat := if b then 1 else 0

/-- The header's bits. -/
def Hdr.word (h : Hdr) : BitVec 128 :=
  BitVec.ofNat 128
    (h.opcode % 2 ^ 8 + h.vl % 2 ^ 3 * 2 ^ 8 + h.colour % 2 ^ 2 * 2 ^ 11 + b2n h.cn * 2 ^ 13 +
      b2n h.resend * 2 ^ 14 + b2n h.data * 2 ^ 15 + h.src % 2 ^ 12 * 2 ^ 16 +
      h.dst % 2 ^ 12 * 2 ^ 28 + h.ctx % 2 ^ 12 * 2 ^ 40 + h.gen % 2 ^ 16 * 2 ^ 52 +
      h.srcQueue % 2 ^ 16 * 2 ^ 68 + h.seq % 2 ^ 24 * 2 ^ 84 + h.floor % 2 ^ 10 * 2 ^ 108 +
      h.srcInc % 2 ^ 4 * 2 ^ 118 + h.dstInc % 2 ^ 4 * 2 ^ 122 + b2n h.dstKnown * 2 ^ 126)

/-- The fields of a header word. -/
def hdrOf (w : BitVec 128) : Hdr :=
  { opcode := bits w 0 8, vl := bits w 8 3, colour := bits w 11 2, cn := bit w 13
    resend := bit w 14, data := bit w 15, src := bits w 16 12, dst := bits w 28 12
    ctx := bits w 40 12, gen := bits w 52 16, srcQueue := bits w 68 16, seq := bits w 84 24
    floor := bits w 108 10, srcInc := bits w 118 4, dstInc := bits w 122 4, dstKnown := bit w 126 }

end Sys2Proof.Machine

namespace Sys2Proof

open Machine

def Packet.op (p : Packet) : Nat := bits p.hdr 0 8
def Packet.vl (p : Packet) : Nat := bits p.hdr 8 3
def Packet.colour (p : Packet) : Nat := bits p.hdr 11 2
def Packet.isData (p : Packet) : Bool := bit p.hdr 15
def Packet.src (p : Packet) : Nat := bits p.hdr 16 12
def Packet.dst (p : Packet) : Nat := bits p.hdr 28 12
def Packet.ctx (p : Packet) : Nat := bits p.hdr 40 12
def Packet.gen (p : Packet) : Nat := bits p.hdr 52 16
def Packet.srcQueue (p : Packet) : Nat := bits p.hdr 68 16
def Packet.seq (p : Packet) : Nat := bits p.hdr 84 24
def Packet.floor (p : Packet) : Nat := bits p.hdr 108 10
def Packet.srcInc (p : Packet) : Nat := bits p.hdr 118 4
def Packet.dstInc (p : Packet) : Nat := bits p.hdr 122 4
def Packet.dstKnown (p : Packet) : Bool := bit p.hdr 126

/-- A packet with some header fields changed. -/
def Packet.withHdr (p : Packet) (f : Hdr → Hdr) : Packet := { p with hdr := (f (hdrOf p.hdr)).word }

/-! ## The operand or data extension (R149 to R153) -/

/-- Window, queue or relay handle: operand or extension bits [63:0]. -/
def Packet.handle (p : Packet) : BitVec 64 := p.ext.extractLsb' 0 64
/-- BYTES of a data packet or READ_REQ. -/
def Packet.bytes (p : Packet) : Nat := bits p.ext 64 14
/-- STATUS of a data reply. -/
def Packet.dataStatus (p : Packet) : Status := p.ext.extractLsb' 80 8
/-- AUX of a data packet. -/
def Packet.aux (p : Packet) : Nat := bits p.ext 96 32
/-- VALUE of an atomic. -/
def Packet.value (p : Packet) : BitVec 64 := p.ext.extractLsb' 64 64
/-- The valid payload bytes. -/
def Packet.data (p : Packet) : Bytes := p.payload.take p.bytes

end Sys2Proof

namespace Sys2Proof.Machine

/-- A data extension. -/
def dataExt (handle : BitVec 64) (bytes : Nat) (status : Status) (aux : Nat) : BitVec 128 :=
  BitVec.ofNat 128 (handle.toNat + bytes % 2 ^ 14 * 2 ^ 64 + status.toNat * 2 ^ 80 +
    aux % 2 ^ 32 * 2 ^ 96)

/-! ## Opcodes (R156, Tables 8 and 8a) -/

/-- Whether an opcode is an atomic of the control class. -/
def isAtomicOp (op : Nat) : Bool := decide (0x10 ≤ op) && decide (op ≤ 0x23)

/-- Whether an opcode is of the data class. -/
def isDataOp (op : Nat) : Bool := decide (0x40 ≤ op) && decide (op ≤ 0x49)

/-- Whether an opcode is listed, link management included. -/
def isListedOp (op : Nat) : Bool :=
  (decide (0x01 ≤ op) && decide (op ≤ 0x0B)) || isAtomicOp op || isDataOp op ||
    (decide (0xE0 ≤ op) && decide (op ≤ 0xEF))

/-- Whether a listed opcode is a reply (R148). -/
def isReplyOp (op : Nat) : Bool := op == 0x03 || op == 0x04 || op == 0x05 || op == 0x42 || op == 0x47

/-- Whether a listed opcode is unsequenced (R148). -/
def isUnsequencedOp (op : Nat) : Bool :=
  op == 0x08 || op == 0x09 || op == 0x0A || op == 0x0B || (decide (0xE0 ≤ op) && decide (op ≤ 0xEF))

/-- Whether an opcode is a request. -/
def isRequestOp (op : Nat) : Bool := isListedOp op && !isReplyOp op && !isUnsequencedOp op

/-- Whether a request is one that a flagged write covers and a refusal of which it sees (R135). -/
def isStoreOp (op : Nat) : Bool :=
  isAtomicOp op || op == 0x40 || op == 0x41 || op == 0x45 || op == 0x46 || op == 0x48 || op == 0x49

/-- The status of a request whose target is unreachable (R167). -/
def unreachableStatus (op : Nat) : Status :=
  if op = 0x01 ∨ op = 0x02 ∨ op = 0x40 ∨ op = 0x41 ∨ op = 0x48 ∨ op = 0x49 then Code.targetLost
  else Code.outcomeUnknown

/-- The virtual lane a source sets (R147). -/
def sourceVl (op : Nat) : Nat :=
  if op = 0x09 ∨ op = 0x0A ∨ op = 0x0B ∨ 0xE0 ≤ op then 0 else if isDataOp op then 3 else 1

/-- Operand bytes of an atomic (R158, Table 8a). -/
def atomicBytes (op : Nat) : Nat :=
  match op with
  | 0x10 => 4 | 0x11 => 8 | 0x12 => 4 | 0x13 => 2 | 0x14 => 2
  | 0x15 => 4 | 0x16 => 8 | 0x17 => 4 | 0x18 => 8 | 0x19 => 4 | 0x1A => 2 | 0x1B => 2
  | 0x1C => 4 | 0x1D => 8 | 0x1E => 4 | 0x1F => 8 | 0x20 => 4 | 0x21 => 2 | 0x22 => 2
  | 0x23 => 4
  | 0x45 => 8
  | 0x46 => 16
  | _ => 8

/-! ## The end-to-end check (R155) -/

/-- A header word with VL, COLOUR and CN taken as zero. -/
def checkedHdr (w : BitVec 128) : BitVec 128 := w &&& ~~~(0x3F00#128)

end Sys2Proof.Machine

namespace Sys2Proof

open Machine

/-- The check of a data packet. -/
def Packet.crc (p : Packet) : BitVec 64 :=
  crc64 (leBytes 16 (checkedHdr p.hdr).toNat ++ leBytes 16 p.ext.toNat ++ p.payload)

/-- A data packet with its check computed; a control packet unchanged. -/
def Packet.sealed (p : Packet) : Packet := if p.isData then { p with check := p.crc } else p

/-- Whether a packet passes the end-to-end check; control packets carry none. -/
def Packet.crcOk (p : Packet) : Bool := !p.isData || decide (p.check = p.crc)

/-- Bytes of a packet in the core (R145, R182). -/
def Packet.size (p : Packet) : Nat := if p.isData then 40 + p.payload.length else 32

end Sys2Proof

namespace Sys2Proof.Machine

/-! ## Reserved fields and length rules: check 4 of Table 9a (R154, R157, R158) -/

/-- Whether an ext field is zero. -/
def extZero (p : Packet) (lo w : Nat) : Bool := bits p.ext lo w == 0

/-- Whether a reserved bit or code stands in a packet's header (R5, R146). -/
def hdrReserved (p : Packet) : Bool := bit p.hdr 127 || decide (4 < p.vl) || p.colour == 3

/-- Whether a reply breaks a reserved field or a length rule of its opcode (R5, R150, R153, R154). -/
def replyMalformed (p : Packet) : Bool :=
  hdrReserved p ||
  (match p.op with
   | 0x03 => !extZero p 8 8 || !extZero p 26 38
   | 0x04 => !extZero p 26 38
   | 0x05 => !extZero p 8 56
   | _ =>
     !extZero p 0 64 || !extZero p 78 2 || !extZero p 88 40 || p.bytes == 0 || decide (8192 < p.bytes) ||
       p.payload.length != roundUp p.bytes 256 || (p.payload.drop p.bytes).any (fun b => b != 0) ||
       (p.op == 0x47 && p.bytes != 16))

/-- Whether an unsequenced packet of the control class is to be discarded: its class does not match, or a
reserved bit or code stands in its header (R5, R157). -/
def unsequencedBad (p : Packet) : Bool := p.isData || hdrReserved p

/-- Whether a request breaks a reserved field or a length rule of its opcode. -/
def malformed (p : Packet) : Bool :=
  hdrReserved p ||
  (if p.isData != isDataOp p.op then true
   else if isDataOp p.op then
     !extZero p 78 2 || !extZero p 80 8 || !extZero p 88 8 || p.bytes == 0 ||
     decide (8192 < p.bytes) || p.payload.length != roundUp p.bytes 256 ||
     (p.payload.drop p.bytes).any (fun b => b != 0) ||
     (match p.op with
      | 0x41 => decide (p.bytes < 8) || (handleOffset p.handle + p.bytes) % 8 != 0 || !extZero p 96 32
      | 0x49 => decide (p.bytes < 8) || (handleOffset p.handle + p.bytes) % 8 != 0 || !extZero p 108 20
      | 0x48 => !extZero p 108 20
      | 0x43 => p.bytes % 64 != 0 || decide (p.bytes < 256) || !extZero p 96 32
      | 0x45 => p.bytes != 16 || handleOffset p.handle % 8 != 0 || !extZero p 96 32
      | 0x46 => p.bytes != 32 || handleOffset p.handle % 16 != 0 || !extZero p 96 32
      | 0x44 => !extZero p 120 8
      | _ => !extZero p 96 32)
   else
     match p.op with
     | 0x01 => p.bytes == 0 || decide (8192 < p.bytes) || !extZero p 78 50
     | 0x02 => extZero p 64 38 || bits p.ext 102 2 == 3 || !extZero p 104 24
     | 0x06 => extZero p 88 13 || decide (4096 < bits p.ext 88 13)
     | 0x07 => !extZero p 97 31
     | op =>
       isAtomicOp op &&
         (handleOffset p.handle % atomicBytes op != 0 ||
           (op != 0x23 && !extZero p (64 + 8 * atomicBytes op) (64 - 8 * atomicBytes op))))

/-! ## Building packets -/

/-- A request of this part, its flow fields to be filled in at sending. -/
def mkRequest (op ctx gen srcQueue dst : Nat) (ext : BitVec 128) (payload : Bytes) : Packet :=
  { hdr := (Hdr.word
      { opcode := op, vl := sourceVl op, data := isDataOp op, dst := dst, ctx := ctx, gen := gen
        srcQueue := srcQueue })
    ext := ext
    payload := padTo (roundUp payload.length 256) payload }

/-- A data request to a handle. -/
def mkData (op ctx gen srcQueue : Nat) (h : BitVec 64) (aux : Nat) (data : Bytes) : Packet :=
  mkRequest op ctx gen srcQueue (handleNode h) (dataExt h data.length 0 aux) data

/-- A READ_REQ. -/
def mkRead (ctx gen srcQueue : Nat) (h : BitVec 64) (len : Nat) : Packet :=
  mkRequest 0x01 ctx gen srcQueue (handleNode h)
    (BitVec.ofNat 128 (h.toNat + len % 2 ^ 14 * 2 ^ 64)) []

/-- A PROBE. -/
def mkProbe (ctx gen srcQueue : Nat) (h : BitVec 64) (len op : Nat) : Packet :=
  mkRequest 0x02 ctx gen srcQueue (handleNode h)
    (BitVec.ofNat 128 (h.toNat + len % 2 ^ 38 * 2 ^ 64 + op % 4 * 2 ^ 102)) []

/-- The header of a reply (R148). -/
def replyHdr (s : State) (p : Packet) (op : Nat) : BitVec 128 :=
  Hdr.word
    { opcode := op, vl := sourceVl op, data := isDataOp op, src := nodeId s, dst := p.src
      ctx := p.ctx, gen := p.gen, srcQueue := p.srcQueue, seq := p.seq, floor := 0
      srcInc := ownInc s, dstInc := p.srcInc, dstKnown := true }

/-- An ACK with a run and a DETAIL (R150). -/
def mkAck (s : State) (p : Packet) (status : Status) (run : Nat) (detail : BitVec 64) : Packet :=
  { hdr := replyHdr s p 0x03
    ext := BitVec.ofNat 128 (status.toNat + run % 1024 * 2 ^ 16 + detail.toNat * 2 ^ 64) }

/-- A NACK with a reason (R150, Table 4). -/
def mkNack (s : State) (p : Packet) (reason : Nat) : Packet :=
  { hdr := replyHdr s p 0x04, ext := BitVec.ofNat 128 (reason * 2 ^ 8) }

/-- An ATOMIC_REPLY. -/
def mkAtomicReply (s : State) (p : Packet) (status : Status) (old : BitVec 64) : Packet :=
  { hdr := replyHdr s p 0x05, ext := BitVec.ofNat 128 (status.toNat + old.toNat * 2 ^ 64) }

/-- A READ_REPLY or CAS128_REPLY carrying data. -/
def mkDataReply (s : State) (p : Packet) (op : Nat) (status : Status) (data : Bytes) : Packet :=
  Packet.sealed
    { hdr := replyHdr s p op
      ext := dataExt 0 data.length status 0
      payload := padTo (roundUp data.length 256) data }

/-- An unsequenced packet (R148) with its operand. -/
def mkUnsequenced (s : State) (op dst ctx srcQueue : Nat) (ext : BitVec 128) : Packet :=
  { hdr := Hdr.word
      { opcode := op, vl := sourceVl op, src := nodeId s, dst := dst, ctx := ctx
        srcQueue := srcQueue, srcInc := ownInc s }
    ext := ext }

/-! ## Whistle records (R102, Table 12) -/

/-- The 32 bytes of a record. -/
def whistleBytes (w : Whistle) (phase : Bool) : Bytes :=
  leBytes 32
    (w.kind % 2 ^ 8 + w.status.toNat * 2 ^ 8 + w.ctx % 2 ^ 12 * 2 ^ 16 +
      w.queue % 2 ^ 10 * 2 ^ 28 + w.quarter % 4 * 2 ^ 38 + w.tag % 2 ^ 16 * 2 ^ 48 +
      w.detail.toNat * 2 ^ 64 + w.ft.toNat * 2 ^ 128 + w.seq % 2 ^ 32 * 2 ^ 192 +
      min w.count 65535 * 2 ^ 224 + b2n phase * 2 ^ 255)

/-- Internal issuer k of a quarter (R181). -/
def issuer (q k : Nat) : Nat := 16384 + 12288 * (q % 4) + k

/-- The quarter of an issuing queue (R181). -/
def issuerQuarter (srcQueue : Nat) : Nat :=
  if srcQueue < 16384 then srcQueue / 4096 else (srcQueue - 16384) / 12288

/-- SRC_QUEUE of a descriptor queue: quarter and record (R146). -/
def queueIssuer (s : State) (ctx queue : Nat) : Nat :=
  match queueOf s ctx queue with
  | some r => r.quarter * 4096 + r.record % 4096
  | none => 0

end Sys2Proof.Machine
end

