-- ==== Sys2Proof/Machine/Requests.lean ====
section
/-! DEFINITION. How a packet enters the switch core (R180 to R183, R209) and how the part issues
and re-sends its own requests (R94, R160, R165, R211, R507). -/

namespace Sys2Proof.Machine

/-! ## Entering the core -/

/-- Quarter of a core port (R180). -/
def portQuarter (port : Nat) : Nat := if port < 64 then port / 16 else (port - 64) / 4

/-- Direction of a fabric port: 0 disabled, 1 down, 2 up (R202). -/
def portDir (s : State) (port : Nat) : Nat := reg s 0x3C00 (port + 1)

/-- Bytes in the unit of the markers' tokens: a rate of 100 MB/s gives one in each switch-core
cycle, and 18 of them make a byte. -/
def tokens (bytes : Nat) : Nat := bytes * 18

/-- The marker of a context on a quarter, refilled to now and cut to its bursts (R209, R347). -/
def markerNow (s : State) (ctx q : Nat) : Marker :=
  let cbs := tokens (reg s (ctxIdx ctx) 0x0B * 4096)
  let pbs := tokens (reg s (ctxIdx ctx) 0x0C * 4096)
  match tget s.core.markers (ctx * 4 + q) with
  | none => { committed := cbs, peak := pbs, since := s.now }
  | some m =>
    { committed := min cbs (m.committed + reg s (ctxIdx ctx) 0x09 * (s.now - m.since))
      peak := min pbs (m.peak + reg s (ctxIdx ctx) 0x0A * (s.now - m.since))
      since := s.now }

/-- The two-rate three-colour marker, colour-blind: the colour of a data packet and the state
after it (R209). -/
def colourPacket (s : State) (q ctx size : Nat) : Nat × State :=
  let m := markerNow s ctx q
  let n := tokens size
  let (c, m) :=
    if m.peak < n then (2, m)
    else if m.committed < n then (1, { m with peak := m.peak - n })
    else (0, { m with peak := m.peak - n, committed := m.committed - n })
  let t := tset s.core.markers (ctx * 4 + q) m
  (c, { s with core := { s.core with markers := t } })

/-- Number of the ingress FIFO of a VL and colour (R198, Table 3). -/
def fifoOf (vl colour : Nat) : Nat :=
  if vl < 3 then vl else if colour = 0 then vl else vl + 2

/-- A packet in the core. -/
def corePkt (s : State) (id : Nat) : Option CorePkt := tget s.core.pkts id

/-- Key of an ingress FIFO. -/
def fifoKey (port fifo : Nat) : Nat := port * 8 + fifo % 8

/-- Packets of an ingress FIFO, oldest first. -/
def fifoList (s : State) (port fifo : Nat) : List Nat := (tget s.core.fifo (fifoKey port fifo)).getD []

/-- Bytes of some packets. -/
def pktBytes (s : State) (ids : List Nat) : Nat :=
  ids.foldl (fun n i => n + ((corePkt s i).map (·.bytes)).getD 0) 0

/-- Bytes held in a FIFO. -/
def fifoFill (s : State) (port fifo : Nat) : Nat := pktBytes s (fifoList s port fifo)

/-- Whether a port's ingress buffer has no room for a packet (R199). -/
def ingressFull (s : State) (port size : Nat) : Bool :=
  decide (524288 < ((List.range 7).foldl (fun n f => n + fifoFill s port f) 0) + size)

/-- A packet joins an ingress FIFO of a core port. -/
def coreEnter (s : State) (port age : Nat) (fromUp mark : Bool) (p : Packet) : State :=
  let (c, s) := if mark && p.isData && decide (0 < p.vl) then colourPacket s (portQuarter port) p.ctx p.size
    else (if p.isData && decide (0 < p.vl) then p.colour else 0, s)
  let p := p.withHdr fun h => { h with colour := c }
  let k := port * 8 + fifoOf p.vl c
  let id := s.core.nextPkt
  let c : CorePkt :=
    { pkt := p, inp := port, vlIn := p.vl, vlOut := p.vl, fromUp := fromUp, colour := c
      bytes := p.size, cells := roundUp p.size 128 / 128, age := age, entered := s.now }
  let fifo := tset s.core.fifo k ((tget s.core.fifo k).getD [] ++ [id])
  { s with core := { s.core with fifo := fifo, pkts := tset s.core.pkts id c, nextPkt := id + 1 } }

/-! ## Engines and their outstanding requests (R94) -/

/-- Engines of a quarter: movers 0 to 15, Scrum, step-engine slice, Pewter units, Caddie, and the
issuers outside the tracker. -/
def engScrum : Nat := 16
def engStep : Nat := 17
def engPewter (u : Nat) : Nat := 18 + u
def engCaddie : Nat := 22
def engWhistle : Nat := 23
def engPoint : Nat := 24

/-- Core port by which an engine's requests enter (R180, Table 1). -/
def enginePort (q e : Nat) : Nat :=
  if e < 16 then 65 + 4 * q
  else if e < 18 then 66 + 4 * q
  else if e < 24 then 67 + 4 * q
  else 64 + 4 * q

/-- Requests outstanding of one engine. -/
def engineLive (s : State) (q e : Nat) : Nat :=
  tcount s.net.reqs fun _ r => r.quarter == q && r.engine == e

/-- Whether an engine may take one more tracker entry: at most 512, and beyond its floor of 64
only what the floors of the others leave of 16,384 (R94). -/
def canTake (s : State) (q e : Nat) : Bool :=
  if 23 ≤ e then true
  else
    let mine := engineLive s q e
    if 512 ≤ mine then false
    else if mine < 64 then true
    else
      let held := (List.range 23).foldl (fun n i => n + max 64 (engineLive s q i)) 0
      decide (held < 16384)

/-! ## Flows at the source (R160) -/

/-- Whether a flow may send another request: fewer than 1,024 above its lowest unacknowledged. -/
def flowOpen (s : State) (dst srcQueue : Nat) : Bool :=
  match tget s.net.srcFlows (srcKey dst srcQueue) with
  | none => true
  | some f => match f.unacked with
    | [] => true
    | lo :: _ => decide ((f.next + 2 ^ 24 - lo) % 2 ^ 24 < 1024)

/-- Whether a node is fenced (R356). -/
def isFenced (s : State) (n : Nat) : Bool := thas s.recov.fenced n

/-- The time T of R165 for a target in µs: in the rack by the topology map, or across racks. -/
def resendTime (s : State) (dst : Nat) : Nat :=
  match tget s.core.routes dst with
  | some r => if r.rack then reg s 0x3E00 0x01 else reg s 0x3E00 0x02
  | none => reg s 0x3E00 0x02

/-- The packet of a request as it is sent now: source fields, FLOOR, incarnations and check. -/
def stampRequest (s : State) (p : Packet) (seq : Nat) (resend : Bool) : Packet :=
  let f := (tget s.net.srcFlows (srcKey p.dst p.srcQueue)).getD {}
  let lo := f.unacked.headD seq
  let inc := tget s.net.lastInc p.dst
  Packet.sealed (p.withHdr fun h =>
    { h with
      src := nodeId s, seq := seq, resend := resend, cn := false, vl := sourceVl h.opcode
      floor := (seq + 2 ^ 24 - lo) % 2 ^ 24, srcInc := ownInc s
      dstInc := inc.getD 0, dstKnown := inc.isSome })

/-- Whether the limiter of an issuing queue lets a data packet go now (R211). -/
def dataOpen (s : State) (srcQueue : Nat) : Bool :=
  match tget (s.core.limiters.get (issuerQuarter srcQueue)) srcQueue with
  | none => true
  | some l => decide (l.nextAt ≤ s.now)

/-- The same for a packet; control packets are never limited. -/
def limiterOpen (s : State) (p : Packet) : Bool := !p.isData || dataOpen s p.srcQueue

/-- Whether the ingress buffer of an engine's port has room for a packet (R200). -/
def portOpen (s : State) (q e : Nat) (p : Packet) : Bool := !ingressFull s (enginePort q e) p.size

/-- The limiter of an issuing queue after a data packet: the next may go once the packet's bytes
have passed at the limited rate; rates are in MB/s and a cycle is 5/9 ns. -/
def limiterCharge (s : State) (p : Packet) : State :=
  if p.isData then
    let t := tmod (s.core.limiters.get (issuerQuarter p.srcQueue)) p.srcQueue fun l =>
      { l with nextAt := s.now + p.size * 1800 / max 1 l.rate }
    { s with core := { s.core with limiters := s.core.limiters.set (issuerQuarter p.srcQueue) t } }
  else s

/-- A request of the part is issued: it takes the next SEQ of its flow, is recorded as
outstanding and enters the core at its engine's port. -/
def issueReq (s : State) (q e : Nat) (owner : Owner) (p : Packet) : State :=
  let k := srcKey p.dst p.srcQueue
  let f := (tget s.net.srcFlows k).getD {}
  let seq := f.next
  let f := { f with next := (seq + 1) % 2 ^ 24, unacked := f.unacked ++ [seq] }
  let s := { s with net := { s.net with srcFlows := tset s.net.srcFlows k f } }
  let sent := stampRequest s p seq false
  let r : Req := { pkt := sent, owner := owner, quarter := q, engine := e, firstSent := s.now, timerFrom := s.now }
  let s := { s with net := { s.net with reqs := tset s.net.reqs (reqKey p.dst p.srcQueue seq) r } }
  limiterCharge (coreEnter s (enginePort q e) 0 false true sent) sent

/-- A request of the part is issued once its flow may take it, behind those of the flow that wait (R160). -/
def issueInFlow (s : State) (d : Deferred) : State :=
  if flowOpen s d.pkt.dst d.pkt.srcQueue &&
      !(s.net.deferred.any fun x => x.pkt.dst == d.pkt.dst && x.pkt.srcQueue == d.pkt.srcQueue) then
    issueReq s d.quarter d.engine d.owner d.pkt
  else { s with net := { s.net with deferred := s.net.deferred ++ [d] } }

/-- The requests that wait for their flows are issued as far as the flows take them, in order. -/
def pumpDeferred (s : State) : State :=
  s.net.deferred.foldl issueInFlow { s with net := { s.net with deferred := [] } }

/-- An outstanding request is sent again with RESEND set, and its timer is armed again. -/
def resendNow (s : State) (key : Nat) (r : Req) : State :=
  let p := stampRequest s r.pkt r.pkt.seq true
  let s := bump s 0x3E00 0x06
  let t := tset s.net.reqs key { r with timerFrom := s.now, due := false }
  limiterCharge
    (coreEnter { s with net := { s.net with reqs := t } } (enginePort r.quarter r.engine) 0 false true p) p

/-- A re-send goes at once, or waits until the limiter of its issuing queue lets it go (R211). -/
def resend (s : State) (key : Nat) (r : Req) : State :=
  if limiterOpen s r.pkt then resendNow s key r
  else { s with net := { s.net with reqs := tset s.net.reqs key { r with due := true } } }

/-- Re-sends that waited go as far as their limiters let them. -/
def pumpResends (s : State) : State :=
  (s.net.reqs.filter fun x => x.2.due).foldl (fun s x =>
    if limiterOpen s x.2.pkt then resendNow s x.1 x.2 else s) s

/-- A request is final: it leaves the outstanding ones and its flow. -/
def dropReq (s : State) (key : Nat) (r : Req) : State :=
  let k := srcKey r.pkt.dst r.pkt.srcQueue
  let flows := tmod s.net.srcFlows k fun f => { f with unacked := f.unacked.filter fun x => x != r.pkt.seq }
  { s with net := { s.net with reqs := tdel s.net.reqs key, srcFlows := flows } }

/-- A reply or other packet of an end-point block enters the core at its quarter's port. -/
def sendReply (s : State) (q : Nat) (p : Packet) : State :=
  coreEnter s (64 + 4 * (q % 4)) 0 false true p

/-! ## Packets in the core -/

/-- The state with the core changed. -/
def setCore (s : State) (c : CoreState) : State := { s with core := c }

/-- The state with one packet changed. -/
def modPkt (s : State) (id : Nat) (f : CorePkt → CorePkt) : State :=
  setCore s { s.core with pkts := tmod s.core.pkts id f }

/-- A packet leaves the core. -/
def dropPkt (s : State) (id : Nat) : State := setCore s { s.core with pkts := tdel s.core.pkts id }

/-! ## A port that leaves service (R208) -/

/-- Held cells and reassembled packets of a port on VL1 to VL4 are discarded. -/
def portCut (s : State) (n : Nat) : State :=
  let gone := s.core.pkts.filter fun x =>
    x.2.out == some n && x.2.vlOut != 0 && x.2.admitted == x.2.cells
  let s := gone.foldl (fun s x => bump (dropPkt s x.1) 0x3D00 0x08) s
  let part := (s.core.pkts.filter fun x =>
    x.2.out == some n && x.2.vlOut != 0 && decide (0 < x.2.admitted)).map (·.1)
  let s := part.foldl (fun s i => modPkt s i fun c => { c with cut := true, got := c.admitted }) s
  let cells := tmap s.core.cells fun k l =>
    if k % 80 = n then l.filter fun c => c.vl == 0 else l
  setCore s { s.core with cells := cells }

end Sys2Proof.Machine
end

