-- ==== Sys2Proof/Machine/Buffers.lean ====
section
/-! DEFINITION. The Ethernet ports and their buffers (R412, R413), early drop (R425), what leaves a
port, and the limiter of a queue pair's own requests (R426). -/

namespace Sys2Proof.Machine

/-! ## Ports -/

/-- An Ethernet port. -/
def ethPort (s : State) (e : Nat) : EthPort := (tget s.eth.ports e).getD {}

/-- The state with one Ethernet port changed. -/
def setEthPort (s : State) (e : Nat) (p : EthPort) : State :=
  { s with eth := { s.eth with ports := tset s.eth.ports e p } }

/-- Whether an Ethernet port runs. -/
def ethUp (s : State) (e : Nat) : Bool := (ethPort s e).up

/-- Bytes of a frame that carries a RoCEv2 packet: Ethernet, IP, UDP and base headers, checks, the
extended headers and the payload. -/
def roceSize (ipv6 : Bool) (ext payload : Nat) : Nat := 62 + (if ipv6 then 20 else 0) + ext + payload

/-! ## Buffers and early drop (R413, R425) -/

/-- Bytes of an ingress or egress buffer. -/
def ethBuffer : Nat := 512 * 1024

/-- A port whose ingress buffer has drained at its rate up to now (log entry 27). -/
def agedPort (s : State) (p : EthPort) : EthPort :=
  { p with ingress := p.ingress - (s.now - p.bufferedAt) * p.rate * 5 / 72, bufferedAt := s.now }

/-- What early drop does to a packet. -/
inductive Fate where
  | pass
  | mark
  | drop
deriving DecidableEq, Repr

/-- Early drop by colour at an occupancy: Kmin and Kmax in KiB, Pmax in 1/65,536 (Table 7). -/
def fateOf (s : State) (colour b size : Nat) (ect : Bool) : State × Fate :=
  let kmin := reg s 0x4600 (3 * colour + 1) * 1024
  let kmax := reg s 0x4600 (3 * colour + 2) * 1024
  if ethBuffer < b + size then (s, .drop)
  else if b < kmin then (s, .pass)
  else if kmax ≤ b then (s, .drop)
  else
    let r := drawn s
    let p := reg s 0x4600 (3 * colour + 3) * (b - kmin) / (kmax - kmin)
    (r.2, if (Config.draw16 r.1).toNat < p then (if ect then .mark else .drop) else .pass)

/-- Bytes of the longest frame accepted (R413). -/
def ethLongest : Nat := 9216

/-- A packet meets a port's ingress buffer: none where it is dropped, else whether it is marked. A frame that is too
long is discarded and counted with those not supported (R413). -/
def ethIn (s : State) (e colour size : Nat) (ect : Bool) : State × Option Bool :=
  if ethLongest < size then (bump s (0x4100 + e) 0x0A, none)
  else
  let p := agedPort s (ethPort s e)
  let r := fateOf s colour p.ingress size ect
  match r.2 with
  | .drop => (bump (setEthPort r.1 e p) (0x4100 + e) 0x0B, none)
  | .mark => (bump (setEthPort r.1 e { p with ingress := p.ingress + size }) (0x4100 + e) 0x0C, some true)
  | .pass => (setEthPort r.1 e { p with ingress := p.ingress + size }, some false)

/-! ## Egress (R426) -/

/-- Places in the order of service. -/
def rankControl : Nat := 2
def rankData : Nat := 3

/-- Bytes that wait in a port's egress buffer. -/
def EthPort.queued (p : EthPort) : Nat := p.egress.foldl (fun n f => n + f.size) 0

/-- Core cycles that a frame occupies a port's transmitter, at its rate in Gb/s. -/
def frameTime (p : EthPort) (size : Nat) : Nat := (size * 72 + 5 * p.rate - 1) / (5 * p.rate)

/-- The first data frame of each context in a port's egress buffer. -/
def EthPort.dataHeads (p : EthPort) : Tbl EthFrame :=
  p.egress.foldl (fun t f => if f.rank ≠ rankData ∨ thas t f.ctx = true then t else tset t f.ctx f) []

/-- The frame that a port sends next, and the port without it: PTP events, then control, then data by deficit round
robin over contexts with quantum 8,192 bytes × WEIGHT. -/
def nextFrame (s : State) (p : EthPort) : Option (EthFrame × EthPort) :=
  match (p.egress.find? fun f => f.rank == 1).or (p.egress.find? fun f => f.rank == rankControl) with
  | some f => some (f, { p with egress := p.egress.erase f })
  | none =>
    let hs := p.dataHeads
    let d := tfilter p.deficit fun c _ => thas hs c
    match drr (fun c => 8192 * ctxWeight s c) EthFrame.size hs (2 * hs.length + 3) d p.lastCtx with
    | none => none
    | some (f, d, c) => some (f, { p with egress := p.egress.erase f, deficit := d, lastCtx := some c })

/-- A port sends the frames whose turn has come while its transmitter is free; the fuel covers the frames that wait. -/
def serveFrames : Nat → State → Nat → State
  | 0, s, _ => s
  | fuel + 1, s, e =>
    if s.now < (ethPort s e).busyUntil then s
    else
      match nextFrame s (ethPort s e) with
      | none => s
      | some (f, p) =>
        serveFrames fuel (send (setEthPort s e { p with busyUntil := p.busyUntil + frameTime p f.size }) f.what) e

/-- What is due at a port leaves it. -/
def servePort (s : State) (e : Nat) : State := serveFrames (ethPort s e).egress.length s e

/-- What is due at every port leaves it. -/
def serveEth (s : State) : State :=
  s.eth.ports.foldl (fun s x => if x.2.egress.isEmpty then s else servePort s x.1) s

/-- A frame enters a port's egress buffer; a transmitter that has nothing else to send is free now. -/
def queueFrame (s : State) (p : EthPort) (f : EthFrame) : EthPort :=
  { p with
    egress := p.egress ++ [f]
    busyUntil := if p.egress.isEmpty then max p.busyUntil s.now else p.busyUntil }

/-- Something leaves an Ethernet port as a green packet in the order of R426, unless its egress buffer drops it; a port
that is down sends nothing. -/
def ethOut (s : State) (e rank ctx size : Nat) (x : Sent) : State :=
  if ethUp s e then
    let s := servePort s e
    let r := fateOf s 0 (ethPort s e).queued size false
    match r.2 with
    | .drop => bump r.1 (0x4100 + e) 0x0B
    | _ => servePort (setEthPort r.1 e
        (queueFrame s (ethPort s e) { rank := rank, ctx := ctx, size := size, what := x })) e
  else s

/-! ## Limiter of a queue pair (R426, R211) -/

/-- A limiter after the increases due since its last change; none once it is freed. -/
def agedLimiter (s : State) : Nat → Limiter → Option Limiter
  | 0, l => some l
  | fuel + 1, l =>
    if passedUs s l.lastChange 8 then
      let rate := l.rate + (l.rmax - l.rate) / 4
      if l.rmax * 63 ≤ rate * 64 then none
      else agedLimiter s fuel { l with rate := rate, lastChange := l.lastChange + 14400 }
    else some l

/-- The limiter of a queue pair as it now stands. -/
def QueuePair.limiterNow (p : QueuePair) (s : State) : Option Limiter := p.limiter.bind (agedLimiter s 64)

/-- Whether a queue pair's limiter lets a data packet go. -/
def QueuePair.limiterOpen (p : QueuePair) (s : State) : Bool :=
  match p.limiterNow s with
  | none => true
  | some l => decide (l.nextAt ≤ s.now)

/-- A queue pair whose limiter has let a number of bytes go. -/
def QueuePair.charged (p : QueuePair) (s : State) (size : Nat) : QueuePair :=
  { p with limiter := (p.limiterNow s).map fun l => { l with nextAt := s.now + size * 1800 / max 1 l.rate } }

end Sys2Proof.Machine
end

