-- ==== Sys2Proof/Machine/Deliver.lean ====
section
/-! DEFINITION. What follows at once from a store or an event: invalidation of read-cache lines
(R120), play starts (R99, R100), flag watches and cursor words (R98, R311), dirty slots (R317), and
the writing of whistle records to their rings (R104 to R108). -/

namespace Sys2Proof.Machine

/-! ## Engine read caches (R119, R120) -/

/-- Key of a quarter's read cache of an engine class. -/
def cacheKey (q cls : Nat) : Nat := q % 4 * 8 + cls

/-- The caches with the lines a test accepts removed. -/
def dropLines (s : State) (p : Nat → CacheLine → Bool) : State :=
  let t := tmap s.mem.caches fun k ls => ls.filter fun l => !(p k l)
  { s with mem := { s.mem with caches := t } }

/-- An acquire or fence of a context on a quarter (R120, R126). -/
def acquire (s : State) (ctx q : Nat) : State :=
  dropLines s fun k l => k / 8 == q % 4 && l.ctx == ctx

/-- A write by handle of an engine class at issue invalidates the lines it touches (R120). -/
def dropWritten (s : State) (q cls ctx : Nat) (h : BitVec 64) (len : Nat) : State :=
  dropLines s fun k l => k == cacheKey q cls && l.ctx == ctx &&
    decide (l.name < h.toNat + len) && decide (h.toNat < l.name + 128)

/-! ## Pushed descriptors (R76, R81) -/

/-- Free entries of a queue's descriptor ring. -/
def ringFree (r : Queue) : Nat := 2 ^ r.ringLog2 - (r.pushed + 2 ^ 32 - r.completed) % 2 ^ 32

/-- A push is refused and counted, in its queue and over the part. -/
def pushRefused (s : State) (ctx queue : Nat) : State :=
  bump (modQueue s ctx queue fun r => { r with refused := satInc 16 r.refused }) 0x6000 0x07

/-- Descriptors are appended to a queue as one contiguous run (R81). -/
def appendDescs (s : State) (ctx queue : Nat) (ds : List Desc) (run : Option Nat) : State :=
  modQueue s ctx queue fun r =>
    { r with
      pushed := (r.pushed + ds.length) % 2 ^ 32
      slots := r.slots ++ ds.zipIdx.map fun x =>
        { desc := x.1, run := run, lastOfRun := run.isSome && x.2 + 1 == ds.length } }

/-! ## Play starts (R99, R100) -/

/-- The state with one play changed. -/
def modPlay (s : State) (key : Nat) (f : Play → Play) : State :=
  { s with q := { s.q with plays := tmod s.q.plays key f } }

/-- Ring and quarter of a play's records: those of its bound queue (R104). -/
def playRing (s : State) (p : Play) : Nat × Nat :=
  match queueOf s p.ctx p.queue with
  | some r => (r.ring, r.quarter)
  | none => (0, p.store)

/-- A play record of a kind is written. -/
def playWhistle (s : State) (p : Play) (kind : Nat) (status : Status) : State :=
  let r := playRing s p
  whistleNow s
    { kind := kind, status := status, ctx := p.ctx, queue := p.queue, quarter := r.2
      ft := ftOf s r.2, seq := p.no } r.1

/-- The watch of a play's flag trigger is gone. -/
def dropPlayWatch (s : State) (key : Nat) : State :=
  { s with q := { s.q with
    watches := s.q.watches.map fun l => l.filter fun w => decide (w.who ≠ .play key) } }

/-- A start of a play, whatever started it: it shows pending until its descriptors are appended, and
ONE_SHOT disarms its trigger (Table 10). -/
def startPlayNow (s : State) (key : Nat) (p : Play) : State :=
  let s := if p.oneShot then dropPlayWatch s key else s
  let s := modPlay s key fun p =>
    { p with
      state := .pending, starts := satInc 16 p.starts, runStatus := Code.ok
      shot := p.oneShot, armed := p.armed && !p.oneShot }
  let s := acquire s p.ctx (playRing s p).2
  if p.whistleStart then playWhistle s p 0x03 Code.ok else s

/-- A trigger of a play: it starts, is latched, or is dropped as an overrun. -/
def trigger (s : State) (key : Nat) (armedOnly : Bool) : State :=
  match tget s.q.plays key with
  | none => s
  | some p =>
    if !running s || !ctxActive s p.ctx then s
    else if armedOnly && !p.armed then s
    else if p.state = .pending ∨ p.state = .running then
      if p.latched then
        bump (modPlay s key fun p => { p with overruns := satInc 16 p.overruns }) 0x6000 0x09
      else modPlay s key fun p => { p with latched := true }
    else startPlayNow s key p

/-! ## Flag watches (R98) -/

/-- Whether a comparison holds of a flag's value. -/
def flagHolds (cmp v w : Nat) : Bool :=
  match cmp with
  | 0 => v == w
  | 1 => decide (w ≤ v)
  | _ => v != w

/-- PA of a VA of a context, where it is mapped or its translation is held. -/
def paOf (s : State) (ctx va : Nat) : Option Nat :=
  (extentAt (uncut s) ctx va).map fun e => e.pa + (va - e.va)

/-- Whether the 8 bytes at a VA of a context are among stored parts. -/
def stored (s : State) (segs : List Seg) (ctx va : Nat) : Bool :=
  match paOf s ctx va with
  | none => false
  | some pa => segs.any fun g => decide (pa < g.pa + g.len) && decide (g.pa < pa + 8)

/-- Cursor value of a Caddie stream: the least of the largest values written, once every word has
been written (R311). -/
def cursorOf (c : CaddieStream) : Option Nat :=
  let vs := (List.range (c.cursorCount + 1)).map fun i => tget c.words i
  if vs.any (·.isNone) then none
  else some ((vs.filterMap id).foldl min (2 ^ 64 - 1))

/-- The state with one Caddie stream changed. -/
def modCaddie (s : State) (key : Nat) (f : CaddieStream → CaddieStream) : State :=
  { s with caddie := { s.caddie with streams := tmod s.caddie.streams key f } }

/-- A value performed on a cursor word (R311). -/
def cursorWrite (s : State) (key word v : Nat) : State :=
  match tget s.caddie.streams key with
  | none => s
  | some c =>
    match tget c.words word with
    | some old =>
      if v < old then bump s 0x6300 0x08
      else modCaddie s key fun c =>
        let c' := { c with words := tset c.words word v }
        match cursorOf c' with
        | some n => if (c.reached.head?.map (·.1)) = some n then c'
            else { c' with reached := (n, s.now) :: c'.reached }
        | none => c'
    | none => modCaddie s key fun c =>
        let c' := { c with words := tset c.words word v }
        match cursorOf c' with
        | some n => { c' with reached := (n, s.now) :: c'.reached }
        | none => c'

/-- A watch is evaluated against the flag's present value. -/
def watchEval (s : State) (w : Watch) : State :=
  let v := flagValue s w.ctx w.va
  match w.who with
  | .caddie key word => cursorWrite s key word v
  | .play key => if flagHolds w.cmp v w.value.toNat then trigger s key true else s
  | .wait key =>
    if flagHolds w.cmp v w.value.toNat then finish s key Code.ok (BitVec.ofNat 64 v) else s

/-- A watch is no longer needed: its WAIT_FLAG has become final. -/
def watchSpent (s : State) (w : Watch) : Bool :=
  match w.who with
  | .wait key => match tget s.q.flights key with
    | some f => match f.progress with
      | .final _ _ => true
      | _ => false
    | none => true
  | _ => false

/-- The state without the watches of WAIT_FLAGs that have become final. -/
def pruneWatches (s : State) : State :=
  { s with q := { s.q with watches := s.q.watches.map fun ws => ws.filter fun w => !watchSpent s w } }

/-- Whether two lists of parts share a physical byte. -/
def segsMeet (a b : List Seg) : Bool :=
  a.any fun x => b.any fun y => decide (x.pa < y.pa + y.len) && decide (y.pa < x.pa + x.len)

/-- Slot index of an entry with a slot destination. -/
def SchedEntry.slot (e : SchedEntry) : Nat := bits e.dest 0 12

/-- VA of a slot, and its bytes. -/
def CaddieStream.slotAt (c : CaddieStream) (i : Nat) : Nat := c.slotVa + i * 2 ^ c.slotLog2
def CaddieStream.slotBytes (c : CaddieStream) : Nat := 2 ^ c.slotLog2

/-- Slots that a store touches after landing, under any name of their bytes, become dirty (R317). -/
def dirtySlots (s : State) (segs : List Seg) : State :=
  let t := tmap s.caddie.streams fun _ c =>
    { c with occupants := tmap c.occupants fun i o =>
        if segsMeet segs (heldCover s c.ctx (c.slotAt i) c.slotBytes).1 then { o with dirty := true } else o }
  { s with caddie := { s.caddie with streams := t } }

/-- What follows a store performed on a range of a context: the watches on its bytes are
evaluated, quarter by quarter, and slots become dirty. -/
def afterStore (s : State) (ctx va len : Nat) : State :=
  let segs := (heldCover s ctx va len).1
  let s := dirtySlots s segs
  let ws := (s.q.watches.list.flatten).filter fun w => stored s segs w.ctx w.va
  if ws.isEmpty then s else pruneWatches (ws.foldl watchEval s)

/-- A store by VA with all that follows it. -/
def storeVa (s : State) (ctx va : Nat) (data : Bytes) : Access1 :=
  let a := writeVa s ctx va data
  ⟨afterStore a.st ctx va data.length, a.status, []⟩

/-! ## Whistle rings (R104 to R108, R423, R424) -/

/-- Handle of the record a ring writes next (R105). -/
def ringSlot (r : Ring) : BitVec 64 := handleAdd r.base (r.written % 2 ^ r.sizeLog2 * 32)

/-- PHASE of the record a ring writes next: 1 on the first pass, inverted on each wrap. -/
def ringPhase (r : Ring) : Bool := r.written % 2 ^ 32 / 2 ^ r.sizeLog2 % 2 == 0

/-- Whether a ring is full by the last HEAD read (R107). -/
def ringFull (r : Ring) : Bool :=
  decide (2 ^ r.sizeLog2 ≤ (r.written + 2 ^ 32 - r.lastHead) % 2 ^ 32)

/-- A WHISTLE descriptor completes with its record (R125). -/
def endWhistle (s : State) (flight : Option Nat) (status : Status) : State :=
  match flight with
  | none => s
  | some fk => finish s fk status

/-- A ring is lost with a failing status: its waiting records are dropped and counted, and the WHISTLE
descriptors among them complete with the status (R108). -/
def ringLost (s : State) (key : Nat) (status : Status) : State :=
  match tget s.q.rings key with
  | none => s
  | some r =>
    if r.lost.isSome then s
    else
      let n := r.waiting.length
      let s := modRing s key fun r =>
        { r with lost := some status, waiting := [], lostCount := min 65535 (r.lostCount + n) }
      let s := r.waiting.foldl (fun s w => endWhistle s w.owner status) (bumpBy s 0x6000 0x08 n)
      raise s
        { cls := 0x0E, quarter := some r.server, status := status, ctx := some r.ctx, d0 := r.no }

/-- A request of the part goes out on its queue pair (R423). -/
def sendRing (s : State) (qpn : Nat) (p : QueuePair) (r : RingReq) : State :=
  ethOut s p.port rankData p.ctx (roceSize p.ipv6 16 r.data.length)
    (.roceReq qpn r.psn r.va p.targetRkey (if r.isHead then 8 else 32) r.data)

/-- A request of the part as RC requester joins its queue pair; with no queue pair ready the ring is
lost (R423, R108). -/
def ethRequest (s : State) (ring : Nat) (flight : Option Nat) (target : BitVec 64) (isHead : Bool)
    (data : Bytes) : State :=
  let qpn := bits target 0 24
  match tget s.eth.qps qpn with
  | none => endWhistle (ringLost s ring Code.targetLost) flight Code.targetLost
  | some p =>
    if p.state ≠ 1 then endWhistle (ringLost s ring Code.targetLost) flight Code.targetLost
    else
      let r : RingReq :=
        { psn := p.sendPsn, ring := ring, flight := flight, isHead := isHead, va := p.targetVa + bits target 24 40
          data := data, since := s.now }
      let p := if isHead then p else p.charged s (roceSize p.ipv6 16 32)
      let p := { p with sendPsn := (p.sendPsn + 1) % 2 ^ 24, sends := p.sends ++ [r] }
      sendRing { s with eth := { s.eth with qps := tset s.eth.qps qpn p } } qpn p r

/-- HEAD of a ring is read. -/
def askHead (s : State) (key : Nat) (r : Ring) : State :=
  let s := modRing s key fun r => { r with headAsked := true, headAt := s.now }
  if r.baseKind then ethRequest s key none r.head true []
  else
    issueReq s r.server engWhistle (.head key)
      (mkRead r.ctx (ctxGen s r.ctx) (issuer r.server 0) r.head 8)

/-- A record is written to a ring with room (R105), and sent as a UDP whistle where UDP is set. -/
def ringWrite (s : State) (key : Nat) (r : Ring) (w : Whistle) : State :=
  let data := whistleBytes w (ringPhase r)
  let s := modRing s key fun r => { r with written := (r.written + 1) % 2 ^ 32 }
  let s := if r.baseKind then
      let off := r.written % 2 ^ r.sizeLog2 * 32
      ethRequest s key w.owner (BitVec.ofNat 64 (r.base.toNat + off * 2 ^ 24)) false data
    else
      issueReq s r.server engWhistle (.ring key w.owner)
        (mkData 0x41 r.ctx (ctxGen s r.ctx) (issuer r.server 0) (ringSlot r) 0 data)
  if r.udp then
    match tget s.eth.targets r.ctx with
    | none => bump s 0x4300 0x02
    | some t => ethOut s t.port rankControl r.ctx (if t.ipv6 then 114 else 94) (.udpWhistle r.ctx
        (leBytes 16 (nodeId s % 4096 + r.no % 65536 * 2 ^ 16 + r.written % 2 ^ 32 * 2 ^ 32) ++ data))
  else s

/-- Whether a ring's next request may enter its flow. -/
def ringFlowOpen (s : State) (r : Ring) (h : BitVec 64) : Bool :=
  if r.baseKind then
    h == r.head || ((tget s.eth.qps (bits h 0 24)).map fun p => p.limiterOpen s).getD true
  else flowOpen s (handleNode h) (issuer r.server 0) && (h == r.head || dataOpen s (issuer r.server 0))

/-- Whether HEAD may be read again: 6000:04 after the last read (R107). -/
def headDue (s : State) (r : Ring) : Bool := r.headAt == 0 || passedUs s r.headAt (reg s 0x6000 0x04)

/-- Whether a merged record is to be written: it has its count, or a completion in it was urgent (R106). -/
def Ring.heldDue (r : Ring) (h : Held) : Bool := h.urgent || decide (max 1 r.coalCount ≤ h.record.count)

/-- One ring's records are written in order while it has room: the loss of records while it was full,
those that wait, then merged ones that are due (R107). The fuel covers the records there are. -/
def pumpRing : Nat → State → Nat → State
  | 0, s, _ => s
  | fuel + 1, s, key =>
    match tget s.q.rings key with
    | none => s
    | some r =>
      if r.lost.isSome then s
      else if ringFull r then
        if r.headAsked || !headDue s r || !ringFlowOpen s r r.head then s else askHead s key r
      else if !ringFlowOpen s r (if r.baseKind then r.base else ringSlot r) then s
      else if 0 < r.dropped then
        let s := modRing s key fun r => { r with dropped := 0 }
        pumpRing fuel
          (ringWrite s key r
            { kind := 0x0A, ctx := r.ctx, quarter := r.server, ft := ftOf s r.server
              detail := BitVec.ofNat 64 r.dropped }) key
      else match r.waiting with
        | [] =>
          match r.held.find? fun h => r.heldDue h.2 with
          | some h => pumpRing fuel (flushHeld s r.ctx r.no h.1) key
          | none => s
        | w :: ws =>
          pumpRing fuel (ringWrite (modRing s key fun r => { r with waiting := ws }) key r w) key

/-- Every ring's waiting records. -/
def pumpRings (s : State) : State :=
  s.q.rings.foldl (fun s p => pumpRing (p.2.waiting.length + 2 * p.2.held.length + 2) s p.1) s

/-- The result of a ring write comes back: a WHISTLE descriptor whose record it was completes with it, and
a failure loses the ring (R108, R125). -/
def ringAnswer (s : State) (key : Nat) (flight : Option Nat) (status : Status) : State :=
  let s := endWhistle s flight status
  if status = Code.ok then s else ringLost s key status

/-- A HEAD value comes back; where it gives room, the next read is due as soon as the ring is full again. -/
def headAnswer (s : State) (key : Nat) (status : Status) (data : Bytes) : State :=
  let s := modRing s key fun r =>
    let r := { r with headAsked := false, lastHead := if status = Code.ok then ofLe data % 2 ^ 32 else r.lastHead }
    { r with headAt := if ringFull r then r.headAt else 0 }
  if status = Code.ok then s else ringLost s key status

end Sys2Proof.Machine
end

