-- ==== Sys2Proof/Machine/Formats.lean ====
section
/-! DEFINITION. The element formats of Scrum, the step engine and Pewter (R216, R217): decoding
into accumulators (R219), conversion on output (R221 to R223), and the rounding draws (R222). -/

namespace Sys2Proof.Machine

/-- Bytes that 256 elements of a format occupy (R216, Table 2); zero for a reserved code. -/
def unitBytes (f : Nat) : Nat :=
  match f with
  | 0 => 1024 | 1 => 512 | 2 => 512 | 3 => 256 | 4 => 256 | 5 => 264 | 6 => 264
  | 7 => 200 | 8 => 200 | 9 => 136 | 10 => 264 | 11 => 1024 | 12 => 2048 | 13 => 1024
  | _ => 0

/-- Largest SEG_LOG2 of a format as input (R216, Table 2). -/
def maxSegLog2 (f : Nat) : Nat :=
  match f with
  | 0 => 11 | 1 => 12 | 2 => 12 | 3 => 13 | 4 => 13 | 5 => 12 | 6 => 12
  | 7 => 13 | 8 => 13 | 9 => 13 | 10 => 12 | 11 => 11 | 12 => 10 | 13 => 11
  | _ => 0

/-- Width of an element in bits, block scales apart. -/
def elemBits (f : Nat) : Nat :=
  match f with
  | 0 => 32 | 1 => 16 | 2 => 16 | 7 => 6 | 8 => 6 | 9 => 4 | 11 => 32 | 12 => 64 | 13 => 32
  | _ => 8

/-- An MX format: blocks of 32 elements with a shared scale. -/
def isMx (f : Nat) : Bool := decide (5 ≤ f) && decide (f ≤ 10)

/-- The narrow element formats: exponent and significand bits. -/
def smallFmt (f : Nat) : Fmt :=
  match f with
  | 3 => ⟨4, 3⟩ | 5 => ⟨4, 3⟩ | 4 => ⟨5, 2⟩ | 6 => ⟨5, 2⟩ | 7 => ⟨2, 3⟩ | 8 => ⟨3, 2⟩
  | _ => ⟨2, 1⟩

/-- The word of the largest finite magnitude of a narrow format. -/
def smallMax (f : Nat) : Nat :=
  match f with
  | 3 => 0x7E | 5 => 0x7E | 4 => 0x7B | 6 => 0x7B | 7 => 0x1F | 8 => 0x1F | _ => 0x7

/-- The exponent emax of a narrow format (R223). -/
def emax (f : Nat) : Int :=
  match f with
  | 3 => 8 | 5 => 8 | 4 => 15 | 6 => 15 | 7 => 2 | 8 => 4 | 9 => 2 | _ => 0

/-- The value of a narrow element: E5M2 has infinities and NaNs, E4M3 one NaN of each sign, and
the others are finite; an MXINT8 element is an integer over 64 (R217). -/
def smallDecode (f x : Nat) : Num :=
  if f = 10 then
    let i := toSigned 8 x
    .fin (decide (i < 0)) i.natAbs (-6)
  else if f = 4 ∨ f = 6 then (smallFmt f).decode x
  else
    let g := smallFmt f
    let neg := decide (x / g.signWord % 2 = 1)
    let ef := x / 2 ^ g.mb % 2 ^ g.eb
    let m := x % 2 ^ g.mb
    if (f = 3 ∨ f = 5) ∧ ef = g.top ∧ m = 7 then .nan
    else if ef = 0 then .fin neg m (1 - g.bias - g.mb)
    else .fin neg (m + 2 ^ g.mb) (ef - g.bias - g.mb)

/-- The word of m · 2^e in a narrow format, saturating (R221). -/
def smallPack (f : Nat) (r : Rnd) (neg : Bool) (m : Nat) (e : Int) : Nat :=
  if f = 10 then
    let n := if m = 0 then 0
      else if -6 ≤ e then m * 2 ^ (e + 6).toNat
      else roundShift r m (-6 - e).toNat false
    if neg then (256 - min n 128) % 256 else min n 127
  else
    let g := smallFmt f
    let sign := if neg then g.signWord else 0
    if m = 0 then sign
    else
      let p := g.roundTo r m e false
      sign + min ((p.2 + g.mb + g.bias - 1).toNat * 2 ^ g.mb + p.1) (smallMax f)

/-- The word of a value in FP8 or a narrow element: infinities saturate, and a NaN is the
canonical NaN of the format (R221). -/
def smallEncode (f : Nat) (r : Rnd) (x : Num) : Nat :=
  match x with
  | .nan => if f = 4 ∨ f = 6 then 0x7E else 0x7F
  | .inf neg => (if neg then (smallFmt f).signWord else 0) + smallMax f
  | .fin neg m e => smallPack f r neg m e

/-! ## Lists of fixed-width fields -/

/-- The first n fields of w bits of a number, lowest first. -/
def unpackBits (w : Nat) : Nat → Nat → List Nat
  | 0, _ => []
  | n + 1, x => x % 2 ^ w :: unpackBits w n (x / 2 ^ w)

/-- The number whose fields of w bits are given, lowest first. -/
def packBits (w : Nat) : List Nat → Nat
  | [] => 0
  | x :: xs => x % 2 ^ w + 2 ^ w * packBits w xs

/-- A list cut into runs of a length; the fuel bounds the number of runs. -/
def cutRuns {α : Type} (n : Nat) : Nat → List α → List (List α)
  | 0, _ => []
  | fuel + 1, l => if l.isEmpty then [] else l.take n :: cutRuns n fuel (l.drop n)

/-! ## Decoding into accumulators (R219) -/

/-- The accumulator word of a plain element. -/
def elemDecode (f x : Nat) : Nat :=
  match f with
  | 0 => x
  | 1 => fp32.encode .nearest (fp16.decode x)
  | 2 => fp32.encode .nearest (bf16.decode x)
  | 11 => (BitVec.ofInt 64 (toSigned 32 x)).toNat
  | 12 => x
  | 13 => x
  | _ => fp32.encode .nearest (smallDecode f x)

/-- The accumulator word of an MX element under a scale code. -/
def mxDecode (f scale x : Nat) : Nat :=
  if scale = 0xFF then fp32.qnan
  else
    match smallDecode f x with
    | .fin neg m e => fp32.encode .nearest (.fin neg m (e + scale - 127))
    | v => fp32.encode .nearest v

/-- The accumulators of one unit of 256 elements, or of fewer where a tile's row ends. -/
def decodeUnit (f : Nat) (b : Bytes) : List Nat :=
  if isMx f then
    let scales := b.take 8
    let n := (b.length - 8) * 8 / elemBits f
    let xs := unpackBits (elemBits f) n (ofLe (b.drop 8))
    (List.range n).zipWith (fun k x => mxDecode f ((scales.getD (k / 32) 0).toNat) x) xs
  else
    (unpackBits (elemBits f) (b.length * 8 / elemBits f) (ofLe b)).map (elemDecode f)

/-- The accumulators of a run of elements. -/
def decodeElems (f : Nat) (b : Bytes) : List Nat :=
  ((cutRuns (unitBytes f) (b.length + 1) b).map (decodeUnit f)).flatten

/-! ## Conversion on output (R221 to R223) -/

/-- The accumulator type of an operation on an input format: 0 FP32, 1 INT64, 2 32 bits
(R218, Table 3). -/
def accType (op inFmt : Nat) : Nat :=
  if op = 5 then 2 else if op = 4 ∨ inFmt = 11 then 1 else 0

/-- One converted element of a format that is not MX. -/
def elemEncode (f : Nat) (r : Rnd) (x : Nat) : Nat :=
  match f with
  | 0 => x
  | 1 => fp16.encode r (fp32.decode x)
  | 2 => bf16.encode r (fp32.decode x)
  | 11 => x % 2 ^ 32
  | 12 => x
  | 13 => x
  | _ => smallEncode f r (fp32.decode x)

/-- The larger of two magnitudes. -/
def maxMag (x y : Num) : Num := if x.lt y.abs then y.abs else x

/-- ⌊log2 m⌋ − emax of a magnitude, clamped (R223). -/
def scaleExp (f : Nat) (m : Num) : Int :=
  match m with
  | .fin _ m e => if m = 0 then -127 else max (-127) (min 127 (Nat.log2 m + e - emax f))
  | _ => 0

/-- x / 2^k. -/
def Num.scaleDown (x : Num) (k : Int) : Num :=
  match x with
  | .fin neg m e => .fin neg m (e - k)
  | v => v

/-- An MX block: scale code and element words. -/
def mxBlock (f : Nat) (rs : List Rnd) (xs : List Num) : Nat × List Nat :=
  if xs.any fun x => !x.isFinite then (0xFF, xs.map fun _ => 0)
  else
    let x := scaleExp f (xs.foldl maxMag (.fin false 0 0))
    ((x + 127).toNat, rs.zipWith (fun r v => smallEncode f r (v.scaleDown x)) xs)

/-- The bytes of one unit from its accumulators, with the rounding of each element. -/
def encodeUnit (f : Nat) (rs : List Rnd) (accs : List Nat) : Bytes :=
  if isMx f then
    let xs := accs.map fp32.decode
    let blocks := (cutRuns 32 (xs.length + 1) (rs.zip xs)).map fun p =>
      mxBlock f (p.map (·.1)) (p.map (·.2))
    (padTo 8 (blocks.map fun b => BitVec.ofNat 8 b.1)) ++
      leBytes (accs.length * elemBits f / 8) (packBits (elemBits f) (blocks.map (·.2)).flatten)
  else
    leBytes (accs.length * elemBits f / 8)
      (packBits (elemBits f) (rs.zipWith (elemEncode f) accs))

/-- The bytes of a run of elements. -/
def encodeElems (f : Nat) (rs : List Rnd) (accs : List Nat) : Bytes :=
  ((cutRuns 256 (accs.length + 1) (rs.zip accs)).map fun p =>
    encodeUnit f (p.map (·.1)) (p.map (·.2))).flatten

/-! ## The draws of stochastic rounding (R222) -/

/-- The 16-bit draw of an element: seed, group number, round and element. -/
def roundDraw (seed g r e : Nat) : Nat :=
  let w := 2 ^ 64
  let c := (g % 65536) * 2 ^ 48 + r % 65536 * 2 ^ 32 + e % 2 ^ 30
  let z := Nat.xor c (seed % w)
  let z := Nat.xor z (z / 2 ^ 30) * 0xBF58476D1CE4E5B9 % w
  let z := Nat.xor z (z / 2 ^ 27) * 0x94D049BB133111EB % w
  let z := Nat.xor z (z / 2 ^ 31)
  z / 2 ^ 48

/-- The roundings of n elements from a first one. -/
def roundings (stochastic : Bool) (seed g r first n : Nat) : List Rnd :=
  (List.range n).map fun i =>
    if stochastic then .stochastic (roundDraw seed g r (first + i)) else .nearest

/-! ## Accumulation (R219) -/

/-- Whether Table 3 lists an operation with an input and an output format (R218). -/
def comboListed (op inFmt outFmt : Nat) : Bool :=
  match op with
  | 0 => decide (inFmt ≤ 10) && decide (outFmt ≤ 10)
  | 3 => decide (inFmt ≤ 10) && decide (outFmt ≤ 10)
  | 1 => (decide (inFmt ≤ 10) && decide (outFmt ≤ 10)) || (inFmt == 11 && outFmt == 11)
  | 2 => (decide (inFmt ≤ 10) && decide (outFmt ≤ 10)) || (inFmt == 11 && outFmt == 11)
  | 4 => (inFmt == 11 || inFmt == 12) && (outFmt == 11 || outFmt == 12)
  | 5 => inFmt == 13 && outFmt == 13
  | _ => false

/-- The first contribution of an element as it is written into the accumulator. -/
def accFirst (op x : Nat) : Nat := if op = 3 then fp32.mulW x x else x

/-- A later contribution combined with an accumulator. -/
def accCombine (op ty a x : Nat) : Nat :=
  match op with
  | 0 => fp32.addW a x
  | 3 => fp32.addW a (fp32.mulW x x)
  | 1 => if ty = 1 then (if toSigned 64 x < toSigned 64 a then x else a) else fp32.minW a x
  | 2 => if ty = 1 then (if toSigned 64 a < toSigned 64 x then x else a) else fp32.maxW a x
  | 4 => (a + x) % 2 ^ 64
  | _ => Nat.xor a x

end Sys2Proof.Machine
end

