-- ==== Sys2Proof/Machine/Work.lean ====
section
/-! DEFINITION. Jobs: the work of an engine as a list of elementary pieces (R92, R93), multicast
over group entries (R171, R172), and the range-tracker holds of armed records (R70). -/

namespace Sys2Proof.Machine

/-! ## Jobs -/

/-- The state with the jobs replaced. -/
def setJobs (s : State) (t : Tbl Job) : State := { s with net := { s.net with jobs := t } }

/-- The job of a kind. -/
def jobOf (s : State) (k : JobKind) : Option Job := tget s.net.jobs (jobKey k)

/-- Work pieces numbered from a request number. -/
def numberWork (n : Nat) : List Work → List (Nat × Work)
  | [] => []
  | w :: ws => (n, w) :: numberWork (n + 1) ws

/-- A job starts with its work, numbered from zero. -/
def startJob (s : State) (j : Job) (ws : List Work) : State :=
  setJobs s (tset s.net.jobs (jobKey j.kind)
    { j with todo := numberWork 0 ws, live := [], issued := ws.length })

/-- Further work joins a job, which starts if there is none of the kind. -/
def moreWork (s : State) (j : Job) (ws : List Work) : State :=
  match jobOf s j.kind with
  | none => startJob s j ws
  | some o => setJobs s (tset s.net.jobs (jobKey j.kind)
      { o with todo := o.todo ++ numberWork o.issued ws, issued := o.issued + ws.length })

/-- A job ends. -/
def endJob (s : State) (k : JobKind) : State := setJobs s (tdel s.net.jobs (jobKey k))

/-- Whether every piece of a job's work is final. -/
def Job.isDone (j : Job) : Bool := j.live.isEmpty && (j.todo.isEmpty || (j.failed.isSome && !j.multicast))

/-- First failing status of a job, OK where all are OK. -/
def Job.status (j : Job) : Status := (j.failed.map fun f => f.2.1).getD Code.ok

/-- DETAIL of a job's first failure. -/
def Job.detail (j : Job) : BitVec 64 := (j.failed.map fun f => f.2.2).getD 0

/-- A piece of a job's work has failed: the lowest-numbered failure is kept. -/
def Job.fail (j : Job) (n : Nat) (status : Status) (detail : BitVec 64) : Job :=
  match j.failed with
  | some f => if f.1 ≤ n then j else { j with failed := some (n, status, detail) }
  | none => { j with failed := some (n, status, detail) }

/-! ## Cutting -/

/-- Offsets and lengths of the runs of at most a size that make up a length. -/
def pieces (size : Nat) : Nat → Nat → Nat → List (Nat × Nat)
  | 0, _, _ => []
  | fuel + 1, off, len =>
    if len = 0 then [] else (off, min size len) :: pieces size fuel (off + size) (len - size)

/-- The same, with room for every run. -/
def piecesOf (size len : Nat) : List (Nat × Nat) := pieces (max 1 size) (len + 1) 0 len

/-! ## Groups (R171, R172) -/

/-- Node, window, relay group and RELAY of a member word. -/
def memberNode (w : BitVec 32) : Nat := bits w 0 12
def memberWindow (w : BitVec 32) : Nat := bits w 12 14
def memberGroup (w : BitVec 32) : Nat := bits w 12 12
def memberRelay (w : BitVec 32) : Bool := bit w 26

/-- A group entry that is valid for a context and of a kind. -/
def groupFor (s : State) (n ctx kind : Nat) : Option GroupEntry :=
  match tget s.net.groups n with
  | some g => if g.kind = kind ∧ g.ctx = ctx ∧ g.gen = ctxGen s ctx then some g else none
  | none => none

/-- One request to one member: a relay for a RELAY word, else a write to its window. -/
def memberStore (w : BitVec 32) (off : Nat) (data : Bytes) : Work :=
  if memberRelay w then .relay (mkHandle (memberNode w) 0 off) (memberGroup w) false data
  else .store (.handle (mkHandle (memberNode w) (memberWindow w) off)) data

/-- One flagged write to one member. -/
def memberFlag (w : BitVec 32) (off : Nat) (value : Nat) : Work :=
  if memberRelay w then .relay (mkHandle (memberNode w) 0 off) (memberGroup w) true (leBytes 8 value)
  else .flag (.handle (mkHandle (memberNode w) (memberWindow w) off)) (BitVec.ofNat 64 value)

/-- The probe of a range at each member that is reached by its window, before any data packet where the
range takes more than one; a relay takes no probe (R71). -/
def multicastProbes (members : List (BitVec 32)) (off len : Nat) : List Work :=
  let ps := (members.filter fun w => !memberRelay w).map fun w =>
    Work.probe (mkHandle (memberNode w) (memberWindow w) off) len 1
  if len ≤ 8192 ∨ ps.isEmpty then [] else ps ++ [.barrier]

/-- Data sent to every member in ascending order, in packets of 8 KiB (R172, R232). -/
def multicastStores (members : List (BitVec 32)) (off : Nat) (data : Bytes) : List Work :=
  (members.map fun w => (piecesOf 8192 data.length).map fun p =>
    memberStore w (off + p.1) ((data.drop p.1).take p.2)).flatten

/-- The same behind the probes that the range needs. -/
def multicastWork (members : List (BitVec 32)) (off : Nat) (data : Bytes) : List Work :=
  multicastProbes members off data.length ++ multicastStores members off data

/-- A flag sent to every member. -/
def multicastFlag (members : List (BitVec 32)) (off value : Nat) : List Work :=
  members.map fun w => memberFlag w off value

/-! ## Holds of armed records (R70) -/

/-- Holder of translations: a kind of record and its key. -/
def holdGroup (k : Nat) : Nat := tagKey 2 k
def holdStream (k : Nat) : Nat := tagKey 3 k
def holdParity (k : Nat) : Nat := tagKey 4 k
def holdArena (k : Nat) : Nat := tagKey 5 k
def holdCaddie (k : Nat) : Nat := tagKey 6 k
def holdFlight (k : Nat) : Nat := tagKey 0 k

/-- Translations of ranges are held for an owner on a quarter. -/
def hold (s : State) (q ctx owner : Nat) (ranges : List (Nat × Nat)) : State :=
  let t := s.xlat.track.mod q fun l => l ++ [{ ctx := ctx, owner := owner, ranges := ranges }]
  { s with xlat := { s.xlat with track := t } }

/-- An owner's holds are released in every quarter. -/
def release (s : State) (owner : Nat) : State :=
  { s with xlat := { s.xlat with track := s.xlat.track.map fun l => l.filter fun e => e.owner != owner } }

/-- The lower-addressed of two failures. -/
def lowerFail (a b : Option Fail) : Option Fail :=
  match a, b with
  | some x, some y => if y.2 < x.2 then some y else some x
  | some x, none => some x
  | none, y => y

/-- The failure of the lowest-addressed failing page of some ranges (R70). -/
def rangesCheck (s : State) (ctx : Nat) (rs : List (Nat × Nat × Acc)) : Option Fail :=
  rs.foldl (fun f r => lowerFail f (localCheck s ctx r.1 r.2.1 r.2.2)) none

/-- Pages of a side whose ranges rise, each page counted once; the count stops above 4,096. -/
def sidePages (s : State) (ctx : Nat) : List (Nat × Nat) → Nat → Nat → Nat
  | [], _, n => n
  | (va, len) :: rest, done, n =>
    if 4096 < n then n
    else
      let lo := max va done
      let hi := va + len
      if hi ≤ lo then sidePages s ctx rest done n
      else
        let page := match extentAt s ctx (hi - 1) with
          | some e => e.pageOf (hi - 1) + pageBytes e.size
          | none => (hi - 1) / 65536 * 65536 + 65536
        sidePages s ctx rest page (n + pagesTouched s ctx lo (hi - lo))

/-- The status R70 gives one side of a command: MISALIGNED beyond 4,096 pages, then the check of
each page, lowest first. -/
def sideCheck (s : State) (ctx : Nat) (rs : List (Nat × Nat)) (a : Acc) : Option Fail :=
  if 4096 < sidePages s ctx rs 0 0 then some (Code.misaligned, 0)
  else rangesCheck s ctx (rs.map fun r => (r.1, r.2, a))

/-- Whether a quarter's range tracker has no free entry (R70). -/
def trackerFull (s : State) (q : Nat) : Bool :=
  decide (8192 ≤ (s.xlat.track.get q).length + (s.xlat.resv.get q).length)

end Sys2Proof.Machine
end

