-- ==== Sys2Proof/Machine/Guarded.lean ====
section
/-! DEFINITION. Caddie's guards (R315): the bytes under guard, the accesses they hold in one order of
arrival, and what a hold counts (R316, R319). -/

namespace Sys2Proof.Machine

/-- A schedule entry by index. -/
def CaddieStream.entry (c : CaddieStream) (n : Nat) : SchedEntry := c.entries.getD n {}

/-! ## Guards -/

/-- The bytes of an entry's slot that are still under guard: all of them until the first tile has been
performed; then those of the tiles still to come, and those beyond the set. -/
def CaddieStream.guardRanges (c : CaddieStream) (x : FlyEntry) : List (Nat × Nat) :=
  let e := c.entry x.index
  let base := c.slotAt e.slot
  if x.filled.isEmpty then [(base, c.slotBytes)]
  else
    (((List.range e.tiles).filter fun k => !x.filled.contains k).map fun k => (base + k * x.tileBytes, x.tileBytes)) ++
      [(base + e.tiles * x.tileBytes, c.slotBytes - e.tiles * x.tileBytes)]

/-- The entry in flight whose guard still covers some of the parts: stream key and entry. -/
def guardOf (s : State) (segs : List Seg) : Option (Nat × FlyEntry) :=
  s.caddie.streams.findSome? fun x =>
    (x.2.flying.find? fun e =>
      (x.2.entry e.index).destKind == 0 &&
        (x.2.guardRanges e).any fun r => segsMeet segs (heldCover s x.2.ctx r.1 r.2).1).map
      fun e => (x.1, e)

/-- The guard on a range of a context's space. -/
def guardVa (s : State) (ctx va len : Nat) : Option (Nat × FlyEntry) :=
  if s.caddie.streams.isEmpty then none else guardOf s (heldCover s ctx va len).1

/-- The first of some ranges that a guard covers, with that guard. -/
def guardRange (s : State) (ctx : Nat) (rs : List (Nat × Nat)) : Option ((Nat × Nat) × Nat × FlyEntry) :=
  rs.findSome? fun r => (guardVa s ctx r.1 r.2).map fun g => (r, g)

/-- The state with one entry in flight changed. -/
def modFly (s : State) (key : Nat) (x : FlyEntry) (f : FlyEntry → FlyEntry) : State :=
  modCaddie s key fun c =>
    { c with flying := c.flying.map fun y => if y.index = x.index ∧ y.pass = x.pass then f y else y }

/-- The counts of a miss: at most one per entry and pass (R319). -/
def countMiss (s : State) (key index : Nat) : State :=
  bump (modCaddie s key fun c =>
    { c with misses := satInc 16 c.misses, lastMiss := index, lastMissFt := ftOf s c.quarter })
    0x6300 0x04

/-- An entry in flight misses its deadline. -/
def missEntry (s : State) (key : Nat) (x : FlyEntry) : State :=
  match (tget s.caddie.streams key).bind fun c =>
      c.flying.find? fun y => y.index == x.index && y.pass == x.pass with
  | some y =>
    if y.missed then s
    else countMiss (modFly s key x fun y => { y with missed := true }) key x.index
  | none => s

/-- Whether an access is among those held by guards. -/
def isHeld (s : State) (w : HeldWhat) : Bool := s.caddie.guarded.any fun h => h.what == w

/-- An access is held by a guard, behind those that came before it: HELD, 6300:05 and the entry's miss
count it, and it escalates the entry (R315, R316). -/
def holdAt (s : State) (h : HeldReq) (key : Nat) (x : FlyEntry) : State :=
  let s := { s with caddie := { s.caddie with guarded := s.caddie.guarded ++ [h] } }
  let s := bump (modCaddie s key fun c => { c with held := satInc 16 c.held }) 0x6300 0x05
  missEntry (modFly s key x fun y => { y with escalated := true }) key x

/-- Where a guard covers one of the ranges that an access touches, the state in which it is held; none
where it may go on. -/
def heldBy (s : State) (w : HeldWhat) (ctx : Nat) (rs : List (Nat × Nat)) : Option State :=
  match guardRange s ctx rs with
  | none => none
  | some (r, key, x) =>
    if isHeld s w then some s
    else some (holdAt s { what := w, ctx := ctx, va := r.1, len := r.2 } key x)

/-- Requests among the accesses held. -/
def heldPkts (s : State) : List (Packet × HeldReq) :=
  s.caddie.guarded.filterMap fun h => match h.what with
    | .request p => some (p, h)
    | _ => none

end Sys2Proof.Machine
end

