-- ==== Sys2Proof/Machine/Apply.lean ====
section
/-! DEFINITION. The step engine's arithmetic (R253, R254), the apply of a segment (R249, R257), and
emission (R259, R260). -/

namespace Sys2Proof.Machine

/-! ## Update rules (R253) -/

/-- The constants of an apply, as FP32 words, formed once. -/
structure Hyper where
  rule : Nat
  nesterov : Bool
  lr : Nat
  wd : Nat
  beta1 : Nat
  beta2 : Nat
  eps : Nat
  bc1 : Nat
  bc2 : Nat
  /-- grad_scale · c. -/
  scale : Nat

/-- 1.0 in FP32. -/
def fp32One : Nat := 0x3F800000

/-- sign(x): −1, 0 or +1, with NaN for a NaN. -/
def signW (x : Nat) : Nat :=
  match fp32.decode x with
  | .nan => fp32.qnan
  | .inf neg => if neg then 0xBF800000 else fp32One
  | .fin neg m _ => if m = 0 then 0 else if neg then 0xBF800000 else fp32One

/-- The new w, m and v of one parameter. -/
def updateParam (h : Hyper) (w m v g : Nat) : Nat × Nat × Nat :=
  let gh := fp32.mulW g h.scale
  let mix (b x y : Nat) : Nat := fp32.addW (fp32.mulW b x) (fp32.mulW (fp32.subW fp32One b) y)
  let r : Nat × Nat × Nat :=
    match h.rule with
    | 0 =>
      let m1 := fp32.addW (fp32.mulW h.beta1 m) gh
      ((if h.nesterov then fp32.addW gh (fp32.mulW h.beta1 m1) else m1), m1, v)
    | 1 =>
      let m1 := mix h.beta1 m gh
      let v1 := mix h.beta2 v (fp32.mulW gh gh)
      (fp32.divW (fp32.mulW m1 h.bc1) (fp32.addW (fp32.sqrtW (fp32.mulW v1 h.bc2)) h.eps), m1, v1)
    | _ => (signW (mix h.beta1 m gh), mix h.beta2 m gh, v)
  let w1 := fp32.subW (fp32.subW w (fp32.mulW (fp32.mulW h.lr h.wd) w)) (fp32.mulW h.lr r.1)
  (w1, r.2.1, r.2.2)

/-- Whether any of a parameter's new values is not finite. -/
def updateNonFinite (rule : Nat) (x : Nat × Nat × Nat) : Bool :=
  !(fp32.decode x.1).isFinite || !(fp32.decode x.2.1).isFinite ||
    (rule == 1 && !(fp32.decode x.2.2).isFinite)

/-! ## The clip factor (R254) -/

/-- Whether a norm value is negative, infinite or NaN. -/
def normRefused (v : Nat) : Bool :=
  match fp64.decode v with
  | .nan => true
  | .inf _ => true
  | .fin neg m _ => neg && m != 0

/-- c as an FP32 word, from grad_scale and clip in FP32 and V in FP64. -/
def clipFactor (gradScale clip v : Nat) : Nat :=
  let wide (x : Nat) : Nat := fp64.encode .nearest (fp32.decode x)
  let n := fp64.mulW (wide gradScale) (fp64.sqrtW v)
  let zero : Bool := match fp32.decode clip with
    | .fin _ m _ => m == 0
    | _ => false
  let below : Bool := match fp64.decode n, fp32.decode clip with
    | .nan, _ => false
    | _, .nan => false
    | x, y => !y.lt x
  if zero || below then fp32One
  else fp32.encode .nearest (fp64.decode (fp64.divW (wide clip) n))

/-! ## Streams -/

/-- Key of a stream: quarter and number. -/
def streamKey (q no : Nat) : Nat := q % 4 * 64 + no % 64

/-- The state with one stream changed. -/
def modStream (s : State) (key : Nat) (f : Stream → Stream) : State :=
  { s with step := { s.step with streams := tmod s.step.streams key f } }

/-- Arrays of a bank and bytes of each (R249). -/
def arraysOf (rule : Nat) : Nat := if rule = 1 then 3 else 2
def arrayBytes (params : Nat) : Nat := roundUp (params * 4) 65536
def bankBytes (rule params : Nat) : Nat := arraysOf rule * arrayBytes params

/-- VA of the bank of an innings parity. -/
def Stream.bank (st : Stream) (innings : Nat) : Nat := if innings % 2 = 0 then st.bank0 else st.bank1

/-- The innings ledger of a context. -/
def ledgerOf (s : State) (ctx : Nat) : Ledger := (tget s.ledgers ctx).getD {}

/-- The state with a context's ledger changed. -/
def modLedger (s : State) (ctx : Nat) (f : Ledger → Ledger) : State :=
  { s with ledgers := tset s.ledgers ctx (f (ledgerOf s ctx)) }

/-- The rounding seed of a context (R222, R325). -/
def roundSeed (s : State) (ctx : Nat) : Nat := reg s (ctxIdx ctx) 0x06

/-- FP32 words of a run of bytes, and back. -/
def words32 (b : Bytes) : List Nat := unpackBits 32 (b.length / 4) (ofLe b)
def bytes32 (ws : List Nat) : Bytes := leBytes (4 * ws.length) (packBits 32 ws)

/-! ## Emission (R259, R260) -/

/-- The emission job of a stream. -/
def emissionJob (s : State) (key : Nat) (st : Stream) : Job :=
  { kind := .emission key, ctx := st.ctx, gen := ctxGen s st.ctx, quarter := st.quarter
    engine := engStep, srcQueue := issuer st.quarter (8 + st.no), multicast := true }

/-- New weights of a run of parameters go to every member. -/
def emitWords (s : State) (key : Nat) (st : Stream) (innings first : Nat) (ws : List Nat) : State :=
  match groupFor s st.emitGroup st.ctx 0 with
  | none => s
  | some g =>
    let rs := roundings st.emitStochastic (roundSeed s st.ctx) (0xF000 + 64 * st.quarter + st.no) innings
      first ws.length
    let off := st.emitBase + (if innings % 2 = 1 then st.emitAlt else 0) +
      first / 256 * unitBytes st.emitFmt
    moreWork s (emissionJob s key st) (multicastStores g.members off (encodeElems st.emitFmt rs ws))

/-- The members are probed for the whole range of an apply's emission before its first packet (R71). -/
def probeEmission (s : State) (key : Nat) (st : Stream) (innings : Nat) : State :=
  match groupFor s st.emitGroup st.ctx 0 with
  | none => s
  | some g =>
    let ws := multicastProbes g.members (st.emitBase + (if innings % 2 = 1 then st.emitAlt else 0))
      ((st.params + 255) / 256 * unitBytes st.emitFmt)
    if st.emitEn && !ws.isEmpty then moreWork s (emissionJob s key st) ws else s

/-- A flag of a value goes to every member at an offset from FLAG_OFFSET. -/
def emitFlag (s : State) (key : Nat) (st : Stream) (add value : Nat) : State :=
  match groupFor s st.emitGroup st.ctx 0 with
  | none => s
  | some g => moreWork s (emissionJob s key st) (multicastFlag g.members (st.flagOffset + add) value)

/-! ## Applying a segment (R249, R257) -/

/-- The constants of an apply from its descriptor and clip factor. -/
def hyperOf (st : Stream) (d : Desc) : Hyper :=
  { rule := st.rule, nesterov := st.nesterov, lr := opnd d 96 32, wd := opnd d 128 32
    beta1 := opnd d 160 32, beta2 := opnd d 192 32, eps := opnd d 224 32, bc1 := opnd d 256 32
    bc2 := opnd d 288 32, scale := fp32.mulW (opnd d 320 32) st.clip }

/-- One array of a run of parameters is read. -/
def readArray (s : State) (st : Stream) (innings k first n : Nat) : Access1 :=
  readVa s st.ctx (st.bank innings + k * arrayBytes st.params + first * 4) (n * 4)

/-- One array of a run of parameters is written. -/
def writeArray (s : State) (st : Stream) (innings k first : Nat) (ws : List Nat) : Access1 :=
  storeVa s st.ctx (st.bank innings + k * arrayBytes st.params + first * 4) (bytes32 ws)

/-- First of two statuses that is not OK. -/
def firstBad (a b : Status) : Status := if a = Code.ok then b else a

/-- The new values of a segment are computed from the committed bank and written to the new one,
and emitted; a failing access stops the apply. -/
def applySegment (s : State) (key : Nat) (d : Desc) (first : Nat) (gs : List Nat) : State :=
  match tget s.step.streams key with
  | none => s
  | some st =>
    let n := gs.length
    let l := ledgerOf s st.ctx
    let w := readArray s st l.committed 0 first n
    let m := readArray w.st st l.committed 1 first n
    let v := if st.rule = 1 then readArray m.st st l.committed 2 first n else ⟨m.st, Code.ok, []⟩
    let bad := firstBad (firstBad w.status m.status) v.status
    if bad ≠ Code.ok then modStream v.st key fun st => { st with failing := some bad, state := 3 }
    else
      let vs := if st.rule = 1 then words32 v.data else List.replicate n 0
      let h := hyperOf st d
      let xs := ((words32 w.data).zip ((words32 m.data).zip (vs.zip gs))).map fun p =>
        updateParam h p.1 p.2.1 p.2.2.1 p.2.2.2
      let a := writeArray v.st st l.innings 0 first (xs.map (·.1))
      let b := writeArray a.st st l.innings 1 first (xs.map (·.2.1))
      let c := if st.rule = 1 then writeArray b.st st l.innings 2 first (xs.map (·.2.2))
        else ⟨b.st, Code.ok, []⟩
      let bad := firstBad (firstBad a.status b.status) c.status
      if bad ≠ Code.ok then modStream c.st key fun st => { st with failing := some bad, state := 3 }
      else
        let wild := (xs.filter (updateNonFinite st.rule)).length
        let s := bumpBy (bumpBy c.st 0x6200 0x02 n) 0x6200 0x06 wild
        let s := modStream s key fun st =>
          { st with done := st.done + n, nonFinite := st.nonFinite + wild, taken := st.taken ++ [(first, n)] }
        if st.emitEn then emitWords s key st l.innings first (xs.map (·.1)) else s

/-- The parts of a run of parameters that no earlier segment of the apply has covered: offset and length
(R257: each parameter is applied once). -/
def freshRuns (taken : List (Nat × Nat)) (first n : Nat) : List (Nat × Nat) :=
  taken.foldl (fun rs t => (rs.map fun r =>
    let lo := min (max t.1 r.1) (r.1 + r.2)
    let hi := max lo (min (t.1 + t.2) (r.1 + r.2))
    [(r.1, lo - r.1), (hi, r.1 + r.2 - hi)].filter fun x => decide (0 < x.2)).flatten) [(first, n)]

/-- The bytes that a run of parameters reads and writes in both banks. -/
def Stream.runRanges (st : Stream) (first n : Nat) : List (Nat × Nat) :=
  ((List.range (arraysOf st.rule)).map fun k =>
    [(st.bank0 + k * arrayBytes st.params + first * 4, n * 4)
    , (st.bank1 + k * arrayBytes st.params + first * 4, n * 4)]).flatten

/-- The apply has taken every parameter: the ready flag follows the last emission (R259). -/
def applyTail (s : State) (key : Nat) : State :=
  match tget s.step.streams key with
  | none => s
  | some st =>
    if st.done = st.params ∧ st.readyFlag ∧ st.failing = none then
      emitFlag s key st 0 (ledgerOf s st.ctx).innings
    else s

/-- A memory-mode segment: its gradients are read at GRAD_VA in GRAD_FMT. -/
def memorySegment (s : State) (key : Nat) (st : Stream) (d : Desc) (first n : Nat) : State :=
  let g := readVa s st.ctx (st.gradVa + first / 256 * unitBytes st.gradFmt) (n / 256 * unitBytes st.gradFmt)
  if g.status = Code.ok then applySegment g.st key d first (decodeElems st.gradFmt g.data)
  else modStream g.st key fun st => { st with failing := some g.status, state := 3 }

/-- A memory-mode apply takes its segments of 2,048 parameters in ascending order, from the first not yet
taken (R257), up to one whose bytes a Caddie guard holds (R315). The fuel bounds the segments. -/
def memoryRun : Nat → State → Nat → State
  | 0, s, _ => s
  | fuel + 1, s, key =>
    match tget s.step.streams key with
    | none => s
    | some st =>
      match (if st.failing.isSome || decide (st.params ≤ st.done) then none
          else st.flight.bind (tget s.q.flights)) with
      | none => s
      | some f =>
        let n := min 2048 (st.params - st.done)
        let grads := (st.gradVa + st.done / 256 * unitBytes st.gradFmt, n / 256 * unitBytes st.gradFmt)
        match heldBy s (.apply key) st.ctx (grads :: st.runRanges st.done n) with
        | some s => s
        | none =>
          let s := memorySegment s key st f.desc st.done n
          if ((tget s.step.streams key).map fun x => x.done == x.params) = some true then applyTail s key
          else memoryRun fuel s key

/-- A memory-mode apply goes on. -/
def memoryApply (s : State) (key : Nat) : State :=
  match tget s.step.streams key with
  | none => s
  | some st => if st.fromMemory && st.state == 1 then memoryRun ((st.params + 2047) / 2048) s key else s

/-- An apply starts on a stream (R256, R264): the ledger goes from OPEN to APPLYING. -/
def startApply (s : State) (key : Nat) (st : Stream) (fk : Nat) (clip : Nat) : State :=
  let l := ledgerOf s st.ctx
  let s := modStream s key fun st =>
    { st with
      state := 1, done := 0, flight := some fk, innings := some l.innings, taken := [], clip := clip
      nonFinite := 0, failing := none }
  let s := if l.state = 0 then modLedger s st.ctx fun l => { l with state := 1 } else s
  memoryApply (probeEmission (endJob s (.emission key)) key st l.innings) key

/-! ## Starting, holding or refusing an apply (R254 to R256) -/

/-- STEP_APPLY opcode. -/
def opStepApply : Nat := 0x62

/-- Context a Class-3 apply names (R85). -/
def applyCtx (f : Flight) : Nat := if f.ctx = 0 then opnd f.desc 384 12 else f.ctx

/-- Whether another accepted apply of the same stream and innings waits (R256). -/
def applyWaiting (s : State) (fk : Nat) (f : Flight) : Bool :=
  tany s.q.flights fun k g =>
    k != fk && g.progress = .working && opcodeOf g.desc == opStepApply && g.quarter == f.quarter &&
      applyCtx g == applyCtx f && opnd g.desc 0 6 == opnd f.desc 0 6 && opnd g.desc 8 32 == opnd f.desc 8 32

/-- An apply that was accepted ends before its first segment: APPLY_COMPLETE reports it. -/
def failApply (s : State) (fk key : Nat) (status : Status) : State :=
  let i := (ledgerOf s (((tget s.step.streams key).map (·.ctx)).getD 0)).innings
  modStream (endJob s (.emission key)) key fun st =>
    { st with flight := some fk, innings := some i, nonFinite := 0, failing := some status }

/-- What an apply finds at its norm huddle (R254): the value of its round, a status with which it ends, or
neither while it must wait. The latch holds the last release; a failed round leaves it. -/
def normOf (h : Huddle) (round : Nat) : Option (Except Status Nat) :=
  let later := h.lastRound.map fun r => (r + 65536 - round) % 65536
  if later = some 0 then
    some (if normRefused h.lastValue.toNat then .error Code.aborted else .ok h.lastValue.toNat)
  else if h.state = .failed ∧ h.round = round then some (.error h.failStatus)
  else if later.any fun n => decide (n < 32768) then some (.error Code.aborted)
  else none

/-- An apply that R256 lets run takes its clip factor: it starts, waits for the norm round, or ends
(R254). A huddle of another COMBINE ends it MISALIGNED (DESIGN CHOICE, log entry 22). -/
def clipApply (s : State) (fk : Nat) (f : Flight) (key : Nat) (st : Stream) : State :=
  let d := f.desc
  if !opBit d 40 then startApply s key st fk fp32One
  else
    match tget s.huddles (huddleKey st.ctx (opnd d 48 16)) with
    | none => finish s fk Code.protection
    | some h =>
      if h.combine ≠ 1 then finish s fk Code.misaligned
      else match normOf h (opnd d 64 16) with
        | none => s
        | some (.error status) => failApply s fk key status
        | some (.ok v) => startApply s key st fk (clipFactor (opnd d 320 32) (opnd d 352 32) v)

/-- An apply is started, left waiting, or refused by its innings (R256). -/
def tryApply (s : State) (fk : Nat) : State :=
  match tget s.q.flights fk with
  | none => s
  | some f =>
    let key := streamKey f.quarter (opnd f.desc 0 6)
    match tget s.step.streams key with
    | none => finish s fk Code.protection
    | some st =>
      if st.ctx ≠ applyCtx f then finish s fk Code.protection
      else
        let l := ledgerOf s st.ctx
        let i := opnd f.desc 8 32
        if i = l.innings then
          if l.state ≠ 0 ∧ l.state ≠ 1 then finish s fk Code.locked
          else if st.innings = some i ∨ applyWaiting s fk f then finish s fk Code.locked
          else if st.state = 3 then finish s fk Code.aborted
          else clipApply s fk f key st
        else if i = l.innings + 1 then
          if applyWaiting s fk f then finish s fk Code.locked else s
        else finish s fk Code.aborted

/-- The stream whose apply in progress a descriptor is. -/
def applyStreamOf (s : State) (fk : Nat) : Option Nat :=
  (s.step.streams.find? fun x => x.2.flight == some fk).map (·.1)

/-- An apply in progress stops at this segment boundary with a status: no further segment is taken
and no further emission is issued (R258). -/
def stopApply (s : State) (key : Nat) (status : Status) : State :=
  let s := modStream s key fun st => { st with failing := some (st.failing.getD status) }
  setJobs s (tmod s.net.jobs (jobKey (.emission key)) fun j => { j with todo := [] })

/-- The accepted applies of a context that have not started, in order. -/
def waitingApplies (s : State) (ctx : Nat) : List Nat :=
  (s.q.flights.filter fun p =>
    p.2.progress = .working && opcodeOf p.2.desc == opStepApply && applyCtx p.2 == ctx &&
      !(tany s.step.streams fun _ st => st.flight == some p.1)).map (·.1)

/-- Every accepted apply of a context that has not started is looked at again. -/
def retryApplies (s : State) (ctx : Nat) : State := (waitingApplies s ctx).foldl tryApply s

end Sys2Proof.Machine
end

