-- ==== Sys2Proof/Machine/Coding.lean ====
section
/-! DEFINITION. Pewter's lossless code (R288, R289): groups of elements, the largest exponent of each in full,
the distances below it in a canonical prefix code, and signs and significands as they are. -/

namespace Sys2Proof.Machine

/-! ## Elements -/

/-- Formats that lossless mode codes (R288, Table 5). -/
def losslessFmt (f : Nat) : Bool := f == 0 || f == 1 || f == 2 || f == 11 || f == 12 || f == 13

/-- Exponent bits of a float format; 0 for the integers and RAW32. -/
def expBits (f : Nat) : Nat := match f with | 0 => 8 | 1 => 5 | 2 => 8 | _ => 0

/-- Bits in which the largest exponent of a group is stored in full: those of the field, or those of a count
of leading zeros. -/
def topBits (f : Nat) : Nat := if expBits f = 0 then 7 else expBits f

/-- Bits of a number, lowest first, and back. -/
def bitList : Nat → Nat → List Bool
  | 0, _ => []
  | n + 1, x => (x % 2 == 1) :: bitList n (x / 2)
def ofBitList : List Bool → Nat
  | [] => 0
  | b :: bs => (if b then 1 else 0) + 2 * ofBitList bs

/-- Zig-zag order of the two's-complement integers of w bits, and back (R289). -/
def zigzag (w x : Nat) : Nat := if x < 2 ^ (w - 1) then 2 * x else 2 * (2 ^ w - x) - 1
def unzigzag (w z : Nat) : Nat := if z % 2 = 0 then z / 2 else 2 ^ w - (z + 1) / 2

/-- The unsigned value of an integer element: zig-zag for INT32 and INT64, the pattern itself for RAW32, to
which R289 gives no order (DESIGN CHOICE, log entry 11); and back. -/
def unsignedOf (f x : Nat) : Nat := if f = 13 then x else zigzag (elemBits f) x
def signedOf (f z : Nat) : Nat := if f = 13 then z else unzigzag (elemBits f) z

/-- Bits of a number without leading zeros. -/
def bitLength (x : Nat) : Nat := if x = 0 then 0 else Nat.log2 x + 1

/-- The exponent of an element, or its count of leading zeros. -/
def elemExp (f x : Nat) : Nat :=
  if expBits f = 0 then elemBits f - bitLength (unsignedOf f x)
  else x / 2 ^ (elemBits f - 1 - expBits f) % 2 ^ expBits f

/-- Bits of the rest of an element with an exponent: sign and significand, or what follows the leading one. -/
def restBits (f e : Nat) : Nat :=
  if expBits f = 0 then elemBits f - e - 1 else elemBits f - expBits f

/-- The rest of an element: the significand with the sign above it, or the bits below the leading one. -/
def elemRest (f x : Nat) : Nat :=
  if expBits f = 0 then unsignedOf f x % 2 ^ (bitLength (unsignedOf f x) - 1)
  else
    let m := elemBits f - 1 - expBits f
    x % 2 ^ m + x / 2 ^ (elemBits f - 1) % 2 * 2 ^ m

/-- An element from its exponent and its rest. -/
def elemOf (f e r : Nat) : Nat :=
  if expBits f = 0 then signedOf f (if elemBits f ≤ e then 0 else 2 ^ (elemBits f - e - 1) + r)
  else
    let m := elemBits f - 1 - expBits f
    r % 2 ^ m + e * 2 ^ m + r / 2 ^ m * 2 ^ (elemBits f - 1)

/-! ## The prefix codes -/

/-- Distances that a table codes. -/
def codeSymbols : Nat := 256

/-- The next code word of a canonical code: the last one plus one, lengthened. -/
def nextWord (last : Nat × Nat) (len : Nat) : Nat := (last.1 + 1) * 2 ^ (len - last.2)

/-- The words of a canonical code in the order of their lengths, as values, from a word on. -/
def canonicalFrom : Nat × Nat → List (Nat × Nat) → List (Nat × Nat × Nat)
  | _, [] => []
  | last, (sym, len) :: rest =>
    let v := nextWord last len
    (sym, len, v) :: canonicalFrom (v, len) rest

/-- Symbols in the order of their lengths, lowest symbol first among equals. -/
def insertSym (x : Nat × Nat) : List (Nat × Nat) → List (Nat × Nat)
  | [] => [x]
  | y :: ys => if x.2 < y.2 then x :: y :: ys else y :: insertSym x ys
def byLength (ls : List (Nat × Nat)) : List (Nat × Nat) := ls.foldl (fun l x => insertSym x l) []

/-- A code word of a length, first bit highest. -/
def wordBits (len v : Nat) : List Bool := (bitList len v).reverse

/-- The canonical prefix code of some lengths, by symbol (R289). -/
def canonical (lens : List Nat) : List (List Bool) :=
  match byLength ((List.range lens.length).zip lens) with
  | [] => []
  | (sym, len) :: rest =>
    let ws := (sym, len, 0) :: canonicalFrom (0, len) rest
    (List.range lens.length).map fun i =>
      ((ws.find? fun w => w.1 == i).map fun w => wordBits w.2.1 w.2.2).getD []

/-- Whether no word of a code begins another. -/
def prefixFree (ws : List (List Bool)) : Bool :=
  decide (ws.Pairwise fun a b => a.isPrefixOf b = false ∧ b.isPrefixOf a = false)

/-- The code of a table. The manual fixes eight tables in the part and prints none: their lengths are free
values, and lengths that give no prefix code stand for the code of equal lengths (log entry 11). -/
def codeTable (t : Nat) : List (List Bool) :=
  let ws := canonical ((List.range codeSymbols).map (Config.codeLength t))
  if ws.length = codeSymbols ∧ prefixFree ws = true then ws else (List.range codeSymbols).map (wordBits 8)

/-- The word of a distance, and the distance that some bits begin with, with the bits after it. -/
def codeWord (ws : List (List Bool)) (d : Nat) : List Bool := ws.getD d []
def readWord (ws : List (List Bool)) (bs : List Bool) : Nat × List Bool :=
  match ws.findIdx? fun w => w.isPrefixOf bs with
  | some d => (d, bs.drop (codeWord ws d).length)
  | none => (0, [])

/-! ## Groups -/

/-- One element: its distance below the largest exponent, then its rest. -/
def putElem (f : Nat) (ws : List (List Bool)) (top x : Nat) : List Bool :=
  codeWord ws (top - elemExp f x) ++ bitList (restBits f (elemExp f x)) (elemRest f x)

/-- A group: its largest exponent in full, then its elements. -/
def putGroup (f : Nat) (ws : List (List Bool)) (xs : List Nat) : List Bool :=
  let top := xs.foldl (fun m x => max m (elemExp f x)) 0
  bitList (topBits f) top ++ (xs.map (putElem f ws top)).flatten

/-- Elements of a group out of its bits, with the bits after them. -/
def getElems (f : Nat) (ws : List (List Bool)) (top : Nat) : Nat → List Bool → List Nat × List Bool
  | 0, bs => ([], bs)
  | n + 1, bs =>
    let r := readWord ws bs
    let e := top - r.1
    let k := restBits f e
    let t := getElems f ws top n (r.2.drop k)
    (elemOf f e (ofBitList (r.2.take k)) :: t.1, t.2)

/-- A group of n elements out of its bits. -/
def getGroup (f : Nat) (ws : List (List Bool)) (n : Nat) (bs : List Bool) : List Nat × List Bool :=
  getElems f ws (ofBitList (bs.take (topBits f))) n (bs.drop (topBits f))

/-- Lengths of the groups of a tile: each row is cut on its own. -/
def groupLens (size rows cols : Nat) : List Nat :=
  (List.replicate rows
    (List.replicate (cols / size) size ++ (if cols % size = 0 then [] else [cols % size]))).flatten

/-- Groups of given lengths, coded one after the other. -/
def putGroups (f : Nat) (ws : List (List Bool)) : List Nat → List Nat → List Bool
  | [], _ => []
  | n :: ns, xs => putGroup f ws (xs.take n) ++ putGroups f ws ns (xs.drop n)

/-- The elements of groups of given lengths out of their bits. -/
def getGroups (f : Nat) (ws : List (List Bool)) : List Nat → List Bool → List Nat
  | [], _ => []
  | n :: ns, bs =>
    let r := getGroup f ws n bs
    r.1 ++ getGroups f ws ns r.2

/-! ## Tiles -/

/-- Bits of a run of bytes, and the bytes of some bits, the last filled up with zeros. -/
def bitsOfBytes (b : Bytes) : List Bool := (b.map fun x => bitList 8 x.toNat).flatten
def bytesOfBits (bs : List Bool) : Bytes :=
  (cutRuns 8 (bs.length + 1) bs).map fun r => BitVec.ofNat 8 (ofBitList r)

/-- The elements of plain bytes, and back. -/
def wordsOf (f : Nat) (b : Bytes) : List Nat := unpackBits (elemBits f) (b.length * 8 / elemBits f) (ofLe b)
def bytesOfWords (f : Nat) (xs : List Nat) : Bytes := leBytes (xs.length * elemBits f / 8) (packBits (elemBits f) xs)

/-- A tile in lossless form with a table and a group size: its bits. -/
def losslessBits (f groupLog2 table rows cols : Nat) (data : Bytes) : List Bool :=
  putGroups f (codeTable table) (groupLens (2 ^ groupLog2) rows cols) (wordsOf f data)

/-- The table that gives the fewest bits, lowest first (R289). -/
def bestTable (f groupLog2 rows cols : Nat) (data : Bytes) : Nat :=
  (List.range 8).foldl (fun b t =>
    if (losslessBits f groupLog2 t rows cols data).length < (losslessBits f groupLog2 b rows cols data).length then t
    else b) 0

/-- The payload of a tile in lossless form. -/
def losslessCode (f groupLog2 table rows cols : Nat) (data : Bytes) : Bytes :=
  bytesOfBits (losslessBits f groupLog2 table rows cols data)

/-- The element bytes of a tile from its payload. -/
def losslessDecode (f groupLog2 table rows cols : Nat) (payload : Bytes) : Bytes :=
  bytesOfWords f (getGroups f (codeTable table) (groupLens (2 ^ groupLog2) rows cols) (bitsOfBytes payload))

end Sys2Proof.Machine
end

