-- ==== Sys2Proof/Machine/Rounds.lean ====
section
/-! DEFINITION. Huddle rounds (R27 to R36), the innings ledger (R38, R262 to R268) and the parity
rows (R270), which set each other off: a release may commit an innings, and a commit may lead to
arrivals. What one sets off is a list of events that a bounded runner takes in order. -/

namespace Sys2Proof.Machine

/-- What a round or a ledger move sets off. -/
inductive Ev where
  /-- The ledger or a reduction group of a context arrives at a huddle. -/
  | arrive (ctx no who : Nat) (value : BitVec 64)
  /-- A huddle's round has been released or has failed. -/
  | ended (ctx no : Nat)
deriving DecidableEq, Repr

/-- A state with what remains to be taken. -/
abbrev Evs := State × List Ev

/-! ## Innings (R38) -/

/-- Whether a commit (true) or an ADVANCE_INNINGS release (false) finds INNINGS advanced by the other
on the same cycle (R39). -/
def advancedNow (s : State) (ctx : Nat) (commit : Bool) : Bool :=
  (ledgerOf s ctx).raisedAt == some (s.now, !commit)

/-- INNINGS advances by a commit or a release, once where both fall on one cycle (R38, R39), or stays at
its limit with a critical record. R38 does not say what a later advance does at 0xFFFFFFFF: the
model takes OPEN_FT and writes the record each time (DESIGN CHOICE, log entry 17). -/
def advanceInnings (s : State) (ctx : Nat) (commit : Bool) : State :=
  let l := ledgerOf s ctx
  if advancedNow s ctx commit then s
  else
    let s := modLedger s ctx fun l =>
      { l with
        innings := min (l.innings + 1) (2 ^ 32 - 1), openFt := ftOf s (ctx % 4)
        raisedAt := some (s.now, commit) }
    if l.innings + 1 < 2 ^ 32 - 1 then s
    else raise s { cls := 0x13, critical := true, ctx := some ctx }

/-! ## The ledger (R264 to R266) -/

/-- Member number of the ledger in a huddle, and of a reduction group. -/
def ledgerWho : Nat := 4096
def groupWho (g : Nat) : Nat := 131072 + g

/-- The part votes at the commit huddle. -/
def voteCommit (l : Ledger) (ctx value : Nat) : Ev := .arrive ctx l.commit ledgerWho (BitVec.ofNat 64 value)

/-- Parity rows of a context stop: nothing more of them is read or written (R271). -/
def stopRows (s : State) (ctx : Nat) : State :=
  setJobs s (tfilter s.net.jobs fun _ j => match j.kind with
    | .parity _ _ => j.ctx != ctx
    | _ => true)

/-- The ledger goes to ABORTED, and its innings is counted (R272); an apply that was held for the
innings after it completes ABORTED (R256). -/
def ledgerAborts (s : State) (ctx : Nat) : State :=
  let i := (ledgerOf s ctx).innings + 1
  let s := (waitingApplies s ctx).foldl (fun s fk =>
    match tget s.q.flights fk with
    | some f => if opnd f.desc 8 32 = i then finish s fk Code.aborted else s
    | none => s) s
  bump (modLedger (stopRows s ctx) ctx fun l => { l with state := 6, abortRecorded := false }) 0x6200 0x05

/-- The ledger leaves OPEN or APPLYING because an apply failed or the innings is aborted, and the
part votes 1 if it has not voted (Table 6). -/
def abortOpen (s : State) (ctx : Nat) : Evs :=
  let l := ledgerOf s ctx
  let s := ledgerAborts s ctx
  if !l.armed || l.voted then (s, [])
  else if l.prepareEn then
    (modLedger s ctx fun l => { l with voted := true, prepareSent := true },
      [.arrive ctx l.prepare ledgerWho 1])
  else (modLedger s ctx fun l => { l with voted := true }, [voteCommit l ctx 1])

/-- Every armed stream of the context has applied the innings (Table 6). -/
def allApplied (s : State) (ctx : Nat) : Evs :=
  let l := ledgerOf s ctx
  if !l.armed then (s, [])
  else if l.prepareEn then
    (modLedger s ctx fun l => { l with state := 2, prepareSent := true },
      [.arrive ctx l.prepare ledgerWho 0])
  else
    (modLedger s ctx fun l => { l with state := 4, voted := true }, [voteCommit l ctx 0])

/-- The parity rows are written, or there are none: READY and vote 0 (Table 6). -/
def goReady (s : State) (ctx : Nat) : Evs :=
  let l := ledgerOf s ctx
  (modLedger s ctx fun l => { l with state := 4, voted := true }, [voteCommit l ctx 0])

/-- The ledger leaves PARITY for ABORTED with vote 1 (Table 6). -/
def abortParity (s : State) (ctx : Nat) : Evs :=
  let l := ledgerOf s ctx
  (modLedger (ledgerAborts s ctx) ctx fun l => { l with voted := true }, [voteCommit l ctx 1])

/-! ## Parity rows (R270) -/

/-- Stripe size Z of a stream. -/
def stripeBytes (rule params : Nat) : Nat := roundUp ((bankBytes rule params + 2) / 3) 65536

/-- Stripe of member m in row k (R270). -/
def stripeOf (k m : Nat) : Nat := if k < m then k else k - 1

/-- The members of a parity group other than one, ascending. -/
def othersOf (k : Nat) : List Nat := [0, 1, 2, 3].filter fun m => m != k

/-- The read of some bytes of one member's stripe into the buffer; none where they lie at or beyond S, where
the stripe counts as zero. -/
def stripeRead (node window off size bank j : Nat) (p : Nat × Nat) : List Work :=
  let x := j * size + p.1
  if bank ≤ x then []
  else [.copy (.handle (mkHandle node window (off + x))) (.xorBuffer p.1) (min p.2 (bank - x))]

/-- The work of a parity row (R270): for each 8 KiB of it the reads of the three members, ascending, and then
the write of what they fold to. -/
def parityWork (p : ParityRec) (rule params innings : Nat) : List Work :=
  let z := stripeBytes rule params
  let off := if innings % 2 = 0 then p.offset0 else p.offset1
  let va := if innings % 2 = 0 then p.parVa0 else p.parVa1
  ((piecesOf 8192 z).map fun x =>
    ((othersOf p.index).map fun m =>
      stripeRead (p.nodes.getD m 0) p.window off z (bankBytes rule params) (stripeOf p.index m) x).flatten ++
    [.drain x.1 x.2 (.va (va + x.1))]).flatten

/-- The state with the progress of a parity record's row set. -/
def setRow (s : State) (key n : Nat) : State :=
  { s with step := { s.step with parity := tmod s.step.parity key fun p => { p with row := n } } }

/-- A parity record's row starts; with its stream disarmed it fails. -/
def startRow (innings : Nat) (s : State) (x : Nat × ParityRec) : State :=
  match tget s.step.streams x.1 with
  | none => setRow s x.1 3
  | some st =>
    let z := stripeBytes st.rule st.params
    startJob (setRow s x.1 1)
      { kind := .parity x.1 innings, ctx := x.2.ctx, gen := ctxGen s x.2.ctx, quarter := x.2.quarter
        engine := engStep, srcQueue := issuer x.2.quarter 72, buffer := List.replicate z 0 }
      (parityWork x.2 st.rule st.params innings)

/-- The prepare round is released with value 0: the rows start, or there is none. -/
def startParity (s : State) (ctx : Nat) : Evs :=
  let rows := s.step.parity.filter fun x => x.2.ctx == ctx
  if rows.isEmpty then goReady s ctx
  else if rows.any fun x => x.2.row == 4 then abortParity s ctx
  else
    let s := modLedger s ctx fun l => { l with state := 3 }
    (rows.foldl (startRow (ledgerOf s ctx).innings) s, [])

/-! ## Commit (R265) -/

/-- The commit flag of a stream goes to every emission member. -/
def commitFlagOf (value : Nat) (s : State) (x : Nat × Stream) : State :=
  if x.2.commitFlag then
    match groupFor s x.2.emitGroup x.2.ctx 0 with
    | none => s
    | some g =>
      moreWork s { emissionJob s x.1 x.2 with kind := .emission (256 + x.1) }
        (multicastFlag g.members (x.2.flagOffset + 8) value)
  else s

/-- A commit takes effect in one step. -/
def commitInnings (s : State) (ctx : Nat) : State :=
  let l := ledgerOf s ctx
  let done := if advancedNow s ctx true then l.innings - 1 else l.innings
  let s := advanceInnings s ctx true
  let s := modLedger s ctx fun m =>
    { m with
      committed := done, commitFt := ftOf s (ctx % 4), replaying := false, state := 0
      raisedAt := some (s.now, true)
      voted := false, prepareSent := false, abortRecorded := false }
  let s := bump s 0x6200 0x04
  let streams := tmap s.step.streams fun _ st =>
    if st.ctx = ctx then { st with state := 0, done := 0, flight := none, innings := none, taken := [] }
    else st
  let parity := tmap s.step.parity fun _ p => if p.ctx = ctx ∧ p.row ≠ 4 then { p with row := 0 } else p
  let s := { s with step := { streams := streams, parity := parity } }
  let s := (s.step.streams.filter fun x => x.2.ctx == ctx).foldl (commitFlagOf done) s
  retryApplies s ctx

/-! ## The ledger at the end of a huddle round (Table 6) -/

/-- The prepare or commit round of an armed ledger has ended. -/
def ledgerRound (s : State) (ctx no : Nat) (h : Huddle) : Evs :=
  let l := ledgerOf s ctx
  if !l.armed then (s, [])
  else if l.state = 2 ∧ no = l.prepare then
    if l.abortRecorded ∧ h.lastStatus = Code.ok then abortParity s ctx
    else if h.lastStatus = Code.ok ∧ h.lastValue = 0 then startParity s ctx
    else (ledgerAborts s ctx, [])
  else if l.state = 4 ∧ no = l.commit then
    if h.lastStatus ≠ Code.ok then (modLedger s ctx fun l => { l with state := 5 }, [])
    else if h.lastValue = 0 then (commitInnings s ctx, [])
    else (ledgerAborts s ctx, [])
  else (s, [])

/-- The ledger arrives at a huddle with no entry on the part, which R27 answers PROTECTION: it goes to
ABORTED, or from READY to IN_DOUBT (R264). -/
def ledgerUnheard (s : State) (ctx : Nat) : State :=
  match (ledgerOf s ctx).state with
  | 4 => modLedger s ctx fun l => { l with state := 5 }
  | 6 => s
  | _ => ledgerAborts s ctx

/-! ## Huddles: small operations -/

/-- The state with one huddle entry changed. -/
def modHuddle (s : State) (key : Nat) (f : Huddle → Huddle) : State :=
  { s with huddles := tmod s.huddles key f }

/-- Whether the part has rejoined and not reached LOCKED since: its incarnation is above the first (R360)
and it has not been LOCKED since reset (R31, R363). -/
def rejoining (s : State) : Bool := decide (0 < s.recov.incarnation) && !s.time.everLocked

/-- Whether the part may take part in huddles (R21, R31). -/
def ftUsable (s : State) : Bool :=
  match s.time.state with
  | .locked => true
  | .master => !rejoining s
  | .holdover => !s.time.huddleBarred && !rejoining s
  | .free => false

/-- An FP64 NaN with the sign and payload of a word; the payload is not zero. -/
def nanWord (x : BitVec 64) : BitVec 64 :=
  let w := 0x7FF0000000000000#64 ||| (x &&& 0x800FFFFFFFFFFFFF#64)
  if x &&& 0x000FFFFFFFFFFFFF#64 = 0 then w ||| 0x0008000000000000#64 else w

/-- An FP64 result; where it is NaN, which NaN it is is a free value of the operands (log entry 17). -/
def fp64Result (op : Nat) (a b : BitVec 64) (r : Nat) : BitVec 64 :=
  match fp64.decode r with
  | .nan => nanWord (Config.nanBits op a b)
  | _ => BitVec.ofNat 64 r

/-- Two round values combined (R27, Table 9). -/
def combineValue (op : Nat) (a b : BitVec 64) : BitVec 64 :=
  match op with
  | 1 => fp64Result 1 a b (fp64.addW a.toNat b.toNat)
  | 2 => if a.toNat < b.toNat then b else a
  | 3 => if b.toNat < a.toNat then b else a
  | 4 => a ||| b
  | 5 => fp64Result 5 a b (fp64.maxW a.toNat b.toNat)
  | _ => 0

/-- The combined value of the arrivals of a round, in the order they came (R29). -/
def roundValue (op : Nat) (as : List Arrival) : BitVec 64 :=
  match as with
  | [] => 0
  | a :: as => if op = 0 then 0 else as.foldl (fun v x => combineValue op v x.value) a.value

/-- Members and child parts that have arrived. -/
def isChild (who : Nat) : Bool := decide (65536 ≤ who) && decide (who < 131072)

/-- Whether every local member and child part has arrived (R28). -/
def roundComplete (h : Huddle) : Bool :=
  (h.arrivals.filter fun a => !isChild a.who).length == h.localMembers &&
    (h.arrivals.filter fun a => isChild a.who).length == h.childParts

/-- The latest stamp of some arrivals. -/
def latestStamp (as : List Arrival) : FT :=
  match as with
  | [] => 0
  | a :: as => as.foldl (fun t x => if ftLater x.stamp t then x.stamp else t) a.stamp

/-- Members a round counts. -/
def memberCount (as : List Arrival) : Nat := as.foldl (fun n a => n + a.count) 0

/-- A huddle's packets and records belong to a quarter of their own. -/
def huddleQuarter (h : Huddle) : Nat := h.ctx % 4

/-- A huddle whistle of a kind. -/
def huddleWhistle (s : State) (h : Huddle) (kind : Nat) (status : Status) (value : BitVec 64) : State :=
  whistleNow s
    { kind := kind, status := status, ctx := h.ctx, quarter := huddleQuarter h, detail := value
      ft := ftOf s (huddleQuarter h), seq := h.no } h.ring

/-- A HUDDLE_ARRIVE to the parent with the combined arrival (R28, R151). -/
def sendUp (s : State) (key : Nat) (h : Huddle) : State :=
  let v := roundValue h.combine h.arrivals
  let stamp := (latestStamp h.arrivals).toNat / 2 ^ 22 % 2 ^ 27
  let ext := BitVec.ofNat 128
    (v.toNat + h.no * 2 ^ 64 + h.round % 256 * 2 ^ 80 + memberCount h.arrivals * 2 ^ 88 + stamp * 2 ^ 101)
  let s := issueInFlow s
    { quarter := huddleQuarter h, engine := engPoint, owner := .huddleUp key
      pkt := mkRequest 0x06 h.ctx (ctxGen s h.ctx) (issuer (huddleQuarter h) 1) h.parent ext [] }
  modHuddle s key fun h => { h with state := .sentUp, sentUpAt := some s.now }

/-- Operand of a HUDDLE_RELEASE (R151). -/
def releaseExt (h : Huddle) (status : Status) (value : BitVec 64) : BitVec 128 :=
  BitVec.ofNat 128
    (value.toNat + h.no * 2 ^ 64 + h.round % 256 * 2 ^ 80 +
      (if status = Code.ok then 0 else 2 ^ 88 + status.toNat * 2 ^ 89))

/-- One HUDDLE_RELEASE to each child part in member order, from the relay source queue, fenced ones
skipped (R27). -/
def releaseChildren (s : State) (key : Nat) (h : Huddle) (status : Status) (value : BitVec 64) : State :=
  match (if h.childParts = 0 then none else groupFor s h.childGroup h.ctx 0) with
  | none => s
  | some g =>
    g.members.foldl (fun s w =>
      if isFenced s (memberNode w) then s
      else issueInFlow s
        { quarter := huddleQuarter h, engine := engPoint, owner := .huddleDown key
          pkt := mkRequest 0x07 h.ctx (ctxGen s h.ctx) (issuer (huddleQuarter h) 2) (memberNode w)
            (releaseExt h status value) [] }) s

/-- The local members of a round complete (R27, R32). -/
def completeMembers (s : State) (h : Huddle) (status : Status) (value : BitVec 64) : State :=
  h.arrivals.foldl (fun s a => match a.seq with
    | some fk => finish s fk status value
    | none => s) s

/-! ## Lateness (R34 to R36) -/

/-- How much later one stamp is than another in 2^-16 ns, zero if earlier (R34). -/
def lateness (a ref : FT) : Nat := if ftLater a ref then (a - ref).toNat else 0

/-- Stamps in rising order by insertion. -/
def insertStamp (t : FT) : List FT → List FT
  | [] => [t]
  | x :: xs => if ftLater t x then x :: insertStamp t xs else t :: x :: xs

/-- The reference time of a round: the stamp at rank ⌈n/2⌉ (R34). -/
def referenceStamp (as : List Arrival) : FT :=
  ((as.map (·.stamp)).foldl (fun l t => insertStamp t l) []).getD ((as.length + 1) / 2 - 1) 0

/-- One member's score after a released round (R35, R36). Arrivals that tie for the latest stamp all
count as the latest (DESIGN CHOICE, log entry 17). -/
def scoreMember (key : Nat) (ref latest : FT) (s : State) (a : Arrival) : State :=
  match tget s.huddles key with
  | none => s
  | some h =>
    let old := (tget h.scores a.who).getD {}
    let last := a.stamp == latest && decide (reg s 0x3F00 0x08 * 1000 * 65536 < lateness a.stamp ref)
    let score := old.score - old.score / 32 + (if last then 1024 else 0)
    let marks := !old.suspect && decide (reg s 0x3F00 0x09 ≤ score)
    let clears := old.suspect && decide (score < reg s 0x3F00 0x0A)
    let s := modHuddle s key fun h =>
      { h with scores := tset h.scores a.who { score := score, suspect := (old.suspect || marks) && !clears } }
    if marks then
      let rank := (h.arrivals.takeWhile fun x => x.who != a.who).length
      let entry := (s.huddles.takeWhile fun p => p.1 != key).length
      let s := raise s { cls := 0x06, quarter := some (huddleQuarter h), ctx := some h.ctx
                         d0 := h.no, d1 := a.who }
      charge s 9 (entry * 64 + rank % 64) (huddleQuarter h) 2048
    else s

/-- The scores after a released round. -/
def scoreRound (s : State) (key : Nat) (h : Huddle) : State :=
  h.arrivals.foldl (scoreMember key (referenceStamp h.arrivals) (latestStamp h.arrivals)) s

/-! ## Release and failure -/

/-- Plays triggered by a huddle: 2 on release, 3 on failure (R96). -/
def triggerHuddle (s : State) (ctx no kind : Nat) : State :=
  (s.q.plays.filter fun p =>
    p.2.ctx == ctx && p.2.armed && p.2.trigger == kind && p.2.huddleNo == no).foldl
    (fun s p => trigger s p.1 true) s

/-- A round is released with a value: children and members are told, scores and innings move on,
and the entry opens the next round with its early arrivals (R27, R30). -/
def releaseRound (s : State) (key : Nat) (h : Huddle) (value : BitVec 64) : Evs :=
  let s := releaseChildren s key h Code.ok value
  let s := completeMembers s h Code.ok value
  let s := scoreRound s key h
  let s := if h.whistleRel then huddleWhistle s h 0x06 Code.ok value else s
  let s := if h.advanceInnings then advanceInnings s h.ctx false else s
  let s := modHuddle s key fun h =>
    { h with
      state := if h.early.isEmpty then .released else .gathering
      round := (h.round + 1) % 65536, value := roundValue h.combine h.early
      arrived := memberCount h.early, arrivals := h.early, early := []
      firstAt := if h.early.isEmpty then none else some s.now, sentUpAt := none
      lastValue := value, lastRound := some h.round, lastStatus := Code.ok }
  (triggerHuddle s h.ctx h.no 2, [.ended h.ctx h.no])

/-- A round fails on this part (R32, R33). Members held in EARLY for ROUND + 1 complete with the failing
status too (DESIGN CHOICE, log entry 17). -/
def failRound (s : State) (key : Nat) (h : Huddle) (status : Status) : Evs :=
  let s := completeMembers s h status 0
  let s := (h.early).foldl (fun s a => match a.seq with
    | some fk => finish s fk status
    | none => s) s
  let s := modHuddle s key fun h =>
    { h with
      state := .failed, failStatus := status, arrivals := [], early := [], lastStatus := status }
  let s := raise s { cls := 0x05, quarter := some (huddleQuarter h), status := status
                     ctx := some h.ctx, d0 := h.no, d1 := h.round }
  let s := if h.whistleFail then huddleWhistle s h 0x07 status 0 else s
  (triggerHuddle s h.ctx h.no 3, [.ended h.ctx h.no])

/-- A failure found on this part: the root releases the round as failed; another part sends it
up (R33). -/
def failFound (s : State) (key : Nat) (h : Huddle) (status : Status) : Evs :=
  if h.state = .failed then (s, [])
  else
    let s := if h.root then releaseChildren s key h status 0
      else issueInFlow s
        { quarter := huddleQuarter h, engine := engPoint, owner := .huddleFail key
          pkt := mkRequest 0x07 h.ctx (ctxGen s h.ctx) (issuer (huddleQuarter h) 1) h.parent
            (releaseExt h status 0) [] }
    failRound s key h status

/-- A complete round is released at the root or sent up from another part (R28). -/
def checkComplete (s : State) (key : Nat) : Evs :=
  match tget s.huddles key with
  | none => (s, [])
  | some h =>
    if h.state = .gathering && roundComplete h then
      if h.root then releaseRound s key h (roundValue h.combine h.arrivals)
      else (sendUp s key h, [])
    else (s, [])

/-- An arrival for the current round is counted (R30). -/
def countArrival (s : State) (key : Nat) (a : Arrival) : Evs :=
  let s := modHuddle s key fun h =>
    let as := h.arrivals ++ [a]
    { h with
      arrivals := as, value := roundValue h.combine as, arrived := memberCount as, state := .gathering
      firstAt := some (h.firstAt.getD s.now) }
  checkComplete s key

/-- A local member arrives for a round (R21, R27, R30, R32); `fk` is its descriptor, if it has
one. The status is that of an arrival which does not count, and none where it waits. R30 leaves open
an arrival for ROUND + 1 at a failed entry, which completes ABORTED and is counted, and whether the
arrivals held in EARLY may exceed LOCAL_MEMBERS, which they may (DESIGN CHOICE, log entry 17). -/
def localArrive (s : State) (key : Nat) (who : Nat) (fk : Option Nat) (round : Option Nat)
    (value : BitVec 64) (stamp : FT) : Evs × Option Status :=
  match tget s.huddles key with
  | none => ((bump s 0x3F00 0x11, []), some Code.protection)
  | some h =>
    if !ftUsable s then
      ((raise s { cls := 0x04, ctx := some h.ctx, d0 := h.no }, []), some Code.aborted)
    else
      let r := round.getD h.round
      let diff := (r + 65536 - h.round) % 65536
      let a : Arrival := { who := who, seq := fk, value := value, stamp := stamp }
      if diff = 0 then
        if h.state = .failed then ((s, []), some h.failStatus)
        else if (h.arrivals.any fun x => x.who == who) || h.state = .sentUp ||
            decide (h.localMembers ≤ (h.arrivals.filter fun x => !isChild x.who).length) then
          ((bump s 0x3F00 0x11, []), some Code.aborted)
        else (countArrival s key a, none)
      else if diff = 1 ∧ h.state ≠ .failed then
        if h.early.any fun x => x.who == who then ((bump s 0x3F00 0x11, []), some Code.aborted)
        else ((modHuddle s key fun h => { h with early := h.early ++ [a] }, []), none)
      else ((bump s 0x3F00 0x11, []), some Code.aborted)

/-! ## The runner -/

/-- One event is taken. -/
def runEv (s : State) (e : Ev) : Evs :=
  match e with
  | .arrive ctx no who value =>
    let r := localArrive s (huddleKey ctx no) who none none value (ftOf s (ctx % 4))
    match r.2 with
    | none => r.1
    | some st =>
      if who = ledgerWho ∧ st = Code.protection then (ledgerUnheard r.1.1 ctx, r.1.2) else r.1
  | .ended ctx no =>
    match tget s.huddles (huddleKey ctx no) with
    | none => (s, [])
    | some h =>
      let r := ledgerRound s ctx no h
      let c := checkComplete (retryApplies r.1 ctx) (huddleKey ctx no)
      (c.1, r.2 ++ c.2)

/-- Events are taken in order, each with what it sets off; the fuel bounds a chain of them. -/
def runEvs : Nat → List Ev → State → State
  | 0, _, s => s
  | _, [], s => s
  | fuel + 1, e :: es, s =>
    let r := runEv s e
    runEvs fuel (es ++ r.2) r.1

/-- A state with what it sets off, taken to the end. -/
def runAll (r : Evs) : State := runEvs 64 r.2 r.1

end Sys2Proof.Machine
end

