-- ==== Sys2Proof/Machine/Tiles.lean ====
section
/-! DEFINITION. Tiles and arenas (R285 to R303): shapes, headers and coding, directories and the
allocator, and the shared steps of the tile commands. -/

namespace Sys2Proof.Machine

/-! ## Shapes (R285) -/

/-- Bytes of a row. -/
def rowBytes (f cols : Nat) : Nat :=
  if isMx f then cols / 256 * unitBytes f else cols * elemBits f / 8

/-- Whether a shape is within the limits for a format. -/
def shapeOk (f rows cols : Nat) : Bool :=
  decide (0 < rows) && decide (0 < cols) && decide (f ≤ 13) && (!isMx f || cols % 256 == 0) &&
    decide (rows * rowBytes f cols ≤ 2 ^ 24) && decide (rows * cols < 2 ^ 30)

/-! ## The tile header (R286, Table 4) -/

/-- Fields of a tile header. -/
structure TileHdr where
  mode : Nat := 0
  fmt : Nat := 0
  srcFmt : Nat := 0
  groupLog2 : Nat := 0
  table : Nat := 0
  rows : Nat := 0
  cols : Nat := 0
  sectors : Nat := 0
  payload : Nat := 0
  check : Nat := 0
  scale : Nat := 0
  drawRound : Nat := 0
  packFt : Nat := 0
deriving DecidableEq, Repr

/-- The 64 bytes of a header. -/
def TileHdr.bytes (h : TileHdr) : Bytes :=
  leBytes 64
    (h.mode % 4 + h.fmt % 16 * 2 ^ 4 + h.srcFmt % 16 * 2 ^ 8 + h.groupLog2 % 16 * 2 ^ 12 +
      h.table % 8 * 2 ^ 16 + h.rows % 2 ^ 24 * 2 ^ 32 + h.cols % 2 ^ 32 * 2 ^ 64 +
      h.sectors % 2 ^ 13 * 2 ^ 96 + h.payload % 2 ^ 25 * 2 ^ 128 + h.check % 2 ^ 32 * 2 ^ 160 +
      h.scale % 2 ^ 32 * 2 ^ 192 + h.drawRound % 2 ^ 16 * 2 ^ 224 + h.packFt % 2 ^ 64 * 2 ^ 256)

/-- The header in 64 bytes. -/
def tileHdrOf (b : Bytes) : TileHdr :=
  let x : BitVec 512 := BitVec.ofNat 512 (ofLe (b.take 64))
  { mode := bits x 0 2, fmt := bits x 4 4, srcFmt := bits x 8 4, groupLog2 := bits x 12 4
    table := bits x 16 3, rows := bits x 32 24, cols := bits x 64 32, sectors := bits x 96 13
    payload := bits x 128 25, check := bits x 160 32, scale := bits x 192 32
    drawRound := bits x 224 16, packFt := bits x 256 64 }

/-! ## Coding (R288 to R290) -/

/-- Sectors of a tile with a payload, header included. -/
def sectorsFor (payload : Nat) : Nat := (64 + payload + 4095) / 4096

/-- TILE_SCALE exponent of a requantised FP8 tile (R290). -/
def tileExp (f : Nat) (xs : List Num) : Int :=
  match (xs.filter (·.isFinite)).foldl maxMag (.fin false 0 0) with
  | .fin _ m e => if m = 0 then 0 else max (-127) (min 127 (Nat.log2 m + e - emax f))
  | _ => 0

/-- FP32 word of a power of two. -/
def pow2W (k : Int) : Nat := fp32.pack .nearest false 1 k

/-- Stored elements and scale of a requantised tile (R290). -/
def requantise (outFmt : Nat) (rs : List Rnd) (accs : List Nat) : Bytes × Nat :=
  if isMx outFmt then (encodeElems outFmt rs accs, 0)
  else
    let xs := accs.map fp32.decode
    let k := tileExp outFmt xs
    (rs.zipWith (fun r x => BitVec.ofNat 8 (smallEncode outFmt r (x.scaleDown k))) xs, pow2W k)

/-- What a tile is coded from. -/
structure PackAsk where
  mode : Nat
  plainFmt : Nat
  outFmt : Nat
  rows : Nat
  cols : Nat
  stochastic : Bool
  drawRound : Nat
  tile : Nat
  seed : Nat

/-- A tile is coded: its header and payload, and the state after the choice of a group size and
the count of a tile that did not shrink (R288, R289). -/
def codeTile (s : State) (q : Nat) (a : PackAsk) (plain : Bytes) : State × TileHdr × Bytes :=
  let base : TileHdr :=
    { srcFmt := a.plainFmt, fmt := a.plainFmt, rows := a.rows, cols := a.cols
      packFt := (ftOf s q).toNat, drawRound := a.drawRound }
  let stored (s : State) (h : TileHdr) (data : Bytes) : State × TileHdr × Bytes :=
    (s, { h with mode := 0, payload := data.length, sectors := sectorsFor data.length
                 check := (crc32c data).toNat }, data)
  match a.mode with
  | 2 =>
    let rs := roundings a.stochastic a.seed (0xE000 + a.tile % 4096) a.drawRound 0 (a.rows * a.cols)
    let e := requantise a.outFmt rs (decodeElems a.plainFmt plain)
    (s, { base with
          mode := 2, fmt := a.outFmt, payload := e.1.length, sectors := sectorsFor e.1.length
          check := (crc32c e.1).toNat, scale := e.2 }, e.1)
  | 1 =>
    if losslessFmt a.plainFmt then
      let g := 4 + (Config.freeWord s.fresh).toNat % 4
      let s := draw s
      let t := bestTable a.plainFmt g a.rows a.cols plain
      let c := losslessCode a.plainFmt g t a.rows a.cols plain
      if c.length < plain.length then
        (s, { base with
              mode := 1, groupLog2 := g, table := t, payload := c.length
              sectors := sectorsFor c.length, check := (crc32c plain).toNat }, c)
      else stored (bump s 0x5000 0x0E) base plain
    else stored s base plain
  | _ => stored s base plain

/-- The stored elements of a tile from its header and payload. -/
def decodeTile (h : TileHdr) (payload : Bytes) : Bytes :=
  if h.mode = 1 then losslessDecode h.fmt h.groupLog2 h.table h.rows h.cols payload else payload

/-- Whether R291 allows an output format for a stored format. -/
def outAllowed (stored out : Nat) : Bool :=
  out == stored || (decide (stored ≤ 10) && decide (out ≤ 2))

/-- Stored elements decoded to accumulators with the tile's scale (R291). -/
def scaledElems (h : TileHdr) (data : Bytes) : List Nat :=
  (decodeElems h.fmt data).map fun x => if h.scale = 0 then x else fp32.mulW x h.scale

/-- Stored elements in an output format (R291). -/
def plainOf (h : TileHdr) (out : Nat) (data : Bytes) : Bytes :=
  if out = h.fmt then data
  else encodeElems out (List.replicate (h.rows * h.cols) .nearest) (scaledElems h data)

/-! ## Arenas: layout and directory (R292, Table 7) -/

/-- Key of an arena. -/
def arenaKey (ctx no : Nat) : Nat := ctx * 256 + no % 256

/-- The state with one arena changed. -/
def modArena (s : State) (key : Nat) (f : Arena → Arena) : State :=
  { s with pewter := { s.pewter with arenas := tmod s.pewter.arenas key f } }

/-- Directory sectors D, free-map sectors B, and the first data sector. -/
def dirSectors (tiles : Nat) : Nat := (tiles * 16 + 4095) / 4096
def mapSectors (sectors : Nat) : Nat := (sectors + 32767) / 32768
def Arena.dataFrom (a : Arena) : Nat := dirSectors a.tiles + mapSectors a.sectors

/-- VA of a sector. -/
def Arena.sectorVa (a : Arena) (n : Nat) : Nat := a.base + n * 4096

/-- Free data sectors, and sectors of replaced runs. -/
def Arena.free (a : Arena) : Nat :=
  a.sectors - a.dataFrom - a.used.foldl (fun n r => n + r.2) 0
def Arena.retiredSectors (a : Arena) : Nat := a.retired.foldl (fun n r => n + r.sectors) 0

/-- A directory entry. -/
structure DirEntry where
  valid : Bool := false
  first : Nat := 0
  sectors : Nat := 0
  version : Nat := 0
deriving DecidableEq, Repr

def DirEntry.bytes (e : DirEntry) : Bytes :=
  leBytes 16 (b2n e.valid + e.first % 2 ^ 32 * 2 ^ 32 + e.sectors % 2 ^ 13 * 2 ^ 64 +
    e.version % 2 ^ 32 * 2 ^ 96)

def dirEntryOf (b : Bytes) : DirEntry :=
  let x : BitVec 128 := BitVec.ofNat 128 (ofLe (b.take 16))
  { valid := bit x 0, first := bits x 32 32, sectors := bits x 64 13, version := bits x 96 32 }

/-- The directory or free map could not be read or written: the arena fails (R300). -/
def arenaFails (s : State) (key : Nat) (status : Status) : State :=
  match tget s.pewter.arenas key with
  | none => s
  | some a =>
    raise (modArena s key fun a => { a with failed := true })
      { cls := 0x11, quarter := some a.home, status := status, ctx := some a.ctx, d0 := a.base }

/-- A tile's directory entry is read. -/
def readDir (s : State) (key : Nat) (a : Arena) (tile : Nat) : State × Except Status DirEntry :=
  let r := readVa s a.ctx (a.base + tile * 16) 16
  if r.status = Code.ok then (r.st, .ok (dirEntryOf r.data))
  else (arenaFails r.st key r.status, .error r.status)

/-- Bytes of the free map: a bit is set for an allocated sector. -/
def mapBytes (a : Arena) : Bytes :=
  leBytes (mapSectors a.sectors * 4096)
    (a.used.foldl (fun n r => n + (2 ^ r.2 - 1) * 2 ^ r.1) 0)

/-- The free map in memory follows the allocator. -/
def writeMap (s : State) (key : Nat) : State :=
  match tget s.pewter.arenas key with
  | none => s
  | some a =>
    let r := writeVa s a.ctx (a.sectorVa (dirSectors a.tiles)) (mapBytes a)
    if r.status = Code.ok then r.st else arenaFails r.st key r.status

/-- A tile's directory entry is written as one 16-byte write. -/
def writeDir (s : State) (key : Nat) (a : Arena) (tile : Nat) (e : DirEntry) : State × Status :=
  let r := writeVa s a.ctx (a.base + tile * 16) e.bytes
  if r.status = Code.ok then (r.st, Code.ok) else (arenaFails r.st key r.status, r.status)

/-! ## The allocator (R297, R298) -/

/-- Free gaps between allocated runs, from a sector to a bound. -/
def gaps (hi : Nat) : Nat → List (Nat × Nat) → List (Nat × Nat)
  | lo, [] => if lo < hi then [(lo, hi - lo)] else []
  | lo, r :: rs => (if lo < r.1 then [(lo, r.1 - lo)] else []) ++ gaps hi (r.1 + r.2) rs

def Arena.gaps (a : Arena) : List (Nat × Nat) := Machine.gaps a.sectors a.dataFrom a.used

/-- The lowest place for a run at or after a sector. -/
def placeFrom (n lo : Nat) (gs : List (Nat × Nat)) : Option Nat :=
  gs.findSome? fun g =>
    let p := max g.1 lo
    if p + n ≤ g.1 + g.2 then some p else none

/-- An allocated run joins the others in rising order. -/
def insertRun (r : Nat × Nat) : List (Nat × Nat) → List (Nat × Nat)
  | [] => [r]
  | x :: xs => if r.1 < x.1 then r :: x :: xs else x :: insertRun r xs

/-- A run of a length is allocated at or after the rotating cursor, wrapping once. -/
def allocRun (a : Arena) (n : Nat) : Option (Nat × Arena) :=
  match (match placeFrom n a.cursor a.gaps with
    | some p => some p
    | none => placeFrom n 0 a.gaps) with
  | none => none
  | some p => some (p, { a with used := insertRun (p, n) a.used, cursor := p + n })

/-- A run is retired until the tile commands that have read the directory complete. -/
def retireRun (a : Arena) (first sectors : Nat) : Arena :=
  if a.readers.isEmpty then { a with used := a.used.filter fun r => r.1 != first }
  else { a with retired := a.retired ++ [{ first := first, sectors := sectors, readers := a.readers }] }

/-- A tile command of an arena has completed: runs that only it still read are freed. -/
def Arena.readerDone (a : Arena) (who : Nat) : Arena :=
  let rs := a.retired.map fun r => { r with readers := r.readers.filter fun x => x != who }
  let spent := rs.filter fun r => r.readers.isEmpty
  { a with
    readers := a.readers.filter fun x => x != who
    retired := rs.filter fun r => !r.readers.isEmpty
    used := a.used.filter fun u => !(spent.any fun r => r.first == u.1) }

/-- An arena that is closing is released once its last command has completed, and the ARENA_DISARM that waits
for it completes (R302). -/
def closeArena (s : State) (key : Nat) : State :=
  match tget s.pewter.arenas key with
  | none => s
  | some a =>
    if a.closing = true ∧ a.readers.isEmpty = true then
      let s := release { s with pewter := { s.pewter with arenas := tdel s.pewter.arenas key } } (holdArena key)
      match a.closer with
      | none => s
      | some fk => finish s fk Code.ok
    else s

/-- A tile command or schedule entry has completed on every arena it read. -/
def readersDone (s : State) (who : Nat) : State :=
  let ks := (s.pewter.arenas.filter fun p => p.2.readers.contains who).map (·.1)
  ks.foldl (fun s k => closeArena (writeMap (modArena s k fun a => a.readerDone who) k) k) s

/-- A tile command joins the readers of an arena. -/
def joinArena (s : State) (key who : Nat) : State :=
  modArena s key fun a => if a.readers.contains who then a else { a with readers := a.readers ++ [who] }

/-! ## Reading and placing a tile -/

/-- A tile read whole from its run: header, payload, and the stored elements after their check. -/
structure TileRead where
  hdr : TileHdr
  payload : Bytes
  data : Bytes

/-- The run of a directory entry is read: header and coded payload (R301). -/
def readRunOf (s : State) (a : Arena) (e : DirEntry) : State × Except Status (TileHdr × Bytes) :=
  let h := readVa s a.ctx (a.sectorVa e.first) 64
  if h.status ≠ Code.ok then (h.st, .error h.status)
  else
    let hdr := tileHdrOf h.data
    let p := readVa h.st a.ctx (a.sectorVa e.first + 64) hdr.payload
    if p.status ≠ Code.ok then (p.st, .error p.status) else (p.st, .ok (hdr, p.data))

/-- What an engine of a quarter works on: descriptors, and at a Pewter unit the tile sets of Caddie entries
whose writes are outstanding (R305). -/
def engineLoad (s : State) (q e : Nat) : Nat :=
  tcount s.q.flights (fun _ f => f.quarter == q && f.engine == e && decide (0x20 ≤ opcodeOf f.desc)) +
    s.caddie.streams.foldl (fun n c =>
      if c.2.quarter = q then n + (c.2.flying.filter fun x => (x.unit.map (· + 18)) == some e).length else n) 0

/-- The engine among some that takes the next descriptor: fewer than eight descriptors, fewest
outstanding requests, lowest number (R90, R287). -/
def chooseEngine (s : State) (q : Nat) (es : List Nat) : Option Nat :=
  (es.filter fun e => decide (engineLoad s q e < 8)).foldl (fun b e =>
    match b with
    | none => some e
    | some x => if engineLive s q e < engineLive s q x then some e else some x) none

/-- The Pewter engine of a quarter that takes the next command: in service, with the fewest outstanding
requests, lowest number (R287, R377). -/
def pewterEngine (s : State) (q : Nat) : Option Nat :=
  chooseEngine s q ([18, 19, 20, 21].filter fun e => !unitOut s 8 (4 * q + (e - 18)))

/-- The Pewter unit of a quarter that takes the next tile of a Caddie stream, by the same rule; none while
there is none (R305). -/
def pewterUnit (s : State) (q : Nat) : Option Nat := (pewterEngine s q).map fun e => e - 18

/-- The tile of a directory entry is read and decoded; a mismatch with RAW_CHECK gives INTEGRITY,
a record and a charge of the unit (R291, R377). -/
def readTile (s : State) (a : Arena) (e : DirEntry) (q unit : Nat) : State × Except Status TileRead :=
  match readRunOf s a e with
  | (s, .error st) => (s, .error st)
  | (s, .ok (hdr, payload)) =>
    let data := decodeTile hdr payload
    if (crc32c data).toNat = hdr.check then (s, .ok ⟨hdr, payload, data⟩)
    else
      let s := raise s { cls := 0x08, quarter := some q, status := Code.integrity, ctx := some a.ctx
                         unitKind := 8, unit := 4 * q + unit, d0 := a.base }
      (charge s 8 (4 * q + unit) q 4096, .error Code.integrity)

/-- A coded tile is placed: a run is allocated and written, the directory entry is written with
the next VERSION, and the old run is retired (R297 steps 3 to 5). -/
def placeTile (s : State) (key tile : Nat) (hdr : TileHdr) (payload : Bytes) :
    State × Except Status Nat :=
  match tget s.pewter.arenas key with
  | none => (s, .error Code.protection)
  | some a =>
    if a.failed then (s, .error Code.aborted)
    else match allocRun a hdr.sectors with
    | none => (bump s 0x5000 0x0F, .error Code.quota)
    | some (p, a') =>
      let w := writeVa s a.ctx (a.sectorVa p) (hdr.bytes ++ payload)
      if w.status ≠ Code.ok then (w.st, .error w.status)
      else
        match readDir w.st key a tile with
        | (s, .error st) => (s, .error st)
        | (s, .ok old) =>
          let v := (old.version + 1) % 2 ^ 32
          let s := modArena s key fun _ => a'
          match writeDir s key a' tile { valid := true, first := p, sectors := hdr.sectors, version := v } with
          | (s, st) =>
            if st ≠ Code.ok then (s, .error st)
            else
              let s := if old.valid then modArena s key fun a => retireRun a old.first old.sectors else s
              (writeMap s key, .ok v)

/-! ## Tile commands -/

/-- An arena that takes tile commands: armed, not failed and not closing, with a tile number in
range (check 2 of R296). -/
def arenaFor (s : State) (ctx no tile : Nat) : Option Arena :=
  match tget s.pewter.arenas (arenaKey ctx no) with
  | some a => if a.failed ∨ a.closing = true ∨ a.tiles ≤ tile then none else some a
  | none => none

/-- Opcodes of the tile commands. -/
def isTileOp (op : Nat) : Bool := decide (0x82 ≤ op) && decide (op ≤ 0x86)

/-- Reader number of a descriptor in flight. -/
def readerOf (fk : Nat) : Nat := tagKey 0 fk

/-- The place of a side given by kind and address. -/
def placeOf (handle : Bool) (a : Nat) : Place :=
  if handle then .handle (BitVec.ofNat 64 a) else .va (a % 2 ^ 48)

/-- A place further on. -/
def Place.add (p : Place) (n : Nat) : Place :=
  match p with
  | .va a => .va (a + n)
  | .handle h => .handle (handleAdd h n)

/-- The flagged write that ends a tile command (R297 step 6). -/
def tileFlag (d : Desc) : List Work :=
  if opBit d 203 then
    [.barrier, .flag (placeOf (opBit d 204) (opnd d 256 64)) (BitVec.ofNat 64 (opnd d 320 64))]
  else []

/-- A job for a descriptor in flight. -/
def flightJob (s : State) (fk : Nat) (f : Flight) : Job :=
  { kind := .flight fk, ctx := f.ctx, gen := ctxGen s f.ctx, quarter := f.quarter, engine := f.engine
    cls := opcodeOf f.desc / 32, srcQueue := queueIssuer s f.ctx f.queue, order := orderOf f.desc }

/-- Rows of a plain side: offset in the plain range and in the tile's row-major bytes. -/
def plainRows (d : Desc) (fmt : Nat) : List (Nat × Nat × Nat) :=
  let rb := rowBytes fmt (opnd d 88 32)
  (List.range (opnd d 64 24)).map fun r => (r * opnd d 120 32, r * rb, rb)

/-- The state with the work of a tile command recorded. -/
def setTileWork (s : State) (fk : Nat) (w : TileWork) : State :=
  { s with pewter := { s.pewter with works := tset s.pewter.works fk w } }

/-- The work of a tile command is over. -/
def dropTileWork (s : State) (fk : Nat) : State :=
  { s with pewter := { s.pewter with works := tdel s.pewter.works fk } }

/-- A tile command becomes final. -/
def tileEnds (s : State) (fk : Nat) (status : Status) (detail : BitVec 64) : State :=
  finish (dropTileWork (endJob s (.flight fk)) fk) fk status detail

/-- A tile command goes on to its flagged write, or ends where it has none. -/
def tileFlagPhase (s : State) (fk : Nat) (f : Flight) (w : TileWork) (detail : BitVec 64) : State :=
  if opBit f.desc 203 then
    startJob (setTileWork s fk { w with phase := 2, detail := detail }) (flightJob s fk f)
      (tileFlag f.desc)
  else tileEnds s fk Code.ok detail

/-- DETAIL of a placed tile: new VERSION, and sectors. -/
def placeDetail (version sectors : Nat) : BitVec 64 := BitVec.ofNat 64 (version + sectors * 2 ^ 32)

/-- The plain tile of a TILE_PACK has been read: it is coded and placed (R297). -/
def packPlain (s : State) (fk : Nat) (f : Flight) (w : TileWork) (plain : Bytes) : State :=
  let d := f.desc
  let ask : PackAsk :=
    { mode := opnd d 192 2, plainFmt := opnd d 194 4, outFmt := opnd d 198 4, rows := opnd d 64 24
      cols := opnd d 88 32, stochastic := opBit d 202, drawRound := opnd d 208 16
      tile := opnd d 168 24, seed := roundSeed s f.ctx }
  let c := codeTile s f.quarter ask plain
  let s := bumpBy c.1 0x5000 0x0C plain.length
  match placeTile s w.arena w.tile c.2.1 c.2.2 with
  | (s, .error st) => tileEnds s fk st 0
  | (s, .ok v) => tileFlagPhase s fk f w (placeDetail v c.2.1.sectors)

/-- The plain side of a tile command, and its flag. -/
def plainPlace (d : Desc) : Place := placeOf (opBit d 152) (opnd d 0 64)
def flagPlace (d : Desc) : Place := placeOf (opBit d 204) (opnd d 256 64)

/-- A plain tile written to the plain rows. -/
def unpackWrites (d : Desc) (plain : Bytes) : List Work :=
  ((plainRows d (opnd d 198 4)).map fun r => (piecesOf 8192 r.2.2).map fun p =>
    .store ((plainPlace d).add (r.1 + p.1)) ((plain.drop (r.2.1 + p.1)).take p.2)).flatten

/-- A TILE_UNPACK whose plain side has passed its check reads and checks its run, and writes the plain rows
(R291). -/
def unpackRun (s : State) (fk : Nat) (f : Flight) (w : TileWork) : State :=
  match tget s.pewter.arenas w.arena with
  | none => tileEnds s fk Code.aborted 0
  | some a =>
    if a.failed then tileEnds s fk Code.aborted 0
    else match readTile s a { valid := true, first := w.first, sectors := w.sectors, version := w.version }
        f.quarter (f.engine - 18) with
      | (s, .error st) => tileEnds s fk st 0
      | (s, .ok t) =>
        let plain := plainOf t.hdr (opnd f.desc 198 4) t.data
        let s := setTileWork (bumpBy s 0x5000 0x0D plain.length) fk { w with phase := 1 }
        startJob s (flightJob s fk f) (unpackWrites f.desc plain ++ tileFlag f.desc)

/-- A tile command's job has ended: it fails, or goes on to its next phase. -/
def tileNext (s : State) (fk : Nat) (f : Flight) (w : TileWork) (j : Job) : State :=
  let s := endJob s (.flight fk)
  if j.status ≠ Code.ok then tileEnds s fk j.status j.detail
  else if w.phase = 0 then packPlain s fk f w j.buffer
  else if w.phase = 3 then unpackRun s fk f w
  else tileEnds s fk Code.ok w.detail

end Sys2Proof.Machine
end

