-- ==== Sys2Proof/Machine/Flows.lean ====
section
/-! DEFINITION. The end-point blocks' flow records and arrival checks (R160 to R164, R507), held
flagged writes (R132 to R135), and the sending of ACKs and NACKs (R150, R169). -/

namespace Sys2Proof.Machine

/-! ## Serial numbers and flow records (R161) -/

/-- Whether one 24-bit SEQ lies above another. -/
def seqAbove (a b : Nat) : Bool :=
  decide (1 ≤ (a + 2 ^ 24 - b) % 2 ^ 24) && decide ((a + 2 ^ 24 - b) % 2 ^ 24 < 2 ^ 23)

/-- Key of the flow of a packet. -/
def pktFlow (p : Packet) : Nat := flowKey p.src p.srcQueue p.srcInc

/-- Home quarter of a flow. -/
def homeQuarter (src srcQueue : Nat) : Nat := Nat.xor src srcQueue % 4

/-- Home quarter of a packet's flow. -/
def pktHome (p : Packet) : Nat := homeQuarter p.src p.srcQueue

/-- The state with one flow record changed. -/
def modFlow (s : State) (key : Nat) (f : Flow → Flow) : State :=
  { s with net := { s.net with flows := tmod s.net.flows key f } }

/-- Key of an atomic-result entry: flow and SEQ. -/
def resultKey (flow seq : Nat) : Nat := flow * 2 ^ 24 + seq

/-- Result entries that a base of a flow frees (R164). -/
def freeResults (s : State) (flow base : Nat) : State :=
  { s with net := { s.net with
    results := tfilter s.net.results fun k _ => !(k / 2 ^ 24 == flow && !seqAbove (k % 2 ^ 24) base) } }

/-- A flow's base rises to a SEQ, if that is higher. -/
def raiseBase (s : State) (key base : Nat) : State :=
  match tget s.net.flows key with
  | none => s
  | some f =>
    if seqAbove base f.base then
      let s := modFlow s key fun f =>
        { f with
          base := base
          done := f.done.filter fun x => seqAbove x base
          final := f.final.filter fun x => seqAbove x base
          aborted := f.aborted.filter fun x => seqAbove x base
          busy := f.busy.filter fun x => seqAbove x base }
      freeResults s key base
    else s

/-- Base that a copy gives its flow. -/
def copyBase (p : Packet) : Nat := (p.seq + 2 * 2 ^ 24 - p.floor - 1) % 2 ^ 24

/-- Flow records on a quarter. -/
def flowsOn (s : State) (q : Nat) : Nat := tcount s.net.flows fun _ f => homeQuarter f.src f.srcQueue == q

/-- A flow record for a packet is there, created if need be, with its base raised; none where the
quarter's records are all in use. -/
def openFlow (s : State) (p : Packet) : Option State :=
  let k := pktFlow p
  if thas s.net.flows k then
    some (raiseBase (modFlow s k fun f => { f with used := s.now }) k (copyBase p))
  else if 16384 ≤ flowsOn s (pktHome p) then none
  else
    let f : Flow :=
      { src := p.src, srcQueue := p.srcQueue, srcInc := p.srcInc, base := copyBase p
        spanFrom := copyBase p, used := s.now }
    some { s with net := { s.net with flows := tset s.net.flows k f } }

/-! ## Incarnations (R170, R507) -/

/-- A part learns a node's incarnation; what it holds for an older one is freed. -/
def learnInc (s : State) (node inc : Nat) : State :=
  let known := tget s.net.lastInc node
  if known = some inc then s
  else
    let old (n i : Nat) : Bool := n == node && i != inc
    let known := tset s.net.lastInc node inc
    let flows := tfilter s.net.flows fun _ f => !old f.src f.srcInc
    let results := tfilter s.net.results fun k _ => !old (k / 2 ^ 44) (k / 2 ^ 24 % 16)
    let resv := s.xlat.resv.map fun t => tfilter t fun _ r => !old r.srcNode r.srcInc
    let pushes := s.net.heldPushes.filter fun h => !old h.pkt.src h.pkt.srcInc
    { s with
      net := { s.net with lastInc := known, flows := flows, results := results, heldPushes := pushes }
      xlat := { s.xlat with resv := resv } }

/-- Whether check 3 of Table 9a fails. -/
def staleInc (s : State) (p : Packet) : Bool :=
  (p.dstKnown && p.dstInc != ownInc s) ||
    (match tget s.net.lastInc p.src with
     | none => false
     | some i => decide (8 ≤ (p.srcInc + 16 - i) % 16))

/-! ## Replies -/

/-- A NACK is sent. -/
def nackReq (s : State) (p : Packet) (reason : Nat) : State :=
  sendReply (bump s 0x3E00 0x07) (pktHome p) (mkNack s p reason)

/-- The ACK held for merging on a flow is sent (R169). -/
def flushAck (s : State) (flow : Nat) : State :=
  match tget s.net.acks flow with
  | none => s
  | some m =>
    sendReply { s with net := { s.net with acks := tdel s.net.acks flow } } (pktHome m.last)
      (mkAck s m.last Code.ok m.run 0)

/-- An ACK of status OK: merged with later ones of its flow for at most 3E00:05 ns. -/
def ackMerged (s : State) (p : Packet) : State :=
  let k := pktFlow p
  if reg s 0x3E00 0x05 = 0 then sendReply s (pktHome p) (mkAck s p Code.ok 1 0)
  else
    match tget s.net.acks k with
    | some m =>
      if p.seq = (m.last.seq + 1) % 2 ^ 24 ∧ m.run < 1023 then
        { s with net := { s.net with acks := tset s.net.acks k { m with last := p, run := m.run + 1 } } }
      else
        let s := flushAck s k
        { s with net := { s.net with acks := tset s.net.acks k { last := p, since := s.now } } }
    | none => { s with net := { s.net with acks := tset s.net.acks k { last := p, since := s.now } } }

/-- A request of a flow has been performed: its SEQ is marked, and a refusal mark it had is
cleared (R163). -/
def markDone (s : State) (p : Packet) : State :=
  modFlow s (pktFlow p) fun f =>
    { f with
      done := if f.done.contains p.seq then f.done else f.done ++ [p.seq]
      busy := f.busy.filter fun x => x != p.seq, refused := f.refused.filter fun x => x != p.seq }

/-- A request of a flow has been answered with a failing status (R135). -/
def markRefused (s : State) (p : Packet) : State :=
  modFlow s (pktFlow p) fun f =>
    { f with
      final := if f.final.contains p.seq then f.final else f.final ++ [p.seq]
      busy := f.busy.filter fun x => x != p.seq
      refused := if isStoreOp p.op && !f.refused.contains p.seq then f.refused ++ [p.seq] else f.refused }

/-- A request is in progress. -/
def markBusy (s : State) (p : Packet) : State :=
  modFlow s (pktFlow p) fun f => { f with busy := f.busy ++ [p.seq] }

/-- A request performed is acknowledged. -/
def ackDone (s : State) (p : Packet) (detail : BitVec 64 := 0) : State :=
  let s := markDone s p
  if detail = 0 then ackMerged s p else sendReply s (pktHome p) (mkAck s p Code.ok 1 detail)

/-- The reply that tells a request its failing status: of its own kind, with one byte of zero or OLD zero
for one that a value answers (DESIGN CHOICE, log entry 33), else an ACK with DETAIL (R150, R153, R156). -/
def refusal (s : State) (p : Packet) (status : Status) (detail : BitVec 64) : Packet :=
  if p.op = 0x01 then mkDataReply s p 0x42 status [0]
  else if p.op = 0x46 then mkDataReply s p 0x47 status (leBytes 16 0)
  else if isAtomicOp p.op || p.op == 0x45 then mkAtomicReply s p status 0
  else mkAck s p status 1 detail

/-- A request is refused with a status by the checks of its opcode. -/
def refuseReq (s : State) (p : Packet) (status : Status) (detail : BitVec 64 := 0) : State :=
  let s := markRefused s p
  sendReply s (pktHome p) (refusal s p status detail)

/-- A request is refused by the arrival checks, with an ACK (Table 9a). -/
def refuseArrival (s : State) (p : Packet) (status : Status) : State :=
  let s := markRefused s p
  sendReply s (pktHome p) (mkAck s p status 1 0)

/-! ## Arrival checks (R162, Table 9a) -/

/-- What the arrival checks make of a request. -/
inductive Arrived where
  /-- Answered or discarded. -/
  | over (s : State)
  /-- To be performed. -/
  | fresh (s : State)
  /-- A copy of a request already performed. -/
  | copy (s : State)
  /-- A copy of a flagged write that completed ABORTED. -/
  | dead (s : State)

/-- A port is charged for a packet whose check failed; when it goes out of service it is quarantined
(R377, R378, R404). -/
def chargePort (s : State) (n : Nat) : State :=
  let was := unitOut s 2 n
  let s := charge s 2 n (portQuarter n) 256
  if was || !unitOut s 2 n then s
  else portCut (setReg s (0x3000 + n) 0x02 (reg s (0x3000 + n) 0x02 ||| 8)) n

/-- Checks 2 to 6 of Table 9a, in order. -/
def checksAfterCrc (s : State) (p : Packet) : Arrived :=
  if p.dst ≠ nodeId s then .over (bump s 0x3E00 0x0C)
  else if staleInc s p then
    .over (sendReply (bump s 0x3E00 0x0A) (pktHome p) (mkAck s p Code.staleIncarnation 1 0))
  else
    let s := learnInc s p.src p.srcInc
    match openFlow s p with
    | none =>
      if malformed p then .over (sendReply s (pktHome p) (mkAck s p Code.misaligned 1 0))
      else .over (nackReq s p 2)
    | some s =>
      if malformed p then .over (refuseArrival s p Code.misaligned)
      else
        let f := (tget s.net.flows (pktFlow p)).getD {}
        let d := (p.seq + 2 ^ 24 - f.base) % 2 ^ 24
        if d = 0 ∨ 1024 < d then .over (bump s 0x3E00 0x0C)
        else if f.busy.contains p.seq then .over (bump s 0x3E00 0x08)
        else if f.aborted.contains p.seq then .dead (bump s 0x3E00 0x08)
        else if f.done.contains p.seq then .copy (bump s 0x3E00 0x08)
        else .fresh s

/-- Bytes of the longest reply a request can draw. -/
def replySize (p : Packet) : Nat :=
  if p.op = 0x01 then 40 + roundUp p.bytes 256 else if p.op = 0x46 then 296 else 32

/-- The checks of Table 9a, in order. A request whose reply the end-point block cannot queue is
discarded before them (R207). -/
def arrival (s : State) (inPort : Option Nat) (p : Packet) : Arrived :=
  if ingressFull s (64 + 4 * pktHome p) (replySize p) then .over (bump s 0x3E00 0x0C)
  else if p.crcOk then checksAfterCrc s p
  else
    let s := bump s 0x3E00 0x09
    let s := match inPort with
      | some n => if n < 64 then chargePort s n else s
      | none => s
    .over (nackReq s p 1)

/-! ## Flagged writes (R132 to R135) -/

/-- Whether every SEQ of a flow between its base and a SEQ is final at this part. -/
def coveredFinal (f : Flow) (seq : Nat) : Bool :=
  (List.range ((seq + 2 ^ 24 - f.base) % 2 ^ 24 - 1)).all fun i =>
    let x := (f.base + 1 + i) % 2 ^ 24
    f.done.contains x || f.final.contains x || f.aborted.contains x

/-- Whether a refusal since the previous flagged write makes a flagged write ABORTED. -/
def spanRefused (f : Flow) (seq : Nat) : Bool := f.refused.any fun x => seqAbove seq x

/-- A flagged write completes ABORTED: it counts as final, and its span's refusals are consumed
(R135). -/
def abortFlagged (s : State) (p : Packet) : State :=
  let s := bump s 0x6000 0x0F
  let s := modFlow s (pktFlow p) fun f =>
    { f with
      aborted := f.aborted ++ [p.seq], busy := f.busy.filter fun x => x != p.seq
      refused := f.refused.filter fun x => !seqAbove p.seq x, spanFrom := p.seq }
  sendReply s (pktHome p) (mkAck s p Code.aborted 1 0)

end Sys2Proof.Machine
end

