-- ==== Sys2Proof/Machine/Guard.lean ====
section
/-! DEFINITION. Caddie's guards (R315), misses (R319), failures (R320), and the start of schedule
entries (R310 to R314). -/

namespace Sys2Proof.Machine

/-- Key of a stream: quarter, context and number. -/
def caddieKey (q ctx no : Nat) : Nat := (q % 4 * 4096 + ctx) * 256 + no % 256

/-- Number of an entry in flight among those of its stream: index and low bits of the pass. -/
def FlyEntry.tag (x : FlyEntry) : Nat := x.pass % 16 * 4096 + x.index

/-- Reader number of an entry in flight. -/
def caddieReader (key : Nat) (x : FlyEntry) : Nat := tagKey 6 (key * 65536 + x.tag)

/-! ## Requests of queue pairs held by a guard (R315, R419) -/

/-- Fields of an R_Key (Table 4). -/
def keyWindow (k : BitVec 32) : Nat := bits k 0 14
def keyGen (k : BitVec 32) : Nat := bits k 14 16

/-- The offset and length in a window of what a packet touches; none for a push. -/
def roceRange (p : QueuePair) (op : RoceOp) (k : RocePkt) : Option (BitVec 32 × Nat × Nat) :=
  match op with
  | .write =>
    if k.first then some (k.rkey, k.va, k.data.length)
    else p.run.map fun r => (r.head.rkey, r.head.va + r.taken, k.data.length)
  | .read => some (k.rkey, k.va, k.len)
  | .add => some (k.rkey, k.va, 8)
  | .swap => some (k.rkey, k.va, 8)
  | _ => none

/-- The bytes that a packet touches, as a VA and a length. -/
def roceSpan (s : State) (p : QueuePair) (op : RoceOp) (k : RocePkt) : List (Nat × Nat) :=
  match roceRange p op k with
  | none => []
  | some (rkey, off, len) => match tget s.xlat.windows (keyWindow rkey) with
    | none => []
    | some w => [(w.baseVa + off, len)]

/-! ## Failures (R320) -/

/-- DETAIL of a CADDIE_WAIT: MISSES of its stream. -/
def caddieMisses (s : State) (key : Nat) : BitVec 64 :=
  BitVec.ofNat 64 (((tget s.caddie.streams key).map (·.misses)).getD 0)

/-- CADDIE_WAITs of a stream complete with a status. -/
def wakeCaddie (s : State) (key : Nat) (status : Status) : State :=
  (s.q.flights.filter fun p =>
    p.2.progress = .working && opcodeOf p.2.desc == 0xA2 &&
      caddieKey p.2.quarter (if p.2.ctx = 0 then opnd p.2.desc 96 12 else p.2.ctx) (opnd p.2.desc 0 8) == key).foldl
    (fun s p => finish s p.1 status (caddieMisses s key)) s

/-- An access that was held completes with a status (R320). -/
def refuseHeld (s : State) (status : Status) (h : HeldReq) : State :=
  match h.what with
  | .request p => refuseReq s p status
  | .pair qpn =>
    { s with eth := { s.eth with qps := tmod s.eth.qps qpn fun p => match p.waiting with
      | [] => p
      | w :: ws => { p with waiting := { w with refused := some status } :: ws } } }
  | .piece jk n =>
    setJobs s (tmod s.net.jobs jk fun j =>
      { (j.fail n status (BitVec.ofNat 64 h.va)) with todo := j.todo.filter fun x => x.1 != n })
  | .segment key seg =>
    { s with scrum := { s.scrum with groups := tmod s.scrum.groups key fun g =>
      { g with segs := tmod g.segs seg fun x => { x with fate := some status } } } }
  | .apply key => modStream s key fun st => { st with failing := some (st.failing.getD status), state := 3 }
  | .command fk => finish s fk status

/-- Whether no guard covers an access any more. -/
def HeldReq.freed (s : State) (h : HeldReq) : Bool := (guardVa s h.ctx h.va h.len).isNone

/-- Accesses that no guard covers any more complete with a status. -/
def refuseFreed (s : State) (status : Status) : State :=
  let freed := s.caddie.guarded.filter (HeldReq.freed s)
  let left := s.caddie.guarded.filter fun h => !HeldReq.freed s h
  freed.foldl (fun s h => refuseHeld s status h) { s with caddie := { s.caddie with guarded := left } }

/-- An entry in flight leaves its stream. -/
def dropEntry (s : State) (key : Nat) (x : FlyEntry) : State :=
  let s := modCaddie s key fun c =>
    { c with flying := c.flying.filter fun y => !(y.index == x.index && y.pass == x.pass) }
  readersDone (endJob s (.caddie key x.tag)) (caddieReader key x)

/-- A stream enters state failed with a status; one that is being disarmed stays so. -/
def failCaddie (s : State) (key : Nat) (status : Status) : State :=
  let s := modCaddie s key fun c =>
    { c with
      state := if c.state = 2 then 2 else 3
      failStatus := if c.failStatus = Code.ok then status else c.failStatus }
  wakeCaddie s key status

/-- An entry fails: its stream fails, and requests held on its bytes complete with its status. -/
def failEntry (s : State) (key : Nat) (x : FlyEntry) (status : Status) : State :=
  let s := modCaddie (dropEntry s key x) key fun c => { c with lost := c.lost ++ [(x.index, x.pass)] }
  refuseFreed (failCaddie (bump s 0x6300 0x09) key status) status

/-! ## Triggers (R310 to R313) -/

/-- The cursor as a signed value, −1 until every word has been written. -/
def CaddieStream.cursor (c : CaddieStream) : Int :=
  match cursorOf c with
  | none => -1
  | some n => n

/-- Position of need of an entry in a pass. -/
def CaddieStream.need (c : CaddieStream) (e : SchedEntry) (pass : Nat) : Nat :=
  pass * (if c.loop then c.span else 0) + e.position

/-- Whether the entry before one has landed, or failed. -/
def CaddieStream.prevLanded (c : CaddieStream) (index pass : Nat) : Bool :=
  !c.flying.any fun x =>
    if index = 0 then x.index + 1 == c.count && (x.pass + 1) % 2 ^ 32 == pass
    else x.index + 1 == index && x.pass == pass

/-- The entry before one in schedule order. -/
def CaddieStream.before (c : CaddieStream) (index : Nat) : Nat := if index = 0 then c.count - 1 else index - 1

/-- When the entry before one in a pass landed, or the stream was armed (R313, R319). -/
def CaddieStream.followed (c : CaddieStream) (index pass : Nat) : Nat :=
  if index = 0 ∧ pass = 0 then c.armedAt else (tget c.landTimes (c.before index)).getD c.armedAt

/-- Whether an UNMAP has cut the slot area or the cursor words: the stream drains (R323). -/
def CaddieStream.cut (c : CaddieStream) (s : State) : Bool :=
  s.xlat.unmaps.any fun u =>
    u.ctx == c.ctx &&
      ((decide (u.va < c.slotVa + c.slots * c.slotBytes) && decide (c.slotVa < u.va + u.length)) ||
        (decide (u.va < c.cursorVa + 8 * (c.cursorCount + 1)) && decide (c.cursorVa < u.va + u.length)))

/-- Whether the trigger of the entry NEXT holds. -/
def CaddieStream.triggered (c : CaddieStream) (e : SchedEntry) : Bool :=
  match e.trigger with
  | 0 => decide (0 < c.teePending)
  | 1 => decide ((c.need e c.pass : Int) - c.lookahead ≤ c.cursor)
  | _ => c.prevLanded c.next c.pass

/-- The reference instant of the entry NEXT or of one in flight; none while it has not come
(R319). -/
def CaddieStream.reference (c : CaddieStream) (e : SchedEntry) (pass : Nat) (taken : Option Nat) :
    Option Nat :=
  match e.trigger with
  | 1 => ((c.reached.filter fun r => decide (c.need e pass ≤ r.1)).getLast?).map (·.2)
  | _ => taken

/-- Entries in flight on a quarter. -/
def flyingOn (s : State) (q : Nat) : Nat :=
  s.caddie.streams.foldl (fun n x => if x.2.quarter = q then n + x.2.flying.length else n) 0

/-- The directory entries of a tile set; the state and status of a failure. -/
def readDirs (s : State) (key : Nat) (a : Arena) : List Nat → State × Except Status (List DirEntry)
  | [] => (s, .ok [])
  | t :: ts =>
    match readDir s key a t with
    | (s, .error st) => (s, .error st)
    | (s, .ok e) =>
      match readDirs s key a ts with
      | (s, .error st) => (s, .error st)
      | (s, .ok es) => (s, .ok (e :: es))

/-- The tiles of an entry. -/
def SchedEntry.tileSet (e : SchedEntry) : List Nat := (List.range e.tiles).map fun i => e.srcTile + i

/-- Whether every source tile is VALID, where the entry waits for that. -/
def sourceReady (s : State) (c : CaddieStream) (e : SchedEntry) : Bool :=
  !e.srcWait ||
    (match tget s.pewter.arenas (arenaKey c.ctx e.srcArena) with
     | none => true
     | some a =>
       a.failed || a.closing || decide (a.tiles < e.srcTile + e.tiles) ||
         (match (readDirs s (arenaKey c.ctx e.srcArena) a e.tileSet).2 with
          | .ok es => es.all (·.valid)
          | .error _ => true))

/-- Whether the entry NEXT of a stream starts now. -/
def canStart (s : State) (c : CaddieStream) : Bool :=
  let e := c.entry c.next
  c.state == 0 && !c.cut s && decide (c.next < c.count) && running s && ctxActive s c.ctx && c.triggered e &&
    decide (c.flying.length < (if c.inflight = 0 then 4 else c.inflight)) &&
    decide (flyingOn s c.quarter < reg s 0x6300 0x03) &&
    !(e.destKind == 0 && c.flying.any fun x =>
      (c.entry x.index).destKind == 0 && (c.entry x.index).slot == e.slot) &&
    sourceReady s c e

/-! ## Starting (R314) -/

/-- Format in which tiles of a header land. -/
def SchedEntry.landFmt (e : SchedEntry) (h : TileHdr) : Nat := if e.codec = 2 then h.fmt else e.outFmt

/-- The headers of some runs. -/
def readHdrs (s : State) (a : Arena) : List DirEntry → State × Except Status (List TileHdr)
  | [] => (s, .ok [])
  | e :: es =>
    let h := readVa s a.ctx (a.sectorVa e.first) 64
    if h.status ≠ Code.ok then (h.st, .error h.status)
    else
      match readHdrs h.st a es with
      | (s, .error st) => (s, .error st)
      | (s, .ok hs) => (s, .ok (tileHdrOf h.data :: hs))

/-- The status of a tile set that cannot be landed: shapes that differ, a format that Table 3 does
not allow, or more bytes than the slot. -/
def setStatus (c : CaddieStream) (e : SchedEntry) (hs : List TileHdr) : Status :=
  match hs with
  | [] => Code.ok
  | h :: rest =>
    let out := e.landFmt h
    if rest.any fun g => g.rows != h.rows || g.cols != h.cols || g.fmt != h.fmt then Code.misaligned
    else if e.codec = 0 ∧ (!outAllowed h.fmt out) = true then Code.misaligned
    else if e.codec = 1 ∧ (decide (10 < h.fmt) || !shapeOk out h.rows h.cols) = true then Code.misaligned
    else if e.destKind = 0 ∧ c.slotBytes < e.tiles * (h.rows * rowBytes out h.cols) then Code.misaligned
    else Code.ok

/-- The plain bytes of a tile as the codec step of an entry lands it (R308). -/
def codecStep (s : State) (c : CaddieStream) (e : SchedEntry) (pass tile : Nat) (t : TileRead) : Bytes :=
  if e.codec = 1 then
    (requantise e.outFmt
      (roundings e.stochastic (roundSeed s c.ctx) (0xE000 + tile % 4096) (pass % 65536) 0
        (t.hdr.rows * t.hdr.cols))
      (scaledElems t.hdr t.data)).1
  else plainOf t.hdr (e.landFmt t.hdr) t.data

/-- The tiles of a set are read and put through the codec step, in ascending order, each at the unit that
takes the next tile, or at the one that took the last where none does. -/
def decodeSet (c : CaddieStream) (e : SchedEntry) (pass : Nat) (a : Arena) (unit : Nat) :
    State → List (Nat × DirEntry) → State × Except Status Bytes
  | s, [] => (s, .ok [])
  | s, (tile, d) :: rest =>
    match readTile s a d c.quarter ((pewterUnit s c.quarter).getD unit) with
    | (s, .error st) => (s, .error st)
    | (s, .ok t) =>
      let b := codecStep s c e pass tile t
      match decodeSet c e pass a unit (bumpBy s 0x5000 0x0D b.length) rest with
      | (s, .error st) => (s, .error st)
      | (s, .ok bs) => (s, .ok (b ++ bs))

/-- The job of an entry. -/
def caddieJob (s : State) (key : Nat) (c : CaddieStream) (x : FlyEntry) : Job :=
  { kind := .caddie key x.tag, ctx := c.ctx, gen := ctxGen s c.ctx, quarter := c.quarter
    engine := engCaddie, cls := 5, srcQueue := issuer c.quarter 80 }

/-- Writes of a run of bytes to a window, probed first where it needs more than one packet (R71). -/
def windowWork (h : BitVec 64) (data : Bytes) : List Work :=
  (if 8192 < data.length then [.probe h data.length 1, .barrier] else []) ++
    (piecesOf 8192 data.length).map fun p =>
      .store (.handle (handleAdd h p.1)) ((data.drop p.1).take p.2)

/-- The directory entries of an entry's runs as they were read at its start. -/
def FlyEntry.dirs (x : FlyEntry) : List DirEntry :=
  x.runs.map fun r => { valid := true, first := r.1, sectors := r.2 }

/-- The tiles of an entry with a window destination are decoded and sent, once a Pewter unit takes them. -/
def sendWindow (s : State) (key : Nat) (c : CaddieStream) (x : FlyEntry) : State :=
  let e := c.entry x.index
  if e.destKind ≠ 1 ∨ x.runs.isEmpty ∨ (jobOf s (.caddie key x.tag)).isSome then s
  else match tget s.pewter.arenas (arenaKey c.ctx e.srcArena), pewterUnit s c.quarter with
    | some a, some u =>
      if a.failed then failEntry s key x Code.aborted
      else match decodeSet c e x.pass a u s (e.tileSet.zip x.dirs) with
        | (s, .error st) => failEntry s key x st
        | (s, .ok data) =>
          startJob (modFly s key x fun y => { y with unit := some u }) (caddieJob s key c x) (windowWork e.dest data)
    | _, _ => s

/-- The same for every entry in flight. -/
def sendWindows (s : State) : State :=
  s.caddie.streams.foldl (fun s y => y.2.flying.foldl (fun s x => sendWindow s y.1 y.2 x) s) s

/-- Whether the destination arena of an entry takes its tiles: as for a TILE_MOVE (R296, R318). -/
def destTakes (s : State) (c : CaddieStream) (e : SchedEntry) : Bool :=
  e.destKind != 2 || (arenaFor s c.ctx (bits e.dest 0 8) (bits e.dest 8 24 + e.tiles - 1)).isSome

/-- A started entry reads its directory entries and goes on, or fails. -/
def runEntry (s : State) (key : Nat) (c : CaddieStream) (e : SchedEntry) (x : FlyEntry) : State :=
  let ak := arenaKey c.ctx e.srcArena
  match tget s.pewter.arenas ak with
  | none => failEntry s key x Code.protection
  | some a =>
    if a.failed || a.closing || decide (a.tiles < e.srcTile + e.tiles) || !destTakes s c e then
      failEntry s key x Code.protection
    else match readDirs s ak a e.tileSet with
    | (s, .error st) => failEntry s key x st
    | (s, .ok es) =>
      if es.any fun d => !d.valid then failEntry s key x Code.translationFault
      else match readHdrs s a es with
      | (s, .error st) => failEntry s key x st
      | (s, .ok hs) =>
        let st := setStatus c e hs
        if st ≠ Code.ok then failEntry s key x st
        else
          let h := hs.headD {}
          let s := joinArena s ak (caddieReader key x)
          let runs := es.map fun d => (d.first, d.sectors)
          let size := h.rows * rowBytes (e.landFmt h) h.cols
          let s := modFly s key x fun y => { y with runs := runs, tileBytes := size }
          if e.destKind = 1 then sendWindow s key c { x with runs := runs, tileBytes := size }
          else if e.destKind = 2 then joinArena s (arenaKey c.ctx (bits e.dest 0 8)) (caddieReader key x)
          else s

/-- The entry NEXT of a stream starts. -/
def startEntry (s : State) (key : Nat) (c : CaddieStream) : State :=
  let e := c.entry c.next
  let taken := match e.trigger with
    | 0 => c.firings.headD s.now
    | 1 => s.now
    | _ => c.followed c.next c.pass
  let x : FlyEntry :=
    { index := c.next, pass := c.pass, reference := taken, missed := c.waitMissed.contains (c.next, c.pass) }
  let wraps := c.loop && c.next + 1 == c.count
  let s := modCaddie s key fun c =>
    { c with
      next := if wraps then 0 else c.next + 1
      pass := if wraps then (c.pass + 1) % 2 ^ 32 else c.pass
      teePending := if e.trigger = 0 then c.teePending - 1 else c.teePending
      firings := if e.trigger = 0 then c.firings.drop 1 else c.firings
      waitMissed := c.waitMissed.filter fun y => y != (c.next, c.pass), flying := c.flying ++ [x] }
  runEntry s key c e x

/-- Cursor entries of a stream start, in order, before the write that started them is acknowledged
(R311); at most as many as may be in flight. -/
def startCursor : Nat → State → Nat → State
  | 0, s, _ => s
  | fuel + 1, s, key =>
    match tget s.caddie.streams key with
    | none => s
    | some c =>
      if (c.entry c.next).trigger = 1 ∧ canStart s c = true then startCursor fuel (startEntry s key c) key
      else s

/-- The same for every stream. -/
def startCursors (s : State) : State := s.caddie.streams.foldl (fun s x => startCursor 8 s x.1) s

end Sys2Proof.Machine
end

