-- ==== Sys2Proof/Machine/Inbound.lean ====
section
/-! DEFINITION. Requests past their arrival checks: the window checks and probe reservations (R68,
R71, R72), what each performs at the point of coherence (R115, R158), flagged writes held for what
they cover (R132 to R135), and pushes in the order of their source (R81). -/

namespace Sys2Proof.Machine

/-! ## Window checks and reservations -/

/-- What a request brings to the checks of Table 11. -/
def inboundOf (p : Packet) (len : Nat) (op : Acc) (again : Bool := false) : Inbound :=
  { handle := p.handle, ctx := p.ctx, gen := p.gen, src := p.src, len := len, op := op, again := again }

/-- The reservation that covers a request: its number and the record (R71); one that an UNMAP or
CLOSE_WINDOW has ended only where no other does. -/
def resvFor (s : State) (p : Packet) (len : Nat) (op : Acc) : Option (Nat × Reservation) :=
  if ctxActive s p.ctx && p.gen == ctxGen s p.ctx then
    let mine := (s.xlat.resv.get (pktHome p)).filter fun x =>
      x.2.srcNode == p.src && x.2.srcQueue == p.srcQueue && x.2.srcInc == p.srcInc &&
        x.2.ctx == p.ctx && x.2.window == handleWindow p.handle && x.2.op == op &&
        handleNode p.handle == nodeId s &&
        decide (x.2.offset ≤ handleOffset p.handle) &&
        decide (handleOffset p.handle + len ≤ x.2.offset + x.2.length)
    (mine.find? fun x => x.2.ended.isNone).orElse fun _ => mine.head?
  else none

/-- The state with a quarter's reservations changed. -/
def setResv (s : State) (q : Nat) (t : Tbl Reservation) : State :=
  { s with xlat := { s.xlat with resv := s.xlat.resv.set q t } }

/-- A data packet of a reservation has come: one that ends where the range ends may be its last. -/
def useResv (s : State) (q id : Nat) (p : Packet) (len : Nat) : State :=
  setResv s q (tmod (s.xlat.resv.get q) id fun r =>
    if handleOffset p.handle + len = r.offset + r.length then { r with last := some p.seq } else r)

/-- Whether every request of a flow from one SEQ to another is final. -/
def finalSpan (f : Flow) (lo hi : Nat) : Bool :=
  (List.range ((hi + 2 ^ 24 - lo) % 2 ^ 24)).all fun i =>
    let x := (lo + 1 + i) % 2 ^ 24
    !seqAbove x f.base || f.done.contains x || f.final.contains x || f.aborted.contains x

/-- Whether the last data packet of a reservation's command has been performed: the packet that ends the
range, with every request of the flow since the probe (R72; DEDUCED, log entry 31: a probe names a
range, and its data packets follow it on its flow in ascending order). -/
def resvOver (s : State) (r : Reservation) : Bool :=
  r.last.any fun n => (tget s.net.flows (flowKey r.srcNode r.srcQueue r.srcInc)).any fun f => finalSpan f r.seq n

/-- Reservations end with the last data packets of their commands (R72). -/
def endOver (s : State) : State :=
  if s.xlat.resv.list.all fun t => t.isEmpty then s
  else { s with xlat := { s.xlat with resv := s.xlat.resv.map fun t => tfilter t fun _ r => !resvOver s r } }

/-- A request is checked: its VA, or the status and DETAIL of a refusal. One under a reservation uses the
translations held with it (R71). -/
def passWindow (s : State) (p : Packet) (len : Nat) (op : Acc) (again : Bool := false) :
    State × Except Fail Nat :=
  match resvFor s p len op with
  | some (id, r) =>
    let s := useResv s (pktHome p) id p len
    match r.ended with
    | some st => (s, .error (st, 0))
    | none => (s, .ok (((tget s.xlat.windows r.window).map (·.baseVa)).getD 0 + handleOffset p.handle))
  | none =>
    match windowCheck s (inboundOf p len op again) with
    | .error st => (countRefusal s (inboundOf p len op) st, .error (st, 0))
    | .ok w =>
      let va := w.baseVa + handleOffset p.handle
      let s := touchWindow s (pktHome p) (handleWindow p.handle)
      let s := lookupRange s (pktHome p) (inboundStream p.src p.ctx) p.ctx va len
      match inboundPages s p.ctx va len op with
      | some (st, a) => (countRefusal s (inboundOf p len op) st, .error (st, a - w.baseVa))
      | none => (s, .ok va)

/-! ## Atomics (R158, R159, R164) -/

/-- Atomic-result entries of a quarter. -/
def resultsOn (s : State) (q : Nat) : Nat :=
  tcount s.net.results fun k _ => homeQuarter (k / 2 ^ 44) (k / 2 ^ 28 % 65536) == q

/-- The reply of an atomic from its status and old value. -/
def replyAtomic (s : State) (p : Packet) (status : Status) (old : BitVec 128) : State :=
  if p.op = 0x46 then sendReply s (pktHome p) (mkDataReply s p 0x47 status (leBytes 16 old.toNat))
  else sendReply s (pktHome p) (mkAtomicReply s p status (old.extractLsb' 0 64))

/-- The value an atomic request writes over an old operand. -/
def atomicNew (p : Packet) (old : Nat) : Nat :=
  match p.op with
  | 0x23 => if old = p.value.toNat % 2 ^ 32 then p.value.toNat / 2 ^ 32 else old
  | 0x45 => if old = ofLe (p.data.take 8) then ofLe ((p.data.drop 8).take 8) else old
  | 0x46 => if old = ofLe (p.data.take 16) then ofLe ((p.data.drop 16).take 16) else old
  | op => atomicResult op old (p.value.toNat % 2 ^ (8 * atomicBytes op))

/-- Atomics still queued at a controller: operand address, start and end. -/
def atomicQueue (s : State) (c : Nat) : List (Nat × Nat × Nat) :=
  ((tget s.mem.atomics c).getD []).filter fun x => decide (s.now < x.2.2)

/-- When an atomic on an operand starts: one cycle after the last that started, and after the last
on the same operand has ended (R159). -/
def atomicStart (s : State) (pa : Nat) (l : List (Nat × Nat × Nat)) : Nat :=
  l.foldl (fun t x => max t (if x.1 = pa then x.2.2 else x.2.1 + 1)) s.now

/-- An atomic takes a place in the queue of its operand's controller. -/
def queueAtomic (s : State) (pa op : Nat) : State :=
  let l := atomicQueue s (controllerOf pa)
  let t := atomicStart s pa l
  { s with mem := { s.mem with
    atomics := tset s.mem.atomics (controllerOf pa) (l ++ [(pa, t, t + atomicCycles op)]) } }

/-- An atomic is performed at a VA, with its reply kept for copies, or turned away. -/
def performAtomic (s : State) (p : Packet) (va : Nat) : State :=
  let n := atomicBytes p.op
  let away (s : State) (reason : Nat) : State :=
    nackReq (modFlow s (pktFlow p) fun f => { f with busy := f.busy.filter fun x => x != p.seq }) p reason
  let pa := (paOf s p.ctx va).getD 0
  if 8192 ≤ resultsOn s (pktHome p) then away s 3
  else if 1024 ≤ (atomicQueue s (controllerOf pa)).length then away s 5
  else
    let r := readVa (queueAtomic s pa p.op) p.ctx va n
    if r.status ≠ Code.ok then refuseReq r.st p r.status
    else
      let old := ofLe r.data
      let w := storeVa (touchLine r.st pa) p.ctx va (leBytes n (atomicNew p old))
      if w.status ≠ Code.ok then refuseReq w.st p w.status
      else
        let e : ResultEntry := { old := BitVec.ofNat 128 old, ctx := p.ctx, since := s.now }
        let s := markDone w.st p
        let s := { s with net := { s.net with
          results := tset s.net.results (resultKey (pktFlow p) p.seq) e } }
        replyAtomic s p Code.ok e.old

/-! ## Performing a request -/

/-- A read is performed and answered with its data. -/
def performRead (s : State) (p : Packet) (va : Nat) : State :=
  let r := readVa s p.ctx va p.bytes
  if r.status ≠ Code.ok then refuseReq r.st p r.status
  else sendReply (markDone r.st p) (pktHome p) (mkDataReply r.st p 0x42 Code.ok r.data)

/-- A write is performed, data first and a flag last, and acknowledged. -/
def performWrite (s : State) (p : Packet) (va : Nat) : State :=
  let r := storeVa s p.ctx va p.data
  if r.status = Code.ok then ackDone r.st p else refuseReq r.st p r.status

/-- A request past its checks is performed at a VA. -/
def performAt (s : State) (p : Packet) (va : Nat) : State :=
  match p.op with
  | 0x01 => performRead s p va
  | 0x40 => performWrite s p va
  | 0x41 =>
    modFlow (performWrite s p va) (pktFlow p) fun f => { f with spanFrom := p.seq }
  | _ => performAtomic s p va

/-- A request past its window checks is performed, or held by a guard over its bytes (R315). -/
def guardAt (s : State) (p : Packet) (va len : Nat) : State :=
  match heldBy s (.request p) p.ctx [(va, len)] with
  | none => performAt s p va
  | some s => modFlow s (pktFlow p) fun f =>
      { f with busy := if f.busy.contains p.seq then f.busy else f.busy ++ [p.seq] }

/-- A window request, or again a copy of one performed, is checked and performed. -/
def windowReq (s : State) (p : Packet) (len : Nat) (op : Acc) (again : Bool := false) : State :=
  match passWindow s p len op again with
  | (s, .error (st, off)) => refuseReq s p st (BitVec.ofNat 64 off)
  | (s, .ok va) => guardAt s p va len

/-- A request outside the window checks is refused; one refused CONTEXT_RETIRED is counted (R338, R341). -/
def refuseCounted (s : State) (p : Packet) (ctx : Nat) (status : Status) : State :=
  refuseReq (if status = Code.contextRetired then countRetired s ctx else s) p status

/-! ## Relays (R173, R174) -/

/-- The status a relay request draws from its group. -/
def relayStatus (s : State) (p : Packet) : Status :=
  if handleNode p.handle ≠ nodeId s ∨ handleWindow p.handle ≠ 0 then Code.protection
  else match tget s.net.groups (p.aux % 4096) with
    | none => Code.protection
    | some g =>
      if g.kind ≠ 1 ∨ g.ctx ≠ p.ctx then Code.protection
      else if ¬ (ctxActive s p.ctx = true ∧ g.gen = ctxGen s p.ctx ∧ p.gen = ctxGen s p.ctx) then
        Code.contextRetired
      else if sourcePasses p.src g.srcBase g.srcMask then Code.ok
      else Code.protection

/-- The work of a relay: the packet re-issued to each member in ascending order. -/
def relayWork (p : Packet) (members : List (BitVec 32)) : List Work :=
  members.map fun w =>
    let h := mkHandle (memberNode w) (memberWindow w) (handleOffset p.handle)
    if p.op = 0x49 then .flagRun h p.data else .store (.handle h) p.data

/-- A relay request is checked and re-issued to the members of its group. -/
def relayReq (s : State) (p : Packet) : State :=
  let st := relayStatus s p
  if st ≠ Code.ok then refuseCounted s p p.ctx st
  else
    let s := modFlow s (pktFlow p) fun f =>
      { f with busy := if f.busy.contains p.seq then f.busy else f.busy ++ [p.seq] }
    startJob s
      { kind := .relay p, ctx := p.ctx, gen := p.gen, quarter := pktHome p, engine := engPoint
        srcQueue := issuer (pktHome p) 2, multicast := true }
      (relayWork p (((tget s.net.groups (p.aux % 4096)).map (·.members)).getD []))

/-! ## Flagged writes (R132 to R135) -/

/-- A flagged write whose covered requests are all final: it is ABORTED for its span, re-issued by
a relay, or checked and performed. -/
def runFlagged (s : State) (p : Packet) : State :=
  let f := (tget s.net.flows (pktFlow p)).getD {}
  if spanRefused f p.seq then abortFlagged s p
  else if p.op = 0x49 then relayReq s p
  else windowReq s p p.bytes .flagged

/-- The state with the flagged writes held by a quarter replaced. -/
def setHeld (s : State) (q : Nat) (l : List HeldWrite) : State :=
  { s with net := { s.net with heldFlags := s.net.heldFlags.set q l } }

/-- A flagged write arrives: it runs, is held, or draws NACK HOLD_FULL (R134). -/
def takeFlagged (s : State) (p : Packet) : State :=
  let f := (tget s.net.flows (pktFlow p)).getD {}
  let q := pktHome p
  if coveredFinal f p.seq then runFlagged s p
  else if 1024 ≤ (s.net.heldFlags.get q).length then nackReq s p 4
  else
    let s := markBusy s p
    let h : HeldWrite := { pkt := p, flow := pktFlow p, since := s.now }
    setHeld s q (s.net.heldFlags.get q ++ [h])

/-- A held flagged write of a quarter that may run. -/
def readyFlag (s : State) (q : Nat) : Option HeldWrite :=
  (s.net.heldFlags.get q).find? fun h =>
    coveredFinal ((tget s.net.flows h.flow).getD {}) h.pkt.seq

/-- Held flagged writes of a quarter run as what they cover becomes final; the fuel is the number
held. -/
def pumpHeld : Nat → State → Nat → State
  | 0, s, _ => s
  | fuel + 1, s, q =>
    match readyFlag s q with
    | none => s
    | some h =>
      let rest := (s.net.heldFlags.get q).filter fun x =>
        !(x.flow == h.flow && x.pkt.seq == h.pkt.seq)
      pumpHeld fuel (startCursors (runFlagged (setHeld s q rest) h.pkt)) q

/-! ## Queue pushes (R79 to R81) -/

/-- Descriptors in a run of bytes. -/
def descsOf (b : Bytes) : List Desc := (cutRuns 64 (b.length + 1) b).map fun x => BitVec.ofNat 512 (ofLe x)

/-- The status a push draws by Table 4 (R80). -/
def pushStatus (s : State) (p : Packet) : Status :=
  let h := p.handle
  let ctx := bits h 26 12
  if handleNode h ≠ nodeId s then Code.protection
  else if bits h 0 16 ≠ 0 ∨ handleWindow h ≠ 0 then Code.misaligned
  else match queueOf s ctx (bits h 16 10) with
    | none => Code.protection
    | some r =>
      if r.state = .closed then Code.protection
      else if r.state = .draining then Code.contextRetired
      else if p.ctx ≠ ctx ∨ ctx = 0 then Code.protection
      else if p.gen ≠ ctxGen s ctx then Code.contextRetired
      else if sourcePasses p.src r.srcBase r.srcMask = false then Code.protection
      else if ringFree r < p.bytes / 64 then Code.quota
      else Code.ok

/-- A push whose turn it is, is appended whole, or refused and counted in its queue. -/
def performPush (s : State) (p : Packet) : State :=
  let h := p.handle
  let ctx := bits h 26 12
  let queue := bits h 16 10
  let st := pushStatus s p
  if st = Code.ok then
    ackDone (appendDescs s ctx queue (descsOf p.data) none) p (BitVec.ofNat 64 (p.bytes / 64))
  else refuseCounted (pushRefused s ctx queue) p ctx st

/-- Whether a push may be appended: every lower SEQ of its flow has come, and no push among them to the same
queue still waits (R81; DEDUCED, log entry 32: only so does the source's order hold on any path). -/
def pushTurn (s : State) (p : Packet) : Bool :=
  let f := (tget s.net.flows (pktFlow p)).getD {}
  (List.range ((p.seq + 2 ^ 24 - f.base) % 2 ^ 24 - 1)).all fun i =>
    let x := (f.base + 1 + i) % 2 ^ 24
    f.done.contains x || f.final.contains x || f.aborted.contains x ||
      (f.busy.contains x && !(s.net.heldPushes.any fun h =>
        h.flow == pktFlow p && h.pkt.seq == x && h.pkt.handle == p.handle))

/-- Pushes that waited are appended as their turns come, until none can be; the fuel is their number. -/
def pumpPushes : Nat → State → State
  | 0, s => s
  | fuel + 1, s =>
    match s.net.heldPushes.find? fun h => pushTurn s h.pkt with
    | none => s
    | some h =>
      let rest := s.net.heldPushes.filter fun x => !(x.flow == h.flow && x.pkt.seq == h.pkt.seq)
      pumpPushes fuel (performPush { s with net := { s.net with heldPushes := rest } } h.pkt)

/-- A push arrives: it waits for lower SEQs of its flow, or is appended and lets others follow. -/
def takePush (s : State) (p : Packet) : State :=
  if pushTurn s p then
    let s := performPush s p
    pumpPushes s.net.heldPushes.length s
  else
    let s := markBusy s p
    { s with net := { s.net with
      heldPushes := s.net.heldPushes ++ [{ pkt := p, flow := pktFlow p, since := s.now }] } }

/-! ## Held flagged writes of every quarter -/

/-- Held flagged writes run as what they cover becomes final, on every quarter. -/
def pumpFlags (s : State) : State :=
  [0, 1, 2, 3].foldl (fun s q => pumpHeld (s.net.heldFlags.get q).length s q) s

end Sys2Proof.Machine
end

