-- ==== Sys2Proof/Machine/Contribs.lean ====
section
/-! DEFINITION. Contributions to reduction groups (R227 to R230, R236), finalisation (R231, R232,
R255), the end of a round (R233), and sampling for duplicate checks (R241, R245). -/

namespace Sys2Proof.Machine

/-! ## Groups -/

/-- Key of a reduction group. -/
def groupKey (ctx no : Nat) : Nat := ctx * 65536 + no

/-- The state with one group changed. -/
def modGroup (s : State) (key : Nat) (f : Group → Group) : State :=
  { s with scrum := { s.scrum with groups := tmod s.scrum.groups key f } }

/-- Quarter that holds a group: the steering hash (R224). -/
def steer (ctx group : Nat) : Nat :=
  let h := ctx % 4096 * 65536 + group % 65536
  (List.range 14).foldl (fun q i => Nat.xor q (h / 4 ^ i % 4)) 0

/-- Elements of a segment, its bytes in either format, and the segments of a group. -/
def Group.segElems (g : Group) : Nat := 2 ^ g.segLog2
def Group.segIn (g : Group) : Nat := g.segElems / 256 * unitBytes g.inFmt
def Group.segOut (g : Group) : Nat := g.segElems / 256 * unitBytes g.outFmt
def Group.segs_ (g : Group) : Nat := g.elements / g.segElems
/-- Contributions a segment takes in a round. -/
def Group.need (g : Group) : Nat := g.contributors * g.micro
/-- A segment of a group. -/
def Group.seg (g : Group) (i : Nat) : GroupSeg := (tget g.segs i).getD {}
/-- Accumulator bytes of an element. -/
def Group.accBytes (g : Group) : Nat := if accType g.op g.inFmt = 1 then 8 else 4

/-- The state with one segment of a group changed. -/
def modSeg (s : State) (key i : Nat) (f : GroupSeg → GroupSeg) : State :=
  modGroup s key fun g => { g with segs := tset g.segs i (f (g.seg i)) }

/-! ## Clusters (R245) -/

/-- Clusters of a quarter in service, rising. -/
def clustersUp (s : State) (q : Nat) : List Nat :=
  (List.range 32).filter fun c => !unitOut s 7 (32 * q + c)

/-- The cluster of a segment. -/
def clusterOf (s : State) (q seg group : Nat) : Nat :=
  let cs := clustersUp s q
  cs.getD ((seg + group) % max 1 cs.length) 0

/-! ## Sampling (R241) -/

/-- Bytes that the capture of a segment-round of a group takes. -/
def Group.captureBytes (g : Group) : Nat :=
  g.need * g.segIn + (if g.init then g.segElems * g.accBytes else 0)

/-- Capture bytes in use on a quarter: those of segments that gather, and those of open checks. -/
def captureUsed (s : State) (q : Nat) : Nat :=
  let live := s.scrum.groups.foldl (fun n x =>
    if steer x.2.ctx x.2.no = q then
      x.2.segs.foldl (fun n y =>
        n + (if y.2.stage = 0 ∧ y.2.cur.sampled = true then x.2.captureBytes else 0) +
          (if y.2.nxt.sampled then x.2.captureBytes else 0)) n
    else n) 0
  s.scrum.checks.foldl (fun n x =>
    if x.2.quarter = q then
      n + x.2.capture.foldl (fun m b => m + b.length) 0 + 8 * x.2.initial.length
    else n) live

/-- Quarters that run. -/
def quartersUp (s : State) : List Nat := [0, 1, 2, 3].filter fun q => !s.pwr.shut.contains q

/-- Whether a segment-round is sampled, and the state after the draw. -/
def sample (s : State) (g : Group) : Bool × State :=
  let k := reg s (ctxIdx g.ctx) 0x07
  let q := steer g.ctx g.no
  let (n, s) := drawn s
  let hit := reg s 0x6100 0x03 == 1 && decide (k ≤ 20) && (Config.freeWord n).toNat % 2 ^ k == 0
  if !hit then (false, s)
  else if (quartersUp s).length < 2 ∨
      2 ^ 20 + reg s 0x6100 0x02 * 2 ^ 20 < captureUsed s q + g.captureBytes then
    (false, bump s 0x6100 0x0B)
  else (true, s)

/-! ## Feeding the step engine (R255) -/

/-- A finalised segment offered to a stream, with whether it is taken or discarded; else it must wait. Of
a segment that another one overlaps, the stream takes the parameters that it has not applied (R257). -/
def feedStream (s : State) (q stream ctx first : Nat) (accs : List Nat) : State × Bool :=
  let key := streamKey q stream
  match (if stream < 64 then tget s.step.streams key else none) with
  | none => (bump s 0x6200 0x03, true)
  | some st =>
    if st.ctx ≠ ctx ∨ st.fromMemory = true ∨ st.params ≤ first then (bump s 0x6200 0x03, true)
    else
      let fresh := freshRuns st.taken first (min accs.length (st.params - first))
      if st.state = 1 ∧ st.failing = none ∧ st.innings = some (ledgerOf s ctx).innings ∧ fresh.isEmpty = false then
        match st.flight.bind (tget s.q.flights) with
        | none => (s, false)
        | some f =>
          match heldBy s (.apply key) ctx ((fresh.map fun r => st.runRanges r.1 r.2).flatten) with
          | some s => (s, false)
          | none =>
            let s := fresh.foldl (fun s r =>
              if ((tget s.step.streams key).any fun x => x.failing.isSome) then s
              else applySegment s key f.desc r.1 ((accs.drop (r.1 - first)).take r.2)) s
            let all := ((tget s.step.streams key).map fun x => x.done == x.params).getD false
            (if all then applyTail s key else s, true)
      else (s, false)

/-! ## Finalisation (R231, R232) -/

/-- The job that carries a round's gather and flag requests. -/
def gatherJob (s : State) (key : Nat) (g : Group) : Job :=
  let q := steer g.ctx g.no
  { kind := .gather key g.bank, ctx := g.ctx, gen := ctxGen s g.ctx, quarter := q, engine := engScrum
    cls := 2, srcQueue := issuer q 4, multicast := true }

/-- Work joins a job under numbers of its own, from one given. -/
def moreWorkAt (s : State) (j : Job) (n : Nat) (ws : List Work) : State :=
  match jobOf s j.kind with
  | none => setJobs s (tset s.net.jobs (jobKey j.kind)
      { j with todo := numberWork n ws, live := [], issued := ws.length })
  | some o => setJobs s (tset s.net.jobs (jobKey j.kind)
      { o with todo := o.todo ++ numberWork n ws, issued := o.issued + ws.length })

/-- Requests that the gather of one segment may take, so that numbers follow segment order. -/
def gatherSpan : Nat := 2 ^ 12

/-- The first failing status of a round, by segment (R233). -/
def noteWriteFail (s : State) (key seg : Nat) (status : Status) : State :=
  modGroup s key fun g =>
    { g with writeFail := match g.writeFail with
        | some f => if f.1 ≤ seg then some f else some (seg, status)
        | none => some (seg, status) }

/-- Gather of a finalised segment. -/
def gatherSeg (s : State) (key seg : Nat) (g : Group) (out : Bytes) : State :=
  if !g.gatherEn then s
  else match groupFor s g.gatherGroup g.ctx 0 with
    | none => noteWriteFail s key seg Code.protection
    | some e =>
      moreWorkAt s (gatherJob s key g) (seg * gatherSpan)
        (multicastWork e.members (g.gatherBase + seg * g.segOut) out)

/-- The output bytes of a segment's accumulators in a round. -/
def segOutput (s : State) (g : Group) (seg : Nat) (accs : List Nat) : Bytes :=
  encodeElems g.outFmt
    (roundings g.stochastic (roundSeed s g.ctx) g.no g.round (seg * g.segElems) g.segElems) accs

/-- Sum of the squares of a segment's FP32 results, elements ascending, in FP64; accumulators that
are not FP32 have no stated sum. -/
def squares (s : State) (g : Group) (accs : List Nat) : State × Nat :=
  if accType g.op g.inFmt = 0 then
    (s, accs.foldl (fun a x =>
      let w := fp64.encode .nearest (fp32.decode x)
      fp64.addW a (fp64.mulW w w)) 0)
  else
    let (n, s) := drawn s
    (s, (Config.freeWord n).toNat)

/-- Whether a round's gather requests have all been issued. -/
def gatherSent (s : State) (key : Nat) (g : Group) : Bool :=
  ((jobOf s (.gather key g.bank)).map fun j => j.todo.isEmpty).getD true

/-- Steps 2 and 3 of a round's end: the norm arrival, and then the flags (R233). -/
def endSteps (s : State) (key : Nat) (g : Group) : State :=
  let s := modGroup s key fun g => { g with ending := false }
  let s := if g.normEn then runAll (s, [.arrive g.ctx g.normHuddle (groupWho g.no) g.normAcc]) else s
  if !g.flagEn then s
  else match groupFor s g.gatherGroup g.ctx 0 with
    | none => noteWriteFail s key g.segs_ Code.protection
    | some e =>
      moreWorkAt s (gatherJob s key g) (g.segs_ * gatherSpan)
        (multicastFlag e.members g.flagOffset g.round)

/-- The last segment of a round has been finalised: the round ends with the norm arrival and the flags, once
its gather requests have been issued (R233, steps 1 to 3). -/
def beginEnd (s : State) (key : Nat) : State :=
  match tget s.scrum.groups key with
  | none => s
  | some g =>
    if g.segDone < g.segs_ ∨ g.disarm = true then s
    else
      let s := modGroup s key fun g => { g with state := 1, ending := true }
      if gatherSent s key g then endSteps s key g else s

/-- Rounds whose last gather requests have been issued go on. -/
def pumpEnds (s : State) : State :=
  s.scrum.groups.foldl (fun s x =>
    match tget s.scrum.groups x.1 with
    | none => s
    | some g => if g.ending && gatherSent s x.1 g then endSteps s x.1 g else s) s

/-! ## The end of a group (R238) -/

/-- ROUND_WAITs that wait on a group: keys and rounds. -/
def roundWaiters (s : State) (key : Nat) : List (Nat × Nat) :=
  (s.q.flights.filter fun p =>
    p.2.progress = .working && opcodeOf p.2.desc == 0x43 &&
      groupKey (if p.2.ctx = 0 then opnd p.2.desc 64 12 else p.2.ctx) (opnd p.2.desc 0 16) == key).map
    fun p => (p.1, opnd p.2.desc 16 16)

/-- A group is removed: its hold and space are released, and checks of its segments end without it. -/
def dropGroup (s : State) (key : Nat) (g : Group) : State :=
  let s := setReg s 0x6100 0x0D (reg s 0x6100 0x0D - g.foil)
  let s := release s (holdGroup key)
  { s with scrum := { s.scrum with
    groups := tdel s.scrum.groups key
    checks := tmap s.scrum.checks fun _ c => if c.group = key then { c with orphan := true } else c } }

/-- Whether gather requests of a group are still outstanding. -/
def gatherLive (s : State) (key : Nat) : Bool :=
  tany s.net.jobs fun _ j => match j.kind with
    | .gather k _ => k == key && !j.isDone
    | _ => false

/-- Whether a finalisation of a group is in progress: it waits for its stream, its check or a guard. -/
def Group.finalising (g : Group) : Bool :=
  g.segs.any fun x => x.2.stage == 1 || x.2.stage == 2 || x.2.stage == 4

/-- A stopped group is gone once its finalisations have completed; its GROUP_DISARM completes with it, or
with its last gather request (R238). -/
def disarmEnds (s : State) (key : Nat) : State :=
  match tget s.scrum.groups key with
  | none => s
  | some g =>
    if !g.disarm || (g.finalising && g.state != 2) then s
    else
      let live := gatherLive s key
      let s := dropGroup s key g
      match g.disarmBy with
      | some fk => if live then s else finish s fk Code.ok
      | none => s

/-- A group is stopped: its ROUND_WAITs complete with a status, and it goes once its finalisations in
progress have completed. -/
def stopGroup (s : State) (key : Nat) (status : Status) (fk : Option Nat) : State :=
  let s := (roundWaiters s key).foldl (fun s w => finish s w.1 status) s
  disarmEnds (modGroup s key fun g => { g with disarm := true, disarmBy := fk }) key

/-! ## Finalisation, from the destination write on -/

/-- Steps 4 and 5 of R231, and the gather: the segment is done. -/
def segDone (s : State) (key seg : Nat) : State :=
  match tget s.scrum.groups key with
  | none => s
  | some g =>
    let accs := (g.seg seg).cur.acc
    let (s, sq) := if g.normEn then squares s g accs else (s, 0)
    let s := gatherSeg s key seg g (segOutput s g seg accs)
    let s := modSeg (modGroup s key fun g =>
      { g with
        segDone := g.segDone + 1
        normAcc := if g.normEn then BitVec.ofNat 64 (fp64.addW g.normAcc.toNat sq) else g.normAcc })
      key seg fun x => { x with stage := 3, cur := {} }
    disarmEnds (beginEnd s key) key

/-- Step 3 of R231: the segment is fed, or waits. -/
def feedSeg (s : State) (key seg : Nat) : State :=
  match tget s.scrum.groups key with
  | none => s
  | some g =>
    if g.feed = 0 then segDone s key seg
    else match feedStream s (steer g.ctx g.no) g.stepStream g.ctx (seg * g.segElems) (g.seg seg).cur.acc with
      | (s, true) => segDone s key seg
      | (s, false) => modSeg s key seg fun x => { x with stage := 1 }

/-- Bytes of a segment at the destination. -/
def Group.segRange (g : Group) (seg : Nat) : Nat × Nat := (g.destVa + seg * g.segOut, g.segOut)

/-- Step 2 of R231: the result is written to the destination, or held by a Caddie guard over it. -/
def writeSeg (s : State) (key seg : Nat) : State :=
  match tget s.scrum.groups key with
  | none => s
  | some g =>
    if g.feed = 1 then feedSeg s key seg
    else match heldBy s (.segment key seg) g.ctx [g.segRange seg] with
      | some s => modSeg s key seg fun x => { x with stage := 4 }
      | none =>
        let r := storeVa s g.ctx (g.destVa + seg * g.segOut) (segOutput s g seg (g.seg seg).cur.acc)
        feedSeg (if r.status = Code.ok then r.st else noteWriteFail r.st key seg r.status) key seg

/-- A segment whose destination write a guard held goes on: with the status of the entry that failed, or
once no guard covers it. -/
def resumeSeg (s : State) (key seg : Nat) : State :=
  match tget s.scrum.groups key with
  | none => s
  | some g =>
    if (g.seg seg).stage ≠ 4 ∨ g.state = 2 then s
    else match (g.seg seg).fate with
      | some st =>
        feedSeg (noteWriteFail (modSeg s key seg fun x => { x with fate := none }) key seg st) key seg
      | none => writeSeg s key seg

/-- Segments that a guard held, with what has become of them. -/
def pumpSegs (s : State) : State :=
  s.scrum.groups.foldl (fun s x =>
    (x.2.segs.filter fun y => y.2.stage == 4).foldl (fun s y =>
      if isHeld s (.segment x.1 y.1) then s else resumeSeg s x.1 y.1) s) s

/-- A sampled segment's capture goes to its check, with whether there is one: with fewer than two quarters
running the sample is cancelled and counted (R242). -/
def startCheck (s : State) (key seg : Nat) (g : Group) : State × Bool :=
  let b := (g.seg seg).cur
  let q := steer g.ctx g.no
  let n := s.scrum.samples.get q
  let order := [(q + 1 + n % 3) % 4, (q + 1 + (n + 1) % 3) % 4, (q + 1 + (n + 2) % 3) % 4]
  match order.find? fun x => (quartersUp s).contains x with
  | none => (bump s 0x6100 0x0B, false)
  | some cq =>
    let cs := clustersUp s cq
    let c : DupCheck :=
      { group := key, round := g.round, seg := seg, quarter := q, checker := cq, cluster := b.cluster
        checkCluster := cs.getD (s.scrum.rotation.get cq % max 1 cs.length) 0
        capture := b.capture, initial := b.initial, hold := g.checkHold, bank := b }
    ({ s with scrum := { s.scrum with
      checks := tset s.scrum.checks s.scrum.nextCheck c
      nextCheck := s.scrum.nextCheck + 1
      samples := s.scrum.samples.set q (n + 1)
      rotation := s.scrum.rotation.mod cq (· + 1) } }, true)

/-- A segment whose count is complete is finalised, or withheld for its check (R231, R244). -/
def finalise (s : State) (key seg : Nat) : State :=
  match tget s.scrum.groups key with
  | none => s
  | some g =>
    if (g.seg seg).cur.sampled then
      let r := startCheck s key seg g
      if g.checkHold && r.2 then modSeg r.1 key seg fun x => { x with stage := 2 } else writeSeg r.1 key seg
    else writeSeg s key seg

/-! ## Accumulating (R219, R229) -/

/-- Whether a segment takes a contribution of a round: in the bank of G or of G + 1, or not. -/
def takes (g : Group) (seg diff : Nat) : Option Bool :=
  let x := g.seg seg
  if diff = 0 then (if x.stage = 0 ∧ x.cur.count < g.need then some false else none)
  else if diff = 1 then
    (if (x.stage = 3 ∨ g.twoBanks = true) ∧ x.nxt.count < g.need then some true else none)
  else none

/-- Accumulators that the first contribution of a segment-round finds: loaded from the destination
when INIT is set. -/
def loadInit (s : State) (g : Group) (seg : Nat) : State × Except Status (List Nat) :=
  if !g.init then (s, .ok [])
  else
    let r := readVa s g.ctx (g.destVa + seg * g.segOut) g.segOut
    if r.status = Code.ok then (r.st, .ok (decodeElems g.outFmt r.data)) else (r.st, .error r.status)

/-- A bank after one more contribution. -/
def SegBank.add (b : SegBank) (g : Group) (payload : Bytes) : SegBank :=
  let xs := decodeElems g.inFmt payload
  let ty := accType g.op g.inFmt
  { b with
    count := b.count + 1
    acc := if b.acc.isEmpty then xs.map (accFirst g.op)
      else b.acc.zipWith (accCombine g.op ty) xs
    capture := if b.sampled then b.capture ++ [payload] else [] }

/-- One segment of an accepted contribution is accumulated. -/
def addSeg (s : State) (key seg : Nat) (next : Bool) (payload : Bytes) : State :=
  match tget s.scrum.groups key with
  | none => s
  | some g =>
    let old := if next then (g.seg seg).nxt else (g.seg seg).cur
    let (b, s) :=
      if old.count = 0 then
        let p := sample s g
        let init := match (loadInit p.2 g seg).2 with
          | .ok l => l
          | .error _ => []
        ({ acc := init, initial := if p.1 then init else [], sampled := p.1
           cluster := clusterOf p.2 (steer g.ctx g.no) seg g.no : SegBank }, p.2)
      else (old, s)
    let b := b.add g payload
    let s := modSeg s key seg fun x => if next then { x with nxt := b } else { x with cur := b }
    if !next && decide (g.need ≤ b.count) then finalise s key seg else s

/-- Whether the destination can be loaded for every segment that a contribution begins (R219). -/
def initStatus (s : State) (g : Group) (segs : List (Nat × Bool)) : State × Status :=
  segs.foldl (fun r x =>
    if r.2 ≠ Code.ok then r
    else
      let b := if x.2 then (g.seg x.1).nxt else (g.seg x.1).cur
      if b.count ≠ 0 then r
      else match loadInit r.1 g x.1 with
        | (s, .ok _) => (s, Code.ok)
        | (s, .error st) => (s, st)) (s, Code.ok)

/-- The group checks of Table 5: a failing status, or the segments with the banks they go to. -/
def groupChecks (g : Group) (p : Packet) : Except Status (List (Nat × Bool)) :=
  let off := handleOffset p.handle
  let k := p.bytes / g.segIn
  let first := (off - g.destOffset) / g.segOut
  if g.disarm = true ∨ handleWindow p.handle ≠ g.destWindow then .error Code.protection
  else if off < g.destOffset ∨ (off - g.destOffset) % g.segOut ≠ 0 ∨ p.bytes % g.segIn ≠ 0 ∨
      k = 0 ∨ g.segs_ < first + k then .error Code.misaligned
  else if g.state = 2 then .error g.failStatus
  else
    let diff := (bits p.ext 112 8 + 256 - g.round % 256) % 256
    let ts := (List.range k).map fun i => (first + i, takes g (first + i) diff)
    if ts.all fun t => t.2.isSome then .ok (ts.map fun t => (t.1, t.2.getD false))
    else .error Code.aborted

/-- A contribution is refused and counted. -/
def countRefused (s : State) (key : Nat) : State :=
  bump (modGroup s key fun g => { g with refused := satInc 32 g.refused }) 0x6100 0x09

/-- The request length of a contribution in check 7 of Table 11: its segments in output-format bytes (R227). -/
def contribLen (s : State) (p : Packet) : Nat :=
  match tget s.scrum.groups (groupKey p.ctx (p.aux % 65536)) with
  | some g => (p.bytes + g.segIn - 1) / max 1 g.segIn * g.segOut
  | none => p.bytes

/-- The bytes of the destination that a contribution loads: those of the segments that it begins in a group
with INIT, where its checks pass (R219). -/
def contribLoads (s : State) (p : Packet) : List (Nat × Nat) :=
  match tget s.scrum.groups (groupKey p.ctx (p.aux % 65536)) with
  | none => []
  | some g =>
    if !g.init then []
    else match groupChecks g p with
      | .error _ => []
      | .ok segs =>
        (segs.filter fun x => (if x.2 then (g.seg x.1).nxt else (g.seg x.1).cur).count == 0).map
          fun x => g.segRange x.1

/-- A contribution past its window checks is checked by Table 5 and accumulated; its status and DETAIL. -/
def contributeAt (s : State) (p : Packet) : State × Status × Nat :=
  let key := groupKey p.ctx (p.aux % 65536)
  match tget s.scrum.groups key with
  | none => (countRefused s key, Code.protection, 0)
  | some g =>
    match groupChecks g p with
    | .error st => (countRefused s key, st, 0)
    | .ok segs =>
      match initStatus s g segs with
      | (s, st) =>
        if st ≠ Code.ok then (s, st, 0)
        else
          let runs := segs.zip (cutRuns g.segIn (p.data.length + 1) p.data)
          (runs.foldl (fun s x => addSeg s key x.1.1 x.1.2 x.2) (bump s 0x6100 0x08), Code.ok, 0)

/-- A contribution past its arrival checks is checked by Tables 11 and 5 and accumulated; its status
and DETAIL. -/
def contribute (s : State) (p : Packet) : State × Status × Nat :=
  match passWindow s p (contribLen s p) .reduce with
  | (s, .error (st, off)) => (s, st, off)
  | (s, .ok _) => contributeAt s p

/-- A contribution that a guard held is accumulated and answered. -/
def contribFreed (s : State) (p : Packet) : State :=
  match contributeAt s p with
  | (s, st, off) => if st = Code.ok then ackDone s p else refuseReq s p st (BitVec.ofNat 64 off)

/-- A contribution arrives: it is checked, held by a guard over what it loads, or accumulated, and
answered. -/
def takeContrib (s : State) (p : Packet) : State :=
  match passWindow s p (contribLen s p) .reduce with
  | (s, .error (st, off)) => refuseReq s p st (BitVec.ofNat 64 off)
  | (s, .ok _) =>
    match heldBy s (.request p) p.ctx (contribLoads s p) with
    | some s => markBusy s p
    | none => contribFreed s p

/-! ## Round end (R233, steps 4 and 5) -/

/-- The number of a gather job of a group that is not in use. -/
def freeBank (s : State) (key : Nat) : Nat :=
  ((List.range 256).find? fun b => !(jobOf s (.gather key b)).isSome).getD 0

/-- Status of an ended round: the first failing in segment order, then member order. -/
def roundStatus (g : Group) (j : Option Job) : Status :=
  match g.writeFail, j.bind (·.failed) with
  | some w, some f => if w.1 * gatherSpan ≤ f.1 then w.2 else f.2.1
  | some w, none => w.2
  | none, some f => f.2.1
  | none, none => Code.ok

/-- DETAIL of a ROUND_WAIT: NORM of the round, or its status. -/
def roundDetail (g : Group) : BitVec 64 :=
  if g.normEn then g.norm else BitVec.ofNat 64 g.lastStatus.toNat

/-- Whether a round's gather and flag requests are all final. -/
def gatherOver (s : State) (key : Nat) (g : Group) : Bool :=
  match jobOf s (.gather key g.bank) with
  | none => true
  | some j => j.isDone

/-- Held segments of the new round finalise, lowest first. -/
def finaliseHeld (s : State) (key : Nat) : State :=
  match tget s.scrum.groups key with
  | none => s
  | some g =>
    ((g.segs.filter fun x => x.2.stage == 0 && decide (g.need ≤ x.2.cur.count)).map (·.1)).foldl
      (fun s i => finalise s key i) s

/-- The round in progress ends: NORM is stored, ROUND advances, its ROUND_WAITs complete, and held
segments of the next round finalise. -/
def endRound (s : State) (key : Nat) (g : Group) : State :=
  let status := roundStatus g (jobOf s (.gather key g.bank))
  let s := endJob s (.gather key g.bank)
  let s := modGroup s key fun g =>
    { g with
      norm := if g.normEn then g.normAcc else g.norm, normAcc := 0, segDone := 0
      round := (g.round + 1) % 65536, state := 0, writeFail := none, lastStatus := status
      segs := tmap g.segs fun _ x => { stage := 0, cur := x.nxt, nxt := {} }
      bank := freeBank s key }
  let detail := ((tget s.scrum.groups key).map roundDetail).getD 0
  let s := ((roundWaiters s key).filter fun w => w.2 == g.round).foldl
    (fun s w => finish s w.1 status detail) s
  finaliseHeld s key

end Sys2Proof.Machine
end

