-- ==== Sys2Proof/Machine/Roce.lean ====
section
/-! DEFINITION. The RoCEv2 responder (R415 to R421) and what a queue pair in error does to its rings
(R423). -/

namespace Sys2Proof.Machine

/-! ## Queue pairs -/

/-- A queue pair by its local number. -/
def qpOf (s : State) (qpn : Nat) : Option QueuePair := tget s.eth.qps qpn

/-- The state with the queue pairs replaced, and their count in 4200:03. -/
def setQps (s : State) (t : Tbl QueuePair) : State :=
  setReg { s with eth := { s.eth with qps := t } } 0x4200 0x03 t.length

/-- The state with one queue pair changed. -/
def modQp (s : State) (qpn : Nat) (f : QueuePair → QueuePair) : State :=
  { s with eth := { s.eth with qps := tmod s.eth.qps qpn f } }

/-- Bytes of a queue pair's PMTU. -/
def QueuePair.pmtuBytes (p : QueuePair) : Nat := 1024 * 2 ^ p.pmtu

/-- Rings whose records or HEAD go through a queue pair. -/
def ringsOf (s : State) (qpn : Nat) : List Nat :=
  (s.q.rings.filter fun x => x.2.baseKind && (bits x.2.base 0 24 == qpn || bits x.2.head 0 24 == qpn)).map (·.1)

/-- A queue pair enters state error: nothing waits at it any more, and its rings are lost with a
status (R423, R108). -/
def qpError (s : State) (qpn : Nat) (st : Status) : State :=
  let sends := ((qpOf s qpn).map (·.sends)).getD []
  let s := modQp s qpn fun p => { p with state := 2, run := none, waiting := [], sends := [] }
  let s := sends.foldl (fun s r => endWhistle s r.flight st) s
  (ringsOf s qpn).foldl (fun s k => ringLost s k st) s

/-! ## Answers (Table 5) -/

/-- Kind of the response to a failing status. -/
def roceKind (st : Status) : Nat :=
  if st = Code.translationFault ∨ st = Code.protection ∨ st = Code.contextRetired then 3
  else if st = Code.misaligned then 4
  else if st = Code.quota then 5
  else 6

/-- A response leaves on a queue pair's port: read data as data of its context, the rest before it (R426). -/
def roceSend (s : State) (qpn psn kind : Nat) (data : Bytes) : State :=
  match qpOf s qpn with
  | none => s
  | some p =>
    ethOut s p.port (if kind = 1 then rankData else rankControl) p.ctx (roceSize p.ipv6 4 data.length)
      (.roce qpn psn kind data)

/-- A failing request is answered; after a NAK other than RNR the queue pair is in error, and after
an RNR NAK the same packet is expected again (R419). -/
def roceFail (s : State) (qpn psn : Nat) (st : Status) : State :=
  if st = Code.quota then
    modQp (roceSend s qpn psn 5 (leBytes 1 (reg s 0x4000 0x05))) qpn fun p =>
      { p with expectedPsn := psn, waiting := [], nakSent := true }
  else qpError (roceSend s qpn psn (roceKind st) []) qpn Code.targetLost

/-! ## Checks (R417, R418) -/

/-- Node that stands for a queue pair in the range tracker; no fabric node has its number. -/
def ethNode : Nat := 4096

/-- The window checks of R418 on a range: its VA, or the failing status, with the lookups made and
the refusal counted. A request that a guard has held has passed them before (R67). -/
def roceCheck (s : State) (p : QueuePair) (held : Bool) (rkey : BitVec 32) (va len : Nat) (op : Acc) :
    State × Except Status Nat :=
  let w := keyWindow rkey
  let r : Inbound :=
    { handle := mkHandle (nodeId s) w va, ctx := p.ctx, gen := keyGen rkey, src := p.proxy, len := len, op := op }
  let base := ((tget s.xlat.windows w).map (·.baseVa)).getD 0
  if held then (s, .ok (base + va))
  else if bits rkey 30 2 ≠ 0 ∨ 2 ^ 31 < len ∨ (op = .atomic ∧ va % 8 ≠ 0) then (s, .error Code.misaligned)
  else if thas s.xlat.windows w = true ∧ 4096 < pagesTouched s p.ctx (base + va) len then
    (s, .error Code.misaligned)
  else if keyGen rkey ≠ ctxGen s p.ctx ∨ ctxActive s p.ctx = false then
    (countRefusal s r Code.contextRetired, .error Code.contextRetired)
  else if 2 ^ 38 ≤ va then (countRefusal s r Code.protection, .error Code.protection)
  else
    let s := touchWindow s (p.port / 2) w
    let s := lookupRange s (p.port / 2) (inboundStream p.proxy p.ctx) p.ctx (base + va) len
    match inboundCheck s r with
    | .error (st, _) => (countRefusal s r st, .error st)
    | .ok a => (s, .ok a)

/-! ## Queue pushes (R420) -/

/-- Whether a push has a length R420 allows. -/
def pushLength (n : Nat) : Bool := decide (256 ≤ n) && decide (n ≤ 8192) && n % 64 == 0

/-- The status of a host's push by checks 3 to 7 of Table 4 (R80): context, generation, queue, proxy
node and descriptors. -/
def hostPushStatus (s : State) (ctx gen queue proxy n : Nat) : Status :=
  match queueOf s ctx queue with
  | none => Code.protection
  | some r =>
    if r.state = .closed then Code.protection
    else if r.state = .draining then Code.contextRetired
    else if ctx = 0 then Code.protection
    else if gen ≠ ctxGen s ctx then Code.contextRetired
    else if sourcePasses proxy r.srcBase r.srcMask = false then Code.protection
    else if ringFree r < n then Code.quota
    else Code.ok

/-- A host's push is appended whole, or refused and counted in its queue. -/
def hostPush (s : State) (ctx gen queue proxy : Nat) (data : Bytes) : State × Status :=
  let st := hostPushStatus s ctx gen queue proxy (data.length / 64)
  if st = Code.ok then (appendDescs s ctx queue (descsOf data) none, st)
  else
    let s := if st = Code.contextRetired then countRetired s ctx else s
    (pushRefused s ctx queue, st)

/-! ## Performing requests in sequence (R418 to R421) -/

/-- The reservation of a queue pair's WRITE in progress, by its number. -/
def roceResv (s : State) (q qpn : Nat) : Option (Nat × Reservation) :=
  (s.xlat.resv.get q).find? fun x => x.2.srcNode == ethNode && x.2.srcQueue == qpn

/-- Whether the packets of a message have the lengths the transport asks for. -/
def roceSizeOk (p : QueuePair) (k : RocePkt) (taken len : Nat) : Bool :=
  if k.last then taken + k.data.length == len
  else k.data.length == p.pmtuBytes && decide (taken + k.data.length < len)

/-- Where a packet of a WRITE is stored: the first is checked for the whole range and, where more
follow, reserves it; a later one uses the reservation, or is checked alone. -/
def writePlace (s : State) (qpn : Nat) (p : QueuePair) (held : Bool) (k : RocePkt) : State × Except Status Nat :=
  let q := p.port / 2
  if k.first then
    if p.run.isSome || !roceSizeOk p k 0 k.len then (s, .error Code.misaligned)
    else match roceCheck s p held k.rkey k.va k.len .write with
    | (s, .error st) => (s, .error st)
    | (s, .ok va) =>
      if k.last then (s, .ok va)
      else if trackerFull s q then (s, .error Code.quota)
      else
        let r : Reservation :=
          { srcNode := ethNode, srcQueue := qpn, ctx := p.ctx, window := keyWindow k.rkey, offset := k.va
            length := k.len, op := .write, since := s.now }
        (setResv s q (tset (s.xlat.resv.get q) (freeFrom (s.xlat.resv.get q) 0) r), .ok va)
  else match p.run with
    | none => (s, .error Code.misaligned)
    | some r =>
      if r.op ≠ .write ∨ roceSizeOk p k r.taken r.head.len = false then (s, .error Code.misaligned)
      else match roceResv s q qpn with
      | none => roceCheck s p held r.head.rkey (r.head.va + r.taken) k.data.length .write
      | some (id, x) => match (if held then none else x.ended) with
        | some st => (s, .error st)
        | none => (if k.last then setResv s q (tdel (s.xlat.resv.get q) id) else s,
            .ok (((tget s.xlat.windows x.window).map (·.baseVa)).getD 0 + r.head.va + r.taken))

/-- A packet of a WRITE through a window. -/
def performRoceWrite (s : State) (qpn : Nat) (p : QueuePair) (held : Bool) (k : RocePkt) : State :=
  match writePlace s qpn p held k with
  | (s, .error st) => roceFail s qpn k.psn st
  | (s, .ok va) =>
    let a := storeVa s p.ctx va k.data
    if a.status ≠ Code.ok then roceFail a.st qpn k.psn a.status
    else if k.last then roceSend (modQp a.st qpn fun p => { p with run := none }) qpn k.psn 0 []
    else modQp a.st qpn fun p =>
      let r : RoceRun := p.run.getD { op := .write, head := k }
      { p with run := some { r with taken := r.taken + k.data.length } }

/-- A packet of a push: a WRITE with window 0 names the queue by its address, a SEND by its immediate
value; the descriptors are appended with the last packet. -/
def performRocePush (s : State) (qpn : Nat) (p : QueuePair) (op : RoceOp) (k : RocePkt) : State :=
  let bad := if k.first then p.run.isSome else match p.run with
    | none => true
    | some r => r.op != op
  let r : RoceRun := if k.first then { op := op, head := k } else p.run.getD {}
  let data := r.data ++ k.data
  let len := if op = .push then r.head.len else if k.last then data.length else data.length + 1
  let form := if op = .push then
      bits r.head.rkey 30 2 == 0 && keyWindow r.head.rkey == 0 && decide (r.head.va < 1024) && pushLength len
    else !k.last || (k.imm.toNat / 1024 == 0 && pushLength len)
  if bad || !form || decide (8192 < data.length) || !roceSizeOk p k r.data.length len then
    roceFail s qpn k.psn Code.misaligned
  else if k.last then
    let gen := if op = .push then keyGen r.head.rkey else ctxGen s p.ctx
    let queue := if op = .push then r.head.va else k.imm.toNat % 1024
    let x := hostPush s p.ctx gen queue p.proxy data
    if x.2 = Code.ok then roceSend (modQp x.1 qpn fun p => { p with run := none }) qpn k.psn 0 []
    else roceFail x.1 qpn k.psn x.2
  else modQp s qpn fun p => { p with run := some { r with data := data, taken := data.length } }

/-- A READ is answered in packets of PMTU, never from the read caches. -/
def performRoceRead (s : State) (qpn : Nat) (p : QueuePair) (held : Bool) (k : RocePkt) : State :=
  match roceCheck s p held k.rkey k.va k.len .read with
  | (s, .error st) => roceFail s qpn k.psn st
  | (s, .ok va) =>
    let a := readVa s p.ctx va k.len
    if a.status ≠ Code.ok then roceFail a.st qpn k.psn a.status
    else
      let cut := if k.len = 0 then [(0, 0)] else piecesOf p.pmtuBytes k.len
      (cut.zipIdx).foldl (fun s x =>
        roceSend s qpn ((k.psn + x.2) % 2 ^ 24) 1 ((a.data.drop x.1.1).take x.1.2)) a.st

/-- An atomic is performed once and its old value kept among the responder resources. -/
def performRoceAtomic (s : State) (qpn : Nat) (p : QueuePair) (held : Bool) (op : RoceOp) (k : RocePkt) :
    State :=
  match roceCheck s p held k.rkey k.va 8 .atomic with
  | (s, .error st) => roceFail s qpn k.psn st
  | (s, .ok va) =>
    let pa := (paOf s p.ctx va).getD 0
    if 1024 ≤ (atomicQueue s (controllerOf pa)).length then roceFail s qpn k.psn Code.quota
    else
      let a := readVa (queueAtomic s pa (if op = .add then 0x11 else 0x45)) p.ctx va 8
      if a.status ≠ Code.ok then roceFail a.st qpn k.psn a.status
      else
        let old := ofLe a.data
        let new := if op = .add then atomicResult 0x11 old k.operand.toNat
          else if old = k.compare.toNat then k.operand.toNat else old
        let b := storeVa (touchLine a.st pa) p.ctx va (leBytes 8 new)
        if b.status ≠ Code.ok then roceFail b.st qpn k.psn b.status
        else
          let s := modQp b.st qpn fun p =>
            let kept := p.atomics.filter fun x => x.1 != k.psn
            { p with atomics := kept.drop (kept.length + 1 - p.maxRd) ++ [(k.psn, BitVec.ofNat 64 old)] }
          roceSend s qpn k.psn 2 (leBytes 8 old)

/-- A request in sequence is performed. -/
def performRoce (s : State) (qpn : Nat) (p : QueuePair) (held : Bool) (op : RoceOp) (k : RocePkt) : State :=
  match op with
  | .write => performRoceWrite s qpn p held k
  | .push => performRocePush s qpn p .push k
  | .send => performRocePush s qpn p .send k
  | .read => performRoceRead s qpn p held k
  | .add => performRoceAtomic s qpn p held .add k
  | .swap => performRoceAtomic s qpn p held .swap k

/-- Whether a request passes its window checks, after which a guard may hold it (R315). -/
def rocePasses (s : State) (qpn : Nat) (p : QueuePair) (op : RoceOp) (k : RocePkt) : Bool :=
  let ok (x : State × Except Status Nat) : Bool := match x.2 with
    | .ok _ => true
    | .error _ => false
  match op with
  | .write => ok (writePlace s qpn p false k)
  | .read => ok (roceCheck s p false k.rkey k.va k.len .read)
  | .add => ok (roceCheck s p false k.rkey k.va 8 .atomic)
  | .swap => ok (roceCheck s p false k.rkey k.va 8 .atomic)
  | _ => false

/-- The requests waiting at a queue pair are performed in order, up to one that a guard holds. -/
def pumpQp : Nat → State → Nat → State
  | 0, s, _ => s
  | fuel + 1, s, qpn =>
    match qpOf s qpn with
    | none => s
    | some p => match p.waiting with
      | [] => s
      | w :: ws =>
        match w.refused with
        | some st => roceFail s qpn w.pkt.psn st
        | none => match (if w.held || rocePasses s qpn p w.op w.pkt then
              heldBy s (.pair qpn) p.ctx (roceSpan s p w.op w.pkt) else none) with
          | some s => modQp s qpn fun p => { p with waiting := { w with held := true } :: ws }
          | none =>
            pumpQp fuel
              (startCursors (performRoce (modQp s qpn fun p => { p with waiting := ws }) qpn p w.held w.op w.pkt)) qpn

/-- The same for every queue pair. -/
def pumpRoce (s : State) : State :=
  s.eth.qps.foldl (fun s x => if x.2.waiting.isEmpty then s else pumpQp (x.2.waiting.length + 1) s x.1) s

/-! ## Arrival (R415, R419, R425, R426) -/

/-- PSNs that a request takes. -/
def psnCount (p : QueuePair) (op : RoceOp) (k : RocePkt) : Nat :=
  if op = .read then max 1 ((k.len + p.pmtuBytes - 1) / p.pmtuBytes) else 1

/-- A duplicate request, by kind (R419). -/
def roceDuplicate (s : State) (qpn : Nat) (p : QueuePair) (op : RoceOp) (k : RocePkt) : State :=
  let waits := p.waiting.any fun w => w.pkt.psn == k.psn
  match op with
  | .read => if waits then s else
      pumpQp (p.waiting.length + 2)
        (modQp s qpn fun p => { p with waiting := p.waiting ++ [{ op := op, pkt := k }] }) qpn
  | .add => match (p.atomics.find? fun x => x.1 == k.psn).map (·.2) with
    | some old => roceSend s qpn k.psn 2 (leBytes 8 old.toNat)
    | none => s
  | .swap => match (p.atomics.find? fun x => x.1 == k.psn).map (·.2) with
    | some old => roceSend s qpn k.psn 2 (leBytes 8 old.toNat)
    | none => s
  | _ => if waits then s else roceSend s qpn k.psn 0 []

/-- A request on an RC queue pair: in sequence, a duplicate, or beyond a gap. -/
def rcRequest (s : State) (qpn : Nat) (p : QueuePair) (op : RoceOp) (k : RocePkt) : State :=
  let d := (k.psn + 2 ^ 24 - p.expectedPsn) % 2 ^ 24
  if d = 0 then
    let s := modQp s qpn fun p =>
      { p with
        expectedPsn := (k.psn + psnCount p op k) % 2 ^ 24, nakSent := false
        waiting := p.waiting ++ [{ op := op, pkt := k }] }
    pumpQp (p.waiting.length + 2) s qpn
  else if 2 ^ 23 ≤ d then roceDuplicate s qpn p op k
  else if p.nakSent then s
  else roceSend (modQp s qpn fun p => { p with nakSent := true }) qpn p.expectedPsn 7 []

/-- A datagram on a UD queue pair: only a SEND with immediate of the right Q_Key is taken; the rest,
and a push that fails, is counted in 4200:04. -/
def udRequest (s : State) (p : QueuePair) (op : RoceOp) (k : RocePkt) : State :=
  if op = .send ∧ k.first = true ∧ k.last = true ∧ k.qkey = p.qkey ∧ k.data.length ≤ p.pmtuBytes ∧
      k.imm.toNat / 1024 = 0 ∧ pushLength k.data.length = true then
    let x := hostPush s p.ctx (ctxGen s p.ctx) (k.imm.toNat % 1024) p.proxy k.data
    if x.2 = Code.ok then x.1 else bump x.1 0x4200 0x04
  else bump s 0x4200 0x04

/-- A congestion notification packet goes to the sender, at most one in 3D00:04 (R426). -/
def sendCnp (s : State) (qpn : Nat) (p : QueuePair) : State :=
  let due := match p.cnpAt with
    | none => true
    | some t => passedNs s t (reg s 0x3D00 0x04)
  if due then
    ethOut (modQp s qpn fun p => { p with cnpAt := some s.now }) p.port rankControl p.ctx
      (roceSize p.ipv6 16 0) (.cnp qpn)
  else s

/-- Extended header bytes of a request. -/
def extBytes (op : RoceOp) (ud first last : Bool) : Nat :=
  (if ud then 8 else 0) +
  match op with
  | .write => if first then 16 else 0
  | .push => if first then 16 else 0
  | .read => 16
  | .send => if last then 4 else 0
  | _ => 28

end Sys2Proof.Machine
end

