-- ==== Sys2Proof/Machine/Jobs.lean ====
section
/-! DEFINITION. The issue of the engines' work (R92 to R94, R119 to R122), what becomes of each
piece when its request is final (R166), and the settling of rings and jobs after a command. -/

namespace Sys2Proof.Machine

/-- The state with one job changed. -/
def modJob (s : State) (jk : Nat) (f : Job → Job) : State := setJobs s (tmod s.net.jobs jk f)

/-! ## Overlap within a queue (R122) -/

/-- Bytes that data written to a sink touch. -/
def Sink.writes (k : Sink) (len : Nat) : List (Place × Nat) :=
  match k with
  | .place p => [(p, len)]
  | .contrib h _ => [(.handle h, len)]
  | _ => []

/-- Bytes that the issue of an elementary piece accesses: place and length. -/
def Work.touches (w : Work) : List (Place × Nat) :=
  match w with
  | .copy src _ len => [(src, len)]
  | .lines h _ len _ _ => [(.handle h, len)]
  | .store p d => [(p, d.length)]
  | .flag p _ => [(p, 8)]
  | .flagRun h d => [(.handle h, d.length)]
  | .drain _ len p => [(p, len)]
  | .contrib h _ d => [(.handle h, d.length)]
  | _ => []

/-- Bytes that an elementary piece writes once its data have come. -/
def Work.writes (w : Work) : List (Place × Nat) :=
  match w with
  | .copy _ k len => k.writes len
  | .lines _ k len _ _ => k.writes len
  | w => w.touches

/-- Whether two accesses touch one 64-byte block under one kind of name (R118). -/
def blocksMeet (a b : Place × Nat) : Bool :=
  match a.1, b.1 with
  | .va x, .va y => decide (x / 64 * 64 < y + b.2) && decide (y / 64 * 64 < x + a.2)
  | .handle x, .handle y =>
    decide (x.toNat / 64 * 64 < y.toNat + b.2) && decide (y.toNat / 64 * 64 < x.toNat + a.2)
  | _, _ => false

/-- Row starts of a side. -/
def rowPlaces (p : Place) (rows pitch len : Nat) : List (Place × Nat) :=
  (List.range rows).map fun r => (p.add (r * pitch), len)

/-- The side of a tile command that is not an arena's, at most. -/
def plainSpan (d : Desc) : List (Place × Nat) :=
  [(placeOf (opBit d 152) (opnd d 0 64), (opnd d 64 24 - 1) * opnd d 120 32 + 8 * opnd d 88 32)]

/-- The bytes that a descriptor accesses by its operands: exact for movers, flags, LOAD_PLAY and CONTRIBUTE;
for the commands of arenas, streams and schedules all that they may touch. -/
def descTouches (s : State) (f : Flight) : List (Place × Nat) :=
  let d := f.desc
  let op := opcodeOf d
  let flag (en : Bool) (k : Nat) : List (Place × Nat) := if en then [(placeOf (opBit d k) (opnd d 256 64), 8)] else []
  if op = 0x01 then [(.va (opnd d 0 48), 8)]
  else if op = 0x0B then [(.va (opnd d 16 48), opnd d 64 9 * 64)]
  else if op = 0x0C then (if opnd d 1 2 = 1 then [(.va (opnd d 64 48), 8)] else [])
  else if op = 0x20 ∨ op = 0x21 then
    (if op = 0x21 then [] else rowPlaces (placeOf (opBit d 184) (opnd d 0 64)) (opnd d 160 24) (opnd d 192 32) (opnd d 128 32)) ++
      rowPlaces (placeOf (opBit d 185) (opnd d 64 64)) (opnd d 160 24) (opnd d 224 32) (opnd d 128 32) ++
      flag (opBit d 186) 187
  else if op = 0x42 then [(placeOf (opBit d 183) (opnd d 0 64), opnd d 152 31 / 256 * unitBytes (opnd d 184 4))]
  else if op = 0x62 ∨ op = 0x67 then
    match tget s.step.streams (f.quarter % 4 * 64 + opnd d 0 6) with
    | none => []
    | some st =>
      let n := (if st.rule = 1 then 3 else 2) * roundUp (st.params * 4) 65536
      (.va st.bank0, n) :: (.va st.bank1, n) ::
        (if op = 0x62 ∧ st.fromMemory = true then [(.va st.gradVa, st.params * 4)] else [])
  else if 0x82 ≤ op ∧ op ≤ 0x86 then
    let arena (no : Nat) : List (Place × Nat) := match tget s.pewter.arenas (f.ctx * 256 + no) with
      | some a => [(.va a.base, a.sectors * 4096)]
      | none => []
    arena (opnd d 160 8) ++ (if op = 0x84 then arena (opnd d 224 8) else []) ++
      (if op = 0x82 ∨ op = 0x83 then plainSpan d ++ flag (opBit d 203) 204 else [])
  else []

/-- Bytes that a descriptor in flight may still access: those of its pieces not yet final, the flagged write
of a tile command among them; of one whose command has not run, those of its operands. -/
def openTouches (s : State) (fk : Nat) (f : Flight) : List (Place × Nat) :=
  match tget s.net.jobs (jobKey (.flight fk)) with
  | some o =>
    let ws := (o.live ++ o.todo).map (·.2) ++ (if (tget s.pewter.works fk).isSome then tileFlag f.desc else [])
    (if ((tget s.pewter.works fk).map (·.phase)) = some 3 then plainSpan f.desc else []) ++
      (ws.map fun w => w.touches ++ w.writes).flatten
  | none =>
    if f.progress = .issued ∨ (f.progress = .working ∧ opcodeOf f.desc = 0x62) then descTouches s f else []

/-- Whether an earlier descriptor of the same queue still has an overlapping access (R122). -/
def earlierMeets (s : State) (fk : Nat) (bs : List (Place × Nat)) : Bool :=
  (s.q.flights.filter fun p => earlierKey p.1 fk).any fun p =>
    (openTouches s p.1 p.2).any fun x => bs.any (blocksMeet x)

/-- Whether some bytes of a piece must wait: an earlier descriptor of the queue has an overlapping
access, or, where they are written, the descriptor itself has an overlapping earlier write. -/
def mustWait (s : State) (j : Job) (n : Nat) (bs : List (Place × Nat)) (write : Bool) : Bool :=
  match j.kind with
  | .flight fk =>
    earlierMeets s fk bs ||
      (write && (j.live ++ j.todo).any fun x =>
        decide (x.1 < n) && x.2.writes.any fun y => bs.any (blocksMeet y))
  | _ => false

/-- Whether a piece reads into some bytes of the job's buffer. -/
def Work.fills (w : Work) (off len : Nat) : Bool :=
  let meets (o n : Nat) : Bool := decide (o < off + len) && decide (off < o + n)
  match w with
  | .copy _ (.buffer o) n => meets o n
  | .copy _ (.xorBuffer o) n => meets o n
  | .lines _ (.buffer o) n _ _ => meets o n
  | .lines _ (.xorBuffer o) n _ _ => meets o n
  | _ => false

/-- Whether a write out of the job's buffer must wait for earlier reads into its bytes. -/
def drainWaits (j : Job) (n : Nat) (w : Work) : Bool :=
  match w with
  | .drain off len _ => (j.live ++ j.todo).any fun x => decide (x.1 < n) && x.2.fills off len
  | _ => false

/-- Whether a piece must wait for overlapping accesses, or for what it writes. -/
def Work.waits (w : Work) (s : State) (j : Job) (n : Nat) : Bool :=
  drainWaits j n w || mustWait s j n w.touches (match w with | .copy _ _ _ => false | _ => true)

/-- A piece takes its place among those still to issue. -/
def insertWork (x : Nat × Work) : List (Nat × Work) → List (Nat × Work)
  | [] => [x]
  | y :: ys => if x.1 < y.1 then x :: y :: ys else y :: insertWork x ys

/-! ## Read caches (R119, R120) -/

/-- Whether an engine's reads by handle go through its read cache. -/
def caches (s : State) (j : Job) : Bool :=
  decide (1 ≤ j.cls) && decide (j.cls ≤ 5) && reg s 0x6000 0x0C == 1

/-- Handles of the lines that a run of bytes touches. -/
def linesOf (h : BitVec 64) (len : Nat) : List Nat :=
  let lo := h.toNat / 128 * 128
  (List.range ((h.toNat + len - lo + 127) / 128)).map fun i => lo + i * 128

/-- The line of a name, filled or with its fill outstanding. -/
def lineNamed (s : State) (k ctx name : Nat) : Option CacheLine :=
  ((tget s.mem.caches k).getD []).find? fun l => l.ctx == ctx && l.name == name

/-- Whether a line holds valid data. -/
def CacheLine.valid (l : CacheLine) (s : State) : Bool := l.fill.isNone && !passedUs s l.since l.lifetime

/-- Where the bytes of one line come from: the line, an outstanding fill, or the read's own. -/
inductive LineFrom where
  | held (data : Bytes)
  | coming (job piece : Nat)
  | missing
deriving DecidableEq, Repr

/-- Whether a job's reads are those of an acquire or fence, which are performed at the point of coherence:
they take nothing that others have read (R127). -/
def readsFresh (s : State) (j : Job) : Bool :=
  match j.kind with
  | .flight fk => (tget s.q.flights fk).any fun f => orderOf f.desc == 1 || orderOf f.desc == 3
  | _ => false

/-- Where a read takes the bytes of a line from (R120). A fill that was issued longer ago than a lifetime is
not shared any more (R121). -/
def lineFrom (s : State) (k ctx name : Nat) : LineFrom :=
  match lineNamed s k ctx name with
  | none => .missing
  | some l =>
    match l.fill with
    | some f => if passedUs s l.since (reg s 0x6000 0x0B) then .missing else .coming f.1 f.2
    | none => if l.valid s then .held l.data else .missing

/-- The bytes of a run out of its lines. -/
def joinLines (h : BitVec 64) (len : Nat) (ls : List (Nat × Bytes)) : Bytes :=
  ((((linesOf h len).map fun n => (tget ls n).getD []).flatten).drop (h.toNat % 128)).take len

/-- The state with one cache replaced. -/
def setCache (s : State) (k : Nat) (ls : List CacheLine) : State :=
  { s with mem := { s.mem with caches := tset s.mem.caches k ls } }

/-- A hit marks the lines used. -/
def touchLines (s : State) (k ctx : Nat) (names : List Nat) : State :=
  setCache s k (((tget s.mem.caches k).getD []).map fun l =>
    if l.ctx = ctx ∧ names.contains l.name then { l with used := s.now } else l)

/-- The least recently used line is replaced when a cache of 8,192 lines is full. -/
def trimCache (ls : List CacheLine) : List CacheLine :=
  if ls.length < 8192 then ls
  else
    let oldest := ls.foldl (fun n l => min n l.used) (ls.foldl (fun n l => max n l.used) 0)
    match ls.find? fun l => l.used == oldest with
    | some v => ls.filter fun l => !(l.ctx == v.ctx && l.name == v.name)
    | none => ls

/-- Fills of lines are outstanding: each is entered without data, so that an invalidation before
its data come removes it. A line ages from the issue of its fill, which comes before the fill is
performed (R121). -/
def expectLines (s : State) (k ctx jk n : Nat) (names : List Nat) : State :=
  setCache s k (names.foldl (fun ls name =>
    trimCache (ls.filter fun l => !(l.ctx == ctx && l.name == name)) ++
      [{ ctx := ctx, name := name, used := s.now, since := s.now, fill := some (jk, n) }])
    ((tget s.mem.caches k).getD []))

/-- The data of a fill are entered where the line has not been invalidated since; a fill without
data leaves no line. -/
def fillLines (s : State) (jk n base : Nat) (data : Option Bytes) : State :=
  let t := tmap s.mem.caches fun _ ls => ls.filterMap fun l =>
    if l.fill = some (jk, n) then data.map fun b =>
      { l with data := (b.drop (l.name - base)).take 128
               lifetime := reg s 0x6000 0x0B, used := s.now, fill := none }
    else some l
  { s with mem := { s.mem with caches := t } }

/-! ## Pieces that end -/

/-- A piece leaves the live ones. -/
def dropLive (s : State) (jk n : Nat) : State :=
  modJob s jk fun j => { j with live := j.live.filter fun x => x.1 != n }

/-- A piece has failed. -/
def failPiece (s : State) (jk n : Nat) (status : Status) (detail : BitVec 64) : State :=
  let s := match tget s.net.jobs jk with
    | some j => (match j.kind with
      | .emission _ => bump s 0x6200 0x07
      | .flight fk =>
        if ((tget s.q.flights fk).map fun f => opcodeOf f.desc) = some 0x67 then bump s 0x6200 0x07 else s
      | _ => s)
    | none => s
  modJob s jk fun j => { (j.fail n status detail) with live := j.live.filter fun x => x.1 != n }

/-- A piece has ended with a status. -/
def endPiece (s : State) (jk n : Nat) (status : Status) (detail : BitVec 64 := 0) : State :=
  if status = Code.ok then dropLive s jk n else failPiece s jk n status detail

/-- Bytes written into a buffer at an offset. -/
def splice (b : Bytes) (off : Nat) (d : Bytes) : Bytes :=
  padTo off b ++ d ++ b.drop (off + d.length)

/-- Bytes combined into a buffer at an offset by exclusive or. -/
def spliceXor (b : Bytes) (off : Nat) (d : Bytes) : Bytes :=
  splice b off (((padTo (off + d.length) b).drop off).zipWith (fun x y => x ^^^ y) d)

/-- A piece is issued again later, as another. -/
def requeue (s : State) (jk n : Nat) (w : Work) : State :=
  modJob (dropLive s jk n) jk fun j => { j with todo := insertWork (n, w) j.todo }

/-- Whether data for a place on this part must wait for overlapping accesses. -/
def sinkWaits (s : State) (jk n a len : Nat) : Bool :=
  (tget s.net.jobs jk).any fun j => mustWait s j n [(.va a, len)] true

/-- The data of a piece that reads has come: they go to its sink. -/
def sinkData (s : State) (jk n ctx : Nat) (sink : Sink) (data : Bytes) : State :=
  match sink with
  | .place (.va a) =>
    if sinkWaits s jk n a data.length || (guardVa s ctx a data.length).isSome then
      requeue s jk n (.store (.va a) data)
    else
      let r := storeVa s ctx a data
      endPiece r.st jk n r.status (BitVec.ofNat 64 a)
  | .place (.handle h) => requeue s jk n (.store (.handle h) data)
  | .contrib h aux => requeue s jk n (.contrib h aux data)
  | .buffer off => modJob (dropLive s jk n) jk fun j => { j with buffer := splice j.buffer off data }
  | .xorBuffer off => modJob (dropLive s jk n) jk fun j => { j with buffer := spliceXor j.buffer off data }

/-- A read served line by line takes the lines of a fill it waited for, and is over when it has all
of them; where the fill brought none, it is issued again. -/
def feedPiece (s : State) (jk : Nat) (x : Nat × Work) (from_ : Nat × Nat) (base : Nat)
    (data : Option Bytes) : State :=
  match x.2 with
  | .lines h sink len got need =>
    let mine := need.filter fun e => e.2 == from_
    if mine.isEmpty then s
    else match data with
      | none => requeue s jk x.1 (.copy (.handle h) sink len)
      | some b =>
        let got := got ++ mine.map fun e => (e.1, (b.drop (e.1 - base)).take 128)
        let need := need.filter fun e => e.2 != from_
        if need.isEmpty then
          sinkData s jk x.1 (((tget s.net.jobs jk).map (·.ctx)).getD 0) sink (joinLines h len got)
        else modJob s jk fun j =>
          { j with live := j.live.map fun y => if y.1 = x.1 then (x.1, .lines h sink len got need) else y }
  | _ => s

/-- A fill is final: its lines are entered, and every read that takes bytes from it has them. -/
def endFill (s : State) (jk n base : Nat) (data : Option Bytes) : State :=
  let s := fillLines s jk n base data
  s.net.jobs.foldl (fun s y => y.2.live.foldl (fun s x => feedPiece s y.1 x (jk, n) base data) s) s

/-! ## Issue -/

/-- A piece of a job leaves the work still to issue. -/
def popWork (s : State) (jk n : Nat) : State :=
  modJob s jk fun j => { j with todo := j.todo.filter fun x => x.1 != n }

/-- Whether a job forms a parity row. -/
def Job.isParity (j : Job) : Bool :=
  match j.kind with
  | .parity _ _ => true
  | _ => false

/-- Whether a job rebuilds a row of a lost part. -/
def Job.isRebuild (j : Job) : Bool :=
  match j.kind with
  | .rebuild _ => true
  | _ => false

/-- Whether a request reads for a parity row, or to rebuild one. -/
def readsParity (s : State) (r : Req) : Bool :=
  match r.owner with
  | .job jk _ => r.pkt.op == 0x01 && (tget s.net.jobs jk).any fun j => j.isParity || j.isRebuild
  | _ => false

/-- Whether a quarter's slice may read once more for a parity row or a rebuild (R270, R369). -/
def parityOpen (s : State) (j : Job) (p : Packet) : Bool :=
  !(p.op == 0x01 && (j.isParity || j.isRebuild)) ||
    decide (tcount s.net.reqs (fun _ r => r.quarter == j.quarter && readsParity s r) < reg s 0x6200 0x09)

/-- Whether the last write of a rebuild is over at the part's pace of 8100:05 GB/s, which all its rebuilds share: a byte
takes 9/5 core cycles at 1 GB/s (R369). -/
def rebuildOpen (s : State) : Bool :=
  match s.recov.rebuildSent with
  | none => true
  | some (at_, len) => decide (len * 9 ≤ (s.now - at_) * 5 * reg s 0x8100 0x05)

/-- Whether a job's engine, flow and limiter take a request now. -/
def jobOpen (s : State) (j : Job) (p : Packet) : Bool :=
  canTake s j.quarter j.engine && portOpen s j.quarter j.engine p && flowOpen s p.dst j.srcQueue &&
    limiterOpen s p && parityOpen s j p

/-- A piece's request goes out if its engine, its flow and its limiter allow; none while not. A
request to a fenced node completes at once with its unreachable status (R356). -/
def sendPiece (s : State) (jk : Nat) (j : Job) (n : Nat) (w : Work) (p : Packet) : Option State :=
  if isFenced s p.dst then some (failPiece (popWork s jk n) jk n (unreachableStatus p.op) 0)
  else if jobOpen s j p then
    let s := modJob (popWork s jk n) jk fun j => { j with live := j.live ++ [(n, w)] }
    some (issueReq s j.quarter j.engine (.job jk n) p)
  else none

/-- Whether a piece of a job is outstanding. -/
def isLive (s : State) (jk n : Nat) : Bool :=
  (tget s.net.jobs jk).any fun j => j.live.any fun x => x.1 == n

/-- Numbers apart from those of a job's pieces, for the second fill of a read. -/
def fillSpan : Nat := 2 ^ 64

/-- Most bytes of one read request of a job: 6000:03 for a mover, else 8 KiB (R93, Table 7 of the fabric's
packets). -/
def readCap (s : State) (j : Job) : Nat := if j.cls = 1 then reg s 0x6000 0x03 else 8192

/-- The fill of some lines, given by their first and last. -/
def fillOf (j : Job) (lo hi : Nat) : Packet := mkRead j.ctx j.gen j.srcQueue (BitVec.ofNat 64 lo) (hi + 128 - lo)

/-- The second fill of a read goes out. -/
def sendFill (s : State) (jk : Nat) (j : Job) (n : Nat) (p : Packet) : Option State :=
  if !isLive s jk n then some s
  else if jobOpen s j p then some (issueReq s j.quarter j.engine (.job jk (n + fillSpan)) p)
  else none

/-- The read of a piece by handle through its cache: a hit, or line by line (R119, R120). Missing
lines are filled by a request over them, and by a second one where the first cannot reach the last. -/
def issueCached (s : State) (jk : Nat) (j : Job) (n : Nat) (h : BitVec 64) (sink : Sink)
    (len : Nat) : Option State :=
  let k := cacheKey j.quarter j.cls
  let from_ := (linesOf h len).map fun name =>
    (name, if readsFresh s j then LineFrom.missing else lineFrom s k j.ctx name)
  let got := from_.filterMap fun x => match x.2 with
    | .held d => some (x.1, d)
    | _ => none
  let own := from_.filterMap fun x => if x.2 = .missing then some x.1 else none
  let reach := own.headD 0 + readCap s j
  let near := own.filter fun x => decide (x < reach)
  let far := own.filter fun x => !decide (x < reach)
  let need := from_.filterMap fun x => match x.2 with
    | .held _ => none
    | .coming a b => some (x.1, a, b)
    | .missing => some (x.1, jk, if x.1 < reach then n else n + fillSpan)
  let w := Work.lines h sink len got need
  if need.isEmpty then
    let s := touchLines (bump (popWork s jk n) 0x6000 0x0D) k j.ctx (linesOf h len)
    some (sinkData s jk n j.ctx sink (joinLines h len got))
  else match near.head?, near.getLast? with
    | some lo, some hi =>
      let expect (m : Nat) (names : List Nat) (s : State) : State :=
        if isLive s jk n then expectLines s k j.ctx jk m names else s
      let first := (sendPiece s jk j n w (fillOf j lo hi)).map (expect n near)
      match far.head?, far.getLast? with
      | some lo, some hi =>
        (first.bind fun s => sendFill s jk j n (fillOf j lo hi)).map (expect (n + fillSpan) far)
      | _, _ => first
    | _, _ => some (modJob (popWork s jk n) jk fun j => { j with live := j.live ++ [(n, w)] })

/-- The read of a piece by handle. -/
def issueRead (s : State) (jk : Nat) (j : Job) (n : Nat) (w : Work) (h : BitVec 64) (sink : Sink)
    (len : Nat) : Option State :=
  if caches s j then issueCached s jk j n h sink len
  else sendPiece s jk j n w (mkRead j.ctx j.gen j.srcQueue h len)

/-- Data stored by a piece: at once on this part's memory by VA, or by a request. -/
def issueStore (s : State) (jk : Nat) (j : Job) (n : Nat) (dst : Place) (op : Nat) (data : Bytes) :
    Option State :=
  match dst with
  | .va a =>
    let r := storeVa (popWork s jk n) j.ctx a data
    some (endPiece r.st jk n r.status (BitVec.ofNat 64 a))
  | .handle h =>
    let w : Work := if op = 0x41 then .flag dst (BitVec.ofNat 64 (ofLe data)) else .store dst data
    (sendPiece s jk j n w (mkData op j.ctx j.gen j.srcQueue h 0 data)).map fun s =>
      dropWritten s j.quarter j.cls j.ctx h data.length

/-- The packet of a contribution to a group of this part. -/
def ownContrib (s : State) (j : Job) (h : BitVec 64) (aux : Nat) (data : Bytes) : Packet :=
  (mkData 0x44 j.ctx j.gen j.srcQueue h aux data).withHdr fun x => { x with src := nodeId s, srcInc := ownInc s }

/-- The bytes that the issue of a piece reads or writes by VA on this part. -/
def pieceRanges (s : State) (j : Job) (w : Work) : List (Nat × Nat) :=
  match w with
  | .contrib h aux data => if handleNode h = nodeId s then contribLoads s (ownContrib s j h aux data) else []
  | w => (w.touches ++ w.writes).filterMap fun x => match x.1 with
    | .va a => some (a, x.2)
    | .handle _ => none

/-- The state in which a guard holds a piece; none where it may be issued (R315). -/
def pieceHeld (s : State) (jk : Nat) (j : Job) (n : Nat) (w : Work) : Option State :=
  heldBy s (.piece jk n) j.ctx (pieceRanges s j w)

/-- Whether a piece keeps its place behind those before it: a barrier, a probe, or a flagged write, which is
issued last (R93, R174). -/
def Work.ordered (w : Work) : Bool :=
  match w with
  | .barrier => true
  | .probe _ _ _ => true
  | .flag _ _ => true
  | .flagRun _ _ => true
  | .relay _ _ flagged _ => flagged
  | _ => false

/-- Whether a piece in flight reads, and so may still lead to a write. -/
def Work.reads (w : Work) : Bool :=
  match w with
  | .copy _ _ _ => true
  | .lines _ _ _ _ _ => true
  | _ => false

/-- Bytes of a parity row that have been written are counted (R272). -/
def countParity (s : State) (jk : Nat) (j : Job) (len : Nat) : State :=
  if j.isParity && (tget s.net.jobs jk).any (·.failed.isNone) then bumpBy s 0x6200 0x08 len else s

/-- A write of a parity row, or of a rebuild, which has its pace (R270, R369). -/
def issueDrain (s : State) (jk : Nat) (j : Job) (n : Nat) (dst : Place) (data : Bytes) : Option State :=
  if j.isRebuild then
    if rebuildOpen s then
      (issueStore s jk j n dst 0x40 data).map fun s =>
        { s with recov := { s.recov with rebuildSent := some (s.now, data.length) } }
    else none
  else (issueStore s jk j n dst 0x40 data).map fun s => countParity s jk j data.length

/-- A piece of a job is issued; none where it must wait. A flagged write waits for reads in flight, whose
data are stored before it is issued (R93). -/
def issuePiece (s : State) (jk : Nat) (j : Job) (n : Nat) (w : Work) : Option State :=
  match w with
  | .barrier => if j.live.isEmpty then some (popWork s jk n) else none
  | .probe h len op => sendPiece s jk j n w (mkProbe j.ctx j.gen j.srcQueue h len op)
  | .copy (.va a) sink len =>
    let r := readVa (popWork s jk n) j.ctx a len
    if r.status = Code.ok then some (sinkData r.st jk n j.ctx sink r.data)
    else some (failPiece r.st jk n r.status (BitVec.ofNat 64 a))
  | .copy (.handle h) sink len => issueRead s jk j n w h sink len
  | .lines h sink len _ _ => issueRead s jk j n (.copy (.handle h) sink len) h sink len
  | .store dst data => issueStore s jk j n dst 0x40 data
  | .flag dst v =>
    if j.live.any fun x => x.2.reads then none else issueStore s jk j n dst 0x41 (leBytes 8 v.toNat)
  | .flagRun h data =>
    (sendPiece s jk j n w (mkData 0x41 j.ctx j.gen j.srcQueue h 0 data)).map fun s =>
      dropWritten s j.quarter j.cls j.ctx h data.length
  | .drain off len dst =>
    issueDrain s jk j n dst (((padTo (off + len) j.buffer).drop off).take len)
  | .contrib h aux data =>
    if handleNode h = nodeId s then
      let r := contribute (popWork s jk n) (ownContrib s j h aux data)
      some (endPiece r.1 jk n r.2.1 (BitVec.ofNat 64 r.2.2))
    else sendPiece s jk j n w (mkData 0x44 j.ctx j.gen j.srcQueue h aux data)
  | .relay h g flagged data =>
    sendPiece s jk j n w (mkData (if flagged then 0x49 else 0x48) j.ctx j.gen j.srcQueue h g data)

/-- Whether a job's descriptor has been stopped from outside (R337, R365). -/
def jobStopped (s : State) (j : Job) : Bool :=
  match j.kind with
  | .flight fk => ((tget s.q.flights fk).map (·.stopped)).getD true
  | _ => false

/-- A job's work is issued as far as it goes, from the piece at a place on: one that must wait for an
overlapping access or a guard lets the others pass (R122), but for those that keep their places. A cursor
word that a piece writes starts its entries at once (R311). The fuel bounds the pieces. -/
def pumpJob : Nat → State → Nat → Nat → State
  | 0, s, _, _ => s
  | fuel + 1, s, jk, i =>
    match tget s.net.jobs jk with
    | none => s
    | some j =>
      if jobStopped s j || decide (1 ≤ s.recov.warnPhase) || (j.failed.isSome && !j.multicast) then s
      else match j.todo.drop i with
        | [] => s
        | (n, w) :: _ =>
          if w.ordered && decide (0 < i) then s
          else if w.waits s j n then pumpJob fuel s jk (i + 1)
          else match pieceHeld s jk j n w with
            | some s => pumpJob fuel s jk (i + 1)
            | none => match issuePiece s jk j n w with
              | none => s
              | some s => pumpJob fuel (startCursors s) jk i

/-! ## Jobs that end by themselves: descriptors and relays -/

/-- The original request of a relay is answered (R172, R173). -/
def relayEnds (s : State) (p : Packet) (j : Job) : State :=
  let s := endJob s (.relay p)
  match j.failed with
  | none => ackDone s p
  | some (i, status, d) =>
    refuseReq s p status (BitVec.ofNat 64 (i % 256 * 2 ^ 56 + bits d 0 38))

/-- The requests of a group that has been disarmed are final: its job ends, and so do the
GROUP_DISARMs that waited for it (R238). -/
def gatherEnds (s : State) (key b : Nat) : State :=
  if ((tget s.scrum.groups key).map fun g => g.bank == b).getD false then s
  else
    let s := endJob s (.gather key b)
    (s.q.flights.filter fun p =>
      p.2.progress = .working && opcodeOf p.2.desc == 0x41 &&
        ((tget s.scrum.groups key).bind (·.disarmBy)) != some p.1 &&
        groupKey (if p.2.ctx = 0 then opnd p.2.desc 64 12 else p.2.ctx) (opnd p.2.desc 0 16) == key).foldl
      (fun s p => finish s p.1 Code.ok) s

/-- Number of the job that carries the flagged writes of a Caddie stream by handle. -/
def caddieFlagTag : Nat := 65536

/-- The flagged writes of a stream's landed entries are final: one that failed fails the stream. -/
def caddieFlagEnds (s : State) (key : Nat) (j : Job) : State :=
  let s := endJob s (.caddie key caddieFlagTag)
  if j.status = Code.ok then s else failCaddie (bump s 0x6300 0x09) key j.status

/-- Numbers left to the requests of one member of a descriptor's multicast. -/
def memberSpan : Nat := 2 ^ 32

/-- DETAIL of a descriptor's multicast: member index and failing offset (R172). -/
def multicastDetail (j : Job) : BitVec 64 :=
  match j.failed with
  | none => 0
  | some (n, _, d) => BitVec.ofNat 64 (n / memberSpan % 256 * 2 ^ 56 + bits d 0 38)

/-- A job whose work is over ends, where no command of its own ends it. -/
def finishJob (s : State) (jk : Nat) : State :=
  match tget s.net.jobs jk with
  | none => s
  | some j =>
    match j.kind with
    | .flight fk =>
      match tget s.q.flights fk with
      | none => if j.live.isEmpty then endJob s j.kind else s
      | some f =>
        if f.stopped then
          if j.live.isEmpty then release (tileEnds s fk (f.forced.getD Code.aborted) 0) (holdFlight fk)
          else s
        else if j.isDone then
          match tget s.pewter.works fk with
          | some w => tileNext s fk f w j
          | none =>
            let d := if j.multicast then multicastDetail j else j.detail
            release (finish (endJob s j.kind) fk j.status d) (holdFlight fk)
        else s
    | .relay p => if j.isDone then relayEnds s p j else s
    | .gather key b => if j.isDone then gatherEnds s key b else s
    | .caddie key e => if e = caddieFlagTag ∧ j.isDone = true then caddieFlagEnds s key j else s
    | _ => s

/-- Every job's work is issued as far as it goes, and finished jobs end. -/
def pumpJobs (s : State) : State :=
  s.net.jobs.foldl (fun s x => finishJob (pumpJob (4 * x.2.todo.length + 4) s x.1 0) x.1) s

/-! ## Rings that close (R108) -/

/-- A closing ring with nothing more to write is gone, and its CLOSE_RING completes. -/
def closeRing (s : State) (x : Nat × Ring) : State :=
  match x.2.closing with
  | none => s
  | some fk =>
    let busy := tany s.net.reqs (fun _ r => match r.owner with | .ring k _ => k == x.1 | _ => false) ||
      tany s.eth.qps (fun _ p => p.sends.any fun r => r.ring == x.1 && !r.isHead)
    if (x.2.waiting.isEmpty || x.2.lost.isSome) && !busy then
      finish { s with q := { s.q with rings := tdel s.q.rings x.1 } } fk (x.2.lost.getD Code.ok)
    else s

/-! ## Caddie streams that close (R322) -/

/-- A disarming stream with nothing in flight is gone, and its CADDIE_DISARM completes. -/
def closeCaddie (s : State) (key : Nat) : State :=
  match tget s.caddie.streams key with
  | none => s
  | some c =>
    match c.closing with
    | none => s
    | some fk =>
      if c.flying.isEmpty && (jobOf s (.caddie key caddieFlagTag)).isNone then
        let s := release s (holdCaddie key)
        let watches := s.q.watches.map fun l => l.filter fun w => match w.who with
          | .caddie k _ => k != key
          | _ => true
        let s := { s with caddie := { s.caddie with streams := tdel s.caddie.streams key } }
        finish { s with q := { s.q with watches := watches } } fk Code.ok
      else s

/-- A stream whose slots or cursor words an UNMAP has cut fails ABORTED once nothing of it is in flight, and
its holds are released (R56, R323). -/
def drainCaddie (s : State) (key : Nat) : State :=
  match tget s.caddie.streams key with
  | none => s
  | some c =>
    if c.cut s && c.flying.isEmpty && (jobOf s (.caddie key caddieFlagTag)).isNone then
      release (failCaddie s key Code.aborted) (holdCaddie key)
    else s

/-! ## Accesses held by guards -/

/-- Whether an access that is held still waits: its job, its segment, its apply or its descriptor may have
ended from outside meanwhile. -/
def stillHeld (s : State) (h : HeldReq) : Bool :=
  match h.what with
  | .request _ => true
  | .pair qpn => (tget s.eth.qps qpn).any fun p => (p.waiting.head?).any (·.held)
  | .piece jk n => (tget s.net.jobs jk).any fun j => j.todo.any fun x => x.1 == n
  | .segment key seg => (tget s.scrum.groups key).any fun g => (g.seg seg).stage == 4
  | .apply key => (tget s.step.streams key).any fun st => st.flight.isSome && st.failing.isNone
  | .command fk => (tget s.q.flights fk).any fun f => decide (f.progress = .issued)

/-- The state without held accesses that no longer wait. -/
def pruneGuarded (s : State) : State :=
  if s.caddie.guarded.isEmpty then s
  else { s with caddie := { s.caddie with guarded := s.caddie.guarded.filter (stillHeld s) } }

/-! ## Windows that close (R67) -/

/-- Whether a request that has passed the checks of a window is still held by a guard. -/
def windowHeld (s : State) (n : Nat) : Bool :=
  (heldPkts s).any (fun h => handleWindow h.1.handle == n) ||
    tany s.eth.qps fun _ p => p.waiting.any fun w =>
      w.held && ((roceRange p w.op w.pkt).map fun r => keyWindow r.1) == some n

/-- A CLOSE_WINDOW completes once the requests that passed the check have been performed. -/
def closeWindows (s : State) : State :=
  (s.q.flights.filter fun x =>
    x.2.progress == .working && opcodeOf x.2.desc == 0x08 && !windowHeld s (opnd x.2.desc 0 14)).foldl
    (fun s x => finish s x.1 Code.ok) s

/-- Every job's work is issued, the ends of rounds that waited for it among it (R233). -/
def pumpWork (s : State) : State := pumpJobs (pumpEnds (pumpJobs (pumpJobs s)))

/-- Rings and jobs after a command: frames whose turn has come leave, records are written, work is issued, cursor
entries start, and what is over ends. Nothing of this goes on while the engines are stopped (R367, R488). -/
def settle (s : State) : State :=
  if s.core.stopped then s
  else
  let s := pumpRings (pumpRoce (pumpResends (pumpDeferred (serveEth s))))
  let s := pumpWork (pumpSegs (sendWindows (startCursors s)))
  let s := closeWindows (s.q.rings.foldl closeRing s)
  let s := s.caddie.streams.foldl (fun s x => closeCaddie (drainCaddie s x.1) x.1) s
  let s := pumpFlags s
  endOver (pumpPushes s.net.heldPushes.length (pruneGuarded s))

/-! ## Final requests (R166) -/

/-- A probe of one member of a multicast has failed: the data packets of its range are not sent (R71). -/
def dropProbed (s : State) (jk : Nat) (h : BitVec 64) (len : Nat) : State :=
  let under (w : Work) : Bool := match w with
    | .store (.handle x) _ => decide (h.toNat ≤ x.toNat) && decide (x.toNat < h.toNat + len)
    | _ => false
  modJob s jk fun j => { j with todo := j.todo.filter fun x => !under x.2 }

/-- A write by handle has completed: lines that others filled since its issue go, so that the queue's later
reads do not return an older value (R122). -/
def dropAnswered (s : State) (j : Job) (w : Work) : State :=
  match w with
  | .store (.handle h) d => dropWritten s j.quarter j.cls j.ctx h d.length
  | .flag (.handle h) _ => dropWritten s j.quarter j.cls j.ctx h 8
  | .flagRun h d => dropWritten s j.quarter j.cls j.ctx h d.length
  | .drain _ len (.handle h) => dropWritten s j.quarter j.cls j.ctx h len
  | _ => s

/-- A request of a job is final with a status, DETAIL and data. -/
def jobAnswer (s : State) (jk n : Nat) (status : Status) (detail : BitVec 64) (r : Req) (data : Bytes) :
    State :=
  let base := r.pkt.handle.toNat
  let m := n % fillSpan
  let w : Option (Job × Work) :=
    (tget s.net.jobs jk).bind fun j => (j.live.find? fun x => x.1 == m).map fun x => (j, x.2)
  let failed := decide (status ≠ Code.ok)
  let s := if failed && w.isSome then failPiece s jk m status detail else s
  match w with
  | some (j, .copy (.handle h) sink len) =>
    if failed then s else sinkData s jk m j.ctx sink ((data.drop (h.toNat - base)).take len)
  | some (_, .lines ..) => endFill s jk n base (if failed then none else some data)
  | some (_, .probe h len _) => if failed then dropProbed s jk h len else dropLive s jk m
  | some (j, x) => dropAnswered (if failed then s else dropLive s jk m) j x
  | none => endFill s jk n base (if failed then none else some data)

/-- A request of the part is final: it leaves the outstanding ones, and what it served goes on. -/
def finalReq (s : State) (key : Nat) (r : Req) (status : Status) (detail : BitVec 64) (data : Bytes) :
    State :=
  let s := dropReq s key r
  match r.owner with
  | .job jk n => jobAnswer s jk n status detail r data
  | .ring k f => ringAnswer s k f status
  | .head k => headAnswer s k status data
  | .huddleUp k =>
    if status = Code.targetLost ∨ status = Code.outcomeUnknown then
      match tget s.huddles k with
      | some h => if h.state = .sentUp then runAll (failFound s k h Code.targetLost) else s
      | none => s
    else s
  | .huddleDown _ => s
  | .huddleFail _ => s
  | .none => s

end Sys2Proof.Machine
end

