-- ==== Sys2Proof/Machine/Descs.lean ====
section
/-! DEFINITION. What the commands of descriptors share: the gate of ORDER (R122 to R130), the
context-number field (R85, R505), and completion. -/

namespace Sys2Proof.Machine

/-- Descriptors of the same queue in flight ahead of one. -/
def flightsBefore (s : State) (fk : Nat) : List Flight :=
  (s.q.flights.filter fun p => earlierKey p.1 fk).map (·.2)

/-- Whether a descriptor makes accesses of memory: movers and engines, LOAD_PLAY, the flags of WAIT_FLAG
and ARM_PLAY, and the record of a WHISTLE. -/
def makesAccess (op : Nat) : Bool := decide (0x20 ≤ op) || op == 0x01 || op == 0x0B || op == 0x0C || op == 0x0E

/-- Whether a descriptor's own command makes its accesses at once, rather than piece by piece. -/
def accessesAtOnce (op : Nat) : Bool :=
  op == 0x01 || op == 0x0C || op == 0x62 || op == 0x67 || (decide (0x82 ≤ op) && decide (op ≤ 0x86))

/-- Whether an earlier descriptor keeps a later one's accesses back: an acquire or fence not yet complete
(R127, R129). -/
def holdsBack (g : Flight) : Bool := orderOf g.desc == 1 || orderOf g.desc == 3

/-- Whether ORDER and overlap let a descriptor act (R122, R126 to R130). A release or fence waits for all
before it, an acquire for earlier acquires, releases and fences, and any access for an earlier acquire or
fence and for overlapping earlier accesses. -/
def gateOpen (s : State) (fk : Nat) (f : Flight) : Bool :=
  let before := flightsBefore s fk
  (!makesAccess (opcodeOf f.desc) || !before.any holdsBack) &&
    (!accessesAtOnce (opcodeOf f.desc) || !earlierMeets s fk (descTouches s f)) &&
    (match orderOf f.desc with
     | 0 => true
     | 1 => !before.any fun g => orderOf g.desc != 0
     | _ => before.isEmpty)

/-- A descriptor of the queue has failed since the last release or fence completed (R128). -/
def spanFailed (s : State) (f : Flight) : Bool :=
  ((queueOf s f.ctx f.queue).map (·.failedSpan)).getD false

/-- A descriptor completes, and what waits on it goes on. -/
def doneWith (s : State) (fk : Nat) (status : Status) (detail : BitVec 64 := 0) : Out :=
  .next (settle (finish s fk status detail))

/-- A descriptor completes with the failing check of its pages: a translation fault is counted, and DETAIL
names the page (R70, R75). -/
def failWith (s : State) (fk : Nat) (x : Fail) : Out :=
  doneWith (if x.1 = Code.translationFault then bump s 0x2800 0x07 else s) fk x.1 (BitVec.ofNat 64 x.2)

/-- A descriptor in flight acts through its own command: nothing happens unless it is in flight
with that opcode, has not acted, and its ORDER lets it; a release of a failed span completes
ABORTED (R128); an acquire invalidates first (R127), a fence has done so at dispatch (R129). -/
def withDesc (s : State) (d : DescRef) (op : Nat) (k : State → Nat → Flight → Out) : Out :=
  match issuedOp s d op with
  | none => .next s
  | some f =>
    if !gateOpen s (refKey d) f then .next s
    else if orderOf f.desc = 2 ∧ spanFailed s f = true then
      doneWith (bump s 0x6000 0x0F) (refKey d) Code.aborted
    else
      k (if orderOf f.desc = 1 then acquire s f.ctx f.quarter else s) (refKey d) f

/-- A descriptor that has acted and waits. -/
def waitingOp (s : State) (d : DescRef) (op : Nat) : Option Flight :=
  match flightOf s d with
  | some f => if f.progress = .working ∧ opcodeOf f.desc = op then some f else none
  | none => none

/-- The context that a descriptor with a context-number field acts on (R85). -/
def namedCtx (f : Flight) (n : Nat) : Nat := if f.ctx = 0 then n else f.ctx

/-- The status R85 and R505 give a context-number field. -/
def ctxFieldStatus (s : State) (f : Flight) (n : Nat) : Status :=
  if f.ctx = 0 then (if n = 0 then Code.ok else namedCtxStatus s n)
  else if n = 0 then Code.ok else Code.protection

/-- First status of a list of checks that is not OK. -/
def firstOf (cs : List (Bool × Status)) : Status :=
  match cs with
  | [] => Code.ok
  | c :: rest => if c.1 then c.2 else firstOf rest

/-- Whether a record's bits outside the writable ones are zero (R5). -/
def clean (d : Desc) (lo w : Nat) : Bool := opnd d lo w == 0

end Sys2Proof.Machine
end

