-- ==== Sys2Proof/Machine/Staged.lean ====
section
/-! DEFINITION. Ranges of dictionary entries, the rules that tie one entry to others (check 3 of
R434), and the apply of pending shadows (R436). -/

namespace Sys2Proof.Machine

/-- Whether a Kmin, Kmax or Pmax of a profile of three entries may take a value (R210, R425). -/
def profileOk (s : State) (idx sub v cap : Nat) : Bool :=
  match sub % 3 with
  | 1 => decide (v < reg s idx (sub + 1))
  | 2 => decide (reg s idx (sub - 1) < v) && decide (v ≤ cap)
  | _ => decide (v ≤ 65536)

/-- Whether an index is that of a context record. -/
def isCtxIdx (idx : Nat) : Bool := decide (0x7000 ≤ idx) && decide (idx < 0x8000)

/-- The rules of R328 for one field of a context record. -/
def ctxFieldOk (s : State) (idx sub v : Nat) : Bool :=
  match sub with
  | 0x02 => decide (reg s idx 0x02 ≤ v)
  | 0x07 => decide (v ≤ 20) || v == 255
  | 0x09 => decide (v ≤ reg s idx 0x0A)
  | 0x0A => decide (reg s idx 0x09 ≤ v)
  | 0x0B => decide (2 ≤ v)
  | 0x0C => decide (2 ≤ v)
  | 0x11 => (v != 0 || reg s idx 0x12 == 0) && decide (v + reg s idx 0x12 ≤ 16384)
  | 0x12 => (v == 0 || reg s idx 0x11 != 0) && decide (v + reg s idx 0x11 ≤ 16384)
  | 0x1F => decide (v + reg s idx 0x20 ≤ 4096)
  | 0x20 => decide (v + reg s idx 0x1F ≤ 4096)
  | _ => true

/-- The sizes in MiB of the areas of the hardware region by the sizing entries (R278). -/
def areaSizes (s : State) : List Nat :=
  [64, reg s 0x2800 0x05, reg s 0x5000 0x02, reg s 0x6000 0x06, reg s 0x3D00 0x01, reg s 0x6100 0x01]

/-- Whether a value of one sizing entry leaves HW_END at 20 GiB or below (R279). -/
def layoutFits (s : State) (i v : Nat) : Bool := decide (hwEndOf ((areaSizes s).set (i + 1) v) ≤ 20 * 1024)

/-- The rules that tie an entry to others (R168, R189, R190, R213, R226, R328, R425, R451). -/
def tiedOk (s : State) (idx sub v : Nat) : Bool :=
  if isCtxIdx idx then ctxFieldOk s idx sub v
  else
    match idx with
    | 0x1000 => sub != 0x08 || decide (v ≤ 3) || v == 0xFF
    | 0x1010 => sub != 0x05 || (v &&& 0xAA) == 0
    | 0x2800 => sub != 0x05 || layoutFits s 0 v
    | 0x5000 => sub != 0x02 || layoutFits s 1 v
    | 0x6000 => sub != 0x06 || layoutFits s 2 v
    | 0x3D00 => sub != 0x01 || layoutFits s 3 v
    | 0x3D01 => decide (v ≤ 9)
    | 0x3D02 =>
      decide (((List.range 5).foldl (fun n i => n + (if i + 1 = sub then v else reg s idx (i + 1))) 0)
        ≤ reg s 0x3D00 0x01)
    | 0x3D03 => profileOk s idx sub v (2 ^ 32)
    | 0x4600 => profileOk s idx sub v 512
    | 0x3E00 =>
      (sub != 0x02 || decide (8 * v + 2000 ≤ reg s idx 0x04)) &&
        (sub != 0x04 || decide (8 * reg s idx 0x02 + 2000 ≤ v))
    | 0x6100 =>
      (sub != 0x01 || (decide (reg s idx 0x02 ≤ v) && layoutFits s 4 v)) && (sub != 0x02 || decide (v ≤ reg s idx 0x01))
    | _ => true

/-- Whether an entry may take a numeric value, given what the others hold. -/
def rangeOk (s : State) (e : Entry) (idx sub v : Nat) : Bool :=
  decide (e.lo ≤ v) && decide (v ≤ e.hi) && v % e.step == 0 && tiedOk s idx sub v

/-! ## Shadows (R436) -/

/-- Whether an apply of a context and group selects a shadow: group 0 selects every group. -/
def Shadow.selected (sh : Shadow) (key ctx group : Nat) : Bool :=
  (if ctx = 0 then
      (!isCtxIdx (key / 256) || key / 256 == 0x7000) && (sh.principal == 0 || sh.principal == 3)
    else key / 256 == 0x7000 + ctx) &&
    (group == 0 || sh.group == group)

/-- The state with the shadows replaced. -/
def setShadows (s : State) (t : Tbl Shadow) : State := { s with dict := { s.dict with shadows := t } }

/-- The state with a block entry set. -/
def setBlock (s : State) (idx sub : Nat) (b : Bytes) : State :=
  { s with dict := { s.dict with blocks := tset s.dict.blocks (idx * 256 + sub) b } }

/-- A block entry's value; empty where nothing has been written. -/
def blockOf (s : State) (idx sub : Nat) : Bytes := (tget s.dict.blocks (idx * 256 + sub)).getD []

/-- A shadow's value becomes effective. -/
def takeShadow (s : State) (x : Nat × Shadow) : State :=
  let idx := x.1 / 256
  let sub := x.1 % 256
  match entryAt idx sub with
  | none => s
  | some e => (match e.ty with
    | .octets _ => setBlock s idx sub x.2.bytes
    | .domain => setBlock s idx sub x.2.bytes
    | _ => setReg s idx sub x.2.value)

/-- Whether a shadow passes check 3 against the values of one apply. -/
def shadowOk (all : State) (x : Nat × Shadow) : Bool :=
  match entryAt (x.1 / 256) (x.1 % 256) with
  | some e => (match e.ty with
    | .octets _ => true
    | .domain => true
    | _ => rangeOk all e (x.1 / 256) (x.1 % 256) x.2.value)
  | none => false

/-- One apply of the pending shadows of a scope and group: the state after it, the shadows applied,
and those refused. -/
def applyShadows (s : State) (ctx group : Nat) : State × Nat × Nat :=
  let chosen := s.dict.shadows.filter fun x => x.2.selected x.1 ctx group
  let s := setShadows s (s.dict.shadows.filter fun x => !x.2.selected x.1 ctx group)
  let good := chosen.filter (shadowOk (chosen.foldl takeShadow s))
  let s := good.foldl takeShadow s
  let refused := chosen.length - good.length
  (bumpBy (bumpBy s 0x1010 0x07 good.length) 0x1010 0x09 refused, good.length, refused)

/-- Pending shadows of a scope and group are discarded: how many, and the state after it. -/
def dropShadows (s : State) (ctx group : Nat) : State :=
  setShadows s (s.dict.shadows.filter fun x => !x.2.selected x.1 ctx group)

end Sys2Proof.Machine
end

