-- ==== Sys2Proof/Machine/Clock.lean ====
section
/-! DEFINITION. Fabric time: the counters and the servo (R8 to R12), election of the time master
(R15 to R19), TAI (R18), and the tee slots (R22 to R26). -/

namespace Sys2Proof.Machine

/-! ## Counters -/

/-- Nominal increment of a counter per switch-core cycle: 5/9 ns in units of 2^-48 ns (R8). -/
def nominalStep : Int := 156374987061476

/-- The four counters advance by one switch-core cycle. -/
def tickFt (s : State) : State :=
  let inc : BitVec 96 := BitVec.ofInt 96 (nominalStep + s.time.adj)
  { s with now := s.now + 1, time := { s.time with ft := s.time.ft.map fun c => c + inc } }

/-- FT is stepped by an amount in units of 2^-16 ns, on all four quarters (R9). -/
def stepFt (s : State) (d : Int) : State :=
  let inc : BitVec 96 := BitVec.ofInt 96 (d * 2 ^ 32)
  { s with time := { s.time with ft := s.time.ft.map fun c => c + inc } }

/-- A value kept within ±lim. -/
def clampInt (lim x : Int) : Int := max (-lim) (min lim x)

/-- Natural angular frequency of the servo's loop in nrad/s, 2π times the bandwidth (log entry 12). -/
def servoOmega (bandwidth : Nat) : Int := 6283185307 * bandwidth

/-- Proportional term of the servo for an offset in 2^-16 ns: the gain of a second-order loop of damping
ratio 1 is twice its natural frequency (R12). -/
def servoProp (bandwidth : Nat) (offset : Int) : Int :=
  2 * servoOmega bandwidth * offset * nominalStep / (65536 * 10 ^ 18)

/-- What an offset adds to the integral term in a number of cycles: the gain of the integral is the
square of the natural frequency. -/
def servoInt (bandwidth : Nat) (offset : Int) (cycles : Nat) : Int :=
  servoOmega bandwidth * servoOmega bandwidth * offset * nominalStep * (5 * cycles) / (9 * 65536 * 10 ^ 36)

/-- The proportional-integral servo runs on an offset, its rate kept within a limit in ppm of the
nominal (R9, R12, R17). -/
def servoRate (s : State) (offset : Int) (ppm : Nat) : State :=
  let lim : Int := nominalStep * ppm / 1000000
  let b := reg s 0x3F00 0x0E
  let dt := match s.time.servoAt with
    | some t => s.now - t
    | none => 0
  let i := clampInt lim (s.time.integral + servoInt b offset dt)
  { s with time := { s.time with
    integral := i, adj := clampInt lim (servoProp b offset + i), servoAt := some s.now } }

/-! ## Links of the time service -/

/-- Link states (R397, Table 11). -/
def stDisabled : Nat := 0
def stDetect : Nat := 1
def stServe : Nat := 2
def stEqualise : Nat := 3
def stLock : Nat := 4
def stCapability : Nat := 5
def stActive : Nat := 6
def stRecover : Nat := 7
def stHeld : Nat := 8

/-- State of a fabric port (3000+n:01). -/
def portState (s : State) (n : Nat) : Nat := reg s (0x3000 + n) 0x01

/-- Whether a port is ACTIVE. -/
def portActive (s : State) (n : Nat) : Bool := portState s n == stActive

/-- Whether a port is in quarantine. -/
def quarantined (s : State) (n : Nat) : Bool := reg s (0x3000 + n) 0x02 != 0

/-- The ports in ACTIVE, lowest first. -/
def activePorts (s : State) : List Nat := (List.range 64).filter (portActive s)

/-- Beacon and announce state of a port. -/
def linkTime (s : State) (n : Nat) : LinkTime := (tget s.time.links n).getD {}

/-- The state with a port's beacon and announce state changed. -/
def modLinkTime (s : State) (n : Nat) (f : LinkTime → LinkTime) : State :=
  { s with time := { s.time with links := tset s.time.links n (f (linkTime s n)) } }

/-- A signed 32-bit register. -/
def regInt (s : State) (idx sub : Nat) : Int := (BitVec.ofNat 32 (reg s idx sub)).toInt

/-- The factory value of a latency of a port in ps: as the part was made, unless principal M has
written it since (R440). -/
def factoryPs (s : State) (n sub : Nat) : Int :=
  let b := blockOf s (0xF000 + n) sub
  if b.isEmpty then Config.factoryLatency n sub else (BitVec.ofNat 32 (ofLe b)).toInt

/-- A latency of a port in units of 2^-16 ns: factory plus user value in ps (R11, R440). -/
def portLatency (s : State) (n sub : Nat) : Int :=
  (factoryPs s n sub + regInt s (0xE000 + n) sub) * 65536 / 1000

/-- Node of a port's neighbour, zero where it is not known. -/
def neighbourNode (s : State) (n : Nat) : Nat :=
  (((tget s.links n).bind (·.neighbour)).map (·.node)).getD 0

/-- The frame counter of a link's sending direction moves on by one frame (R388). -/
def countFrame (s : State) (port : Nat) : State :=
  { s with links := tmod s.links port fun l => { l with txCtr := (l.txCtr + 1) % 2 ^ 64 } }

/-- XOFF state received by a port for a VL. -/
def xoffIn (s : State) (port vl : Nat) : Nat := (tget s.core.xoffRecv (port * 8 + vl)).getD 0

/-- A link-local packet that a port has held from an instant on leaves, or is discarded at the age limit
(R197). -/
def sendHeld (port : Nat) (s : State) (x : Nat × BitVec 128 × Nat) : State :=
  let age := (s.now - x.2.2) * 5 / 9
  if reg s 0x3D00 0x03 * 1000 < age then bump s 0x3D00 0x07
  else send (countFrame s port)
    (.packet port (age / 1000) (mkUnsequenced s x.1 (neighbourNode s port) 0 0 x.2.1))

/-- A link-local packet leaves on a port at once, but that XOFF of VL0 holds all save beacons and
announces (R200). -/
def sendLocal (s : State) (port op : Nat) (ext : BitVec 128) : State :=
  if op = 0x0A ∨ op = 0x0B ∨ xoffIn s port 0 ≠ 2 then
    send (countFrame s port) (.packet port 0 (mkUnsequenced s op (neighbourNode s port) 0 0 ext))
  else
    let l := (tget s.core.localHeld port).getD [] ++ [(op, ext, s.now)]
    { s with core := { s.core with localHeld := tset s.core.localHeld port l } }

/-- What a port holds leaves once XOFF of VL0 is over. -/
def sendAllHeld (s : State) (port : Nat) : State :=
  match tget s.core.localHeld port with
  | none => s
  | some l =>
    if xoffIn s port 0 = 2 then s
    else l.foldl (sendHeld port) { s with core := { s.core with localHeld := tdel s.core.localHeld port } }

/-- Code of an FT state (Table 1). -/
def FtState.code : FtState → Nat
  | .free => 0
  | .locked => 1
  | .holdover => 2
  | .master => 3

/-- The FT state with what R21 counts from it. -/
def setFtState (s : State) (st : FtState) : State :=
  let t := s.time
  let since := if st = .holdover ∧ t.state ≠ .holdover then s.now else t.holdoverSince
  let barred := t.huddleBarred && decide (st = .holdover)
  setReg
    { s with time := { t with
      state := st, holdoverSince := since, huddleBarred := barred
      everLocked := t.everLocked || decide (st = .locked), inLimit := 0, outLimit := 0 } }
    0x3F00 0x02 st.code

/-! ## Election (R15, R16, R19) -/

/-- The active client, where there is one. -/
def activeClient (s : State) : Option PtpClient :=
  s.eth.ptpActive.bind fun e => (tget s.eth.ports e).bind (·.ptp)

/-- UTC_OFFSET and LEAP_PENDING of a master: those of its active client (R427). -/
def feedUtc (s : State) : State :=
  match activeClient s with
  | none => s
  | some c => { s with time := { s.time with utcOffset := c.utcOffset, leapPending := c.leap } }

/-- The part's own clock class (Table 4). -/
def ownClass (s : State) : Nat :=
  if reg s 0x3F00 0x05 = 0 ∨ role s = 3 then 7
  else if role s = 1 then (if s.time.externalLock then 1 else if s.time.externalHeld then 2 else 3)
  else 4

/-- A clock class as received: the reserved ones count as 7 (R15). -/
def heardClass (c : Nat) : Nat := if c = 0 ∨ c = 5 ∨ c = 6 then 7 else c

/-- Whether one list of numbers comes before another. -/
def listLt : List Nat → List Nat → Bool
  | x :: xs, y :: ys => if x < y then true else if y < x then false else listLt xs ys
  | [], _ :: _ => true
  | _, _ => false

/-- What orders the candidates for parent (R16). -/
def Announce.rank (a : Announce) : List Nat := [a.masterClass, a.masterId, a.steps, a.senderId]

/-- Whether a master that a neighbour announces is better than the part itself (R16). -/
def betterThanOwn (s : State) (a : Announce) : Bool :=
  ownClass s == 7 || !listLt [ownClass s, nodeId s] [a.masterClass, a.masterId]

/-- The announces heard of a better master than the part itself, by port: not in quarantine, and
following an eligible master. -/
def betterHeard (s : State) : List (Nat × Announce) :=
  (activePorts s).filterMap fun n =>
    match (linkTime s n).announce with
    | none => none
    | some a =>
      if quarantined s n || a.steps == 255 || a.masterClass == 7 || a.masterId == nodeId s ||
          !betterThanOwn s a then none
      else some (n, a)

/-- The best neighbour under R16, among those with a delay measured (R11). -/
def bestParent (s : State) : Option (Nat × Announce) :=
  ((betterHeard s).filter fun x => !(linkTime s x.1).delays.isEmpty).foldl (fun b x =>
    match b with
    | none => some x
    | some y => if listLt x.2.rank y.2.rank then some x else some y) none

/-- Whether every KF4096 that may be followed has announced its view since its link came up. -/
def allAnnounced (s : State) : Bool :=
  (activePorts s).all fun n =>
    quarantined s n || (linkTime s n).announce.isSome ||
      !((((tget s.links n).bind (·.neighbour)).map (·.kf4096)).getD false)

/-- The operand of a TIME_ANNOUNCE (Table 3). -/
def announceExt (s : State) : BitVec 128 :=
  let t := s.time
  BitVec.ofNat 128
    (t.masterId.getD (nodeId s) % 4096 + t.masterClass % 8 * 2 ^ 12 + t.steps % 256 * 2 ^ 16 +
      t.utcOffset % 65536 * 2 ^ 24 + b2n t.leapPending * 2 ^ 40 + ownClass s % 8 * 2 ^ 41 +
      nodeId s % 4096 * 2 ^ 44 + b2n t.taiValid * 2 ^ 56)

/-- A TIME_ANNOUNCE goes out on every link. -/
def announceAll (s : State) : State :=
  let s := { s with time := { s.time with lastAnnounce := s.now } }
  (activePorts s).foldl (fun s n => sendLocal s n 0x0B (announceExt s)) s

/-- What the part announces of its own view. -/
def viewOf (s : State) : Option Nat × Nat × Nat × Nat × Bool × Nat × Bool :=
  (s.time.masterId, s.time.masterClass, s.time.steps, ownClass s, s.time.taiValid,
    s.time.utcOffset, s.time.leapPending)

/-- The part hears of no better master. In FREE it only stands as a candidate until every neighbour that
may be followed has announced its view, so that it can still lock to a better one (R9); else it is
the master (log entry 12). -/
def becomeMaster (s : State) : State :=
  let s := if s.time.state = .master ∨ (s.time.state = .free ∧ allAnnounced s = false) then s
    else setFtState s .master
  feedUtc { s with time := { s.time with
    parent := none, servoAt := none, masterId := some (nodeId s), masterClass := ownClass s, steps := 0 } }

/-- The part follows a neighbour. -/
def followParent (s : State) (n : Nat) (a : Announce) : State :=
  let s := if s.time.state = .master then setFtState s .holdover else s
  let fresh := s.time.parent ≠ some n
  { s with time := { s.time with
    parent := some n, hadParent := true, masterId := some a.masterId, masterClass := a.masterClass
    steps := min 255 (a.steps + 1), utcOffset := a.utcOffset, leapPending := a.leapPending
    servoAt := if fresh then none else s.time.servoAt
    inLimit := if fresh then 0 else s.time.inLimit, outLimit := if fresh then 0 else s.time.outLimit } }

/-- The part has no parent and is not the master: none eligible is heard, or the better one heard has no
measured delay yet. It stays in FREE, or in HOLDOVER if it has had a parent (R16). -/
def followNone (s : State) : State :=
  let s := if s.time.state = .locked ∨ s.time.state = .master ∨
      (s.time.state = .free ∧ s.time.hadParent = true) then setFtState s .holdover else s
  { s with time := { s.time with
    parent := none, servoAt := none, masterId := some (nodeId s), masterClass := 7, steps := 255 } }

/-- Election of the master and choice of the parent, with a triggered announce of a change. -/
def elect (s : State) : State :=
  let old := viewOf s
  let own := ownClass s
  let s := match bestParent s with
    | some (n, a) => followParent s n a
    | none => if own ≠ 7 ∧ (betterHeard s).isEmpty = true then becomeMaster s else followNone s
  let s := setReg (setReg s 0x3F00 0x03 (s.time.masterId.getD 0)) 0x3F00 0x04 own
  if viewOf s = old then s else announceAll s

/-- The parent is heard no more: the part leaves LOCKED and elects again (R12, R19). -/
def loseParent (s : State) : State :=
  let s := { s with time := { s.time with parent := none } }
  let s := if s.time.state = .locked then setFtState s .holdover else s
  elect s

/-- A port has left ACTIVE: its beacon and announce state is gone. -/
def timeLinkDown (s : State) (n : Nat) : State :=
  let wasParent := s.time.parent = some n
  let s := { s with time := { s.time with links := tdel s.time.links n } }
  if wasParent then loseParent s else elect s

/-! ## Beacons (R10, R11) -/

/-- Integers in rising order, by insertion. -/
def insertInt (x : Int) : List Int → List Int
  | [] => [x]
  | y :: ys => if x ≤ y then x :: y :: ys else y :: insertInt x ys

/-- The median of the delays measured: the middle one, or the mean of the two middle ones. -/
def medianOf (ds : List Int) : Int :=
  let l := ds.foldl (fun l x => insertInt x l) []
  if l.length % 2 = 1 then l.getD (l.length / 2) 0
  else (l.getD (l.length / 2 - 1) 0 + l.getD (l.length / 2) 0) / 2

/-- An offset has been measured on the parent's link: FT steps (R9, R18) or the servo runs and the
runs within and beyond the limits are counted (R12). R9 does not say at which beacon the step of the
first lock from FREE is made: the model makes it at an offset beyond 10 ns, as often as the parent
of a part still in FREE calls for it (DESIGN CHOICE, log entry 12). -/
def parentOffset (s : State) (n : Nat) (off : Int) : State :=
  let tai := ((linkTime s n).announce.map (·.taiValid)).getD false
  let t := s.time
  if (t.state = .free ∧ (t.firstStep = false ∨ 10 * 65536 < off.natAbs)) ∨ (tai = true ∧ t.taiValid = false) then
    let s := stepFt { s with time := { t with firstStep := true, taiValid := t.taiValid || tai, inLimit := 0, outLimit := 0 } } off
    if tai && !t.taiValid then announceAll s else s
  else
    let s := { s with time := { t with
      inLimit := if off.natAbs < 2 * 65536 then t.inLimit + 1 else 0
      outLimit := if 10 * 65536 < off.natAbs then t.outLimit + 1 else 0 } }
    servoRate s off 100

/-! ## PTP (R14, R17, R18) -/

/-- PTP time now, in ns: the time of the last Sync and the cycles since. -/
def ptpNow (s : State) (c : PtpClient) : Nat := c.time + (s.now - c.timeAt) * 5 / 9

/-- A second in ns. -/
def second : Nat := 1000000000

/-- Whether the 1PPS input is enabled and valid: its last edge taken is no older than one second and
500 ns (R14, log entry 12). -/
def ppsValid (s : State) : Bool :=
  reg s 0x3F00 0x0B != 0 && s.time.ppsPhase.any fun p => !passedNs s p.2 (second + 501)

/-! ## Tees (R22 to R26) -/

/-- The tee slots armed on a quarter. -/
def teesOf (s : State) (q : Nat) : Tbl TeeSlot := s.tees.get q

/-- The state with one tee slot changed. -/
def modTee (s : State) (q slot : Nat) (f : TeeSlot → TeeSlot) : State :=
  { s with tees := s.tees.mod q fun t => tmod t slot f }

/-- Armed tee slots of a context, all quarters. -/
def teesHeld (s : State) (ctx : Nat) : Nat :=
  s.tees.list.foldl (fun n t => n + tcount t fun _ x => x.ctx == ctx) 0

/-- Whether a tee's firing condition holds (R23). -/
def teeDue (s : State) (q : Nat) (t : TeeSlot) : Bool :=
  !t.done && (ftOf s q == t.next || ftLater (ftOf s q) t.next)

/-- The tee slot in 256 bits (R22, Table 6), its run-time fields at rest. -/
def teeOf (x : BitVec 256) (ctx : Nat) : TeeSlot :=
  { fireTime := x.extractLsb' 0 64, period := bits x 64 40, repeats := bits x 104 16, ctx := ctx
    action := bits x 132 4, target := bits x 136 16, enable := bit x 152, lateFire := bit x 153
    whistle := bit x 154, skipMissed := bit x 155, lateLimit := bits x 160 32, ring := bits x 225 16
    next := x.extractLsb' 0 64
    left := if bits x 64 40 = 0 then some 1
      else if bits x 104 16 = 0 then none else some (bits x 104 16 + 1) }

/-- The tee slot as 256 bits, as it is read back. -/
def teeWord (t : TeeSlot) : BitVec 256 :=
  BitVec.ofNat 256
    (t.fireTime.toNat + t.period * 2 ^ 64 + t.repeats * 2 ^ 104 + t.ctx % 4096 * 2 ^ 120 +
      t.action * 2 ^ 132 + t.target * 2 ^ 136 + b2n t.enable * 2 ^ 152 + b2n t.lateFire * 2 ^ 153 +
      b2n t.whistle * 2 ^ 154 + b2n t.skipMissed * 2 ^ 155 + t.lateLimit * 2 ^ 160 +
      min t.fired 65535 * 2 ^ 192 + min t.late 65535 * 2 ^ 208 + b2n t.done * 2 ^ 224 +
      t.ring * 2 ^ 225)

/-- The MISALIGNED checks of an arming (R22 check 1); a staged group is 0 to 255 (R436, R506). -/
def teeMisaligned (s : State) (q : Nat) (x : BitVec 256) : Bool :=
  let t := x.extractLsb' 0 64
  let now := ftOf s q
  bits x 156 4 != 0 || bits x 192 33 != 0 || bits x 241 15 != 0 || decide (4 < bits x 132 4) ||
    (bits x 132 4 == 3 && decide (255 < bits x 136 16)) ||
    (ftLater t now && decide (2 ^ 62 < (t - now).toNat))

/-- A trigger of a Caddie stream by a tee (R312). -/
def teeCaddie (s : State) (q ctx target : Nat) : State :=
  let key := (q % 4 * 4096 + ctx) * 256 + target % 256
  if target / 256 = 0 ∧ ((tget s.caddie.streams key).map fun c => c.state != 2) = some true then
    modCaddie s key fun c =>
      if c.teePending < 65535 then
        { c with teePending := c.teePending + 1, firings := c.firings ++ [s.now] }
      else c
  else bump s 0x6300 0x08

/-- The action of a firing (R22, Table 7). -/
def teeAction (s : State) (q slot : Nat) (t : TeeSlot) : State :=
  let record (s : State) (ring : Nat) : State :=
    whistleNow s { kind := 0x05, ctx := t.ctx, quarter := q % 4, ft := ftOf s q, seq := slot } ring
  let s := if t.whistle then record s t.ring else s
  match t.action with
  | 1 => trigger s (playKey t.ctx t.target) false
  | 2 => teeCaddie s q t.ctx t.target
  | 3 => (applyShadows s t.ctx t.target).1
  | 4 => record s t.target
  | _ => s

/-- Instants after one that have already been reached, for SKIP_MISSED. -/
def missedSince (now next : FT) (period : Nat) : Nat :=
  if ftLater next now then 0 else (now - next).toNat / (period * 65536) + 1

/-- A tee fires once for its next instant; `late` makes it count as late. -/
def fireTee (s : State) (q slot : Nat) (late : Bool) : State :=
  match tget (teesOf s q) slot with
  | none => s
  | some t =>
    let now := ftOf s q
    let limit := if t.lateLimit = 0 then 1000 else t.lateLimit
    let isLate := late || (ftLater now t.next && decide (limit * 65536 < (now - t.next).toNat))
    let left := t.left.map (· - 1)
    let next := ftAddNs t.next t.period
    let skipped := if t.skipMissed && t.period != 0 && left != some 0 then
        min (missedSince now next t.period) (left.getD (2 ^ 32)) else 0
    let left := left.map (· - skipped)
    let s := modTee s q slot fun t =>
      { t with
        fired := satInc 16 t.fired
        late := min 65535 (t.late + b2n isLate + skipped)
        next := if t.period = 0 then t.next else ftAddNs next (skipped * t.period)
        left := left, done := left == some 0 }
    teeAction s q slot t

/-- Up to 16 due tees of a quarter fire, in ascending slot number (R23). -/
def fireDue (s : State) (q : Nat) : State :=
  ((((teesOf s q).filter fun x => teeDue s q x.2).take 16).map (·.1)).foldl
    (fun s slot => fireTee s q slot false) s

/-- One switch-core cycle: time advances and due tees fire. -/
def cycle (s : State) : State :=
  let s := tickFt s
  if s.core.stopped then s else fireDue (fireDue (fireDue (fireDue s 0) 1) 2) 3

/-- A number of cycles. -/
def cycles : Nat → State → State
  | 0, s => s
  | n + 1, s => cycles n (cycle s)

/-- An armed slot is entered; a tee already past fires at once and counts as late (R24). -/
def enterTee (s : State) (q slot : Nat) (t : TeeSlot) : State :=
  let past := ftLater (ftOf s q) t.fireTime
  let s := { s with tees := s.tees.mod q fun x => tset x slot t }
  if past then fireTee s q slot true else s

/-- A slot is disarmed: a firing whose instant had been reached takes place first (R26). -/
def disarmTee (s : State) (q slot : Nat) : State :=
  let s := match tget (teesOf s q) slot with
    | some t => if teeDue s q t then fireTee s q slot false else s
    | none => s
  { s with tees := s.tees.mod q fun t => tdel t slot }

end Sys2Proof.Machine
end

