-- ==== Sys2Proof/Machine/Time.lean ====
section
/-! DEFINITION. The commands of the time service (R8 to R21) and of the tees (R22 to R26). -/

namespace Sys2Proof.Machine

/-- FT_TICK_FIRE_TEE: switch-core cycles pass, FT advances and due tees fire (R8, R23); memory may have come to
hold errors since. -/
def execFtTickFireTee (n : Nat) (s : State) : Out := .next (settle (strike (cycles n s)))

/-- The operand of a beacon sent at t3 on a link (R10, Table 2). The rule gives only the limit of
TURNAROUND: the model sends one above it as ECHO_VALID 0 with ECHO_SEQ and TURNAROUND zero (DESIGN
CHOICE, log entry 12). -/
def beaconExt (s : State) (l : LinkTime) (t3 : FT) : BitVec 128 :=
  let echo : Nat := match l.echo with
    | none => 0
    | some (n, t2) =>
      let d := (t3 - t2).toNat
      if d ≤ 65535 * 65536 then d * 2 ^ 64 + n % 256 * 2 ^ 104 + 2 ^ 112 else 0
  BitVec.ofNat 128 (t3.toNat + l.nextSeq % 256 * 2 ^ 96 + echo + s.time.state.code * 2 ^ 113)

/-- BEACON_SEND: the beacon of an ACTIVE link goes out once its interval has passed (R10). -/
def execBeaconSend (port : Nat) (s : State) : Out :=
  let l := linkTime s port
  if !portActive s port || (l.lastSent != 0 && !passedNs s l.lastSent (reg s 0x3F00 0x06)) then .next s
  else
    let t3 := ftOf s (portQuarter port) + BitVec.ofInt 64 (portLatency s port 1)
    let s' := modLinkTime s port fun l =>
      { l with
        nextSeq := (l.nextSeq + 1) % 256, sent := tset l.sent (l.nextSeq % 256) t3, lastSent := s.now }
    .next (sendLocal s' port 0x0A (beaconExt s l t3))

/-- TIME_BEACON: delay and offset of the link are measured, and the servo runs on the parent's
(R10 to R12, R18). -/
def execTimeBeacon (port : Nat) (p : Packet) (s : State) : Out :=
  if !portActive s port then .next s
  else if p.op ≠ 0x0A ∨ unsequencedBad p = true ∨ bits p.ext 116 12 ≠ 0 ∨ 3 < bits p.ext 113 3 then .next (bump s 0x3E00 0x0C)
  else
    let s := if s.time.parent = some port ∧ quarantined s port = true then loseParent s else s
    let t4 := ftOf s (portQuarter port) - BitVec.ofInt 64 (portLatency s port 2)
    let l := linkTime s port
    let s := modLinkTime s port fun l =>
      { l with echo := some (bits p.ext 96 8, t4), lastBeacon := some s.now }
    match (if bit p.ext 112 then tget l.sent (bits p.ext 104 8) else none) with
    | none => .next s
    | some t1 =>
      let d := (ftDiff t4 t1 - bits p.ext 64 32) / 2
      let ds := (d :: l.delays).take 16
      let off := ftDiff (p.ext.extractLsb' 0 64) t4 + medianOf ds
      let s := modLinkTime s port fun l => { l with delays := ds, offset := some off }
      let s := if l.delays.isEmpty then elect s else s
      .next (if s.time.parent = some port then parentOffset s port off else s)

/-- FT_LOCK_REACHED: 64 consecutive beacons of the parent below 2 ns (R12, R18). -/
def execFtLockReached (s : State) : Out :=
  match s.time.parent with
  | none => .next s
  | some n =>
    if (s.time.state = .free ∨ s.time.state = .holdover) ∧ 64 ≤ s.time.inLimit then
      let tai := ((linkTime s n).announce.map (·.taiValid)).getD false
      let t := setFtState s .locked
      let t := { t with time := { t.time with taiValid := t.time.taiValid || tai } }
      .next (if viewOf t = viewOf s then t else announceAll t)
    else .next s

/-- FT_OFFSET_LIMIT_EXCEEDED: 8 consecutive beacons of the parent above 10 ns (Table 1). -/
def execFtOffsetLimitExceeded (s : State) : Out :=
  if s.time.state = .locked ∧ 8 ≤ s.time.outLimit then .next (setFtState s .holdover) else .next s

/-- PARENT_LOST: no beacon of the parent for three intervals (R12). -/
def execParentLost (s : State) : Out :=
  match s.time.parent with
  | none => .next s
  | some n =>
    match (linkTime s n).lastBeacon with
    | some t =>
      if passedNs s t (3 * reg s 0x3F00 0x06) then
        .next (loseParent (modLinkTime s n fun l => { l with announce := none }))
      else .next s
    | none => .next s

/-- HOLDOVER_HUDDLE_LIMIT: 100 ms of HOLDOVER have passed (R21). -/
def execHoldoverHuddleLimit (s : State) : Out :=
  if s.time.state = .holdover ∧ passedMs s s.time.holdoverSince 100 = true then
    .next { s with time := { s.time with huddleBarred := true } }
  else .next s

/-- ANNOUNCE_SEND: the announce of every 1 ms (R16). -/
def execAnnounceSend (s : State) : Out :=
  if passedUs s s.time.lastAnnounce 1000 then .next (announceAll s) else .next s

/-- TIME_ANNOUNCE: a neighbour's view is taken in, and the election runs again (R15, R16). -/
def execTimeAnnounce (port : Nat) (p : Packet) (s : State) : Out :=
  if !portActive s port then .next s
  else if p.op ≠ 0x0B ∨ unsequencedBad p = true ∨ bits p.ext 57 71 ≠ 0 ∨ bit p.ext 15 = true then .next (bump s 0x3E00 0x0C)
  else
    let a : Announce :=
      { masterId := bits p.ext 0 12, masterClass := heardClass (bits p.ext 12 3), steps := bits p.ext 16 8
        utcOffset := bits p.ext 24 16, leapPending := bit p.ext 40
        senderClass := heardClass (bits p.ext 41 3), senderId := bits p.ext 44 12
        taiValid := bit p.ext 56, heardAt := s.now }
    .next (elect (modLinkTime s port fun l => { l with announce := some a }))

/-- TAI_STEP_MASTER: on a whole-second boundary of PTP, to the ns, a master with external lock and
TAI_VALID clear steps FT to PTP time (R18). -/
def execTaiStepMaster (s : State) : Out :=
  match activeClient s with
  | none => .next s
  | some c =>
    if s.time.state = .master ∧ s.time.taiValid = false ∧ s.time.externalLock = true ∧
        ptpNow s c % second = 0 then
      let s := stepFt s (ftDiff (BitVec.ofNat 64 (ptpNow s c * 65536)) (ftOf s 0))
      .next (announceAll { s with time := { s.time with taiValid := true, firstStep := true } })
    else .next s

/-- EXTERNAL_LOCK_GAINED: the active client has kept within 100 ns for 10 s (R14, R15). -/
def execExternalLockGained (s : State) : Out :=
  match (activeClient s).bind (·.within) with
  | none => .next s
  | some t =>
    if s.time.externalLock = false ∧ passedMs s t 10000 = true then
      .next (elect { s with time := { s.time with externalLock := true, externalHeld := true } })
    else .next s

/-- PPS_EDGE: an edge near PTP's second boundary sets the phase of the whole second that PTP names, and
another is ignored and counted (R14). -/
def execPpsEdge (s : State) : Out :=
  match activeClient s with
  | none => .next s
  | some c =>
    if reg s 0x3F00 0x0B = 0 then .next s
    else
      let delay := regInt s 0x3F00 0x0C
      let t : Int := (ptpNow s c : Int) - delay / 1000
      let r : Int := t % (second : Int)
      if r ≤ 500 ∨ (second : Int) - 500 ≤ r then
        let edge := ftOf s 0 - BitVec.ofInt 64 (delay * 65536 / 1000)
        let s := { s with time := { s.time with ppsPhase := some (edge, s.now) } }
        if s.time.state = .master ∧ s.time.taiValid = true ∧ s.time.externalLock = true then
          let whole := (t + second / 2) / second * second
          .next (servoRate s (ftDiff (BitVec.ofInt 64 (whole * 65536)) edge) 10)
        else .next s
      else .next (bump s 0x3F00 0x10)

/-! ## Tee descriptors -/

/-- DETAIL that names a tee slot: its quarter above its number (log entry 16). -/
def teeName (q slot : Nat) : BitVec 64 := BitVec.ofNat 64 (slot % 4096 + q % 4 * 4096)

/-- The slot that the part chooses among the free ones of a quarter (R22). -/
def freeSlot (s : State) (q : Nat) : Nat :=
  (pickBelow (fun i => !thas (teesOf s q) i) 4096 s.fresh).getD 0

/-- ARM_TEE (R22 to R24). -/
def execArmTee (d : DescRef) (s : State) : Out :=
  withDesc s d 0x03 fun s fk f =>
    let x : BitVec 256 := f.desc.extractLsb' 64 256
    let n := bits x 120 12
    let ctx := namedCtx f n
    let t := teeOf x ctx
    let past := ftLater (ftOf s f.quarter) t.fireTime
    let room := (leastBelow (fun i => !thas (teesOf s f.quarter) i) 4096 0).isSome
    let slot := freeSlot s f.quarter
    let status := firstOf
      [ (teeMisaligned s f.quarter x || !t.enable || !clean f.desc 256 192, Code.misaligned)
      , (ctxFieldStatus s f n != Code.ok, ctxFieldStatus s f n)
      , (!underQuota s ctx 0x14 (teesHeld s ctx) || !room, Code.quota)
      , (past && !t.lateFire, Code.timeout) ]
    if status ≠ Code.ok then doneWith s fk status
    else doneWith (enterTee (draw s) f.quarter slot t) fk Code.ok (teeName f.quarter slot)

/-- DISARM_TEE (R26). -/
def execDisarmTee (d : DescRef) (s : State) : Out :=
  withDesc s d 0x04 fun s fk f =>
    let slot := opnd f.desc 0 12
    let q := opnd f.desc 12 2
    if clean f.desc 14 434 = false then doneWith s fk Code.misaligned
    else match tget (teesOf s q) slot with
      | none => doneWith s fk Code.protection
      | some t =>
        if f.ctx ≠ 0 ∧ t.ctx ≠ f.ctx then doneWith s fk Code.protection
        else
          let fired := if teeDue s q t then satInc 16 t.fired else t.fired
          doneWith (disarmTee s q slot) fk Code.ok (BitVec.ofNat 64 fired)

end Sys2Proof.Machine
end

