-- ==== Sys2Proof/Machine/Huddles.lean ====
section
/-! DEFINITION. The commands of huddles (R27 to R36). -/

namespace Sys2Proof.Machine

/-- The huddle entry that an arming record describes (R27, Table 8). -/
def huddleOf (x : BitVec 256) (ctx : Nat) : Huddle :=
  { ctx := ctx, no := bits x 12 16, localMembers := bits x 28 13, childParts := bits x 41 7
    parent := bits x 48 12, root := bit x 60, combine := bits x 61 3, round := bits x 64 16
    timeout := bits x 80 32, whistleRel := bit x 112, whistleFail := bit x 113
    advanceInnings := bit x 114, childGroup := bits x 115 12, ring := bits x 224 16 }

/-- Huddle entries of a context. -/
def huddlesHeld (s : State) (ctx : Nat) : Nat := tcount s.huddles fun _ h => h.ctx == ctx

/-- Members that wait in an entry complete ABORTED when it is armed again (log entry 17). -/
def abandonHuddle (s : State) (h : Huddle) : State :=
  (h.arrivals ++ h.early).foldl (fun s a => match a.seq with
    | some fk => finish s fk Code.aborted
    | none => s) s

/-- HUDDLE_ARM (R27). The lateness scores of an entry that is armed again start at zero (DESIGN CHOICE, log
entry 17). -/
def execHuddleArm (d : DescRef) (s : State) : Out :=
  withDesc s d 0x05 fun s fk f =>
    let x : BitVec 256 := f.desc.extractLsb' 64 256
    let n := bits x 0 12
    let ctx := namedCtx f n
    let h := huddleOf x ctx
    let key := huddleKey ctx h.no
    let old := tget s.huddles key
    let group := groupFor s h.childGroup ctx 0
    let status := firstOf
      [ (bit x 127 || bits x 128 96 != 0 || bits x 240 16 != 0 || !clean f.desc 256 192 ||
          decide (4096 < h.localMembers) || decide (64 < h.childParts) || decide (5 < h.combine),
          Code.misaligned)
      , (ctxFieldStatus s f n != Code.ok, ctxFieldStatus s f n)
      , (decide (0 < h.childParts) && group.isNone, Code.protection)
      , (decide (0 < h.childParts) && (group.map fun g => g.members.length) != some h.childParts,
          Code.misaligned)
      , (old.isNone && (!underQuota s ctx 0x15 (huddlesHeld s ctx) || decide (1024 ≤ s.huddles.length)),
          Code.quota) ]
    if status ≠ Code.ok then doneWith s fk status
    else
      let s := match old with
        | some o => abandonHuddle s o
        | none => s
      doneWith { s with huddles := tset s.huddles key h } fk Code.ok

/-- HUDDLE_ARRIVE: the arrival is made once every earlier descriptor of the queue has completed,
whatever its ORDER, and the failure check of R128 does not apply (R21, R27 to R33, R131). -/
def execHuddleArrive (d : DescRef) (s : State) : Out :=
  match issuedOp s d 0x06 with
  | none => .next s
  | some f =>
    if !(flightsBefore s (refKey d)).isEmpty then .next s
    else if clean f.desc 32 32 = false ∨ clean f.desc 128 320 = false then
      doneWith s (refKey d) Code.misaligned
    else
      let s := if orderOf f.desc = 1 then acquire s f.ctx f.quarter else s
      let r := localArrive (waitOn s (refKey d)) (huddleKey f.ctx (opnd f.desc 0 16)) f.queue
        (some (refKey d)) (some (opnd f.desc 16 16)) (BitVec.ofNat 64 (opnd f.desc 64 64))
        (ftOf s f.quarter)
      let t := runAll r.1
      match r.2 with
      | none => .next (settle t)
      | some status => doneWith t (refKey d) status

/-- The full stamp of a 27-bit FT_STAMP, the value nearest to FT now. -/
def fullStamp (s : State) (q field : Nat) : FT :=
  let t := (ftOf s q).toNat / 2 ^ 22
  let d := (t + 2 ^ 27 - field) % 2 ^ 27
  BitVec.ofNat 64 ((if d < 2 ^ 26 then t + 2 ^ 42 - d else t + 2 ^ 27 - d) % 2 ^ 42 * 2 ^ 22)

/-- Whether a request names a live generation of its context; a refusal is counted. -/
def liveCtx (s : State) (p : Packet) : Bool := ctxActive s p.ctx && p.gen == ctxGen s p.ctx

/-- A packet of a retired generation is counted and refused (R338). -/
def refuseRetired (s : State) (p : Packet) : State :=
  refuseReq (countRetired s p.ctx) p Code.contextRetired

/-- A huddle packet is refused, and counted in 3F00:11. -/
def refuseHuddle (s : State) (p : Packet) (status : Status) : State :=
  refuseReq (bump s 0x3F00 0x11) p status

/-- Whether a node is one of an entry's child parts. -/
def isChildNode (s : State) (h : Huddle) (node : Nat) : Bool :=
  decide (0 < h.childParts) &&
    (match groupFor s h.childGroup h.ctx 0 with
     | some g => g.members.any fun w => memberNode w == node
     | none => false)

/-- A combined arrival of a child part, past the arrival checks (R27, R30, R32). -/
def childArrive (s : State) (p : Packet) : State :=
  if !liveCtx s p then refuseRetired s p
  else
    let key := huddleKey p.ctx (bits p.ext 64 16)
    match tget s.huddles key with
    | none => refuseHuddle s p Code.protection
    | some h =>
      let who := 65536 + p.src
      let diff := (bits p.ext 80 8 + 256 - h.round % 256) % 256
      let a : Arrival :=
        { who := who, count := bits p.ext 88 13, value := p.ext.extractLsb' 0 64
          stamp := fullStamp s (huddleQuarter h) (bits p.ext 101 27) }
      if !isChildNode s h p.src then refuseHuddle s p Code.protection
      else if diff = 0 ∧ h.state = .failed then refuseReq s p h.failStatus
      else if diff = 0 ∧ h.state ≠ .sentUp ∧ (h.arrivals.any fun x => x.who == who) = false then
        runAll (countArrival (ackDone s p) key a)
      else if diff = 1 ∧ h.state ≠ .failed ∧ (h.early.any fun x => x.who == who) = false then
        modHuddle (ackDone s p) key fun h => { h with early := h.early ++ [a] }
      else refuseHuddle s p Code.aborted

/-- HUDDLE_ARRIVE_PACKET. -/
def execHuddleArrivePacket (p : Packet) (s : State) : Out :=
  match arrival s none p with
  | .over s => .next (settle s)
  | .copy s => .next (settle (ackMerged s p))
  | .dead s => .next (settle s)
  | .fresh s => .next (settle (childArrive s p))

/-- A release from the parent, or a failure sent up by a child, past the arrival checks (R27, R30,
R33). -/
def takeRelease (s : State) (p : Packet) : State :=
  if !liveCtx s p then refuseRetired s p
  else
    let key := huddleKey p.ctx (bits p.ext 64 16)
    let failed := bit p.ext 88
    let status : Status := p.ext.extractLsb' 89 8
    -- A failed release of STATUS 0 counts as ABORTED (log entry 17).
    let status := if status = Code.ok then Code.aborted else status
    match tget s.huddles key with
    | none => refuseHuddle s p Code.protection
    | some h =>
      let current := bits p.ext 80 8 == h.round % 256
      if !h.root && h.parent == p.src then
        if failed && current then
          let s := ackDone s p
          if h.state = .failed then releaseChildren s key h status 0
          else runAll (failRound (releaseChildren s key h status 0) key h status)
        else if current && decide (h.state = .sentUp) then
          runAll (releaseRound (ackDone s p) key h (p.ext.extractLsb' 0 64))
        else refuseHuddle s p Code.aborted
      else if failed && isChildNode s h p.src then
        if current then runAll (failFound (ackDone s p) key h status)
        else refuseHuddle s p Code.aborted
      else refuseHuddle s p Code.protection

/-- HUDDLE_RELEASE. -/
def execHuddleRelease (p : Packet) (s : State) : Out :=
  match arrival s none p with
  | .over s => .next (settle s)
  | .copy s => .next (settle (ackMerged s p))
  | .dead s => .next (settle s)
  | .fresh s => .next (settle (takeRelease s p))

/-- Round timeout of an entry in µs. -/
def huddleTimeout (s : State) (h : Huddle) : Nat :=
  if h.timeout = 0 then reg s 0x3F00 0x07 else h.timeout

/-- HUDDLE_ROOT_TIMEOUT: the root's round is not complete within TIMEOUT of its first arrival
(R32). -/
def execHuddleRootTimeout (ctx no : Nat) (s : State) : Out :=
  match tget s.huddles (huddleKey ctx no) with
  | none => .next s
  | some h =>
    match h.firstAt with
    | none => .next s
    | some t =>
      if h.root = true ∧ h.state = .gathering ∧ passedUs s t (huddleTimeout s h) = true then
        .next (settle (runAll (failFound s (huddleKey ctx no) h Code.timeout)))
      else .next s

/-- HUDDLE_RELEASE_TIMEOUT: no release within TIMEOUT + 1 ms of sending up (R32). -/
def execHuddleReleaseTimeout (ctx no : Nat) (s : State) : Out :=
  match tget s.huddles (huddleKey ctx no) with
  | none => .next s
  | some h =>
    match h.sentUpAt with
    | none => .next s
    | some t =>
      if h.root = false ∧ h.state = .sentUp ∧ passedUs s t (huddleTimeout s h + 1000) = true then
        .next (settle (runAll (failFound s (huddleKey ctx no) h Code.timeout)))
      else .next s

end Sys2Proof.Machine
end

