-- ==== Sys2Proof/Machine/Aborts.lean ====
section
/-! DEFINITION. What stops work from outside: a descriptor forced to a status, and the failure of
armed records whose pages an UNMAP cuts (R56, R238, R251, R300, R323). -/

namespace Sys2Proof.Machine

/-- A descriptor in flight issues nothing more and completes with a status once what it has issued
is final. -/
def stopFlight (s : State) (fk : Nat) (status : Status) : State :=
  let s := modFlight s fk fun f => { f with stopped := true, forced := some (f.forced.getD status) }
  if (jobOf s (.flight fk)).isSome then s
  else match applyStreamOf s fk with
  | some key => stopApply s key status
  | none => release (finish (dropTileWork s fk) fk status) (holdFlight fk)

/-- A group fails with a status: its ROUND_WAITs complete with it (R237, R238). -/
def failGroup (s : State) (key : Nat) (status : Status) : State :=
  let s := modGroup s key fun g => { g with state := 2, failStatus := status, ending := false }
  let s := (roundWaiters (release s (holdGroup key)) key).foldl (fun s w => finish s w.1 status) s
  disarmEnds s key

/-- A stream fails, and its apply in progress ends with a status (R251). -/
def failStream (s : State) (key : Nat) (status : Status) : State :=
  release (modStream s key fun st =>
    { st with state := 3, failing := if st.flight.isSome then some (st.failing.getD status) else st.failing })
    (holdStream key)

/-- A parity record loses its pages: its stream fails, and its row and rebuild end ABORTED (R370). -/
def abortRecord (s : State) (key : Nat) : State :=
  let s := setRow (modStream s key fun st =>
    { st with state := 3, failing := if st.flight.isSome then some (st.failing.getD Code.aborted) else st.failing })
    key 4
  let stop (j : Job) : Job := { j with failed := some (0, Code.aborted, 0), todo := [] }
  release (setJobs s (tmap s.net.jobs fun _ j => match j.kind with
    | .parity r _ => if r = key then stop j else j
    | .rebuild r => if r = key then stop j else j
    | _ => j)) (holdParity key)

/-- An arena fails, and its commands in flight end (R300). -/
def abortArena (s : State) (key : Nat) : State :=
  let s := release (arenaFails s key Code.aborted) (holdArena key)
  ((s.pewter.works.filter fun w => w.2.arena == key || w.2.source == some key).map (·.1)).foldl
    (fun s fk => stopFlight s fk Code.aborted) s

/-- A Caddie stream and its entries in flight fail with a status (R323). -/
def abortCaddie (s : State) (key : Nat) (status : Status) : State :=
  match tget s.caddie.streams key with
  | none => s
  | some c =>
    let s := failCaddie s key status
    release (c.flying.foldl (fun s x => failEntry s key x status) s) (holdCaddie key)

/-- A holder of translations is aborted (R56). -/
def abortOwner (s : State) (owner : Nat) : State :=
  let k := owner / 16
  match owner % 16 with
  | 0 => stopFlight s k Code.aborted
  | 2 => failGroup s k Code.aborted
  | 3 => failStream s k Code.aborted
  | 4 => abortRecord s k
  | 5 => abortArena s k
  | 6 => abortCaddie s k Code.aborted
  | _ => release s owner

end Sys2Proof.Machine
end

