-- ==== Sys2Proof/Machine/Spaces.lean ====
section
/-! DEFINITION. The commands of spaces, windows and translation (R44 to R74). -/

namespace Sys2Proof.Machine

/-! ## Page tables (R44, R48) -/

/-- Second- and third-level tables a context's extents need, one copy: how many of each. The
extents rise, so a table shared with the one before is not counted again. -/
def tablesOf : List Extent → Option Nat → Option Nat → Nat × Nat
  | [], _, _ => (0, 0)
  | e :: es, l1, l2 =>
    let last := e.va + e.len - 1
    let n1 := if e.size = 2 then 0
      else last / 2 ^ 30 - e.va / 2 ^ 30 + (if l1 = some (e.va / 2 ^ 30) then 0 else 1)
    let n2 := if e.size = 0 then
        last / 2 ^ 21 - e.va / 2 ^ 21 + (if l2 = some (e.va / 2 ^ 21) then 0 else 1)
      else 0
    let r := tablesOf es (if e.size = 2 then l1 else some (last / 2 ^ 30))
      (if e.size = 0 then some (last / 2 ^ 21) else l2)
    (n1 + r.1, n2 + r.2)

/-- Bytes of those tables. -/
def tableBytes (es : List Extent) : Nat := (tablesOf es none none).1 * 4096 + (tablesOf es none none).2 * 256

/-- Bytes of the first-level tables of the contexts that hold one: not FREE, nor EXHAUSTED, whose table
the clear phase has freed (R342). -/
def rootBytes (s : State) : Nat :=
  (List.range 4096).foldl
    (fun n c => if ctxState s c = 0 ∨ ctxState s c = 4 then n else n + 8 * 2 ^ ctxL1 s c) 0

/-- Bytes of the page-table area in use apart from one context's second- and third-level tables; those
that an UNMAP leaves empty are in use until its release (R57). -/
def otherTables (s : State) (ctx : Nat) : Nat :=
  (uncut s).xlat.pages.foldl (fun n p => if p.1 = ctx then n else n + tableBytes p.2) (rootBytes s)

/-- Whether tables of a size fit the area and the context's quota. -/
def tablesFit (s : State) (ctx other : Nat) (es : List Extent) : Bool :=
  decide (other + tableBytes es ≤ s.mem.layout.getD 1 1024 * 2 ^ 20) &&
    (ctx == 0 || decide (tableBytes es ≤ reg s (ctxIdx ctx) 0x1D * 65536))

/-- The largest count of pages whose tables fit, by halving. -/
def fitCount (fits : Nat → Bool) : Nat → Nat → Nat → Nat
  | 0, lo, _ => lo
  | fuel + 1, lo, hi =>
    if hi ≤ lo then lo
    else
      let mid := (lo + hi + 1) / 2
      if fits mid then fitCount fits fuel mid hi else fitCount fits fuel lo (mid - 1)

/-- The state with a context's extents replaced. -/
def setPages (s : State) (ctx : Nat) (es : List Extent) : State :=
  { s with xlat := { s.xlat with pages := if es.isEmpty then tdel s.xlat.pages ctx else tset s.xlat.pages ctx es } }

/-- Scratchpad bytes a context has mapped, a page that is cut and not yet released among them. -/
def scratchHeld (s : State) (ctx : Nat) : Nat :=
  (extentsOf (uncut s) ctx).foldl (fun n e => if paTier e.pa = 3 then n + e.len else n) 0

/-- Whether some context has mapped a byte of a physical range, or has not yet released it (R73). -/
def paMapped (s : State) (pa len : Nat) : Bool :=
  (uncut s).xlat.pages.any fun p => p.2.any fun e => decide (e.pa < pa + len) && decide (pa < e.pa + e.len)

/-- Whether an UNMAP of a context is in progress (R54). -/
def unmapping (s : State) (ctx : Nat) : Bool := s.xlat.unmaps.any fun u => u.ctx == ctx

/-- A MAP or UNMAP waits behind those of its context that came before (R54). -/
def queueMap (s : State) (fk ctx : Nat) : State :=
  let s := waitOn s fk
  { s with xlat := { s.xlat with mapQueue := s.xlat.mapQueue ++ [{ ctx := ctx, owner := fk }] } }

/-- Whether a MAP or UNMAP of a context must wait: an UNMAP drains, or others wait (R54). -/
def mapWaits (s : State) (ctx : Nat) : Bool :=
  unmapping s ctx || s.xlat.mapQueue.any fun w => w.ctx == ctx

/-- The checks of a MAP that do not depend on the space (R51 check 1, R85, R457). An ABORT or a WAIT_LIMIT
that is not zero, which Table 6 gives to UNMAP only, is MISALIGNED (DESIGN CHOICE, log entry 31). -/
def mapForm (s : State) (f : Flight) : Status :=
  let size := opnd f.desc 12 2
  let atomic := opBit f.desc 138
  firstOf
    [ (opnd f.desc 112 24 == 0 || size == 3 || opnd f.desc 16 48 % pageBytes size != 0 ||
        opnd f.desc 64 48 % pageBytes size != 0 || (atomic && !(opBit f.desc 136 && opBit f.desc 137)) ||
        !clean f.desc 14 2 || !clean f.desc 141 307, Code.misaligned)
    , (f.ctx != 0, Code.protection)
    , (ctxFieldStatus s f (opnd f.desc 0 12) != Code.ok, ctxFieldStatus s f (opnd f.desc 0 12)) ]

/-- The checks of a MAP against the space, the physical range and the quota (R51 checks 2 to 6). -/
def mapSpace (s : State) (f : Flight) : Status :=
  let ctx := opnd f.desc 0 12
  let size := opnd f.desc 12 2
  let va := opnd f.desc 16 48
  let pa := opnd f.desc 64 48
  let len := opnd f.desc 112 24 * pageBytes size
  let fromF := ((queueOf s f.ctx f.queue).map (·.fQueue)).getD false
  let scratch := paTier pa == 3
  firstOf
    [ (decide (spaceEnd s ctx < va + len), Code.translationFault)
    , (decide (unitBound s (paTier pa) (paUnit pa) < paOffset pa + len) || (inHardware s pa && ctx != 0) ||
        (fromF && scratch && ctx == 0), Code.protection)
    , (size == 2 && scratch, Code.misaligned)
    , ((extentsOf s ctx).any (fun x => x.touches va len) || (scratch && paMapped s pa len), Code.protection)
    , (scratch && ctx != 0 &&
        decide (reg s (ctxIdx ctx) 0x1E * 65536 < scratchHeld s ctx + len), Code.quota) ]

/-- The pages that a MAP makes, the first `n` of them. -/
def mapExtent (d : Desc) (n : Nat) : Extent :=
  { va := opnd d 16 48, pa := opnd d 64 48, size := opnd d 12 2, count := n, read := opBit d 136
    write := opBit d 137, atomic := opBit d 138, reduce := opBit d 139, codec := opBit d 140 }

/-- A MAP past its form's checks is applied: as many pages as there are tables for (R48, R51, R52). -/
def applyMap (s : State) (fk : Nat) (f : Flight) : State :=
  let ctx := opnd f.desc 0 12
  let count := opnd f.desc 112 24
  let status := mapSpace s f
  if status ≠ Code.ok then finish s fk status
  else
    let old := extentsOf s ctx
    let other := otherTables s ctx
    let n := fitCount (fun n => tablesFit s ctx other (insertExtent (mapExtent f.desc n) old)) 25 0 count
    let s := if n = 0 then s else setPages s ctx (insertExtent (mapExtent f.desc n) old)
    finish s fk (if n = count then Code.ok else Code.quota) (BitVec.ofNat 64 n)

/-- MAP (R51, R52, R54). -/
def execMap (d : DescRef) (s : State) : Out :=
  withDesc s d 0x10 fun s fk f =>
    if mapForm s f ≠ Code.ok then doneWith s fk (mapForm s f)
    else if mapWaits s (opnd f.desc 0 12) then .next (settle (queueMap s fk (opnd f.desc 0 12)))
    else .next (settle (applyMap s fk f))

/-! ## UNMAP (R53 to R57) -/

/-- The parts of an extent outside and inside a range. -/
def splitExtent (e : Extent) (va len : Nat) : List Extent × List Extent :=
  if e.touches va len then
    let p := pageBytes e.size
    let lo := max e.va va
    let hi := min (e.va + e.len) (va + len)
    let part (a b : Nat) : List Extent :=
      if a < b then [{ e with va := a, pa := e.pa + (a - e.va), count := (b - a) / p }] else []
    (part e.va lo ++ part hi (e.va + e.len), part lo hi)
  else ([e], [])

/-- Whether a range cuts through a page of an extent. -/
def cutsThrough (e : Extent) (va len : Nat) : Bool :=
  e.touches va len &&
    ((decide (e.va < va) && (va - e.va) % pageBytes e.size != 0) ||
      (decide (va + len < e.va + e.len) && (va + len - e.va) % pageBytes e.size != 0))

/-- A watch on a cut page ends (R98). -/
def endWatch (s : State) (w : Watch) : State :=
  match w.who with
  | .wait fk => finish s fk Code.translationFault (BitVec.ofNat 64 w.va)
  | .play key =>
    match tget s.q.plays key with
    | none => s
    | some p =>
      let s := modPlay s key fun p =>
        { p with armed := false, state := if p.state = .armed then .idle else p.state }
      playWhistle s p 0x04 Code.translationFault
  | .caddie _ _ => s

/-- The watches of a context on a range end. -/
def cutWatches (s : State) (ctx va len : Nat) : State :=
  let hit (w : Watch) : Bool := w.ctx == ctx && decide (w.va < va + len) && decide (va < w.va + 8)
  let ws := (s.q.watches.list.flatten).filter hit
  let s := { s with q := { s.q with watches := s.q.watches.map fun l => l.filter fun w => !hit w } }
  ws.foldl endWatch s

/-- Holders of translations of a context that overlap a range at page granularity. -/
def holdersOf (s : State) (ctx va len : Nat) : List Nat :=
  ((s.xlat.track.list.flatten).filter fun t =>
    t.ctx == ctx && t.ranges.any fun r =>
      decide (r.1 / 65536 * 65536 < va + len) && decide (va < roundUp (r.1 + r.2) 65536)).map (·.owner)

/-- Whether a live reservation of a context overlaps a range. -/
def resvMeets (s : State) (r : Reservation) (ctx va len : Nat) : Bool :=
  match tget s.xlat.windows r.window with
  | none => false
  | some w =>
    r.ctx == ctx && r.ended.isNone &&
      decide ((w.baseVa + r.offset) / 65536 * 65536 < va + len) &&
      decide (va < roundUp (w.baseVa + r.offset + r.length) 65536)

/-- Live reservations that overlap a range. -/
def resvCount (s : State) (ctx va len : Nat) : Nat :=
  s.xlat.resv.list.foldl (fun n t => n + tcount t fun _ r => resvMeets s r ctx va len) 0

/-- Reservations that overlap a range end with a status (R56). -/
def endResv (s : State) (ctx va len : Nat) (status : Status) : State :=
  let resv := s.xlat.resv.map fun t => tmap t fun _ r =>
    if resvMeets s r ctx va len then { r with ended := some status } else r
  { s with xlat := { s.xlat with resv := resv } }

/-- The work that an UNMAP finds is aborted: the state after it, and how many commands, those of
probe reservations among them (R56, R72; log entry 31). -/
def abortRange (s : State) (ctx va len : Nat) : State × Nat :=
  let hs := (holdersOf s ctx va len).eraseDups
  let n := hs.length + resvCount s ctx va len
  let s := hs.foldl abortOwner (endResv s ctx va len Code.aborted)
  (bumpBy s 0x2800 0x0A n, n)

/-- The state with one UNMAP changed. -/
def modUnmap (s : State) (fk : Nat) (f : UnmapJob → UnmapJob) : State :=
  { s with xlat := { s.xlat with unmaps := s.xlat.unmaps.map fun u => if u.owner = fk then f u else u } }

/-- The checks of an UNMAP that do not depend on the space (R53 check 1, R85). A PERM or CODEC that is not
zero, which Table 6 gives to MAP only, is MISALIGNED (DESIGN CHOICE, log entry 31). -/
def unmapForm (s : State) (f : Flight) : Status :=
  let size := opnd f.desc 12 2
  firstOf
    [ (opnd f.desc 112 24 == 0 || size == 3 || opnd f.desc 16 48 % pageBytes size != 0 || opBit f.desc 15 ||
        !clean f.desc 64 48 || !clean f.desc 136 24 || !clean f.desc 192 256, Code.misaligned)
    , (f.ctx != 0, Code.protection)
    , (ctxFieldStatus s f (opnd f.desc 0 12) != Code.ok, ctxFieldStatus s f (opnd f.desc 0 12)) ]

/-- The cut of an UNMAP, and the start of its drain (R55, R56). -/
def cutPages (s : State) (fk : Nat) (f : Flight) : State :=
  let ctx := opnd f.desc 0 12
  let va := opnd f.desc 16 48
  let len := opnd f.desc 112 24 * pageBytes (opnd f.desc 12 2)
  let parts := (extentsOf s ctx).map fun e => splitExtent e va len
  let s := shootdown (setPages s ctx (parts.map (·.1)).flatten) ctx va len
  let now := opBit f.desc 14
  let limit := if opnd f.desc 160 32 = 0 then reg s 0x2800 0x04 else opnd f.desc 160 32
  let u : UnmapJob :=
    { ctx := ctx, owner := fk, va := va, length := len, cut := (parts.map (·.2)).flatten, cutAt := s.now
      limit := if now then none else some limit }
  let s := waitOn { s with xlat := { s.xlat with unmaps := s.xlat.unmaps ++ [u] } } fk
  let s := cutWatches s ctx va len
  let r := if now then abortRange s ctx va len else (s, 0)
  modUnmap r.1 fk fun u => { u with aborted := r.2 }

/-- An UNMAP past its form's checks is applied (R53): a range without a mapped page completes at once. -/
def applyUnmap (s : State) (fk : Nat) (f : Flight) : State :=
  let ctx := opnd f.desc 0 12
  let va := opnd f.desc 16 48
  let len := opnd f.desc 112 24 * pageBytes (opnd f.desc 12 2)
  if spaceEnd s ctx < va + len then finish s fk Code.translationFault
  else if (extentsOf s ctx).any (fun e => cutsThrough e va len) then finish s fk Code.misaligned
  else if (extentsOf s ctx).any (fun e => e.touches va len) then cutPages s fk f
  else finish s fk Code.ok

/-- UNMAP (R53 to R56). -/
def execUnmap (d : DescRef) (s : State) : Out :=
  withDesc s d 0x11 fun s fk f =>
    if unmapForm s f ≠ Code.ok then doneWith s fk (unmapForm s f)
    else if mapWaits s (opnd f.desc 0 12) then .next (settle (queueMap s fk (opnd f.desc 0 12)))
    else .next (settle (applyUnmap s fk f))

/-- A MAP or UNMAP that waited is applied, unless it has ended meanwhile. -/
def applyMapWait (s : State) (w : MapWait) : State :=
  match tget s.q.flights w.owner with
  | none => s
  | some f =>
    if f.progress ≠ .working ∨ f.stopped = true then s
    else if opcodeOf f.desc = 0x10 then
      if mapForm s f ≠ Code.ok then finish s w.owner (mapForm s f) else applyMap s w.owner f
    else if unmapForm s f ≠ Code.ok then finish s w.owner (unmapForm s f)
    else applyUnmap s w.owner f

/-- The MAPs and UNMAPs of a context that wait are applied in order, until an UNMAP drains (R54); the fuel
is the number that wait. -/
def runMaps : Nat → State → Nat → State
  | 0, s, _ => s
  | fuel + 1, s, ctx =>
    if unmapping s ctx then s
    else match s.xlat.mapQueue.find? fun w => w.ctx == ctx with
      | none => s
      | some w =>
        let rest := s.xlat.mapQueue.filter fun x => x.owner != w.owner
        runMaps fuel (applyMapWait { s with xlat := { s.xlat with mapQueue := rest } } w) ctx

/-- Scratchpad bytes of some extents are overwritten with zeros (R73). -/
def zeroScratch (s : State) (es : List Extent) : State :=
  es.foldl (fun s e => if paTier e.pa = 3 then setCells s (zeroRun s.mem.bytes e.pa e.len) else s) s

/-- Whether a request that was translated before the cut still waits to be performed: one held by a
Caddie guard (R56, R315). -/
def requestHeld (s : State) (ctx va len : Nat) : Bool :=
  s.caddie.guarded.any (fun h => h.ctx == ctx && decide (h.va < va + len) && decide (va < h.va + h.len)) ||
    tany s.eth.qps fun _ p => p.ctx == ctx && p.waiting.any fun w =>
      w.held && ((roceRange p w.op w.pkt).any fun r =>
        (tget s.xlat.windows (keyWindow r.1)).any fun x =>
          decide (x.baseVa + r.2.1 < va + len) && decide (va < x.baseVa + r.2.1 + r.2.2))

/-- Whether nothing holds a translation of an UNMAP's range any more (R56). -/
def drainOver (s : State) (u : UnmapJob) : Bool :=
  (holdersOf s u.ctx u.va u.length).isEmpty && resvCount s u.ctx u.va u.length == 0 &&
    !requestHeld s u.ctx u.va u.length

/-- The release of an UNMAP: its scratchpad pages are zeroed, its tables are free, and it completes (R57,
R73). -/
def releaseUnmap (s : State) (u : UnmapJob) : State :=
  let s := zeroScratch s u.cut
  let s := { s with xlat := { s.xlat with unmaps := s.xlat.unmaps.filter fun x => x.owner != u.owner } }
  let s := finish s u.owner Code.ok (BitVec.ofNat 64 u.aborted)
  runMaps s.xlat.mapQueue.length s u.ctx

/-- UNMAP_DRAIN_END: nothing holds a translation of the range any more, and the UNMAP completes
(R57, R73); the MAPs and UNMAPs that waited for it follow (R54). -/
def execUnmapDrainEnd (d : DescRef) (s : State) : Out :=
  match s.xlat.unmaps.find? fun u => u.owner == refKey d with
  | none => .next s
  | some u => if drainOver s u then .next (settle (releaseUnmap s u)) else .next s

/-- UNMAP_WAIT_LIMIT: what remains at the limit is aborted (R56). -/
def execUnmapWaitLimit (d : DescRef) (s : State) : Out :=
  match s.xlat.unmaps.find? fun u => u.owner == refKey d with
  | none => .next s
  | some u =>
    match u.limit with
    | none => .next s
    | some t =>
      if passedUs s u.cutAt t then
        let r := abortRange s u.ctx u.va u.length
        .next (settle (modUnmap r.1 (refKey d) fun u => { u with limit := none, aborted := u.aborted + r.2 }))
      else .next s

/-! ## WALK_COMPLETE (R59 to R63) -/

/-- The least recently used entry of some; none of an empty list. -/
def oldestTlb (ts : List TlbEntry) : Option TlbEntry :=
  ts.foldl (fun b t => match b with
    | none => some t
    | some y => if t.used < y.used then some t else some y) none

/-- The entries of a context above a limit leave a TLB, least recently used first, while other contexts
hold entries too (R60). -/
def trimCtx (limit ctx : Nat) : Nat → List TlbEntry → List TlbEntry
  | 0, ts => ts
  | fuel + 1, ts =>
    let mine := ts.filter fun t => t.ctx == ctx
    if mine.length ≤ limit ∨ mine.length = ts.length then ts
    else match oldestTlb mine with
      | none => ts
      | some v => trimCtx limit ctx fuel (ts.filter fun t => !(t.ctx == v.ctx && t.va == v.va && t.size == v.size))

/-- The limit 2800:01 holds of every context of a TLB. -/
def trimTlb (limit : Nat) (ts : List TlbEntry) : List TlbEntry :=
  (ts.map (·.ctx)).eraseDups.foldl (fun ts c => trimCtx limit c ts.length ts) ts

/-- A TLB with a page entered: the least recently used entry makes room, of the context at its limit, else
of all (R60). -/
def enterTlb (limit : Nat) (ts : List TlbEntry) (n : TlbEntry) : List TlbEntry :=
  let mine := ts.filter fun t => t.ctx == n.ctx
  let victim :=
    if limit ≤ mine.length ∧ mine.length < ts.length then oldestTlb mine
    else if 8192 ≤ ts.length then oldestTlb ts else none
  trimTlb limit (match victim with
    | some v => (ts.filter fun t => !(t.ctx == v.ctx && t.va == v.va && t.size == v.size)) ++ [n]
    | none => ts ++ [n])

/-- A write of 2800:01: the limit holds at once in the four units. -/
def limitTlb (s : State) : State :=
  { s with xlat := { s.xlat with units := s.xlat.units.map fun u => { u with tlb := trimTlb (reg s 0x2800 0x01) u.tlb } } }

/-- A walk cache with an entry of a level entered. -/
def enterWalk (cap : Nat) (ws : List WalkEntry) (n : WalkEntry) : List WalkEntry :=
  if ws.any fun w => w.ctx == n.ctx && w.level == n.level && w.index == n.index then
    ws.map fun w => if w.ctx = n.ctx ∧ w.level = n.level ∧ w.index = n.index then { w with used := n.used } else w
  else
    let level := ws.filter fun w => w.level == n.level
    if level.length < cap then ws ++ [n]
    else
      let old := level.foldl (fun m w => min m w.used) n.used
      match level.find? fun w => w.used == old with
      | some v => (ws.filter fun w => !(w.ctx == v.ctx && w.level == v.level && w.index == v.index)) ++ [n]
      | none => ws ++ [n]

/-- WALK_COMPLETE: the oldest walk of a quarter's walkers ends. The requests behind its page go on, misses
that waited take their places, and free walkers go to streams (R61 to R63). -/
def execWalkComplete (quarter : Nat) (s : State) : Out :=
  let u := s.xlat.units.get quarter
  match u.walks with
  | [] => .next s
  | w :: rest =>
    let u := { u with
      walks := rest
      streams := u.streams.map fun x =>
        if x.ctx = w.ctx then
          { x with misses := x.misses.filter fun va => va != w.va, behind := x.behind.filter fun va => va != w.va }
        else x }
    let u := match extentAt s w.ctx w.va with
      | none => u
      | some e =>
        let va := e.pageOf w.va
        let wc := u.walkCache
        let wc := if e.size ≤ 1 then
            enterWalk 256 wc { ctx := w.ctx, level := 1, index := va / 2 ^ 30, used := s.now } else wc
        let wc := if e.size = 0 then
            enterWalk 1024 wc { ctx := w.ctx, level := 2, index := va / 2 ^ 21, used := s.now } else wc
        { u with
          walkCache := wc
          tlb := if u.tlb.any fun t => t.ctx == w.ctx && t.va == va && t.size == e.size then u.tlb
            else enterTlb (reg s 0x2800 0x01) u.tlb { ctx := w.ctx, va := va, size := e.size, used := s.now } }
    let u := startWalks (reg s 0x2800 0x02) 16 (retryMisses s u)
    .next { s with xlat := { s.xlat with units := s.xlat.units.set quarter u } }

/-! ## Windows (R66, R67, R72) -/

/-- Whether a window number lies in a context's range (R327). -/
def windowInRange (s : State) (ctx n : Nat) : Bool :=
  ctx == 0 ||
    (decide (reg s (ctxIdx ctx) 0x11 ≤ n) &&
      decide (n < reg s (ctxIdx ctx) 0x11 + reg s (ctxIdx ctx) 0x12))

/-- Whether a window is valid now (R65). -/
def windowValid (s : State) (n : Nat) : Bool :=
  match tget s.xlat.windows n with
  | some w => w.valid && w.gen == ctxGen s w.ctx
  | none => false

/-- OPEN_WINDOW (R66). A queue of C0 may open any window for the context it names, but for window 0, which
is never valid (R65) and answers PROTECTION (DESIGN CHOICE: no rule gives its status; log entry 31). -/
def execOpenWindow (d : DescRef) (s : State) : Out :=
  withDesc s d 0x07 fun s fk f =>
    let x := f.desc
    let n := opnd x 0 14
    let named := opnd x 136 12
    let ctx := namedCtx f named
    let w : Window :=
      { valid := true, read := opBit x 14, write := opBit x 15, atomic := opBit x 16
        reduce := opBit x 17, flagged := opBit x 18, ctx := ctx, gen := ctxGen s ctx
        srcBase := opnd x 32 12, srcMask := opnd x 44 12, baseVa := opnd x 64 48, length := opnd x 112 23 }
    let status := firstOf
      [ (w.baseVa % 65536 != 0 || w.length == 0 || decide (4194304 < w.length) || (w.flagged && !w.write) ||
          !clean x 19 13 || !clean x 56 8 || opBit x 135 || !clean x 148 300, Code.misaligned)
      , (ctxFieldStatus s f named != Code.ok, ctxFieldStatus s f named)
      , (n == 0 || windowValid s n || (f.ctx != 0 && !windowInRange s ctx n), Code.protection)
      , (decide (spaceEnd s ctx < w.baseVa + w.length * 65536), Code.translationFault) ]
    if status ≠ Code.ok then doneWith s fk status
    else doneWith { s with xlat := { s.xlat with windows := tset s.xlat.windows n w } } fk Code.ok

/-- A window closes, and its reservations end at once with PROTECTION (R67), each a command aborted. -/
def closeWindow (s : State) (n : Nat) : State :=
  let ended := s.xlat.resv.list.foldl (fun k t => k + tcount t fun _ r => r.window == n && r.ended.isNone) 0
  let s := bumpBy s 0x2800 0x0A ended
  let resv := s.xlat.resv.map fun t => tmap t fun _ r =>
    if r.window = n ∧ r.ended = none then { r with ended := some Code.protection } else r
  dropWindows (modWindow { s with xlat := { s.xlat with resv := resv } } n fun w => { w with valid := false })
    fun x => x == n

/-- CLOSE_WINDOW (R67): the window closes, and the descriptor waits for the requests that have passed its
checks. The context of a C0 queue's field must be the window's. -/
def execCloseWindow (d : DescRef) (s : State) : Out :=
  withDesc s d 0x08 fun s fk f =>
    let n := opnd f.desc 0 14
    let named := opnd f.desc 136 12
    let ctx := namedCtx f named
    let owner := (tget s.xlat.windows n).map (·.ctx)
    let status := firstOf
      [ (!clean f.desc 14 122 || !clean f.desc 148 300, Code.misaligned)
      , (ctxFieldStatus s f named != Code.ok, ctxFieldStatus s f named)
      , (!windowValid s n || owner != some ctx || (f.ctx != 0 && !windowInRange s ctx n),
          Code.protection) ]
    if status ≠ Code.ok then doneWith s fk status
    else if windowHeld s n then .next (settle (closeWindow (waitOn s fk) n))
    else doneWith (closeWindow s n) fk Code.ok

/-- RESERVATION_EXPIRE: 2800:06 has passed since the probe was answered (R72). -/
def execReservationExpire (quarter id : Nat) (s : State) : Out :=
  match tget (s.xlat.resv.get quarter) id with
  | none => .next s
  | some r =>
    if passedUs s r.since (reg s 0x2800 0x06) then
      .next { s with xlat := { s.xlat with resv := s.xlat.resv.mod quarter fun t => tdel t id } }
    else .next s

end Sys2Proof.Machine
end

