-- ==== Sys2Proof/Machine/Queues.lean ====
section
/-! DEFINITION. The commands of queues, descriptors and whistle rings (R76 to R110). -/

namespace Sys2Proof.Machine

/-! ## Completion (R88, R89, R101, R106, R128) -/

/-- A completion of status OK joins the record its queue holds; the record is written when it has
its count or is urgent, and goes on merging while its ring is full (R106, R107). -/
def mergeCompletion (s : State) (w : Whistle) (ring : Nat) (urgent : Bool) : State :=
  match tget s.q.rings (ringKey w.ctx ring) with
  | none => bump s 0x6000 0x08
  | some r =>
    if r.lost.isSome then
      bump (modRing s (ringKey w.ctx ring) fun r => { r with lostCount := satInc 16 r.lostCount }) 0x6000 0x08
    else
      let h := (tget r.held w.queue).getD { record := { w with count := 0 }, since := s.now }
      let h := { h with record := { w with count := min 65535 (h.record.count + 1) }, urgent := h.urgent || urgent }
      let s := modRing s (ringKey w.ctx ring) fun r => { r with held := tset r.held w.queue h }
      if r.heldDue h && !ringFull r then flushHeld s w.ctx ring w.queue else s

/-- The completion whistle of a descriptor, where it has one (R82, R89). -/
def completionWhistle (s : State) (f : Flight) (ring : Nat) (status : Status) (detail : BitVec 64) : State :=
  let w : Whistle :=
    { kind := if status = Code.ok then 1 else 2, status := status, ctx := f.ctx, queue := f.queue
      quarter := f.quarter, tag := bits f.desc 16 16, detail := detail, ft := ftOf s f.quarter, seq := f.seq }
  if status ≠ Code.ok then whistleNow s w ring
  else if opcodeOf f.desc = 0 ∨ bit f.desc 11 = false then s
  else mergeCompletion s w ring (bit f.desc 12)

/-- A run of a play ends (R100, R101). -/
def endRun (s : State) (key : Nat) : State :=
  match tget s.q.plays key with
  | none => s
  | some p =>
    let bad := p.runStatus != Code.ok
    let s := modPlay s key fun p =>
      { p with
        state := if p.armed then .armed else .idle, latched := false, shot := false
        failedRuns := if bad then satInc 16 p.failedRuns else p.failedRuns }
    let s := if p.whistleEnd then playWhistle s p 0x04 p.runStatus else s
    if p.latched && running s && ctxActive s p.ctx then startPlayNow s key p else s

/-- A queue that is closing is gone once nothing of it is in flight but the descriptor that closes
it (R109). -/
def closeQueueIfEmpty (s : State) (ctx queue : Nat) : State :=
  match queueOf s ctx queue with
  | none => s
  | some r =>
    let mine := s.q.flights.filter fun p => p.2.ctx == ctx && p.2.queue == queue
    match r.closing with
    | none => s
    | some fk =>
      let drop (s : State) : State := { s with q := { s.q with queues := tdel s.q.queues (queueKey ctx queue) } }
      if mine.isEmpty then drop (finish s fk Code.ok)
      else if (mine.filter fun p => p.1 != fk).isEmpty then finish s fk Code.ok
      else s

/-- A final descriptor completes: counters, span, halt, whistle, play run, holds (R88, R89, R101,
R128, R131, R237). -/
def completeFlight (s : State) (fk : Nat) (f : Flight) (status : Status) (detail : BitVec 64) : State :=
  let bad := status != Code.ok
  let ends := orderOf f.desc == 2 || orderOf f.desc == 3
  let ring := ((queueOf s f.ctx f.queue).map (·.ring)).getD 0
  let s := modQueue s f.ctx f.queue fun r =>
    { r with
      completed := (r.completed + 1) % 2 ^ 32, errors := if bad then satInc 32 r.errors else r.errors
      failedSpan := if ends then false else r.failedSpan || bad
      state := if bad && bit f.desc 13 && decide (r.state = .opened) then .error else r.state }
  let s := { s with q := { s.q with flights := tdel s.q.flights fk } }
  let s := if isTileOp (opcodeOf f.desc) then readersDone s (readerOf fk) else s
  let s := release s (holdFlight fk)
  let s := if opcodeOf f.desc = 0x06 ∨
      ((opcodeOf f.desc = 0x01 ∨ opcodeOf f.desc = 0x43) ∧ (orderOf f.desc = 1 ∨ orderOf f.desc = 3) ∧ bad = false) then
      acquire s f.ctx f.quarter else s
  let s := completionWhistle s f ring status detail
  let s := match f.run with
    | none => s
    | some k =>
      let s := if bad then modPlay s k fun p =>
          { p with runStatus := if p.runStatus = Code.ok then status else p.runStatus } else s
      if f.lastOfRun then endRun s k else s
  closeQueueIfEmpty s f.ctx f.queue

/-- DESCRIPTOR_COMPLETE: a descriptor whose last request is final completes. -/
def execDescriptorComplete (d : DescRef) (s : State) : Out :=
  match flightOf s d with
  | none => .next s
  | some f =>
    match f.progress with
    | .final status detail => .next (settle (completeFlight s (refKey d) f status detail))
    | _ => .next s

/-! ## Dispatch (R82, R84, R86, R87, R90) -/

/-- Whether a queue's class takes an opcode, and the opcode is listed (R84, Tables 6 to 8). -/
def opcodeValid (cls op : Nat) : Bool :=
  decide (op ≤ 0x13) ||
    (match cls with
     | 1 => op == 0x20 || op == 0x21
     | 2 => decide (0x40 ≤ op) && decide (op ≤ 0x43)
     | 3 => decide (0x60 ≤ op) && decide (op ≤ 0x67)
     | 4 => decide (0x80 ≤ op) && decide (op ≤ 0x86)
     | 5 => decide (0xA0 ≤ op) && decide (op ≤ 0xA3)
     | _ => false)

/-- The engine for a descriptor; none where it must wait for one. -/
def engineFor (s : State) (q op : Nat) : Option Nat :=
  if op < 0x20 then some engPoint
  else if op < 0x40 then chooseEngine s q (List.range 16)
  else if op < 0x60 then some engScrum
  else if op < 0x80 then some engStep
  else if op < 0xA0 then pewterEngine s q
  else some engCaddie

/-- Whether a queue has something to dispatch and room for it. -/
def queueReady (s : State) (r : Queue) : Bool :=
  let mine := s.q.flights.filter fun p => p.2.ctx == r.ctx && p.2.queue == r.queue
  match r.slots with
  | [] => false
  | w :: _ =>
    decide (r.state = .opened) && decide (mine.length < reg s 0x6000 0x02) &&
      !(mine.any fun p => opcodeOf p.2.desc == 0x01) && (orderOf w.desc != 3 || mine.isEmpty) &&
      (!opcodeValid r.cls (opcodeOf w.desc) || (engineFor s r.quarter (opcodeOf w.desc)).isSome)

/-- Credit of a context in the weighted round robin of a quarter (R86). -/
def creditOf (s : State) (q ctx : Nat) : Nat := (tget (s.q.turn.get q) ctx).getD (ctxWeight s ctx)

/-- Whether it is a context's turn: it has credit, or no ready context of the quarter has any. -/
def turnOf (s : State) (q ctx : Nat) : Bool :=
  decide (0 < creditOf s q ctx) ||
    !(tany s.q.queues fun _ r => r.quarter == q && queueReady s r && decide (0 < creditOf s q r.ctx))

/-- A context takes its turn; where no one has credit left, a new round begins. -/
def takeTurn (s : State) (q ctx : Nat) : State :=
  let t := if 0 < creditOf s q ctx then s.q.turn.get q else []
  let c := if 0 < creditOf s q ctx then creditOf s q ctx else ctxWeight s ctx
  { s with q := { s.q with turn := s.q.turn.set q (tset t ctx (c - 1)) } }

/-- The head of a queue becomes a descriptor in flight with some progress. -/
def launch (s : State) (r : Queue) (w : Waiting) (e : Nat) (p : Progress) : State :=
  let seq := (r.dispatched + 1) % 2 ^ 32
  let f : Flight :=
    { ctx := r.ctx, queue := r.queue, seq := seq, desc := w.desc, quarter := r.quarter, engine := e
      run := w.run, lastOfRun := w.lastOfRun, progress := p, since := s.now }
  let s := modQueue s r.ctx r.queue fun r => { r with dispatched := seq, slots := r.slots.drop 1 }
  { s with q := { s.q with flights := tset s.q.flights (flightKey r.ctx r.queue seq) f } }

/-- Progress of a descriptor at dispatch: an invalid one, a NOP, one of a failed run, or a fence of
a failed span is final at once (R5, R82, R84, R101, R129); those that end MISALIGNED here are counted. A
fence invalidates here (R129), and so does a NOP by its ORDER, which completes OK as R82 says whatever its
span (DESIGN CHOICE between R82 and R129, log entry 32). -/
def dispatchAs (s : State) (r : Queue) (w : Waiting) : State × Progress :=
  let d := w.desc
  let runBad := (w.run.bind fun k => tget s.q.plays k).any fun p => p.runStatus != Code.ok
  if runBad then (s, .final Code.aborted 0)
  else if !headerClean d || !opcodeValid r.cls (opcodeOf d) || (opcodeOf d == 0 && bits d 64 448 != 0) then
    (bump s 0x6000 0x0A, .final Code.misaligned 0)
  else
    let s := if orderOf d = 3 ∨ (opcodeOf d = 0 ∧ orderOf d = 1) then acquire s r.ctx r.quarter else s
    if opcodeOf d = 0 then (s, .final Code.ok 0)
    else if orderOf d = 3 ∧ r.failedSpan = true ∧ opcodeOf d ≠ 0x06 then
      (bump s 0x6000 0x0F, .final Code.aborted 0)
    else (s, .issued)

/-- DESCRIPTOR_DISPATCH: the head of a ready queue whose turn it is goes to its engine. -/
def execDescriptorDispatch (quarter ctx queue : Nat) (s : State) : Out :=
  match queueOf s ctx queue with
  | none => .next s
  | some r =>
    match r.slots with
    | [] => .next s
    | w :: _ =>
      if r.quarter ≠ quarter ∨ !running s ∨ s.core.stopped ∨ !ctxActive s ctx ∨ !queueReady s r ∨
          !turnOf s quarter ctx then .next s
      else
        let a := dispatchAs s r w
        .next (settle (launch (takeTurn a.1 quarter ctx) r w
          ((engineFor s quarter (opcodeOf w.desc)).getD engPoint) a.2))

/-- NOP: it has completed at dispatch (R82); its own command finds nothing left to do. -/
def execNop (d : DescRef) (s : State) : Out :=
  match issuedOp s d 0x00 with
  | none => .next s
  | some f => doneWith s (refKey d) (if bits f.desc 64 448 = 0 then Code.ok else Code.misaligned)

/-! ## WAIT_FLAG (R98) -/

/-- The check of a watched flag: its status, with the VA for DETAIL (R98). -/
def flagCheck (s : State) (ctx va cmp : Nat) : Option Fail :=
  if va % 8 ≠ 0 ∨ cmp = 3 then some (Code.misaligned, 0) else localCheck s ctx va 8 .read

/-- Watches in use on a quarter. -/
def watchesOn (s : State) (q : Nat) : Nat := (s.q.watches.get q).length

/-- A watch is armed and evaluated at once. -/
def addWatch (s : State) (q : Nat) (w : Watch) : State :=
  let s := { s with q := { s.q with watches := s.q.watches.mod q fun l => l ++ [w] } }
  pruneWatches (watchEval s w)

/-- WAIT_FLAG. -/
def execWaitFlag (d : DescRef) (s : State) : Out :=
  withDesc s d 0x01 fun s fk f =>
    let x := f.desc
    let va := opnd x 0 48
    if !clean x 50 14 ∨ !clean x 160 288 then doneWith s fk Code.misaligned
    else match flagCheck s f.ctx va (opnd x 48 2) with
      | some x => failWith s fk x
      | none =>
        if 1024 ≤ watchesOn s f.quarter then doneWith s fk Code.quota
        else match heldBy s (.command fk) f.ctx [(va, 8)] with
          | some s => .next s
          | none =>
            .next (settle (addWatch (waitOn s fk) f.quarter
              { ctx := f.ctx, va := va, cmp := opnd x 48 2, value := BitVec.ofNat 64 (opnd x 64 64)
                who := .wait fk }))

/-- WAIT_FLAG_TIMEOUT: the timeout of the operand has passed. -/
def execWaitFlagTimeout (d : DescRef) (s : State) : Out :=
  match waitingOp s d 0x01 with
  | none => .next s
  | some f =>
    let t := opnd f.desc 128 32
    if t ≠ 0 ∧ passedUs s f.since t = true then
      let v := flagValue s f.ctx (opnd f.desc 0 48)
      .next (settle (pruneWatches (finish s (refKey d) Code.timeout (BitVec.ofNat 64 v))))
    else .next s

/-! ## WHISTLE and rings (R102 to R108) -/

/-- Whether a record was dropped as it came: its ring lost, or full with no place left to wait. -/
def recordDropped (s : State) (key fk : Nat) : Bool :=
  !((tget s.q.rings key).any fun r => r.waiting.any fun w => w.owner == some fk)

/-- WHISTLE: a user whistle. The descriptor completes once its record has been written and acknowledged
(R125); with a record that is dropped it completes at once (R104, R108). -/
def execWhistle (d : DescRef) (s : State) : Out :=
  withDesc s d 0x0E fun s fk f =>
    let ring := opnd f.desc 0 16
    if !clean f.desc 16 48 ∨ !clean f.desc 128 320 then doneWith s fk Code.misaligned
    else match tget s.q.rings (ringKey f.ctx ring) with
      | none => doneWith s fk Code.protection
      | some r =>
        let s := whistleNow (waitOn s fk)
          { kind := 0x09, ctx := f.ctx, queue := f.queue, quarter := f.quarter, tag := bits f.desc 16 16
            detail := BitVec.ofNat 64 (opnd f.desc 64 64), ft := ftOf s f.quarter, seq := f.seq, owner := some fk } ring
        if recordDropped s (ringKey f.ctx ring) fk then doneWith s fk (r.lost.getD Code.ok) else .next (settle s)

/-- The ring record in an OPEN_RING (R104, Table 14). -/
def ringOf (d : Desc) (ctx : Nat) : Ring :=
  { ctx := ctx, no := opnd d 0 16, udp := opBit d 29, baseKind := opBit d 30, sizeLog2 := opnd d 32 5
    coalCount := opnd d 40 10, server := opnd d 50 2, coalTime := opnd d 64 32
    base := BitVec.ofNat 64 (opnd d 128 64), head := BitVec.ofNat 64 (opnd d 192 64) }

/-- Whether a ring's target is an RC queue pair of its context (R423). -/
def ringTargetOk (s : State) (r : Ring) : Bool :=
  !r.baseKind || ([r.base, r.head].all fun h => match tget s.eth.qps (bits h 0 24) with
    | some p => !p.ud && p.ctx == r.ctx
    | none => false)

/-- OPEN_RING (R104). -/
def execOpenRing (d : DescRef) (s : State) : Out :=
  withDesc s d 0x12 fun s fk f =>
    let x := f.desc
    let named := opnd x 16 12
    let ctx := namedCtx f named
    let r := ringOf x ctx
    let held := tcount s.q.rings fun _ r => r.ctx == ctx
    let status := firstOf
      [ (opBit x 28 || opBit x 31 || !clean x 37 3 || !clean x 52 12 || !clean x 96 32 || !clean x 256 192 ||
          decide (r.sizeLog2 < 4) || decide (20 < r.sizeLog2) ||
          (!r.baseKind && handleOffset r.base % (32 * 2 ^ r.sizeLog2) != 0),
          Code.misaligned)
      , (ctxFieldStatus s f named != Code.ok, ctxFieldStatus s f named)
      , (thas s.q.rings (ringKey ctx r.no), Code.locked)
      , (!ringTargetOk s r, Code.protection)
      , (!underQuota s ctx 0x13 held, Code.quota) ]
    if status ≠ Code.ok then doneWith s fk status
    else doneWith { s with q := { s.q with rings := tset s.q.rings (ringKey ctx r.no) r } } fk Code.ok

/-- CLOSE_RING: held records are written first, and the ring closes once its writes are final
(R108). -/
def execCloseRing (d : DescRef) (s : State) : Out :=
  withDesc s d 0x13 fun s fk f =>
    let key := ringKey f.ctx (opnd f.desc 0 16)
    if clean f.desc 16 432 = false then doneWith s fk Code.misaligned
    else match tget s.q.rings key with
      | none => doneWith s fk Code.protection
      | some r =>
        if r.closing.isSome then doneWith s fk Code.protection
        else
          let s := flushAll (waitOn s fk) [(key, r)]
          .next (settle (modRing s key fun r => { r with closing := some fk }))

/-- COALESCE_TIMEOUT: COALESCE_TIME has passed since the first completion a record holds (R106). -/
def execCoalesceTimeout (ctx ring queue : Nat) (s : State) : Out :=
  match tget s.q.rings (ringKey ctx ring) with
  | none => .next s
  | some r =>
    match tget r.held queue with
    | none => .next s
    | some h =>
      if passedNs s h.since (if r.coalTime = 0 then 1000 else r.coalTime) = true ∧ ringFull r = false then
        .next (settle (flushHeld s ctx ring queue))
      else .next s

/-- RING_HEAD_REREAD: HEAD of a full ring is read again every 6000:04 (R107). -/
def execRingHeadReread (ctx ring : Nat) (s : State) : Out :=
  match tget s.q.rings (ringKey ctx ring) with
  | none => .next s
  | some r =>
    if ringFull r && !r.headAsked && r.lost.isNone && headDue s r && ringFlowOpen s r r.head then
      .next (settle (askHead s (ringKey ctx ring) r))
    else .next s

/-! ## Queues (R76, R77, R88, R109) -/

/-- Bytes of a queue's descriptor ring. -/
def Queue.ringBytes (r : Queue) : Nat := 64 * 2 ^ r.ringLog2

/-- Whether a run of bytes lies in the queue-ring area of a quarter and meets no ring there. -/
def ringFits (s : State) (q size at_ : Nat) : Bool :=
  decide (at_ + size ≤ s.mem.layout.getD 2 1024 * 2 ^ 20) &&
    s.q.queues.all fun p =>
      p.2.quarter != q || decide (at_ + size ≤ p.2.ringAt) || decide (p.2.ringAt + p.2.ringBytes ≤ at_)

/-- Where a ring of a size is placed in the queue-ring area: at the start of the lowest free run that holds it;
none where there is no such run (R280; DESIGN CHOICE, log entry 23: which run is taken). -/
def ringPlace (s : State) (q size : Nat) : Option Nat :=
  let ends := s.q.queues.filterMap fun p => if p.2.quarter = q then some (p.2.ringAt + p.2.ringBytes) else none
  ((0 :: ends).filter (ringFits s q size)).foldl (fun b x => some (match b with
    | none => x
    | some y => min x y)) none

/-- Queues that a quarter serves. -/
def queuesOn (s : State) (q : Nat) : Nat := tcount s.q.queues fun _ r => r.quarter == q

/-- The record that the part chooses among the free ones of a quarter (R76). -/
def freeRecord (s : State) (q : Nat) : Nat :=
  (pickBelow (fun i => !(tany s.q.queues fun _ r => r.quarter == q && r.record == i)) 4096 s.fresh).getD 0

/-- Whether the checks of quota and area let a queue be opened (R76, R280, R327). -/
def queueFits (s : State) (r : Queue) : Bool :=
  underQuota s r.ctx 0x10 (tcount s.q.queues fun _ x => x.ctx == r.ctx) &&
    decide (queuesOn s r.quarter < 4096) &&
    (ringPlace s r.quarter r.ringBytes).isSome

/-- The queue record that 96 bits describe. -/
def queueRecord (x : BitVec 96) (ctx : Nat) : Queue :=
  { ctx := ctx, queue := bits x 12 10, quarter := bits x 22 2, cls := bits x 24 4, state := .opened
    ringLog2 := bits x 32 5, srcBase := bits x 40 12, srcMask := bits x 52 12, ring := bits x 64 16 }

/-- Whether the record's fields are outside their ranges. -/
def queueMisaligned (x : BitVec 96) : Bool :=
  bits x 28 4 != 0 || bits x 37 3 != 0 || bits x 80 16 != 0 || decide (5 < bits x 24 4) ||
    decide (bits x 32 5 < 6) || decide (16 < bits x 32 5)

/-- A queue is entered with a free record of its quarter, and its ring placed. -/
def enterQueue (s : State) (r : Queue) : State :=
  let queues := tset s.q.queues (queueKey r.ctx r.queue)
    { r with record := freeRecord s r.quarter, ringAt := (ringPlace s r.quarter r.ringBytes).getD 0 }
  let s := draw s
  { s with q := { s.q with queues := queues } }

/-- OPEN_QUEUE (R76). -/
def execOpenQueue (d : DescRef) (s : State) : Out :=
  withDesc s d 0x09 fun s fk f =>
    let x : BitVec 96 := f.desc.extractLsb' 64 96
    let named := bits x 0 12
    let r := queueRecord x (namedCtx f named)
    let fromF := ((queueOf s f.ctx f.queue).map (·.fQueue)).getD false
    let status := firstOf
      [ (queueMisaligned x || !clean f.desc 96 352, Code.misaligned)
      , (ctxFieldStatus s f named != Code.ok, ctxFieldStatus s f named)
      , ((queueOf s r.ctx r.queue).isSome, Code.locked)
      , (!queueFits s r, Code.quota) ]
    if status ≠ Code.ok then doneWith s fk status
    else doneWith (enterQueue s { r with fQueue := fromF && r.ctx == 0 }) fk Code.ok

/-- Every undispatched descriptor of a queue becomes final with a status, oldest first; the fuel is
their number. -/
def abortSlots : Nat → State → Nat → Nat → Status → State
  | 0, s, _, _, _ => s
  | fuel + 1, s, ctx, queue, status =>
    match queueOf s ctx queue with
    | none => s
    | some r =>
      match r.slots with
      | [] => s
      | w :: _ => abortSlots fuel (launch s r w engPoint (.final status 0)) ctx queue status

/-- The same for all of them. -/
def abortQueue (s : State) (ctx queue : Nat) (status : Status) : State :=
  abortSlots (((queueOf s ctx queue).map (·.slots.length)).getD 0) s ctx queue status

/-- CLOSE_QUEUE (R109). -/
def execCloseQueue (d : DescRef) (s : State) : Out :=
  withDesc s d 0x0A fun s fk f =>
    let n := opnd f.desc 0 10
    let old := queueOf s f.ctx n
    let bound := tany s.q.plays fun _ p => p.ctx == f.ctx && p.queue == n && decide (p.state ≠ .idle)
    let status := firstOf
      [ (!clean f.desc 10 438, Code.misaligned)
      , (n == 0, Code.locked)
      , (old.isNone || (old.map (·.state)) == some .closed, Code.protection)
      , (bound, Code.locked) ]
    if status ≠ Code.ok then doneWith s fk status
    else
      let s := modQueue (waitOn s fk) f.ctx n fun r => { r with state := .closed, closing := some fk }
      .next (settle (closeQueueIfEmpty (abortQueue s f.ctx n Code.aborted) f.ctx n))

/-- Final descriptors of a queue complete, in order. -/
def completeFinal (s : State) (ctx queue : Nat) : State :=
  (s.q.flights.filter fun p => p.2.ctx == ctx && p.2.queue == queue).foldl (fun s p =>
    match (tget s.q.flights p.1) with
    | some f => (match f.progress with
      | .final st detail => completeFlight s p.1 f st detail
      | _ => s)
    | none => s) s

/-- A queue in state error goes back to open; DISCARD first aborts what it holds (R88). -/
def resumeQueue (s : State) (ctx queue : Nat) (discard : Bool) : State :=
  match queueOf s ctx queue with
  | none => s
  | some r =>
    if r.state = .error then
      let s := if discard then completeFinal (abortQueue s ctx queue Code.aborted) ctx queue else s
      modQueue s ctx queue fun r => { r with state := .opened }
    else s

/-- RESUME_QUEUE (R88). -/
def execResumeQueue (d : DescRef) (s : State) : Out :=
  withDesc s d 0x0F fun s fk f =>
    let n := opnd f.desc 0 10
    let named := opnd f.desc 64 12
    let ctx := namedCtx f named
    let status := firstOf
      [ (!clean f.desc 10 6 || !clean f.desc 17 47 || !clean f.desc 76 372, Code.misaligned)
      , (ctxFieldStatus s f named != Code.ok, ctxFieldStatus s f named)
      , ((queueOf s ctx n).isNone, Code.protection) ]
    if status ≠ Code.ok then doneWith s fk status
    else doneWith (resumeQueue s ctx n (opBit f.desc 16)) fk Code.ok

/-! ## Held flagged writes and cache lines -/

/-- CACHE_LINE_EXPIRE: a line older than its lifetime is invalid (R120). -/
def execCacheLineExpire (quarter cls ctx name : Nat) (s : State) : Out :=
  .next (dropLines s fun k l =>
    k == cacheKey quarter cls && l.ctx == ctx && l.name == name && !l.data.isEmpty &&
      passedUs s l.since l.lifetime)

/-- FLAG_HOLD_TIMEOUT: a flagged write held longer than its source's re-send time is discarded
without reply (R134). -/
def execFlagHoldTimeout (quarter src srcQueue seq : Nat) (s : State) : Out :=
  let hit (h : HeldWrite) : Bool :=
    h.pkt.src == src && h.pkt.srcQueue == srcQueue && h.pkt.seq == seq &&
      passedUs s h.since (resendTime s src)
  let gone := (s.net.heldFlags.get quarter).filter hit
  let s := { s with net := { s.net with
    heldFlags := s.net.heldFlags.mod quarter fun l => l.filter fun h => !hit h } }
  .next (gone.foldl (fun s h =>
    bump (modFlow s h.flow fun f => { f with busy := f.busy.filter fun x => x != h.pkt.seq }) 0x6000 0x0E) s)

end Sys2Proof.Machine
end

