-- ==== Sys2Proof/Machine/Plays.lean ====
section
/-! DEFINITION. The commands of plays (R96 to R101, R111). -/

namespace Sys2Proof.Machine

/-- Code of a play's state (Table 10). -/
def PState.code : PState → Nat
  | .idle => 0
  | .armed => 1
  | .pending => 2
  | .running => 3

/-- Whether a play is pending or running. -/
def Play.busy (p : Play) : Bool := decide (p.state = .pending) || decide (p.state = .running)

/-- START_PLAY (R99, R111). -/
def execStartPlay (d : DescRef) (s : State) : Out :=
  withDesc s d 0x02 fun s fk f =>
    let key := playKey f.ctx (opnd f.desc 0 16)
    if clean f.desc 16 432 = false then doneWith s fk Code.misaligned
    else match tget s.q.plays key with
      | none => doneWith s fk Code.protection
      | some _ =>
        let s := trigger s key false
        doneWith s fk Code.ok
          (BitVec.ofNat 64 (((tget s.q.plays key).map fun p => p.state.code).getD 0))

/-- Descriptors that a quarter's play store holds (R96). -/
def storeCapacity (s : State) : Nat := s.mem.layout.getD 3 16 * 2 ^ 20 / 64

/-- Runs in use in a quarter's play store, rising. -/
def storeRuns (s : State) (q : Nat) : List (Nat × Nat) :=
  s.q.plays.foldl (fun l p =>
    if p.2.store = q ∧ p.2.descs.length ≠ 0 then insertRun (p.2.descBase, p.2.descs.length) l else l) []

/-- The lowest free run of a length in a quarter's play store. -/
def storeRun (s : State) (q n : Nat) : Option Nat :=
  placeFrom n 0 (gaps (storeCapacity s) 0 (storeRuns s q))

/-- Play-store descriptors of a context, one play apart. -/
def storeHeld (s : State) (ctx apart : Nat) : Nat :=
  s.q.plays.foldl (fun n p => if p.2.ctx = ctx ∧ p.1 ≠ apart then n + p.2.descs.length else n) 0

/-- LOAD_PLAY (R97). -/
def execLoadPlay (d : DescRef) (s : State) : Out :=
  withDesc s d 0x0B fun s fk f =>
    let x := f.desc
    let no := opnd x 0 16
    let va := opnd x 16 48
    let n := opnd x 64 9
    let key := playKey f.ctx no
    let old := tget s.q.plays key
    if n = 0 ∨ 256 < n ∨ !clean x 73 375 then doneWith s fk Code.misaligned
    else if (old.map (·.busy)).getD false then doneWith s fk Code.locked
    else match sideCheck s f.ctx [(va, n * 64)] .read with
      | some x => failWith s fk x
      | none => match heldBy s (.command fk) f.ctx [(va, n * 64)] with
      | some s => .next s
      | none =>
        let base : Play := old.getD { ctx := f.ctx, no := no, queue := f.queue, store := f.quarter }
        let q := match queueOf s f.ctx base.queue with
          | some b => b.quarter
          | none => base.store
        let full :=
          (old.isNone && (!underQuota s f.ctx 0x16 (tcount s.q.plays fun _ p => p.ctx == f.ctx) ||
            decide (16384 ≤ s.q.plays.length))) ||
          (f.ctx != 0 && decide (reg s (ctxIdx f.ctx) 0x17 * 16 < storeHeld s f.ctx key + n))
        match (if full then none else storeRun s q n) with
        | none => doneWith s fk Code.quota
        | some at_ =>
          if earlierMeets s fk [(.va va, n * 64)] then .next s
          else
          let r := readVa s f.ctx va (n * 64)
          if r.status ≠ Code.ok then doneWith r.st fk r.status (BitVec.ofNat 64 va)
          else
            let p := { base with store := q, descBase := at_, descs := descsOf r.data }
            doneWith { r.st with q := { r.st.q with plays := tset r.st.q.plays key p } } fk Code.ok

/-- ARM_PLAY (R97, R98): after the fields, the flag is checked first. -/
def execArmPlay (d : DescRef) (s : State) : Out :=
  withDesc s d 0x0C fun s fk f =>
    let x := f.desc
    let named := opnd x 3 12
    let ctx := namedCtx f named
    let key := playKey ctx (opnd x 32 16)
    let trig := opnd x 1 2
    let cmp := opnd x 25 2
    let va := opnd x 64 48
    let queue := opnd x 15 10
    let old := tget s.q.plays key
    let bound := queueOf s ctx queue
    let status := firstOf
      [ (opBit x 0 || !clean x 30 2 || !clean x 48 16 || !clean x 192 256 || cmp == 3 ||
          (trig == 1 && va % 8 != 0), Code.misaligned)
      , (ctxFieldStatus s f named != Code.ok, ctxFieldStatus s f named) ]
    let entry := firstOf
      [ (old.isNone, Code.protection)
      , ((old.map (·.busy)).getD false, Code.locked)
      , (bound.isNone || (bound.map (·.state)) == some .closed, Code.protection) ]
    if status ≠ Code.ok then doneWith s fk status
    else match (if trig = 1 then flagCheck s ctx va cmp else none) with
      | some x => failWith s fk x
      | none =>
        if entry ≠ Code.ok then doneWith s fk entry
        else match (if trig = 1 then heldBy s (.command fk) ctx [(va, 8)] else none) with
        | some s => .next s
        | none =>
        let q := (bound.map (·.quarter)).getD 0
        let p := old.getD {}
        let s' := dropPlayWatch s key
        let place := if p.store = q ∨ p.descs.isEmpty = true then some p.descBase else storeRun s q p.descs.length
        if trig = 1 ∧ 1024 ≤ watchesOn s' q then doneWith s fk Code.quota
        else match place with
          | none => doneWith s fk Code.quota
          | some at_ =>
            let s := modPlay s' key fun p =>
              { p with
                trigger := trig, queue := queue, flagCmp := cmp, oneShot := opBit x 27
                whistleStart := opBit x 28, whistleEnd := opBit x 29, flagVa := va
                huddleNo := opnd x 112 16, flagValue := BitVec.ofNat 64 (opnd x 128 64)
                store := q, descBase := at_, state := .armed, armed := true }
            let s := finish s fk Code.ok
            .next (settle (if trig = 1 then
              addWatch s q { ctx := ctx, va := va, cmp := cmp, value := BitVec.ofNat 64 (opnd x 128 64), who := .play key }
            else s))

/-- DISARM_PLAY (R111). -/
def execDisarmPlay (d : DescRef) (s : State) : Out :=
  withDesc s d 0x0D fun s fk f =>
    let key := playKey f.ctx (opnd f.desc 0 16)
    if clean f.desc 16 432 = false then doneWith s fk Code.misaligned
    else match tget s.q.plays key with
      | none => doneWith s fk Code.protection
      | some _ =>
        let s := modPlay (dropPlayWatch s key) key fun p =>
          { p with armed := false, state := if p.state = .armed then .idle else p.state }
        doneWith s fk Code.ok

/-- The status that the checks of Table 4 give a play's own push, apart from its room (R79): the queue, the
generation, which the play shares, and the source filter against this part's node. -/
def playPushStatus (s : State) (r : Queue) : Status :=
  if r.state = .closed then Code.protection
  else if r.state = .draining then Code.contextRetired
  else if sourcePasses (nodeId s) r.srcBase r.srcMask then Code.ok
  else Code.protection

/-- A pending start whose push is refused is over: it counts as a run that failed with the status (DESIGN
CHOICE, log entry 32: the chapter does not say what becomes of the start). -/
def refusePlay (s : State) (key : Nat) (p : Play) (status : Status) : State :=
  endRun (modPlay (pushRefused s p.ctx p.queue) key fun p => { p with runStatus := status }) key

/-- PLAY_APPEND: the descriptors of a pending start join the bound queue once it is open and has
room (R99). -/
def execPlayAppend (ctx play : Nat) (s : State) : Out :=
  match tget s.q.plays (playKey ctx play) with
  | none => .next s
  | some p =>
    match queueOf s ctx p.queue with
    | none => .next s
    | some r =>
      if p.state = .pending ∧ running s = true ∧ p.descs.isEmpty = false ∧ playPushStatus s r ≠ Code.ok then
        .next (settle (refusePlay s (playKey ctx play) p (playPushStatus s r)))
      else if p.state = .pending ∧ r.state = .opened ∧ p.descs.length ≤ ringFree r ∧ running s = true ∧
          p.descs.isEmpty = false then
        let s := appendDescs s ctx p.queue p.descs (some (playKey ctx play))
        .next (modPlay s (playKey ctx play) fun p => { p with state := .running })
      else .next s

end Sys2Proof.Machine
end

