-- ==== Sys2Proof/Machine/Movers.lean ====
section
/-! DEFINITION. The mover descriptors COPY and FILL (R90 to R95). -/

namespace Sys2Proof.Machine

/-- Rows of one side: offset from the side's start. -/
def rowOffsets (rows pitch : Nat) : List Nat := (List.range rows).map fun r => r * pitch

/-- The window probe of a side that needs more than one data packet (R71). -/
def sideProbe (p : Place) (span packets op : Nat) : List Work :=
  match p with
  | .va _ => []
  | .handle h => if 1 < packets then [.probe h span op] else []

/-- Whether a place names another node than this part (R457). -/
def isRemote (s : State) (p : Place) : Bool :=
  match p with
  | .va _ => false
  | .handle h => handleNode h != nodeId s

/-- The status of the local pages of a side (R70). -/
def localSide (s : State) (ctx : Nat) (p : Place) (offs : List Nat) (len : Nat) (a : Acc) : Option Fail :=
  match p with
  | .va v => sideCheck s ctx (offs.map fun o => (v + o, len)) a
  | .handle _ => none

/-- The local ranges of a side, held while the command runs. -/
def localRanges (p : Place) (offs : List Nat) (len : Nat) : List (Nat × Nat) :=
  match p with
  | .va v => offs.map fun o => (v + o, len)
  | .handle _ => []

/-- Bytes of a pattern aligned to an address (R91). -/
def patternBytes (pat addr len : Nat) : Bytes :=
  (List.range len).map fun i => BitVec.ofNat 8 (pat / 2 ^ (8 * ((addr + i) % 8)))

/-- Address by which a pattern is aligned: the VA, or the window OFFSET. -/
def placeAddr (p : Place) : Nat :=
  match p with
  | .va a => a
  | .handle h => handleOffset h

/-- Operands of a mover descriptor (Table 9). -/
structure MoverOp where
  fill : Bool
  src : Place
  pattern : Nat
  dst : Place
  rowBytes : Nat
  rows : Nat
  srcPitch : Nat
  dstPitch : Nat
  flagEn : Bool
  flag : Place
  flagAddr : Nat
  flagValue : BitVec 64

/-- The operands of a descriptor. -/
def moverOp (d : Desc) (fill : Bool) : MoverOp :=
  { fill := fill, src := placeOf (opBit d 184) (opnd d 0 64), pattern := opnd d 0 64
    dst := placeOf (opBit d 185) (opnd d 64 64), rowBytes := opnd d 128 32, rows := opnd d 160 24
    srcPitch := opnd d 192 32, dstPitch := opnd d 224 32, flagEn := opBit d 186
    flag := placeOf (opBit d 187) (opnd d 256 64), flagAddr := opnd d 256 64
    flagValue := BitVec.ofNat 64 (opnd d 320 64) }

/-- The MISALIGNED checks of R92, with the reserved fields (R5) and a VA beyond 48 bits (R506). -/
def moverMisaligned (d : Desc) (m : MoverOp) : Bool :=
  m.rows == 0 || m.rowBytes == 0 || (decide (1 < m.rows) && decide (m.dstPitch < m.rowBytes)) ||
    (m.flagEn && m.flagAddr % 8 != 0) || (m.fill && opBit d 184) || !clean d 188 4 || !clean d 384 64 ||
    (!m.fill && !opBit d 184 && opnd d 48 16 != 0) || (!opBit d 185 && opnd d 112 16 != 0) ||
    (m.flagEn && !opBit d 187 && opnd d 304 16 != 0)

/-- The pieces of a mover descriptor: rows ascending, each cut into packets (R93). -/
def moverPieces (m : MoverOp) (size : Nat) : List Work :=
  ((List.range m.rows).map fun r => (piecesOf size m.rowBytes).map fun p =>
    let dst := m.dst.add (r * m.dstPitch + p.1)
    if m.fill then .store dst (patternBytes m.pattern (placeAddr dst) p.2)
    else .copy (m.src.add (r * m.srcPitch + p.1)) (.place dst) p.2).flatten

/-- The flagged write that ends a mover descriptor: the last request, which nothing else holds (R93, R133). -/
def moverFlag (m : MoverOp) : List Work :=
  if m.flagEn then [.flag m.flag m.flagValue] else []

/-- The work of a mover descriptor whose sides do not meet: probes, pieces, and the flagged write last
(R71, R92, R93). -/
def orderedWork (m : MoverOp) (size : Nat) : List Work :=
  let packets := m.rows * ((m.rowBytes + size - 1) / size)
  let probes :=
    (if m.fill then [] else sideProbe m.src ((m.rows - 1) * m.srcPitch + m.rowBytes) packets 0) ++
      sideProbe m.dst ((m.rows - 1) * m.dstPitch + m.rowBytes) packets 1
  (if probes.isEmpty then [] else probes ++ [.barrier]) ++ moverPieces m size ++ moverFlag m

/-! ## A COPY whose sides overlap under one name (R124) -/

/-- Address of a byte of one side; bytes are numbered row by row. -/
def sideByte (base pitch rowBytes i : Nat) : Nat := base + i / rowBytes * pitch + i % rowBytes

/-- Whether an address lies in the source, which begins at `a`. -/
def inSource (m : MoverOp) (a x : Nat) : Bool :=
  (List.range m.rows).any fun r => decide (a + r * m.srcPitch ≤ x) && decide (x < a + r * m.srcPitch + m.rowBytes)

/-- The byte of the destination, which begins at `b`, that lies at an address. -/
def dstByteAt (m : MoverOp) (b x : Nat) : Option Nat :=
  (List.range m.rows).findSome? fun r =>
    if b + r * m.dstPitch ≤ x ∧ x < b + r * m.dstPitch + m.rowBytes then
      some (r * m.rowBytes + (x - (b + r * m.dstPitch)))
    else none

/-- The source byte whose value from before the copy a destination byte receives (R124). A byte of the
overlap takes its own source byte, or the value that the copy wrote over that source byte; which of
the two is a free value of draw `n`. A byte outside the overlap takes its own. -/
def copiedFrom (m : MoverOp) (a b n : Nat) : Nat → Nat → Nat
  | 0, i => i
  | fuel + 1, i =>
    if inSource m a (sideByte b m.dstPitch m.rowBytes i) && (Config.freeByte n i).getLsbD 0 then
      match dstByteAt m b (sideByte a m.srcPitch m.rowBytes i) with
      | some j => copiedFrom m a b n fuel j
      | none => i
    else i

/-- The work of a COPY whose sides meet: each byte from where it is copied, then the rows. -/
def overlapWork (m : MoverOp) (a b size n : Nat) : List Work :=
  let total := m.rows * m.rowBytes
  ((List.range total).map fun i =>
      .copy (.va (sideByte a m.srcPitch m.rowBytes (copiedFrom m a b n total i))) (.buffer i) 1) ++ [.barrier] ++
    ((List.range m.rows).map fun r => (piecesOf size m.rowBytes).map fun p =>
      .drain (r * m.rowBytes + p.1) p.2 (.va (b + r * m.dstPitch + p.1))).flatten ++ moverFlag m

/-- Start addresses of the sides of a COPY whose spans meet under VAs. -/
def sidesMeet (m : MoverOp) : Option (Nat × Nat) :=
  match m.fill, m.src, m.dst with
  | false, .va a, .va b =>
    if a < b + (m.rows - 1) * m.dstPitch + m.rowBytes ∧ b < a + (m.rows - 1) * m.srcPitch + m.rowBytes then
      some (a, b)
    else none
  | _, _, _ => none

/-- The work of a mover descriptor (R93, R124); `n` is the draw of its free values. -/
def moverWork (m : MoverOp) (size n : Nat) : List Work :=
  match sidesMeet m with
  | some x => overlapWork m x.1 x.2 size n
  | none => orderedWork m size

/-- The failure of a mover's local pages: the source's, then the destination's, then the flag's, the
lowest-addressed of each (R70). -/
def moverCheck (s : State) (ctx : Nat) (m : MoverOp) : Option Fail :=
  let src := if m.fill then none
    else localSide s ctx m.src (rowOffsets m.rows m.srcPitch) m.rowBytes .read
  let dst := localSide s ctx m.dst (rowOffsets m.rows m.dstPitch) m.rowBytes .write
  let flag := if m.flagEn then localSide s ctx m.flag [0] 8 .flagged else none
  match [src, dst, flag].find? fun x => x.any fun e => e.1 == Code.misaligned with
  | some e => e
  | none => lowerFail src (lowerFail dst flag)

/-- A mover descriptor (R90 to R94). -/
def moverRun (op : Nat) (fill : Bool) (d : DescRef) (s : State) : Out :=
  withDesc s d op fun s fk f =>
    let m := moverOp f.desc fill
    let fromF := ((queueOf s f.ctx f.queue).map (·.fQueue)).getD false
    if moverMisaligned f.desc m then doneWith s fk Code.misaligned
    else if fromF && ((!fill && isRemote s m.src) || isRemote s m.dst || (m.flagEn && isRemote s m.flag)) then
      doneWith s fk Code.protection
    else if trackerFull s f.quarter then .next s
    else match moverCheck s f.ctx m with
      | some x => failWith s fk x
      | none =>
        let ranges :=
          (if fill then [] else localRanges m.src (rowOffsets m.rows m.srcPitch) m.rowBytes) ++
            localRanges m.dst (rowOffsets m.rows m.dstPitch) m.rowBytes ++
            (if m.flagEn then localRanges m.flag [0] 8 else [])
        let s := ranges.foldl (fun s r => lookupRange s f.quarter (moverStream f.engine f.ctx) f.ctx r.1 r.2) s
        let s := hold (waitOn s fk) f.quarter f.ctx (holdFlight fk) ranges
        let n := s.fresh
        let s := if (sidesMeet m).isSome then draw s else s
        .next (settle (startJob s (flightJob s fk f) (moverWork m (reg s 0x6000 0x03) n)))

/-- COPY. -/
def execCopy (d : DescRef) (s : State) : Out := moverRun 0x20 false d s

/-- FILL. -/
def execFill (d : DescRef) (s : State) : Out := moverRun 0x21 true d s

end Sys2Proof.Machine
end

