-- ==== Sys2Proof/Machine/StepEngine.lean ====
section
/-! DEFINITION. The commands of the step engine and of the innings ledger (R247 to R272). -/

namespace Sys2Proof.Machine

/-- A rebuild of the context runs on this part (R370). -/
def rebuilding (s : State) (ctx : Nat) : Bool :=
  ((tget s.recov.rebuilds ctx).map fun r => r.state == 1).getD false

/-- The stream of a number on a quarter, where it belongs to a context. -/
def streamFor (s : State) (q no ctx : Nat) : Option Stream :=
  match tget s.step.streams (streamKey q no) with
  | some st => if st.ctx = ctx then some st else none
  | none => none

/-- The failure of the lowest-addressed page of some ranges that must allow READ, WRITE and REDUCE
(R251, R269). -/
def bankCheck (s : State) (ctx : Nat) (rs : List (Nat × Nat)) : Option Fail :=
  rangesCheck s ctx ((rs.map fun r =>
    [(r.1, r.2, Acc.read), (r.1, r.2, Acc.write), (r.1, r.2, Acc.reduce)]).flatten)

/-- Two ranges in rising order. -/
def rising (a b : Nat × Nat) : List (Nat × Nat) := if b.1 < a.1 then [b, a] else [a, b]

/-- Whether two ranges share a byte. -/
def rangesMeet (a b : Nat × Nat) : Bool := decide (a.1 < b.1 + b.2) && decide (b.1 < a.1 + a.2)

/-! ## STREAM_ARM and STREAM_DISARM (R248 to R252) -/

/-- The record of a STREAM_ARM operand (Table 1). -/
def streamOf (x : BitVec 416) (q ctx : Nat) : Stream :=
  { ctx := ctx, no := bits x 13 6, quarter := q, rule := bits x 19 2, nesterov := bit x 21
    fromMemory := bit x 22, gradFmt := bits x 23 4, emitFmt := bits x 27 4, emitEn := bit x 31
    emitStochastic := bit x 32, readyFlag := bit x 33, commitFlag := bit x 34, params := bits x 64 31
    bank0 := bits x 128 48, bank1 := bits x 176 48, gradVa := bits x 224 48, emitGroup := bits x 272 12
    emitBase := bits x 288 38, emitAlt := bits x 326 38, flagOffset := bits x 366 38 }

/-- Whether reserved bits of the operand are set, or VALID. -/
def streamReserved (d : Desc) : Bool :=
  opBit d 0 || !clean d 35 29 || !clean d 95 33 || !clean d 284 4 || !clean d 364 2 || !clean d 404 44

/-- The two banks of a stream. -/
def Stream.banks (st : Stream) : List (Nat × Nat) :=
  rising (st.bank0, bankBytes st.rule st.params) (st.bank1, bankBytes st.rule st.params)

/-- The ranges a stream holds: its banks, and in memory mode its gradients. -/
def Stream.ranges (st : Stream) : List (Nat × Nat) :=
  st.banks ++ (if st.fromMemory then [(st.gradVa, st.params / 256 * unitBytes st.gradFmt)] else [])

/-- Check 1 of R251. -/
def streamMisaligned (s : State) (st : Stream) : Bool :=
  let b := bankBytes st.rule st.params
  st.rule == 3 || decide (10 < st.gradFmt) || decide (10 < st.emitFmt) || decide (st.params < 256) ||
    decide (2 ^ 30 < st.params) || st.params % 256 != 0 || st.bank0 % 65536 != 0 || st.bank1 % 65536 != 0 ||
    (st.fromMemory && st.gradVa % 65536 != 0) || rangesMeet (st.bank0, b) (st.bank1, b) ||
    (st.nesterov && st.rule != 0) || ((st.readyFlag || st.commitFlag) && !st.emitEn) ||
    st.flagOffset % 8 != 0 || decide (4096 < sidePages s st.ctx st.banks 0 0)

/-- STREAM_ARM. -/
def execStreamArm (d : DescRef) (s : State) : Out :=
  withDesc s d 0x60 fun s fk f =>
    let x : BitVec 416 := f.desc.extractLsb' 64 416
    let n := bits x 1 12
    let ctx := namedCtx f n
    let st := streamOf x f.quarter ctx
    let key := streamKey f.quarter st.no
    let status := firstOf
      [ (streamReserved f.desc || streamMisaligned s st, Code.misaligned)
      , (ctxFieldStatus s f n != Code.ok, ctxFieldStatus s f n)
      , (st.emitEn && (groupFor s st.emitGroup ctx 0).isNone, Code.protection)
      , (thas s.step.streams key || (ledgerOf s ctx).state != 0, Code.locked) ]
    if status ≠ Code.ok then doneWith s fk status
    else match bankCheck s ctx st.ranges with
      | some x => failWith s fk x
      | none =>
        if !underQuota s ctx 0x19 (tcount s.step.streams fun _ x => x.ctx == ctx) then
          doneWith s fk Code.quota
        else if trackerFull s f.quarter then .next s
        else
          let s := hold s f.quarter ctx (holdStream key) st.ranges
          doneWith { s with step := { s.step with streams := tset s.step.streams key st } } fk Code.ok

/-- Applies of a stream that has gone end: one in progress ABORTED, those that wait PROTECTION. -/
def dropApplies (s : State) (key : Nat) (st : Stream) : State :=
  let s := match st.flight with
    | some fk => finish (endJob s (.emission key)) fk Code.aborted
    | none => s
  retryApplies s st.ctx

/-- STREAM_DISARM. -/
def execStreamDisarm (d : DescRef) (s : State) : Out :=
  withDesc s d 0x61 fun s fk f =>
    let n := opnd f.desc 64 12
    let ctx := namedCtx f n
    let key := streamKey f.quarter (opnd f.desc 0 6)
    let state := (ledgerOf s ctx).state
    let status := firstOf
      [ (!clean f.desc 6 58 || !clean f.desc 76 372, Code.misaligned)
      , (ctxFieldStatus s f n != Code.ok, ctxFieldStatus s f n)
      , ((streamFor s f.quarter (opnd f.desc 0 6) ctx).isNone, Code.protection)
      , ((state != 0 && state != 6) || rebuilding s ctx, Code.locked) ]
    if status ≠ Code.ok then doneWith s fk status
    else match tget s.step.streams key with
      | none => doneWith s fk Code.protection
      | some st =>
        let s := release s (holdStream key)
        let s := { s with step := { s.step with streams := tdel s.step.streams key } }
        doneWith (dropApplies s key st) fk Code.ok

/-! ## STEP_APPLY (R253 to R258) -/

/-- Whether reserved bits of the operand are set (Table 3). -/
def applyReserved (d : Desc) : Bool :=
  !clean d 6 2 || !clean d 41 7 || !clean d 80 16 || !clean d 396 52

/-- Whether CLIP_EN is set on a fed stream (R255). -/
def clipsFed (s : State) (f : Flight) : Bool :=
  opBit f.desc 40 &&
    (match streamFor s f.quarter (opnd f.desc 0 6) (applyCtx f) with
     | some st => !st.fromMemory
     | none => false)

/-- STEP_APPLY: the apply starts, waits, or ends by its innings (R254, R256). -/
def execStepApply (d : DescRef) (s : State) : Out :=
  withDesc s d 0x62 fun s fk f =>
    let n := opnd f.desc 384 12
    let status := firstOf
      [ (applyReserved f.desc || clipsFed s f, Code.misaligned)
      , (ctxFieldStatus s f n != Code.ok, ctxFieldStatus s f n)
      , (rebuilding s (applyCtx f), Code.locked) ]
    if status ≠ Code.ok then doneWith s fk status
    else
      let s := tryApply (waitOn s fk) fk
      .next (settle s)

/-- Every armed stream of a context has applied an innings (Table 6). -/
def streamsApplied (s : State) (ctx innings : Nat) : Bool :=
  s.step.streams.all fun x => x.2.ctx != ctx || (x.2.state == 2 && x.2.applied == innings)

/-- The ledger after an apply has ended (Table 6). -/
def applyEnds (s : State) (ctx : Nat) (status : Status) : State :=
  let l := ledgerOf s ctx
  if l.state ≠ 0 ∧ l.state ≠ 1 then s
  else if status ≠ Code.ok then runAll (abortOpen s ctx)
  else if streamsApplied s ctx l.innings then runAll (allApplied s ctx)
  else s

/-- APPLY_COMPLETE: every parameter is in the new bank, or the apply has been stopped, and every
emission request is final (R257). -/
def execApplyComplete (d : DescRef) (s : State) : Out :=
  match waitingOp s d 0x62, applyStreamOf s (refKey d) with
  | some f, some key =>
    match tget s.step.streams key with
    | none => .next s
    | some st =>
      let job := jobOf s (.emission key)
      let ready := ((job.map (·.isDone)).getD true) && (st.failing.isSome || st.done == st.params)
      if !ready then .next s
      else
        let status := f.forced.getD (st.failing.getD Code.ok)
        let emitted := (job.map (·.status)).getD Code.ok
        let detail := BitVec.ofNat 64 (emitted.toNat + st.nonFinite % 2 ^ 32 * 2 ^ 32)
        let s := modStream (endJob s (.emission key)) key fun st =>
          { st with
            flight := none, failing := none
            state := if status = Code.ok then 2 else if st.state = 3 then 3 else 0
            applied := if status = Code.ok then st.innings.getD 0 else st.applied }
        let s := finish s (refKey d) status detail
        .next (settle (applyEnds s st.ctx status))
  | _, _ => .next s

/-! ## The ledger's descriptors (R263, R266, R267) -/

/-- A huddle of a context that the ledger may arrive at. -/
def ledgerHuddle (s : State) (ctx no : Nat) : Option Huddle := tget s.huddles (huddleKey ctx no)

/-- LEDGER_ARM. -/
def execLedgerArm (d : DescRef) (s : State) : Out :=
  withDesc s d 0x63 fun s fk f =>
    let n := opnd f.desc 64 12
    let ctx := namedCtx f n
    let l := ledgerOf s ctx
    let hs := [ledgerHuddle s ctx (opnd f.desc 0 16), ledgerHuddle s ctx (opnd f.desc 16 16)]
    let status := firstOf
      [ (!clean f.desc 33 31 || !clean f.desc 76 372, Code.misaligned)
      , (ctxFieldStatus s f n != Code.ok, ctxFieldStatus s f n)
      , (l.state != 0 || l.innings != l.committed + 1, Code.locked)
      , (hs.any (·.isNone), Code.protection)
      , (hs.any fun h => (h.map (·.combine)) != some 2, Code.misaligned) ]
    if status ≠ Code.ok then doneWith s fk status
    else
      doneWith (modLedger s ctx fun l =>
        { l with
          armed := true, prepare := opnd f.desc 0 16, commit := opnd f.desc 16 16
          prepareEn := opBit f.desc 32 }) fk Code.ok

/-- Applies of a context in progress stop, and those that wait end ABORTED (R258). -/
def stopApplies (s : State) (ctx : Nat) : State :=
  let s := (waitingApplies s ctx).foldl (fun s fk => finish s fk Code.aborted) s
  (s.step.streams.filter fun x => x.2.ctx == ctx && x.2.flight.isSome).foldl
    (fun s x => stopApply s x.1 Code.aborted) s

/-- Whether the innings of a context was committed on this cycle: a LEDGER_ABORT then finds it in READY
(R268). -/
def committedNow (s : State) (ctx : Nat) : Bool := (ledgerOf s ctx).raisedAt == some (s.now, true)

/-- LEDGER_ABORT. -/
def execLedgerAbort (d : DescRef) (s : State) : Out :=
  withDesc s d 0x65 fun s fk f =>
    let n := opnd f.desc 64 12
    let ctx := namedCtx f n
    let state := (ledgerOf s ctx).state
    let status := firstOf
      [ (!clean f.desc 0 64 || !clean f.desc 76 372, Code.misaligned)
      , (ctxFieldStatus s f n != Code.ok, ctxFieldStatus s f n)
      , (state == 4 || state == 5 || committedNow s ctx, Code.locked) ]
    if status ≠ Code.ok then doneWith s fk status
    else
      let s :=
        match state with
        | 0 => runAll (abortOpen (stopApplies s ctx) ctx)
        | 1 => runAll (abortOpen (stopApplies s ctx) ctx)
        | 2 => modLedger s ctx fun l => { l with abortRecorded := true }
        | 3 => runAll (abortParity s ctx)
        | _ => s
      doneWith s fk Code.ok

/-- LEDGER_RESOLVE. -/
def execLedgerResolve (d : DescRef) (s : State) : Out :=
  withDesc s d 0x66 fun s fk f =>
    let n := opnd f.desc 64 12
    let ctx := namedCtx f n
    let status := firstOf
      [ (!clean f.desc 1 63 || !clean f.desc 76 372, Code.misaligned)
      , (ctxFieldStatus s f n != Code.ok, ctxFieldStatus s f n)
      , ((ledgerOf s ctx).state != 5, Code.locked) ]
    if status ≠ Code.ok then doneWith s fk status
    else doneWith (if opBit f.desc 0 then commitInnings s ctx else ledgerAborts s ctx) fk Code.ok

/-! ## Parity (R269 to R271) -/

/-- The record of a PARITY_ARM operand (Table 7). -/
def parityOf (x : BitVec 284) (q ctx : Nat) : ParityRec :=
  { ctx := ctx, quarter := q, stream := bits x 0 6, index := bits x 6 2
    nodes := [bits x 8 12, bits x 20 12, bits x 32 12, bits x 44 12], window := bits x 64 14
    offset0 := bits x 80 38, offset1 := bits x 128 38, parVa0 := bits x 176 48, parVa1 := bits x 224 48 }

/-- Whether reserved bits of the operand are set. -/
def parityReserved (d : Desc) : Bool :=
  !clean d 56 8 || !clean d 78 2 || !clean d 118 10 || !clean d 166 10 || !clean d 284 164

/-- The two parity banks of a record of a stream. -/
def ParityRec.banks (p : ParityRec) (st : Stream) : List (Nat × Nat) :=
  rising (p.parVa0, stripeBytes st.rule st.params) (p.parVa1, stripeBytes st.rule st.params)

/-- Check 1 of R269, without what needs the stream. -/
def parityMisaligned (s : State) (p : ParityRec) : Bool :=
  p.nodes.getD p.index 0 != nodeId s || p.offset0 % 65536 != 0 || p.offset1 % 65536 != 0 ||
    p.parVa0 % 65536 != 0 || p.parVa1 % 65536 != 0

/-- The part of check 1 of R269 that the stream's sizes decide, and the page limit of R70. -/
def parityOverlaps (s : State) (p : ParityRec) (st : Stream) : Bool :=
  let z := stripeBytes st.rule st.params
  rangesMeet (p.parVa0, z) (p.parVa1, z) ||
    ((p.banks st).any fun a => st.banks.any (rangesMeet a)) ||
    decide (4096 < sidePages s p.ctx (p.banks st) 0 0)

/-- PARITY_ARM. -/
def execParityArm (d : DescRef) (s : State) : Out :=
  withDesc s d 0x64 fun s fk f =>
    let x : BitVec 284 := f.desc.extractLsb' 64 284
    let n := bits x 272 12
    let ctx := namedCtx f n
    let p := parityOf x f.quarter ctx
    let key := streamKey f.quarter p.stream
    let st := streamFor s f.quarter p.stream ctx
    let status := firstOf
      [ (parityReserved f.desc || parityMisaligned s p || (st.any (parityOverlaps s p)), Code.misaligned)
      , (ctxFieldStatus s f n != Code.ok, ctxFieldStatus s f n)
      , (st.isNone, Code.protection)
      , ((ledgerOf s ctx).state != 0 || thas s.step.parity key || rebuilding s ctx, Code.locked) ]
    if status ≠ Code.ok then doneWith s fk status
    else
      let ranges := (st.map p.banks).getD []
      match bankCheck s ctx ranges with
      | some (e, va) => doneWith s fk e (BitVec.ofNat 64 va)
      | none =>
        if 64 ≤ tcount s.step.parity fun _ r => r.quarter == f.quarter then doneWith s fk Code.quota
        else if trackerFull s f.quarter then .next s
        else
          let s := hold s f.quarter ctx (holdParity key) ranges
          doneWith { s with step := { s.step with parity := tset s.step.parity key p } } fk Code.ok

/-- PARITY_COMPLETE: every row of a context is written, or one of them has failed (Table 6). -/
def execParityComplete (ctx : Nat) (s : State) : Out :=
  let l := ledgerOf s ctx
  if l.state ≠ 3 then .next s
  else
    let rows := s.step.parity.filter fun x => x.2.ctx == ctx
    let jobs := rows.map fun x => jobOf s (.parity x.1 l.innings)
    let failed := (rows.any fun x => x.2.row == 3 || x.2.row == 4) ||
      jobs.any fun j => (j.bind (·.failed)).isSome
    if failed then .next (settle (runAll (abortParity s ctx)))
    else if jobs.all fun j => (j.map (·.isDone)).getD false then
      let s := rows.foldl (fun s x => setRow s x.1 2) s
      .next (settle (runAll (goReady (stopRows s ctx) ctx)))
    else .next s

/-! ## EMIT_COMMITTED (R260) -/

/-- Work numbered from a number of its own for each member, members ascending (R172). -/
def memberWork (work : BitVec 32 → List Work) : Nat → List (BitVec 32) → List (Nat × Work)
  | _, [] => []
  | m, w :: ws => numberWork (m * memberSpan) (work w) ++ memberWork work (m + 1) ws

/-- The committed copy of a stream as the work of one member: its data, then the ready flag, which
READY_FLAG_EN does not govern here (R260). -/
def committedWork (st : Stream) (committed : Nat) (data : Bytes) (w : BitVec 32) : List Work :=
  let off := st.emitBase + (if committed % 2 = 1 then st.emitAlt else 0)
  multicastProbes [w] off data.length ++ multicastStores [w] off data ++ [memberFlag w st.flagOffset committed]

/-- A job starts with work that is numbered already. -/
def startNumbered (s : State) (j : Job) (ws : List (Nat × Work)) : State :=
  setJobs s (tset s.net.jobs (jobKey j.kind) { j with todo := ws, live := [], issued := ws.length })

/-- EMIT_COMMITTED. -/
def execEmitCommitted (d : DescRef) (s : State) : Out :=
  withDesc s d 0x67 fun s fk f =>
    let n := opnd f.desc 64 12
    let ctx := namedCtx f n
    let state := (ledgerOf s ctx).state
    let status := firstOf
      [ (!clean f.desc 6 58 || !clean f.desc 76 372, Code.misaligned)
      , (ctxFieldStatus s f n != Code.ok, ctxFieldStatus s f n)
      , ((streamFor s f.quarter (opnd f.desc 0 6) ctx).isNone, Code.protection)
      , (state != 0 && state != 6, Code.locked) ]
    if status ≠ Code.ok then doneWith s fk status
    else match streamFor s f.quarter (opnd f.desc 0 6) ctx with
      | none => doneWith s fk Code.protection
      | some st =>
        if !st.emitEn then doneWith s fk Code.ok
        else match groupFor s st.emitGroup ctx 0 with
          | none => doneWith s fk Code.protection
          | some g =>
            let c := (ledgerOf s ctx).committed
            match heldBy s (.command fk) ctx [(st.bank c, st.params * 4)] with
            | some s => .next s
            | none =>
            let w := readVa s ctx (st.bank c) (st.params * 4)
            if w.status ≠ Code.ok then doneWith w.st fk w.status (BitVec.ofNat 64 (st.bank c))
            else
              let rs := roundings st.emitStochastic (roundSeed s ctx) (0xF000 + 64 * f.quarter + st.no) c 0
                st.params
              let data := encodeElems st.emitFmt rs (words32 w.data)
              let j := { flightJob s fk f with
                ctx := ctx, gen := ctxGen s ctx, srcQueue := issuer f.quarter (8 + st.no), multicast := true }
              .next (settle (startNumbered (waitOn w.st fk) j (memberWork (committedWork st c data) 0 g.members)))

end Sys2Proof.Machine
end

