-- ==== Sys2Proof/Machine/Arenas.lean ====
section
/-! DEFINITION. The commands of arenas, of Pewter and of the tiers' background work (R283, R284,
R292 to R303). -/

namespace Sys2Proof.Machine

/-! ## ARENA_ARM and ARENA_DISARM (R293, R294, R302) -/

/-- The record of an ARENA_ARM operand (Table 6). -/
def arenaOf (x : BitVec 192) (home ctx : Nat) : Arena :=
  { ctx := ctx, no := bits x 13 8, home := home, adopt := bit x 23, base := bits x 64 48
    sectors := bits x 112 32, tiles := bits x 144 24 }

/-- Whether reserved or read-only bits of the operand are set. -/
def arenaReserved (d : Desc) : Bool :=
  opBit d 0 || !clean d 21 2 || !clean d 24 40 || !clean d 168 280

/-- The range of an arena. -/
def Arena.range (a : Arena) : Nat × Nat := (a.base, a.sectors * 4096)

/-- Check 1 of R294. -/
def arenaMisaligned (s : State) (a : Arena) : Bool :=
  a.base % 65536 != 0 || a.tiles == 0 || decide (a.sectors ≤ a.dataFrom) ||
    decide (4096 < sidePages s a.ctx [a.range] 0 0)

/-- The failure of the lowest page of a range that must be CODEC with READ and WRITE. -/
def codecCheck (s : State) (ctx va len : Nat) : Option Fail :=
  let c := coverOf s ctx va len
  match c.1.find? fun g => !(g.ext.codec && g.ext.read && g.ext.write) with
  | some g => some (Code.protection, g.ext.pageOf g.va)
  | none => c.2.map fun p => (Code.translationFault, p)

/-- Length of an arena's largest free run. -/
def Arena.largestRun (a : Arena) : Nat := a.gaps.foldl (fun n g => max n g.2) 0

/-- Whether a run lies in the data sectors and apart from the runs taken so far. -/
def Arena.runFits (a : Arena) (e : DirEntry) : Bool :=
  decide (0 < e.sectors) && decide (a.dataFrom ≤ e.first) && decide (e.first + e.sectors ≤ a.sectors) &&
    !(a.used.any (rangesMeet (e.first, e.sectors)))

/-- Directory entries from a tile number on are taken over: valid ones whose run fits are allocated,
and others are made invalid and counted. The fuel is the number of entries left. -/
def adoptDir (key : Nat) : Nat → Nat → State → Arena → Nat → State × Status × Nat
  | 0, _, s, a, n => (modArena s key fun _ => a, Code.ok, n)
  | fuel + 1, tile, s, a, n =>
    match readDir s key a tile with
    | (s, .error st) => (s, st, n)
    | (s, .ok e) =>
      if !e.valid then adoptDir key fuel (tile + 1) s a n
      else if a.runFits e then
        adoptDir key fuel (tile + 1) s { a with used := insertRun (e.first, e.sectors) a.used } n
      else
        match writeDir s key a tile { e with valid := false } with
        | (s, st) => if st = Code.ok then adoptDir key fuel (tile + 1) s a (n + 1) else (s, st, n)

/-- The directory of a new arena is written as all invalid. -/
def blankDir (s : State) (key : Nat) (a : Arena) : State × Status × Nat :=
  let r := writeVa s a.ctx a.base (List.replicate (dirSectors a.tiles * 4096) 0)
  if r.status = Code.ok then (r.st, Code.ok, 0) else (arenaFails r.st key r.status, r.status, 0)

/-- The status with which ARENA_ARM ends once directory and free map are in place; the record is
failed if either could not be (R300). -/
def layArena (s : State) (key : Nat) (a : Arena) : State × Status × Nat :=
  let s := { s with pewter := { s.pewter with arenas := tset s.pewter.arenas key a } }
  let r := if a.adopt then adoptDir key a.tiles 0 s a 0 else blankDir s key a
  if r.2.1 ≠ Code.ok then r
  else
    let s := writeMap r.1 key
    match tget s.pewter.arenas key with
    | some b =>
      if b.failed then (s, Code.integrity, r.2.2)
      else (modArena s key fun b => { b with largest := b.largestRun }, Code.ok, r.2.2)
    | none => (s, Code.ok, r.2.2)

/-- ARENA_ARM. -/
def execArenaArm (d : DescRef) (s : State) : Out :=
  withDesc s d 0x80 fun s fk f =>
    let x : BitVec 192 := f.desc.extractLsb' 64 192
    let n := bits x 1 12
    let ctx := namedCtx f n
    let a := arenaOf x f.quarter ctx
    let key := arenaKey ctx a.no
    let status := firstOf
      [ (arenaReserved f.desc || arenaMisaligned s a, Code.misaligned)
      , (ctxFieldStatus s f n != Code.ok, ctxFieldStatus s f n)
      , (thas s.pewter.arenas key, Code.locked)
      , (tany s.pewter.arenas fun _ o => o.ctx == ctx && rangesMeet o.range a.range, Code.protection) ]
    if status ≠ Code.ok then doneWith s fk status
    else match codecCheck s ctx a.base (a.sectors * 4096) with
      | some x => failWith s fk x
      | none =>
        if 1024 ≤ s.pewter.arenas.length ∨ !underQuota s ctx 0x1A (tcount s.pewter.arenas fun _ o => o.ctx == ctx) then
          doneWith s fk Code.quota
        else if trackerFull s f.quarter then .next s
        else
          let r := layArena (hold s f.quarter ctx (holdArena key) [a.range]) key a
          doneWith r.1 fk r.2.1 (BitVec.ofNat 64 r.2.2)

/-- ARENA_DISARM: the arena closes at once, and the command completes with its last tile command. -/
def execArenaDisarm (d : DescRef) (s : State) : Out :=
  withDesc s d 0x81 fun s fk f =>
    let n := opnd f.desc 64 12
    let key := arenaKey (namedCtx f n) (opnd f.desc 0 8)
    let status := firstOf
      [ (!clean f.desc 8 56 || !clean f.desc 76 372, Code.misaligned)
      , (ctxFieldStatus s f n != Code.ok, ctxFieldStatus s f n)
      , (((tget s.pewter.arenas key).map fun a => !a.closing) != some true, Code.protection) ]
    if status ≠ Code.ok then doneWith s fk status
    else
      let s := modArena (waitOn s fk) key fun a => { a with closing := true, closer := some fk }
      .next (settle (closeArena s key))

/-! ## Tile commands (R295 to R299) -/

/-- Whether a reserved field of Table 9 is set. -/
def tileReserved (d : Desc) : Bool := !clean d 153 7 || !clean d 205 3 || !clean d 384 64

/-- Whether FLAG_ADDR is misaligned, or a VA beyond 48 bits (R506). -/
def tileFlagBad (d : Desc) : Bool :=
  opBit d 203 && (opnd d 256 64 % 8 != 0 || (!opBit d 204 && opnd d 304 16 != 0))

/-- Whether the shape or PITCH of the plain side breaks R285 in a format, or its VA is beyond 48
bits. -/
def plainBad (d : Desc) (fmt : Nat) : Bool :=
  !shapeOk fmt (opnd d 64 24) (opnd d 88 32) ||
    (decide (1 < opnd d 64 24) && decide (opnd d 120 32 < rowBytes fmt (opnd d 88 32))) ||
    (!opBit d 152 && opnd d 48 16 != 0)

/-- Whether MODE 2 names a plain or stored format outside Table 5. -/
def requantiseBad (d : Desc) : Bool :=
  decide (2 < opnd d 194 4) || decide (opnd d 198 4 < 3) || decide (10 < opnd d 198 4) ||
    !shapeOk (opnd d 198 4) (opnd d 64 24) (opnd d 88 32)

/-- Check 1 of R296, by opcode, as far as the descriptor alone decides it. -/
def tileMisaligned (op : Nat) (d : Desc) : Bool :=
  tileReserved d ||
    (match op with
     | 0x82 => opnd d 192 2 == 3 || plainBad d (opnd d 194 4) ||
         (opnd d 192 2 == 2 && requantiseBad d) || tileFlagBad d
     | 0x83 => plainBad d (opnd d 198 4) || tileFlagBad d
     | 0x84 => tileFlagBad d
     | _ => false)

/-- Arena and tile numbers that a tile command names. -/
def tileNames (d : Desc) : List (Nat × Nat) :=
  (opnd d 160 8, opnd d 168 24) ::
    (if opcodeOf d = 0x84 then [(opnd d 224 8, opnd d 232 24)] else [])

/-- Whether an earlier tile command of the queue names one of the same tiles (R299). -/
def tileBehind (s : State) (fk : Nat) (d : Desc) : Bool :=
  (flightsBefore s fk).any fun g =>
    isTileOp (opcodeOf g.desc) && (tileNames g.desc).any fun t => (tileNames d).contains t

/-- The failure of the local pages of the plain side in a format, then of the flag (R70). -/
def tileSides (s : State) (ctx : Nat) (d : Desc) (plain : Option (Nat × Acc)) : Option Fail :=
  let a := match plain with
    | some (fmt, acc) =>
      localSide s ctx (plainPlace d) (rowOffsets (opnd d 64 24) (opnd d 120 32)) (rowBytes fmt (opnd d 88 32)) acc
    | none => none
  let b := if opBit d 203 then localSide s ctx (flagPlace d) [0] 8 .flagged else none
  match [a, b].find? fun x => x.any fun e => e.1 == Code.misaligned with
  | some e => e
  | none => lowerFail a b

/-- The local ranges of the same sides, held while the command runs. -/
def tileRanges (d : Desc) (plain : Option Nat) : List (Nat × Nat) :=
  (match plain with
   | some fmt =>
     localRanges (plainPlace d) (rowOffsets (opnd d 64 24) (opnd d 120 32)) (rowBytes fmt (opnd d 88 32))
   | none => []) ++
    (if opBit d 203 then localRanges (flagPlace d) [0] 8 else [])

/-- The probe of a plain side behind a handle (R71). -/
def plainProbe (d : Desc) (fmt op : Nat) : List Work :=
  let rb := rowBytes fmt (opnd d 88 32)
  let p := sideProbe (plainPlace d) ((opnd d 64 24 - 1) * opnd d 120 32 + rb)
    (opnd d 64 24 * ((rb + 8191) / 8192)) op
  if p.isEmpty then [] else p ++ [.barrier]

/-- The plain rows of a tile read into the buffer. -/
def packReads (d : Desc) : List Work :=
  ((plainRows d (opnd d 194 4)).map fun r => (piecesOf 8192 r.2.2).map fun p =>
    .copy ((plainPlace d).add (r.1 + p.1)) (.buffer (r.2.1 + p.1)) p.2).flatten

/-- A tile command begins: it waits, holds its ranges and joins the readers of its arena. -/
def beginTile (s : State) (fk : Nat) (f : Flight) (key : Nat) (plain : Option Nat) : State :=
  joinArena (hold (waitOn s fk) f.quarter f.ctx (holdFlight fk) (tileRanges f.desc plain)) key (readerOf fk)

/-- TILE_PACK (R297). -/
def execTilePack (d : DescRef) (s : State) : Out :=
  withDesc s d 0x82 fun s fk f =>
    let x := f.desc
    let key := arenaKey f.ctx (opnd x 160 8)
    if tileBehind s fk x then .next s
    else if tileMisaligned 0x82 x then doneWith s fk Code.misaligned
    else if (arenaFor s f.ctx (opnd x 160 8) (opnd x 168 24)).isNone then doneWith s fk Code.protection
    else match tileSides s f.ctx x (some (opnd x 194 4, .read)) with
      | some x => failWith s fk x
      | none =>
        if trackerFull s f.quarter then .next s
        else
          let s := setTileWork (beginTile s fk f key (some (opnd x 194 4))) fk
            { arena := key, tile := opnd x 168 24 }
          .next (settle (startJob s (flightJob s fk f) (plainProbe x (opnd x 194 4) 0 ++ packReads x)))

/-- A tile command past its first two checks reads its directory entry: a tile that is not VALID
fails with its number (check 3 of R296). -/
def withTile (s : State) (fk : Nat) (f : Flight) (k : State → Nat → Arena → DirEntry → Out) : Out :=
  let no := opnd f.desc 160 8
  let tile := opnd f.desc 168 24
  if tileBehind s fk f.desc then .next s
  else if tileMisaligned (opcodeOf f.desc) f.desc then doneWith s fk Code.misaligned
  else match arenaFor s f.ctx no tile with
    | none => doneWith s fk Code.protection
    | some a =>
      if opcodeOf f.desc = 0x84 ∧ (arenaFor s f.ctx (opnd f.desc 224 8) (opnd f.desc 232 24)).isNone then
        doneWith s fk Code.protection
      else match readDir s (arenaKey f.ctx no) a tile with
        | (s, .error st) => doneWith s fk st
        | (s, .ok e) =>
          if !e.valid then doneWith s fk Code.translationFault (BitVec.ofNat 64 tile)
          else k s (arenaKey f.ctx no) a e

/-- Whether a tile's header refuses an unpack: a shape that is not the descriptor's, or an output
format outside R291. -/
def unpackBad (h : TileHdr) (d : Desc) : Bool :=
  h.rows != opnd d 64 24 || h.cols != opnd d 88 32 || !outAllowed h.fmt (opnd d 198 4)

/-- TILE_UNPACK (R291, R298). The plain side is checked, or probed, before the run is read (R296). -/
def execTileUnpack (d : DescRef) (s : State) : Out :=
  withDesc s d 0x83 fun s fk f =>
    withTile s fk f fun s key a e =>
      let x := f.desc
      let out := opnd x 198 4
      let h := readVa s a.ctx (a.sectorVa e.first) 64
      let s := h.st
      if h.status ≠ Code.ok then doneWith s fk h.status
      else if unpackBad (tileHdrOf h.data) x then doneWith s fk Code.misaligned
      else match tileSides s f.ctx x (some (out, .write)) with
        | some x => failWith s fk x
        | none =>
          if trackerFull s f.quarter then .next s
          else
            let w : TileWork :=
              { arena := key, tile := opnd x 168 24, first := e.first, sectors := e.sectors
                version := e.version, phase := 3, detail := BitVec.ofNat 64 e.version }
            let s := setTileWork (beginTile s fk f key (some out)) fk w
            if (plainProbe x out 1).isEmpty then .next (settle (unpackRun s fk f w))
            else .next (settle (startJob s (flightJob s fk f) (plainProbe x out 1)))

/-- TILE_MOVE: the source run is placed at the destination, still coded (R297). -/
def execTileMove (d : DescRef) (s : State) : Out :=
  withDesc s d 0x84 fun s fk f =>
    withTile s fk f fun s key a e =>
      let x := f.desc
      let dst := arenaKey f.ctx (opnd x 224 8)
      match tileSides s f.ctx x none with
      | some x => failWith s fk x
      | none =>
        if trackerFull s f.quarter then .next s
        else
          let s := joinArena (beginTile s fk f key none) dst (readerOf fk)
          match readRunOf s a e with
          | (s, .error st) => .next (settle (tileEnds s fk st 0))
          | (s, .ok (h, payload)) =>
            match placeTile s dst (opnd x 232 24) h payload with
            | (s, .error st) => .next (settle (tileEnds s fk st 0))
            | (s, .ok v) =>
              let w : TileWork :=
                { arena := dst, source := some key, tile := opnd x 232 24, first := e.first, sectors := e.sectors
                  version := e.version }
              .next (settle (tileFlagPhase s fk f w (BitVec.ofNat 64 v)))

/-- TILE_FREE: the entry is made invalid and its run retired. -/
def execTileFree (d : DescRef) (s : State) : Out :=
  withDesc s d 0x85 fun s fk f =>
    withTile s fk f fun s key a e =>
      match writeDir s key a (opnd f.desc 168 24) { e with valid := false } with
      | (s, st) =>
        if st ≠ Code.ok then doneWith s fk st
        else
          let s := writeMap (modArena s key fun a => retireRun a e.first e.sectors) key
          doneWith s fk Code.ok (BitVec.ofNat 64 e.version)

/-- TILE_STAT. -/
def execTileStat (d : DescRef) (s : State) : Out :=
  withDesc s d 0x86 fun s fk f =>
    withTile s fk f fun s _ a e =>
      let r := readVa s a.ctx (a.sectorVa e.first) 64
      if r.status ≠ Code.ok then doneWith r.st fk r.status
      else
        let h := tileHdrOf r.data
        doneWith r.st fk Code.ok
          (BitVec.ofNat 64 (e.sectors + h.mode * 2 ^ 13 + h.fmt * 2 ^ 15 + e.version * 2 ^ 32))

/-! ## Background work (R283, R284, R303) -/

/-- Background work is paused by the governor, or the part is stopping (R365, R492). -/
def background (s : State) : Bool := !s.pwr.paused && running s && !s.core.stopped

/-- Whether an arena is to be compacted; those of a context being torn down are closed (R302, R337). -/
def compacts (s : State) (a : Arena) : Bool :=
  ctxActive s a.ctx && !a.failed && !a.closing && reg s 0x5000 0x07 != 0 && decide (a.largest < 256) &&
    decide (reg s 0x5000 0x08 * (a.sectors - a.dataFrom) ≤ a.free * 100)

/-- COMPACTION_MOVE: a tile is copied, still coded, to a lower free run. -/
def execCompactionMove (ctx arena tile : Nat) (s : State) : Out :=
  let key := arenaKey ctx arena
  match tget s.pewter.arenas key with
  | none => .next s
  | some a =>
    if !background s || !compacts s a || decide (a.tiles ≤ tile) then .next s
    else match readDir s key a tile with
      | (s, .error _) => .next (settle s)
      | (s, .ok e) =>
        match (if e.valid then placeFrom e.sectors 0 a.gaps else none) with
        | none => .next s
        | some p =>
          if e.first ≤ p then .next s
          else match readRunOf s a e with
            | (s, .error _) => .next (settle s)
            | (s, .ok (h, payload)) =>
              let w := writeVa s a.ctx (a.sectorVa p) (h.bytes ++ payload)
              if w.status ≠ Code.ok then .next (settle w.st)
              else
                let s := modArena w.st key fun a => { a with used := insertRun (p, e.sectors) a.used }
                match writeDir s key a tile { e with first := p } with
                | (s, st) =>
                  if st ≠ Code.ok then .next (settle s)
                  else
                    let s := modArena (bumpBy s 0x5000 0x10 e.sectors) key fun a =>
                      retireRun a e.first e.sectors
                    .next (settle (writeMap s key))

/-- ARENA_LARGEST_SAMPLE: every 100 µs LARGEST of every arena is sampled. -/
def execArenaLargestSample (s : State) : Out :=
  if passedUs s s.pewter.sampledAt 100 then
    .next { s with pewter := { s.pewter with
      arenas := tmap s.pewter.arenas fun _ a => { a with largest := a.largestRun }, sampledAt := s.now } }
  else .next s

/-- The lowest context that maps a physical address. -/
def mapperOf (s : State) (pa : Nat) : Option Nat :=
  (s.xlat.pages.find? fun x => x.2.any fun e => decide (e.pa ≤ pa) && decide (pa < e.pa + e.len)).map (·.1)

/-- BACKGROUND_ZERO_FILL: a cleared region mapped in a context is filled with zeros. -/
def execBackgroundZeroFill (pa : Nat) (s : State) : Out :=
  if !paValid s pa then .fault (.noSuchAddress pa)
  else if !background s || reg s 0x5000 0x05 != 1 || inHardware s pa || paTier pa == 3 ||
      (tget s.mem.region (pa / 65536)).isSome then .next s
  else match mapperOf s (pa / 65536 * 65536) with
    | none => .next s
    | some c => .next (fillRegion s (pa / 65536) (ctxKey s c))

/-- What an uncorrectable error in the Scrum overflow area costs: a group's accumulators, a capture,
or nothing in use; which of them lies at an address the manual does not say (R284). -/
def overflowHit (s : State) (q : Nat) : State :=
  let groups := (s.scrum.groups.filter fun x => steer x.2.ctx x.2.no == q && decide (0 < x.2.foil)).map (·.1)
  let checks := (s.scrum.checks.filter fun x => x.2.quarter == q).map (·.1)
  let (n, s) := drawn s
  let i := (Config.freeWord n).toNat % (groups.length + checks.length + 1)
  match groups[i]?, checks[i - groups.length]? with
  | some g, _ => failGroup s g Code.integrity
  | none, some c =>
    let s' := bump { s with scrum := { s.scrum with checks := tdel s.scrum.checks c } } 0x6100 0x0B
    match tget s.scrum.checks c with
    | some k => if k.hold then writeSeg s' k.group k.seg else s'
    | none => s'
  | none, none => s

/-- PATROL_SCRUB: a line is read; a correctable error is corrected and recorded, and an uncorrectable
one is recorded and stays (R284). -/
def execPatrolScrub (pa : Nat) (outcome : Scrub) (s : State) : Out :=
  let g := pa / granuleSize pa * granuleSize pa
  if !paValid s pa then .fault (.noSuchAddress pa)
  else if !background s || paTier pa == 3 then .next s
  else match outcome with
    | .clean => .next s
    | .corrected =>
      .next (settle (corrected s g (mapperOf s g)))
    | .uncorrectable =>
      let s := { s with mem := { s.mem with
        poison := if s.mem.poison.contains g then s.mem.poison else s.mem.poison ++ [g] } }
      let s := uncorrectable s g (mapperOf s g)
      let s := if inHardware s g && decide (areaStart s 5 ≤ paOffset g) then overflowHit s (paUnit g) else s
      .next (settle s)

end Sys2Proof.Machine
end

