-- ==== Sys2Proof/Machine/CaddieUnit.lean ====
section
/-! DEFINITION. The commands of the Caddie units (R305 to R323). -/

namespace Sys2Proof.Machine

/-! ## CADDIE_ARM (R306, R307, R309) -/

/-- The record of a CADDIE_ARM operand (Table 1). -/
def caddieOf (x : BitVec 256) (q ctx now : Nat) : CaddieStream :=
  { ctx := ctx, no := bits x 1 8, quarter := q, loop := bit x 23, lookahead := bits x 24 8
    cursorVa := bits x 32 48, cursorCount := bits x 80 2, entryVa := bits x 192 48, slotLog2 := bits x 88 5
    slotVa := bits x 96 48, slots := bits x 144 12, inflight := bits x 156 4, span := bits x 160 16
    count := bits x 176 13, armedAt := now }

/-- Whether reserved or read-only bits of the operand are set. -/
def caddieReserved (d : Desc) : Bool :=
  opBit d 0 || !clean d 21 2 || !clean d 82 6 || !clean d 93 3 || !clean d 189 3 || !clean d 240 208

/-- The record's part of check 1 of R309. -/
def caddieMisaligned (s : State) (c : CaddieStream) : Bool :=
  decide (c.slotLog2 < 16) || decide (26 < c.slotLog2) || c.slots == 0 || decide (8 < c.inflight) ||
    c.count == 0 || decide (4096 < c.count) || c.cursorVa % 8 != 0 || c.slotVa % 65536 != 0 ||
    c.entryVa % 64 != 0 || decide (4096 < sidePages s c.ctx [(c.slotVa, c.slots * c.slotBytes)] 0 0)

/-- A schedule entry of 64 bytes (Table 2). -/
def schedOf (x : BitVec 512) : SchedEntry :=
  { trigger := bits x 0 2, destKind := bits x 2 2, codec := bits x 4 2, writeback := bit x 6
    flagEn := bit x 7, flagHandle := bit x 8, srcWait := bit x 9, stochastic := bit x 10
    outFmt := bits x 12 4, position := bits x 16 16, srcArena := bits x 32 8, srcTile := bits x 40 24
    tiles := bits x 64 13, deadline := bits x 96 32, dest := BitVec.ofNat 64 (bits x 128 64)
    flagAddr := BitVec.ofNat 64 (bits x 192 64), flagValue := BitVec.ofNat 64 (bits x 256 64) }

/-- Whether OUT_FMT is in the row of a codec step, and the step pairs with the destination
(Table 3). -/
def codecRow (e : SchedEntry) : Bool :=
  match e.codec with
  | 0 => decide (e.destKind ≤ 1) && decide (e.outFmt ≤ 13)
  | 1 => decide (e.destKind ≤ 1) && decide (5 ≤ e.outFmt) && decide (e.outFmt ≤ 10)
  | 2 => e.destKind == 2 && e.outFmt == 0
  | _ => false

/-- Whether an entry is faulty (check 1 of R309). -/
def schedBad (c : CaddieStream) (x : BitVec 512) : Bool :=
  let e := schedOf x
  bit x 11 || bits x 77 19 != 0 || bits x 320 192 != 0 || e.trigger == 3 || e.destKind == 3 ||
    !codecRow e || e.tiles == 0 || decide (4096 < e.tiles) ||
    (e.writeback && (e.destKind != 0 || e.codec != 0)) || (!e.flagEn && (e.destKind == 1 || e.srcWait)) ||
    (e.destKind == 0 && (decide (c.slots ≤ e.slot) || bits e.dest 12 52 != 0)) ||
    (e.destKind == 2 && bits e.dest 32 32 != 0) || (c.loop && decide (c.span ≤ e.position)) ||
    e.flagAddr.toNat % 8 != 0 || (e.flagEn && !e.flagHandle && bits e.flagAddr 48 16 != 0)

/-- Index of the first faulty entry. -/
def firstBadEntry (c : CaddieStream) : Nat → List (BitVec 512) → Option Nat
  | _, [] => none
  | i, x :: xs => if schedBad c x then some i else firstBadEntry c (i + 1) xs

/-- The ranges a stream holds: its slot area and its cursor words. -/
def CaddieStream.ranges (c : CaddieStream) : List (Nat × Nat) :=
  [(c.slotVa, c.slots * c.slotBytes), (c.cursorVa, 8 * (c.cursorCount + 1))]

/-- Check 3 of R309. -/
def caddiePages (s : State) (c : CaddieStream) : Option Fail :=
  rangesCheck s c.ctx
    [(c.slotVa, c.slots * c.slotBytes, .read), (c.slotVa, c.slots * c.slotBytes, .write)
    , (c.cursorVa, 8 * (c.cursorCount + 1), .read)]

/-- Check 4 of R309. -/
def caddieQuota (s : State) (c : CaddieStream) : Bool :=
  let here := s.caddie.streams.filter fun x => x.2.quarter == c.quarter
  let mine := s.caddie.streams.filter fun x => x.2.ctx == c.ctx
  let total (l : Tbl CaddieStream) : Nat := l.foldl (fun n x => n + x.2.count) 0
  decide (256 ≤ here.length) || decide (4096 < total here + c.count) ||
    decide (1024 < watchesOn s c.quarter + c.cursorCount + 1) || !underQuota s c.ctx 0x1B mine.length ||
    (c.ctx != 0 && decide (reg s (ctxIdx c.ctx) 0x1C < total mine + c.count))

/-- The watches of a stream's cursor words join those of its quarter. -/
def watchCursor (s : State) (key : Nat) (c : CaddieStream) : State :=
  let ws := (List.range (c.cursorCount + 1)).map fun i =>
    ({ ctx := c.ctx, va := c.cursorVa + 8 * i, who := .caddie key i } : Watch)
  { s with q := { s.q with watches := s.q.watches.mod c.quarter fun l => l ++ ws } }

/-- The status of R309 from check 1 on, with its DETAIL, once the entries have been copied; none where the
stream is armed. -/
def caddieChecks (s : State) (c : CaddieStream) (xs : List (BitVec 512)) : Option (Status × Nat) :=
  if caddieMisaligned s c then some (Code.misaligned, 0)
  else match firstBadEntry c 0 xs with
    | some i => some (Code.misaligned, i)
    | none =>
      if thas s.caddie.streams (caddieKey c.quarter c.ctx c.no) then some (Code.locked, 0)
      else match caddiePages s c with
        | some x => some x
        | none => if caddieQuota s c then some (Code.quota, 0) else none

/-- A CADDIE_ARM whose fields are in order copies its entries from ENTRY_VA, and then makes the checks of
R309. -/
def armCaddie (s : State) (fk : Nat) (c : CaddieStream) : Out :=
  let key := caddieKey c.quarter c.ctx c.no
  match sideCheck s c.ctx [(c.entryVa, c.count * 64)] .read with
  | some x => failWith s fk x
  | none =>
    match heldBy s (.command fk) c.ctx [(c.entryVa, c.count * 64)] with
    | some s => .next s
    | none =>
      let r := readVa s c.ctx c.entryVa (c.count * 64)
      let s := r.st
      if r.status ≠ Code.ok then doneWith s fk r.status (BitVec.ofNat 64 c.entryVa)
      else match caddieChecks s c (descsOf r.data) with
        | some x => failWith s fk x
        | none =>
          if trackerFull s c.quarter then .next s
          else
            let c := { c with entries := (descsOf r.data).map schedOf }
            let s := hold s c.quarter c.ctx (holdCaddie key) c.ranges
            let s := { s with caddie := { s.caddie with streams := tset s.caddie.streams key c } }
            doneWith (watchCursor s key c) fk Code.ok

/-- CADDIE_ARM. Reserved and read-only fields (R5) and the context (R85) come before the copy; a COUNT out of
range leaves nothing to copy. -/
def execCaddieArm (d : DescRef) (s : State) : Out :=
  withDesc s d 0xA0 fun s fk f =>
    let x : BitVec 256 := f.desc.extractLsb' 64 256
    let n := bits x 9 12
    let c := caddieOf x f.quarter (namedCtx f n) s.now
    let status := firstOf
      [ (caddieReserved f.desc || c.count == 0 || decide (4096 < c.count), Code.misaligned)
      , (ctxFieldStatus s f n != Code.ok, ctxFieldStatus s f n) ]
    if status ≠ Code.ok then doneWith s fk status else armCaddie s fk c

/-! ## CADDIE_DISARM and CADDIE_WAIT (R322) -/

/-- The stream that a Caddie descriptor names; none where it is not armed. -/
def caddieFor (s : State) (q ctx no : Nat) : Option CaddieStream :=
  match tget s.caddie.streams (caddieKey q ctx no) with
  | some c => if c.closing.isSome then none else some c
  | none => none

/-- CADDIE_DISARM. -/
def execCaddieDisarm (d : DescRef) (s : State) : Out :=
  withDesc s d 0xA1 fun s fk f =>
    let n := opnd f.desc 64 12
    let ctx := namedCtx f n
    let key := caddieKey f.quarter ctx (opnd f.desc 0 8)
    let status := firstOf
      [ (!clean f.desc 8 56 || !clean f.desc 76 372, Code.misaligned)
      , (ctxFieldStatus s f n != Code.ok, ctxFieldStatus s f n)
      , ((caddieFor s f.quarter ctx (opnd f.desc 0 8)).isNone, Code.protection) ]
    if status ≠ Code.ok then doneWith s fk status
    else
      let s := modCaddie (waitOn s fk) key fun c => { c with state := 2, closing := some fk }
      .next (settle (closeCaddie (wakeCaddie s key Code.aborted) key))

/-- Whether an entry of a pass has landed. -/
def CaddieStream.hasLanded (c : CaddieStream) (entry pass : Nat) : Bool :=
  (decide (pass < c.pass) || (pass == c.pass && decide (entry < c.next))) && decide (entry < c.count) &&
    !(c.flying.any fun x => x.index == entry && x.pass == pass) && !c.lost.contains (entry, pass)

/-- CADDIE_WAIT. -/
def execCaddieWait (d : DescRef) (s : State) : Out :=
  withDesc s d 0xA2 fun s fk f =>
    let n := opnd f.desc 96 12
    let ctx := namedCtx f n
    let status := firstOf
      [ (!clean f.desc 20 12 || !clean f.desc 108 340, Code.misaligned)
      , (ctxFieldStatus s f n != Code.ok, ctxFieldStatus s f n) ]
    if status ≠ Code.ok then doneWith s fk status
    else match tget s.caddie.streams (caddieKey f.quarter ctx (opnd f.desc 0 8)) with
      | none => doneWith s fk Code.protection
      | some c =>
        let misses := BitVec.ofNat 64 c.misses
        if c.hasLanded (opnd f.desc 8 12) (opnd f.desc 32 32) then doneWith s fk Code.ok misses
        else if c.state = 3 then doneWith s fk c.failStatus misses
        else if c.state = 2 then doneWith s fk Code.aborted misses
        else .next (settle (waitOn s fk))

/-- CADDIE_WAIT_TIMEOUT. -/
def execCaddieWaitTimeout (d : DescRef) (s : State) : Out :=
  match waitingOp s d 0xA2 with
  | none => .next s
  | some f =>
    let t := opnd f.desc 64 32
    let key := caddieKey f.quarter (namedCtx f (opnd f.desc 96 12)) (opnd f.desc 0 8)
    if t ≠ 0 ∧ passedUs s f.since t = true then
      doneWith s (refKey d) Code.timeout (caddieMisses s key)
    else .next s

/-! ## Writeback (R317) and CADDIE_FLUSH (R322) -/

/-- Whether an arena takes a writeback: armed and not failed, with the tile in range, and not closing
unless an entry in flight of the stream holds it open (R296, R302). -/
def takesBack (a : Arena) (key : Nat) (c : CaddieStream) (tile : Nat) : Bool :=
  !a.failed && decide (tile < a.tiles) &&
    (!a.closing || c.flying.any fun x => a.readers.contains (caddieReader key x))

/-- One tile of a slot's occupant is packed back to its source tile, in the tile's former MODE. -/
def packBack (s : State) (key : Nat) (c : CaddieStream) (e : SchedEntry) (o : Occupant) (k : Nat) : State × Status :=
  let size := o.rows * rowBytes o.fmt o.cols
  let r := readVa s c.ctx (c.slotAt e.slot + k * size) size
  if r.status ≠ Code.ok then (r.st, r.status)
  else
    let ask : PackAsk :=
      { mode := if o.modes.getD k 0 = 1 then 1 else 0, plainFmt := o.fmt, outFmt := o.fmt, rows := o.rows
        cols := o.cols, stochastic := false, drawRound := 0, tile := e.srcTile + k, seed := 0 }
    let t := codeTile (bumpBy r.st 0x5000 0x0C size) c.quarter ask r.data
    match tget t.1.pewter.arenas (arenaKey c.ctx e.srcArena) with
    | none => (t.1, Code.protection)
    | some a =>
      if !takesBack a key c (e.srcTile + k) then (t.1, Code.protection)
      else match placeTile t.1 (arenaKey c.ctx e.srcArena) (e.srcTile + k) t.2.1 t.2.2 with
        | (s, .ok _) => (bumpBy s 0x6300 0x07 size, Code.ok)
        | (s, .error st) => (s, st)

/-- A slot is written back: clean where every tile was packed, else left dirty with the status of the
first that was not. -/
def writeBack (s : State) (key : Nat) (c : CaddieStream) (slot : Nat) (o : Occupant) : State × Status :=
  let e := c.entry o.index
  let r := (List.range e.tiles).foldl (fun (r : State × Status) k =>
    if r.2 = Code.ok then packBack r.1 key c e o k else r) (s, Code.ok)
  if r.2 = Code.ok then
    (modCaddie r.1 key fun c =>
      { c with occupants := tmod c.occupants slot fun o => { o with dirty := false } }, Code.ok)
  else r

/-- Whether a slot's occupant is dirty and was landed with WRITEBACK. -/
def CaddieStream.owesBack (c : CaddieStream) (o : Occupant) : Bool := o.dirty && (c.entry o.index).writeback

/-- CADDIE_FLUSH. A slot that an entry in flight guards is flushed once that entry has landed. -/
def execCaddieFlush (d : DescRef) (s : State) : Out :=
  withDesc s d 0xA3 fun s fk f =>
    let n := opnd f.desc 64 12
    let ctx := namedCtx f n
    let key := caddieKey f.quarter ctx (opnd f.desc 0 8)
    let status := firstOf
      [ (!clean f.desc 8 56 || !clean f.desc 76 372, Code.misaligned)
      , (ctxFieldStatus s f n != Code.ok, ctxFieldStatus s f n) ]
    if status ≠ Code.ok then doneWith s fk status
    else match caddieFor s f.quarter ctx (opnd f.desc 0 8) with
      | none => doneWith s fk Code.protection
      | some c =>
        let owed := c.occupants.filter fun x => c.owesBack x.2
        match heldBy s (.command fk) ctx (owed.map fun x => (c.slotAt x.1, c.slotBytes)) with
        | some s => .next s
        | none =>
          let r := owed.foldl (fun (r : State × Status × Nat) x =>
            match writeBack r.1 key c x.1 x.2 with
            | (s, st) => (s, if r.2.1 = Code.ok then st else r.2.1, if st = Code.ok then r.2.2 + 1 else r.2.2))
            (s, Code.ok, 0)
          doneWith r.1 fk r.2.1 (BitVec.ofNat 64 r.2.2)

/-! ## Entries (R310, R314 to R320) -/

/-- CADDIE_ENTRY_START: the entry NEXT of a stream starts, where all that R310 names holds. -/
def execCaddieEntryStart (quarter ctx stream : Nat) (s : State) : Out :=
  let key := caddieKey quarter ctx stream
  match tget s.caddie.streams key with
  | none => .next s
  | some c => if canStart s c && !s.core.stopped then .next (settle (startEntry s key c)) else .next s

/-- A freed access is performed (R315): a request, a queue pair's waiting requests, a piece of a job, a
segment's destination write or an apply. A descriptor goes on by its own command. -/
def performHeld (s : State) (h : HeldReq) : State :=
  match h.what with
  | .request p => if p.op = 0x44 then contribFreed s p else performAt s p h.va
  | .pair qpn => pumpQp (((qpOf s qpn).map fun p => p.waiting.length + 1).getD 0) s qpn
  | .piece jk n =>
    match tget s.net.jobs jk with
    | none => s
    | some j =>
      if jobStopped s j || (j.failed.isSome && !j.multicast) then s
      else match j.todo.find? fun x => x.1 == n with
        | none => s
        | some (_, w) =>
          if w.waits s j n then s
          else match pieceHeld s jk j n w with
            | some s => s
            | none => (issuePiece s jk j n w).getD s
  | .segment key seg => resumeSeg s key seg
  | .apply key => memoryApply s key
  | .command _ => s

/-- Held accesses whose bytes no guard covers any more are performed in arrival order (R315); the fuel is
the number held. -/
def performFreed : Nat → State → State
  | 0, s => s
  | fuel + 1, s =>
    match s.caddie.guarded.find? (HeldReq.freed s) with
    | none => s
    | some h =>
      let i := (s.caddie.guarded.takeWhile fun g => !HeldReq.freed s g).length
      let s := { s with caddie := { s.caddie with guarded := s.caddie.guarded.eraseIdx i } }
      performFreed fuel (startCursors (performHeld s h))

/-- What the lifting of guards frees is performed. -/
def freeHeld (s : State) : State := performFreed s.caddie.guarded.length s

/-- Whether a held access waits for a tile of an entry: such tiles go first (R316). -/
def tileUrgent (s : State) (c : CaddieStream) (slot size k : Nat) : Bool :=
  let tile := (heldCover s c.ctx (c.slotAt slot + k * size) size).1
  s.caddie.guarded.any fun h => segsMeet (heldCover s h.ctx h.va h.len).1 tile

/-- The place of the tile that is filled next, among those left: the first that a held access waits for, else
the first. -/
def nextTile (s : State) (c : CaddieStream) (slot size : Nat) (left : List Nat) : Option Nat :=
  (left.find? (tileUrgent s c slot size)).orElse fun _ => left.head?

/-- Tiles of a set fill a slot, each lifting the guard over its bytes and freeing what it held: the status,
and the headers read, by place. The fuel is the number of tiles left. -/
def fillSlot (key : Nat) (c : CaddieStream) (e : SchedEntry) (x : FlyEntry) (a : Arena) :
    Nat → State → Nat → List Nat → Tbl TileHdr → State × Status × Tbl TileHdr
  | 0, s, _, _, hs => (s, Code.ok, hs)
  | fuel + 1, s, unit, left, hs =>
    match nextTile s c e.slot x.tileBytes left with
    | none => (s, Code.ok, hs)
    | some k =>
      let u := (pewterUnit s c.quarter).getD unit
      match readTile s a (x.dirs.getD k {}) c.quarter u with
      | (s, .error st) => (s, st, hs)
      | (s, .ok t) =>
        let data := codecStep s c e x.pass (e.srcTile + k) t
        let w := storeVa (bumpBy s 0x5000 0x0D data.length) c.ctx (c.slotAt e.slot + k * x.tileBytes) data
        if w.status ≠ Code.ok then (w.st, w.status, hs)
        else
          let s := modFly (bumpBy w.st 0x6300 0x06 data.length) key x fun y => { y with filled := y.filled ++ [k] }
          fillSlot key c e x a fuel (freeHeld s) u (left.filter fun i => i != k) (tset hs k t.hdr)

/-- The tiles of a set move, still coded, to the destination arena, which may have been closed since the entry
started (R302, R318). -/
def moveSet (c : CaddieStream) (e : SchedEntry) (a : Arena) :
    State → Nat → List DirEntry → State × Status
  | s, _, [] => (s, Code.ok)
  | s, k, d :: rest =>
    let dst := arenaKey c.ctx (bits e.dest 0 8)
    let tile := bits e.dest 8 24 + k
    match readRunOf s a d with
    | (s, .error st) => (s, st)
    | (s, .ok (h, payload)) =>
      match placeTile s dst tile h payload with
      | (s, .error st) => (s, st)
      | (s, .ok _) =>
        moveSet c e a (bumpBy s 0x6300 0x06 (h.rows * rowBytes h.fmt h.cols)) (k + 1) rest

/-- The flagged write that follows a landing. -/
def landFlag (s : State) (key : Nat) (c : CaddieStream) (e : SchedEntry) : State :=
  let job : Job :=
    { kind := .caddie key caddieFlagTag, ctx := c.ctx, gen := ctxGen s c.ctx, quarter := c.quarter
      engine := engCaddie, cls := 5, srcQueue := issuer c.quarter 80, multicast := true }
  if !e.flagEn then s
  else if e.flagHandle then moreWork s job [.flag (.handle e.flagAddr) e.flagValue]
  else if (guardVa s c.ctx e.flagAddr.toNat 8).isSome then
    moreWork s job [.flag (.va (e.flagAddr.toNat % 2 ^ 48)) e.flagValue]
  else
    match localCheck s c.ctx e.flagAddr.toNat 8 .flagged with
    | some (st, _) =>
      let s := if st = Code.translationFault then bump s 0x2800 0x07 else s
      failCaddie (bump s 0x6300 0x09) key st
    | none =>
      let w := storeVa s c.ctx e.flagAddr.toNat (leBytes 8 e.flagValue.toNat)
      if w.status = Code.ok then w.st else failCaddie (bump w.st 0x6300 0x09) key w.status

/-- CADDIE_WAITs whose entry has landed complete. -/
def wakeLanded (s : State) (key : Nat) : State :=
  match tget s.caddie.streams key with
  | none => s
  | some c =>
    (s.q.flights.filter fun p =>
      p.2.progress = .working && opcodeOf p.2.desc == 0xA2 &&
        caddieKey p.2.quarter (namedCtx p.2 (opnd p.2.desc 96 12)) (opnd p.2.desc 0 8) == key &&
        c.hasLanded (opnd p.2.desc 8 12) (opnd p.2.desc 32 32)).foldl
      (fun s p => finish s p.1 Code.ok (caddieMisses s key)) s

/-- An entry has landed (R314 steps 5 and 6). -/
def landEntry (s : State) (key : Nat) (c : CaddieStream) (e : SchedEntry) (x : FlyEntry) (hs : Tbl TileHdr) :
    State :=
  let s := dropEntry s key x
  let h := (tget hs 0).getD {}
  let o : Occupant :=
    { index := x.index, pass := x.pass, modes := hs.map fun y => y.2.mode, rows := h.rows, cols := h.cols
      fmt := e.landFmt h }
  let s := modCaddie s key fun c =>
    { c with
      landed := (c.landed + 1) % 2 ^ 32, landTimes := tset c.landTimes x.index s.now
      occupants := if e.destKind = 0 then tset c.occupants e.slot o else c.occupants
      state := if c.state = 0 ∧ c.loop = false ∧ c.next = c.count ∧ c.flying.isEmpty = true then 1 else c.state }
  closeCaddie (wakeLanded (landFlag (freeHeld s) key c e) key) key

/-- The steps of an entry with a slot destination: eviction, then fill. -/
def landSlot (s : State) (key : Nat) (c : CaddieStream) (e : SchedEntry) (x : FlyEntry) (a : Arena) (unit : Nat) :
    State × Status × Tbl TileHdr :=
  let evict := match tget c.occupants e.slot with
    | some o => if c.owesBack o then writeBack s key c e.slot o else (s, Code.ok)
    | none => (s, Code.ok)
  if evict.2 ≠ Code.ok then (evict.1, evict.2, [])
  else
    let s := modCaddie evict.1 key fun c => { c with occupants := tdel c.occupants e.slot }
    fillSlot key c e x a e.tiles s unit (List.range e.tiles) []

/-- Whether another entry in flight on the quarter is escalated, which this one is not: its tiles take
precedence (R316). -/
def yields (s : State) (key : Nat) (c : CaddieStream) (x : FlyEntry) : Bool :=
  !x.escalated && s.caddie.streams.any fun y =>
    y.2.quarter == c.quarter && y.2.flying.any fun z => z.escalated && !(y.1 == key && z.index == x.index && z.pass == x.pass)

/-- What an entry in flight does at its landing: its steps in one, and the status they end with; none while
it must wait: for a Pewter unit, for an escalated entry, or for a window's outstanding requests. -/
def landSteps (s : State) (key : Nat) (c : CaddieStream) (e : SchedEntry) (x : FlyEntry) :
    Option (State × Status × Tbl TileHdr) :=
  match tget s.pewter.arenas (arenaKey c.ctx e.srcArena) with
  | none => some (s, Code.aborted, [])
  | some a =>
    if a.failed then some (s, Code.aborted, [])
    else if e.destKind = 1 then
      match jobOf s (.caddie key x.tag) with
      | none => none
      | some j =>
        if !j.isDone then none
        else if j.status ≠ Code.ok then some (s, j.status, [])
        else some (bumpBy s 0x6300 0x06 (e.tiles * x.tileBytes), Code.ok, [])
    else match (if yields s key c x then none else pewterUnit s c.quarter) with
      | none => none
      | some u =>
        if e.destKind = 0 then some (landSlot s key c e x a u)
        else
          let r := moveSet c e a s 0 x.dirs
          some (r.1, r.2, [])

/-- CADDIE_ENTRY_LAND: the oldest entry in flight of an index lands; or it fails. -/
def execCaddieEntryLand (quarter ctx stream entry : Nat) (s : State) : Out :=
  let key := caddieKey quarter ctx stream
  match tget s.caddie.streams key with
  | none => .next s
  | some c =>
    match c.flying.find? fun x => x.index == entry with
    | none => .next s
    | some x =>
      if s.core.stopped then .next s
      else match landSteps s key c (c.entry x.index) x with
        | none => .next s
        | some (s, st, hs) =>
          if st = Code.ok then .next (settle (landEntry s key c (c.entry x.index) x hs))
          else .next (settle (closeCaddie (failEntry s key x st) key))

/-- Whether a reference instant lies a deadline back (R319). -/
def overdue (s : State) (e : SchedEntry) (ref : Option Nat) : Bool :=
  e.deadline != 0 && (match ref with
    | some t => passedNs s t e.deadline
    | none => false)

/-- The pass in which an entry that is not in flight is the next to start; none where it does not start any
more. -/
def CaddieStream.waitPass (c : CaddieStream) (entry : Nat) : Option Nat :=
  if c.state ≠ 0 ∨ c.count ≤ entry then none
  else if c.next ≤ entry then some c.pass
  else if c.loop then some ((c.pass + 1) % 2 ^ 32)
  else none

/-- Tee entries that start before an entry, from NEXT on. -/
def CaddieStream.teesBefore (c : CaddieStream) (entry : Nat) : Nat :=
  let ahead := if c.next ≤ entry then (List.range c.count).filter fun i => decide (c.next ≤ i) && decide (i < entry)
    else (List.range c.count).filter fun i => decide (c.next ≤ i) || decide (i < entry)
  (ahead.filter fun i => (c.entry i).trigger == 0).length

/-- The instant from which an entry that has not started counts its deadline: the firing that it will consume,
or the landing of the entry before it where that is not to come (R319). -/
def CaddieStream.waitFrom (c : CaddieStream) (e : SchedEntry) (entry pass : Nat) : Option Nat :=
  match e.trigger with
  | 0 => c.firings[c.teesBefore entry]?
  | _ => if entry = c.next ∧ c.prevLanded entry pass = true then some (c.followed entry pass) else none

/-- CADDIE_DEADLINE_MISS: an entry in flight, or one that has not started, is past its deadline. -/
def execCaddieDeadlineMiss (quarter ctx stream entry : Nat) (s : State) : Out :=
  let key := caddieKey quarter ctx stream
  match tget s.caddie.streams key with
  | none => .next s
  | some c =>
    let e := c.entry entry
    match c.flying.find? fun x =>
        x.index == entry && !x.missed && overdue s e (c.reference e x.pass (some x.reference)) with
    | some x => .next (missEntry s key x)
    | none =>
      match c.waitPass entry with
      | none => .next s
      | some pass =>
        if !c.waitMissed.contains (entry, pass) && overdue s e (c.reference e pass (c.waitFrom e entry pass)) then
          .next (modCaddie (countMiss s key entry) key fun c => { c with waitMissed := c.waitMissed ++ [(entry, pass)] })
        else .next s

end Sys2Proof.Machine
end

