-- ==== Sys2Proof/Machine/EndPoint.lean ====
section
/-! DEFINITION. Requests arriving at the part's end-point blocks (R156 to R164): reads, probes,
writes, flagged writes, pushes, atomics, compare-and-swaps and relays. -/

namespace Sys2Proof.Machine

/-- A request takes the arrival checks of Table 9a; a fresh one, a copy of a performed one and a
copy of an ABORTED flagged write go their own ways (R162, R163). -/
def onArrival (s : State) (inPort : Option Nat) (p : Packet) (fresh copy : State → State) : Out :=
  match arrival s inPort p with
  | .over s => .next (settle s)
  | .fresh s => .next (settle (fresh s))
  | .copy s => .next (settle (copy s))
  | .dead s => .next (settle (sendReply s (pktHome p) (mkAck s p Code.aborted 1 0)))

/-- READ_REQ: a read is performed again for each copy. -/
def execReadReq (p : Packet) (s : State) : Out :=
  onArrival s none p (fun s => windowReq s p p.bytes .read)
    (fun s => windowReq s p p.bytes .read true)

/-- Operation a probe names (R149). -/
def probeOp (n : Nat) : Acc :=
  match n with
  | 0 => .read
  | 1 => .write
  | _ => .reduce

/-- A probe is checked and its range reserved (R71). -/
def takeProbe (s : State) (p : Packet) : State :=
  let len := bits p.ext 64 38
  let op := probeOp (bits p.ext 102 2)
  let q := pktHome p
  match inboundCheck s (inboundOf p len op) with
  | .error (st, off) =>
    refuseReq (countRefusal s (inboundOf p len op) st) p st (BitVec.ofNat 64 off)
  | .ok va =>
    if trackerFull s q then refuseReq s p Code.quota
    else
      let r : Reservation :=
        { srcNode := p.src, srcQueue := p.srcQueue, srcInc := p.srcInc, ctx := p.ctx
          window := handleWindow p.handle, offset := handleOffset p.handle, length := len, op := op
          seq := p.seq, since := s.now }
      let t := s.xlat.resv.get q
      let s := touchWindow s q (handleWindow p.handle)
      let s := lookupRange (setResv s q (tset t (freeFrom t 0) r)) q (inboundStream p.src p.ctx) p.ctx va len
      ackDone s p

/-- PROBE. -/
def execProbe (p : Packet) (s : State) : Out :=
  onArrival s none p (fun s => takeProbe s p) (fun s => ackMerged s p)

/-- WRITE. -/
def execWrite (inPort : Nat) (p : Packet) (s : State) : Out :=
  onArrival s (some inPort) p (fun s => windowReq s p p.bytes .write) (fun s => ackMerged s p)

/-- FLAGGED_WRITE. -/
def execFlaggedWrite (inPort : Nat) (p : Packet) (s : State) : Out :=
  onArrival s (some inPort) p (fun s => takeFlagged s p) (fun s => ackMerged s p)

/-- QUEUE_PUSH. -/
def execQueuePush (inPort : Nat) (p : Packet) (s : State) : Out :=
  onArrival s (some inPort) p (fun s => takePush s p) (fun s => ackMerged s p)

/-- A copy of an atomic is answered from the result cache, or CONTEXT_RETIRED where its entry was
freed (R163). -/
def atomicCopy (s : State) (p : Packet) : State :=
  match tget s.net.results (resultKey (pktFlow p) p.seq) with
  | some e => replyAtomic (bump s 0x3E00 0x0B) p e.status e.old
  | none => sendReply s (pktHome p) (mkAtomicReply s p Code.contextRetired 0)

/-- An atomic of any class. -/
def takeAtomic (s : State) (inPort : Option Nat) (p : Packet) : Out :=
  onArrival s inPort p (fun s => windowReq s p (atomicBytes p.op) .atomic) (fun s => atomicCopy s p)

/-- ATOMIC. -/
def execAtomic (p : Packet) (s : State) : Out := takeAtomic s none p

/-- CAS64. -/
def execCas64 (inPort : Nat) (p : Packet) (s : State) : Out := takeAtomic s (some inPort) p

/-- CAS128. -/
def execCas128 (inPort : Nat) (p : Packet) (s : State) : Out := takeAtomic s (some inPort) p

/-- RELAY_WRITE. -/
def execRelayWrite (inPort : Nat) (p : Packet) (s : State) : Out :=
  onArrival s (some inPort) p (fun s => relayReq s p) (fun s => ackMerged s p)

/-- RELAY_FLAGGED_WRITE: held as a flagged write is, so that every earlier relay request of its flow
has been answered (R174). -/
def execRelayFlaggedWrite (inPort : Nat) (p : Packet) (s : State) : Out :=
  onArrival s (some inPort) p (fun s => takeFlagged s p) (fun s => ackMerged s p)

/-- RESERVED_OPCODE_PACKET: discarded before any check, counted, not answered (R157). -/
def execReservedOpcodePacket (p : Packet) (s : State) : Out :=
  .next (if isListedOp p.op then s else bump s 0x3E00 0x0C)

end Sys2Proof.Machine
end

