-- ==== Sys2Proof/Machine/Scrum.lean ====
section
/-! DEFINITION. The commands of Scrum: contributions, groups and duplicate checks (R224 to R246). -/

namespace Sys2Proof.Machine

/-- REDUCE_CONTRIB. -/
def execReduceContrib (inPort : Nat) (p : Packet) (s : State) : Out :=
  onArrival s (some inPort) p
    (fun s => takeContrib s p)
    (fun s => ackMerged s p)

/-! ## GROUP_ARM (R224 to R226) -/

/-- The record of a GROUP_ARM operand (Table 4). -/
def groupOf (x : BitVec 320) (ctx : Nat) : Group :=
  { ctx := ctx, no := bits x 13 16, op := bits x 29 3, inFmt := bits x 32 4, outFmt := bits x 36 4
    stochastic := bit x 40, twoBanks := bit x 41, init := bit x 42, checkHold := bit x 43
    segLog2 := bits x 44 4, feed := bits x 48 2, gatherEn := bit x 50, flagEn := bit x 51
    normEn := bit x 52, elements := bits x 64 31, contributors := bits x 96 13, micro := bits x 109 13
    destWindow := bits x 128 14, destOffset := bits x 142 38, gatherGroup := bits x 180 12
    gatherBase := bits x 192 38, flagOffset := bits x 232 38, normHuddle := bits x 272 16
    stepStream := bits x 288 16 }

/-- Whether reserved bits of the operand are set, or VALID. -/
def groupReserved (d : Desc) : Bool :=
  opBit d 0 || !clean d 53 11 || !clean d 95 1 || !clean d 122 6 || !clean d 230 2 ||
    !clean d 270 2 || !clean d 304 144

/-- Bytes of a group's destination. -/
def Group.destBytes (g : Group) : Nat := g.segs_ * g.segOut

/-- Whether a group's window is valid for its context (R225). -/
def groupWindow (s : State) (g : Group) : Option Window :=
  match tget s.xlat.windows g.destWindow with
  | some w => if w.valid ∧ w.ctx = g.ctx ∧ w.gen = ctxGen s g.ctx ∧ g.destWindow ≠ 0 then some w else none
  | none => none

/-- Check 1 of R225. -/
def groupMisaligned (s : State) (g : Group) : Bool :=
  !comboListed g.op g.inFmt g.outFmt || decide (g.segLog2 < 8) || decide (13 < g.segLog2) ||
    decide (maxSegLog2 g.inFmt < g.segLog2) || decide (g.elements < 256) ||
    decide (2 ^ 30 < g.elements) || g.contributors == 0 || decide (4096 < g.contributors) ||
    g.micro == 0 || decide (4096 < g.micro) || g.elements % g.segElems != 0 || g.feed == 3 ||
    (g.feed != 0 && g.op != 0 && g.op != 3) || (g.init && g.feed == 1) || (g.flagEn && !g.gatherEn) ||
    g.flagOffset % 8 != 0 || g.destOffset % g.segOut != 0 || g.gatherBase % g.segOut != 0 ||
    (match groupWindow s g with
     | some w => decide (4096 < sidePages s g.ctx [(w.baseVa + g.destOffset, g.destBytes)] 0 0)
     | none => false)

/-- Check 2 of R225. -/
def groupProtected (s : State) (g : Group) : Bool :=
  (match groupWindow s g with
   | some w => !w.reduce || decide (w.length * 65536 < g.destOffset + g.destBytes)
   | none => true) ||
  (g.gatherEn && (groupFor s g.gatherGroup g.ctx 0).isNone) ||
  (g.normEn && (tget s.huddles (huddleKey g.ctx g.normHuddle)).isNone)

/-- Groups held by a context, and groups on a quarter. -/
def groupsHeld (s : State) (ctx : Nat) : Nat := tcount s.scrum.groups fun _ g => g.ctx == ctx
def groupsOn (s : State) (q : Nat) : Nat := tcount s.scrum.groups fun _ g => steer g.ctx g.no == q

/-- Accumulator bytes of a segment with its state (R226). -/
def Group.segSpace (g : Group) : Nat := (g.segElems * g.accBytes + 64) * (if g.twoBanks then 2 else 1)

/-- SRAM and Foil bytes that a new group would take: segments go to the free SRAM first. -/
def groupSpace (s : State) (g : Group) : Nat × Nat :=
  let q := steer g.ctx g.no
  let used := s.scrum.groups.foldl (fun n x => if steer x.2.ctx x.2.no = q then n + x.2.sram else n) 0
  let inSram := min g.segs_ ((40 * 2 ^ 20 - used) / g.segSpace)
  (inSram * g.segSpace, (g.segs_ - inSram) * g.segSpace)

/-- Bytes of a quarter's overflow area for accumulators: 6100:01 less the capture area of 6100:02, within the
area as the last reset laid it out (R279). -/
def overflowArea (s : State) : Nat :=
  (min (reg s 0x6100 0x01) (s.mem.layout.getD 5 4096) - reg s 0x6100 0x02) * 2 ^ 20

/-- Check 5 of R225, with the clusters of R245. -/
def groupQuota (s : State) (g : Group) : Bool :=
  let q := steer g.ctx g.no
  let foil := s.scrum.groups.foldl (fun n x => if steer x.2.ctx x.2.no = q then n + x.2.foil else n) 0
  decide (1024 ≤ groupsOn s q) || !underQuota s g.ctx 0x18 (groupsHeld s g.ctx) ||
    decide (overflowArea s < foil + (groupSpace s g).2) || (clustersUp s q).isEmpty

/-- GROUP_ARM. -/
def execGroupArm (d : DescRef) (s : State) : Out :=
  withDesc s d 0x40 fun s fk f =>
    let x : BitVec 320 := f.desc.extractLsb' 64 320
    let n := bits x 1 12
    let ctx := namedCtx f n
    let g := groupOf x ctx
    let key := groupKey ctx g.no
    let q := steer ctx g.no
    let status := firstOf
      [ (groupReserved f.desc || groupMisaligned s g, Code.misaligned)
      , (ctxFieldStatus s f n != Code.ok, ctxFieldStatus s f n)
      , (groupProtected s g, Code.protection)
      , (thas s.scrum.groups key, Code.locked) ]
    if status ≠ Code.ok then doneWith s fk status
    else
      let va := ((groupWindow s g).map (·.baseVa)).getD 0 + g.destOffset
      match rangesCheck s ctx [(va, g.destBytes, .reduce)] with
      | some x => failWith s fk x
      | none =>
        if groupQuota s g then doneWith s fk Code.quota
        else if trackerFull s q then .next s
        else
          let space := groupSpace s g
          let g := { g with destVa := va, sram := space.1, foil := space.2, bank := freeBank s key }
          let s := hold s q ctx (holdGroup key) [(va, g.destBytes)]
          let s := bumpBy { s with scrum := { s.scrum with groups := tset s.scrum.groups key g } }
            0x6100 0x0D space.2
          doneWith s fk Code.ok (BitVec.ofNat 64 q)

/-! ## GROUP_DISARM (R238) -/

/-- GROUP_DISARM. -/
def execGroupDisarm (d : DescRef) (s : State) : Out :=
  withDesc s d 0x41 fun s fk f =>
    let n := opnd f.desc 64 12
    let key := groupKey (namedCtx f n) (opnd f.desc 0 16)
    let status := firstOf
      [ (!clean f.desc 16 48 || !clean f.desc 76 372, Code.misaligned)
      , (ctxFieldStatus s f n != Code.ok, ctxFieldStatus s f n) ]
    if status ≠ Code.ok then doneWith s fk status
    else match tget s.scrum.groups key with
      | none => doneWith s fk Code.protection
      | some g =>
        if g.disarm then doneWith s fk Code.protection
        else .next (settle (stopGroup (waitOn s fk) key Code.aborted (some fk)))

/-! ## CONTRIBUTE (R235, R236) -/

/-- Segment bytes of a CONTRIBUTE. -/
def contribSeg (d : Desc) : Nat := 2 ^ opnd d 188 4 / 256 * unitBytes (opnd d 184 4)

/-- The MISALIGNED cases of R235, with reserved fields and ranges (R5, R506). -/
def contribMisaligned (d : Desc) : Bool :=
  let s := opnd d 188 4
  let n := opnd d 152 31
  !clean d 192 256 || decide (s < 8) || decide (13 < s) || decide (13 < opnd d 184 4) || n == 0 ||
    n % 2 ^ s != 0 || decide (8192 < contribSeg d) || (!opBit d 183 && opnd d 48 16 != 0)

/-- Bytes by which a segment advances the packet's OFFSET, in the group's output format (R227). The
descriptor names no output format: where the group is not on this part, which it is is a free value
(log entry 21). -/
def contribStride (s : State) (ctx : Nat) (d : Desc) : Nat :=
  let dst : BitVec 64 := BitVec.ofNat 64 (opnd d 64 64)
  let fmt := match (if handleNode dst = nodeId s then tget s.scrum.groups (groupKey ctx (opnd d 128 16)) else none) with
    | some g => g.outFmt
    | none => (Config.remoteFmt (handleNode dst) ctx (opnd d 128 16)).toNat
  2 ^ opnd d 188 4 / 256 * unitBytes fmt

/-- The work of a CONTRIBUTE: probes, then packets of as many whole segments as fit (R71, R235). -/
def contribWork (s : State) (ctx : Nat) (d : Desc) : List Work :=
  let src := placeOf (opBit d 183) (opnd d 0 64)
  let dst := BitVec.ofNat 64 (opnd d 64 64)
  let ib := contribSeg d
  let stride := contribStride s ctx d
  let segs := opnd d 152 31 / 2 ^ opnd d 188 4
  let per := 8192 / max 1 ib
  let aux := opnd d 128 16 + opnd d 144 8 * 2 ^ 16
  let packets := (segs + per - 1) / per
  let probes := sideProbe src (segs * ib) packets 0 ++
    (if handleNode dst = nodeId s then [] else sideProbe (.handle dst) (segs * stride) packets 2)
  (if probes.isEmpty then [] else probes ++ [.barrier]) ++
    (piecesOf per segs).map fun p =>
      .copy (src.add (p.1 * ib)) (.contrib (handleAdd dst (p.1 * stride)) aux) (p.2 * ib)

/-- CONTRIBUTE. -/
def execContribute (d : DescRef) (s : State) : Out :=
  withDesc s d 0x42 fun s fk f =>
    let d := f.desc
    let src := placeOf (opBit d 183) (opnd d 0 64)
    let bytes := opnd d 152 31 / 2 ^ opnd d 188 4 * contribSeg d
    if contribMisaligned d then doneWith s fk Code.misaligned
    else if trackerFull s f.quarter then .next s
    else match localSide s f.ctx src [0] bytes .read with
      | some x => failWith s fk x
      | none =>
        let ranges := localRanges src [0] bytes
        let s := ranges.foldl (fun s r =>
          lookupRange s f.quarter (unitStream f.engine f.ctx f.queue) f.ctx r.1 r.2) s
        let s := hold (waitOn s fk) f.quarter f.ctx (holdFlight fk) ranges
        .next (settle (startJob s (flightJob s fk f) (contribWork s f.ctx d)))

/-! ## ROUND_WAIT (R237) -/

/-- ROUND_WAIT. -/
def execRoundWait (d : DescRef) (s : State) : Out :=
  withDesc s d 0x43 fun s fk f =>
    let n := opnd f.desc 64 12
    let status := firstOf
      [ (!clean f.desc 76 372, Code.misaligned)
      , (ctxFieldStatus s f n != Code.ok, ctxFieldStatus s f n) ]
    if status ≠ Code.ok then doneWith s fk status
    else match tget s.scrum.groups (groupKey (namedCtx f n) (opnd f.desc 0 16)) with
      | none => doneWith s fk Code.protection
      | some g =>
        let past := (g.round + 65536 - opnd f.desc 16 16) % 65536
        if g.disarm then doneWith s fk Code.protection
        else if g.state = 2 then doneWith s fk g.failStatus
        else if 1 ≤ past ∧ past ≤ 32767 then doneWith s fk g.lastStatus (roundDetail g)
        else .next (waitOn s fk)

/-- ROUND_WAIT_TIMEOUT: the group is unaffected. -/
def execRoundWaitTimeout (d : DescRef) (s : State) : Out :=
  match waitingOp s d 0x43 with
  | none => .next s
  | some f =>
    if opnd f.desc 32 32 ≠ 0 ∧ passedUs s f.since (opnd f.desc 32 32) = true then
      doneWith s (refKey d) Code.timeout
    else .next s

/-- ROUND_END: every gather and flag request of a round that has ended its segments is final
(R233). -/
def execRoundEnd (ctx group : Nat) (s : State) : Out :=
  let key := groupKey ctx group
  match tget s.scrum.groups key with
  | none => .next s
  | some g =>
    if g.state = 1 ∧ g.ending = false ∧ gatherOver s key g = true then .next (settle (endRound s key g)) else .next s

/-- SEGMENT_FEED: a finalised segment that waits is taken by its stream (R231, R255). -/
def execSegmentFeed (ctx group segment : Nat) (s : State) : Out :=
  let key := groupKey ctx group
  match tget s.scrum.groups key with
  | none => .next s
  | some g =>
    if g.state = 0 ∧ (g.seg segment).stage = 1 then .next (settle (feedSeg s key segment)) else .next s

/-! ## Duplicate checks (R241 to R245) -/

/-- A cluster is charged; when it goes out of service it leaves 6100:04, and with the last of a
quarter the groups there fail (R243, R245). -/
def chargeCluster (s : State) (q c : Nat) : State :=
  let was := unitOut s 7 (32 * q + c)
  let s := charge s 7 (32 * q + c) q 4096
  if was || !unitOut s 7 (32 * q + c) then s
  else
    let mask := (clustersUp s q).foldl (fun n i => n + 2 ^ i) 0
    let s := setReg s 0x6100 (4 + q) mask
    if mask = 0 then
      (s.scrum.groups.filter fun x => steer x.2.ctx x.2.no == q).foldl
        (fun s x => failGroup s x.1 Code.aborted) s
    else s

/-- The record of a mismatch (R243): group, round and segment; element, count and both lanes; and the
second quarter's temperature and load. -/
def mismatchRecord (s : State) (c : DupCheck) (first count : Nat) : State :=
  let (n, s) := drawn s
  let lane (q cl : Nat) : Nat := 512 * q + 16 * cl + first % 16
  raise s
    { cls := 0x07, quarter := some c.quarter, ctx := some (c.group / 65536), unitKind := 7
      unit := 32 * c.quarter + c.cluster
      d0 := c.group % 65536 + c.round * 2 ^ 16 + c.seg * 2 ^ 32
      d1 := first % 2 ^ 16 + count % 2 ^ 16 * 2 ^ 16 + lane c.quarter c.cluster * 2 ^ 32 +
        lane c.checker c.checkCluster * 2 ^ 48
      d2 := (BitVec.ofInt 16 (tempOf s c.checker)).toNat + (Config.loadPattern n).toNat * 2 ^ 16 }

/-- A withheld segment goes on to its destination. -/
def releaseHeld (s : State) (c : DupCheck) : State :=
  match tget s.scrum.groups c.group with
  | none => s
  | some g =>
    if g.round = c.round ∧ g.state ≠ 2 ∧ (g.seg c.seg).stage = 2 then writeSeg s c.group c.seg else s

/-- DUPLICATE_CHECK_DONE. The checks of a checking quarter end in the order of finalisation (R242). The model's lanes compute what the rules say, so the value two of three
computations agree on is the bank's. -/
def execDuplicateCheckDone (check : Nat) (verdict : Verdict) (s : State) : Out :=
  match tget s.scrum.checks check with
  | none => .next s
  | some c =>
    if s.scrum.checks.any fun x => x.2.checker == c.checker && decide (x.1 < check) then .next s
    else
    let s := { s with scrum := { s.scrum with checks := tdel s.scrum.checks check } }
    let note (s : State) (f : Group → Group) : State := if c.orphan then s else modGroup s c.group f
    let s := bump (note s fun g => { g with checks := satInc 16 g.checks }) 0x6100 0x0A
    let held := c.hold && !c.orphan
    match verdict with
    | .same => .next (settle (if held then releaseHeld s c else s))
    | .differs first count third =>
      let s := bump (note s fun g => { g with mismatches := satInc 16 g.mismatches })
        0x6100 0x0C
      let s := mismatchRecord s c first count
      let both := fun s : State => chargeCluster (chargeCluster s c.quarter c.cluster) c.checker c.checkCluster
      if !held then .next (settle (both s))
      else if third = 0 then .next (settle (releaseHeld (chargeCluster s c.checker c.checkCluster) c))
      else if third = 1 then .next (settle (releaseHeld (chargeCluster s c.quarter c.cluster) c))
      else .next (settle (failGroup (both s) c.group Code.integrity))

end Sys2Proof.Machine
end

