-- ==== Sys2Proof/Machine/Sessions.lean ====
section
/-! DEFINITION. The door of the object dictionary: principals and what each may reach (R433, R434,
R437, R456, R462, R467), Dexol sessions and their replies (R441 to R448), and the wrapper in which
every command that reaches the part through the dictionary is performed. -/

namespace Sys2Proof.Machine

/-- Who makes an access (R433, Table 2): principal 0 T, 1 C, 2 M, 3 F, and the context of C. -/
structure Who where
  principal : Nat := 0
  ctx : Nat := 0
deriving DecidableEq, Repr

/-- What a request is answered with (R448, Table 10). -/
structure Answer where
  status : Status := 0
  detail : Nat := 0
  pending : Bool := false
  calibrated : Bool := false
  group : Nat := 0
  /-- Bytes of each value, and the values in order. -/
  length : Nat := 0
  values : List Bytes := []
deriving DecidableEq, Repr

/-- An answer that carries a status alone. -/
def answer (st : Status) : Answer := { status := st }

/-- The REPLY body (Table 10); a failing request carries no values. -/
def Answer.body (a : Answer) : Bytes :=
  let vs := if a.status = Code.ok then a.values else []
  [a.status, BitVec.ofNat 8 (b2n a.pending + 2 * b2n a.calibrated), BitVec.ofNat 8 a.group, 0] ++
    leBytes 4 (if vs.isEmpty then 0 else a.length) ++ leBytes 8 a.detail ++ vs.flatten

/-! ## Datagrams (R441, R443) -/

/-- The key of a port as its session keeps it: the source port's number and address. -/
def dexolHeader (s : State) (type session seq len : Nat) (withFt : Bool) : Bytes :=
  leBytes 1 1 ++ leBytes 1 type ++ leBytes 2 0 ++ leBytes 4 session ++ leBytes 4 seq ++
    leBytes 4 len ++ leBytes 8 (if withFt then (ftOf s 0).toNat else 0) ++ leBytes 8 0

/-- The initial counter block of a body: d is 0 for a request, 1 a REPLY, 2 a NOTIFY. -/
def counterBlock (session seq d : Nat) : Bytes :=
  leBytes 4 session ++ leBytes 4 seq ++ leBytes 1 d ++ leBytes 7 0

/-- A REPLY or NOTIFY datagram: header, encrypted body, HMAC. -/
def dexolSealed (s : State) (x : Session) (id type seq d : Nat) (body : Bytes) : Bytes :=
  let h := dexolHeader s type id seq body.length true
  let b := Config.aesCtr x.encPart (counterBlock id seq d) body
  h ++ b ++ Config.hmacSha512 x.mac (h ++ b)

/-! ## Sessions (R442 to R445) -/

/-- The state with the sessions replaced, and their count in 1010:01. -/
def setSessions (s : State) (t : Tbl Session) : State :=
  setReg { s with dict := { s.dict with sessions := t } } 0x1010 0x01 t.length

/-- The state with one session changed. -/
def modSession (s : State) (id : Nat) (f : Session → Session) : State :=
  { s with dict := { s.dict with sessions := tmod s.dict.sessions id f } }

/-- A session closes, with its subscriptions and its open transfer. -/
def closeSession (s : State) (id : Nat) : State := setSessions s (tdel s.dict.sessions id)

/-- The sessions that satisfy a test close. -/
def closeSessions (s : State) (p : Session → Bool) : State :=
  let keep := tfilter s.dict.sessions fun _ x => !p x
  if keep.length = s.dict.sessions.length then s else setSessions s keep

/-- A datagram is discarded and counted (1010:04). -/
def discardDatagram (s : State) : State := bump s 0x1010 0x04

/-- A Dexol datagram leaves for a client of a port: through the egress buffer of an Ethernet port, or at once on the
management port, which carries little else (R426, R428, R441). -/
def dexolOut (s : State) (port id : Nat) (address d : Bytes) : State :=
  if port = 8 then send s (.dexol id d)
  else ethOut s port rankControl 0 ((if address.length = 16 then 66 else 46) + d.length) (.dexol id d)

/-- A request of a session is answered: the REPLY goes out and is kept while the session and its
window hold it. -/
def replyTo (s : State) (x : Session) (id seq : Nat) (a : Answer) : State :=
  let d := dexolSealed s x id 0x30 seq 1 a.body
  let s := dexolOut s x.port id x.address d
  modSession s id fun x =>
    let top := max x.highest seq
    { x with highest := top, replies := tset (tfilter x.replies fun k _ => top < k + 64) seq d }

/-- How a request number stands to a session's window (R444). -/
inductive SeqCase where
  | below
  | answered (d : Bytes)
  | new
deriving DecidableEq, Repr

/-- The case of a request number. -/
def Session.seqCase (x : Session) (seq : Nat) : SeqCase :=
  if seq = 0 ∨ seq + 64 ≤ x.highest then .below
  else match tget x.replies seq with
    | some d => .answered d
    | none => .new

/-- A request of a session: discarded, answered again from the window, or performed and answered. -/
def withSession (s : State) (id seq : Nat) (k : State → Session → State × Answer) : State :=
  match tget s.dict.sessions id with
  | none => discardDatagram s
  | some x =>
    match x.seqCase seq with
    | .below => discardDatagram s
    | .answered d => dexolOut (modSession s id fun x => { x with heard := s.now }) x.port id x.address d
    | .new =>
      let r := k (modSession s id fun x => { x with heard := s.now }) x
      replyTo r.1 x id seq r.2

/-- A command reaches the part through the dictionary: from principal F, answered over the internal
port, or as a request of a session (R433). -/
def withVia (s : State) (via : Via) (k : State → Who → State × Answer) : Out :=
  .next <| settle <| match via with
    | .firmware =>
      let r := k s { principal := 3 }
      send r.1 (.answer r.2.status r.2.body)
    | .session id seq =>
      withSession s id seq fun s x => k s { principal := x.principal, ctx := x.ctx }

/-- Whether the request's session has a transfer open for another entry (R447). -/
def otherTransfer (s : State) (via : Via) (idx sub : Nat) : Bool :=
  match via with
  | .firmware => false
  | .session id _ =>
    match (tget s.dict.sessions id).bind (·.transfer) with
    | some t => !(t.idx == idx && t.sub == sub)
    | none => false

/-! ## What a principal may do (R433, R349, R456, R462, R467) -/

/-- A field of a context's record in the tenant policy in force (R467). -/
def policyField (s : State) (c lo w : Nat) : Option Nat :=
  s.fw.policy.map fun p => (ofLe ((p.body.drop (16 * c)).take 16) >>> lo) % 2 ^ w

/-- Whether the tenant policy lets a field of a context's record take a value. -/
def policyOk (s : State) (idx sub v : Nat) : Bool :=
  !isCtxIdx idx ||
    (match sub with
     | 0x08 => ((policyField s (idx - 0x7000) 0 8).map fun m => decide (v ≤ m)).getD true
     | 0x09 => ((policyField s (idx - 0x7000) 8 16).map fun m => decide (v ≤ m)).getD true
     | 0x0A => ((policyField s (idx - 0x7000) 24 16).map fun m => decide (v ≤ m)).getD true
     | 0x21 => v == 0 || ((policyField s (idx - 0x7000) 40 1).map (· == 1)).getD true
     | _ => true)

/-- Ports that the topology map in force lists as not PRESENT (R456, R465). -/
def portAbsent (s : State) (n : Nat) : Bool :=
  match s.fw.map with
  | none => false
  | some m => ofLe ((m.body.drop (64 + 40 * n)).take 1) % 2 == 0

/-- A route table entry of 20 bytes as R203 lays it out: DOWN, UP, VALID, RACK. -/
def routeEntryOf (b : Bytes) : Route :=
  let v := ofLe b
  { down := v % 2 ^ 64, up := (v >>> 64) % 2 ^ 64, valid := (v >>> 128) % 2 == 1,
    rack := (v >>> 131) % 2 == 1 }

/-- Whether a route table sets no bit for a port not PRESENT in the map in force. -/
def routesPresent (s : State) (b : Bytes) : Bool :=
  let absent := (List.range 64).foldl (fun m n => if portAbsent s n then m + 2 ^ n else m) 0
  (List.range 4096).all fun i =>
    let r := routeEntryOf ((b.drop (20 * i)).take 20)
    (r.down ||| r.up) &&& absent == 0

/-- Whether a principal may write a value to an entry (Table 2, R349, R456, R462, R467, R508). -/
def mayWrite (s : State) (w : Who) (idx sub v : Nat) : Bool :=
  match w.principal with
  | 0 =>
    decide (idx < 0xF000) && (s.fw.operatorKey.isSome || (idx == 0xA000 && sub == 0x07)) &&
      !(decide (0x2000 ≤ idx) && decide (idx < 0x2004) && sub == 0x23) && policyOk s idx sub v
  | 1 =>
    w.ctx != 0 && ((idx == 0x7000 + w.ctx &&
      ((sub == 0x03 && (v == 2 || v == 3)) || sub == 0x22 || sub == 0x30)) || (idx == 0x4200 && sub == 0x01))
  | 2 => decide (0xF000 ≤ idx)
  | _ =>
    decide (idx < 0xF000) && !(decide (0xA000 ≤ idx) && decide (idx < 0xB000)) &&
      !(isCtxIdx idx && sub == 0x21) && policyOk s idx sub v &&
      !(idx == 0x3C00 && v != 0 && portAbsent s (sub - 1))

/-- Whether a principal may read an entry. -/
def mayRead (w : Who) (idx : Nat) : Bool :=
  w.principal != 1 || (w.ctx != 0 && idx == 0x7000 + w.ctx)

/-! ## Locks (R437, Table 3) -/

/-- Whether any context other than C0 and C1 is not FREE. -/
def othersExist (s : State) : Bool :=
  s.dict.od.any fun x => decide (0x700200 ≤ x.1) && decide (x.1 < 0x800000) && x.1 % 256 == 1 &&
    x.2 != 0

/-- Whether an rwl entry refuses a write of a value now. -/
def lockedNow (s : State) (idx sub v : Nat) : Bool :=
  if isCtxIdx idx then ctxState s (idx - 0x7000) != 0
  else match idx, sub with
    | 0x3C00, n => v != 0 && portActive s (n - 1)
    | 0x3D00, 0x01 => role s != 3
    | 0x3E00, 0x04 => !(activePorts s).isEmpty
    | 0x3F00, 0x05 => !(activePorts s).isEmpty
    | 0x3F00, 0x06 => !(activePorts s).isEmpty
    | 0x2800, 0x03 => othersExist s
    | 0x6000, 0x0C => othersExist s
    | _, _ => false

/-! ## The checks of a write (R434) -/

/-- Whether a value is of an entry's type (R431). -/
def Ty.admits (t : Ty) (v : Nat) : Bool :=
  match t with
  | .bool => decide (v ≤ 1)
  | .octets n => decide (v < 2 ^ (8 * n))
  | .domain => true
  | _ => (t.bytes.map fun n => decide (v < 2 ^ (8 * n))).getD true

/-- Whether a type is carried as a number. -/
def Ty.numeric : Ty → Bool
  | .octets _ => false
  | .domain => false
  | _ => true

/-- Checks 1 to 4 of a write of a value that fits in a number; a block passes with any number. -/
def writeStatus (s : State) (w : Who) (idx sub v : Nat) : Status :=
  match entryAt idx sub with
  | none => if sub = 0 ∧ (entriesOf idx).any (fun e => e.idx ≤ idx && idx < e.idx + e.nIdx) = true
      then Code.protection else Code.misaligned
  | some e => firstOf
      [ (!e.ty.admits v, Code.misaligned)
      , (e.access == .ro || !mayWrite s w idx sub v, Code.protection)
      , (e.ty.numeric && !rangeOk s e idx sub v, Code.misaligned)
      , (e.access == .rwl && lockedNow s idx sub v, Code.locked) ]

/-- A numeric or block write performed when its checks pass: what it then does gives the answer. -/
def guarded (s : State) (w : Who) (idx sub v : Nat) (k : State → State × Answer) : State × Answer :=
  let st := writeStatus s w idx sub v
  if st = Code.ok then k s else (s, answer st)

/-- A block write by a command of its own row, refused while its session writes another entry. -/
def guardedBlock (s : State) (via : Via) (w : Who) (idx sub : Nat) (k : State → State × Answer) :
    State × Answer :=
  if otherTransfer s via idx sub then (s, answer Code.locked) else guarded s w idx sub 0 k

/-- A command that gives a status alone. -/
def plainAnswer (r : State × Status) : State × Answer := (r.1, answer r.2)

end Sys2Proof.Machine
end

