-- ==== Sys2Proof/Machine/Contexts.lean ====
section
/-! DEFINITION. Contexts: creation, teardown, reset, resumption of a queue and group entries
(R325 to R350). -/

namespace Sys2Proof.Machine

/-! ## The record -/

/-- The state with STATE of a context set, and the count of contexts not FREE (7000:80). -/
def setCtxState (s : State) (c st : Nat) : State :=
  let old := ctxState s c
  let n := reg s 0x7000 0x80
  let n := if old = 0 ∧ st ≠ 0 then n + 1 else if old ≠ 0 ∧ st = 0 then n - 1 else n
  setReg (setReg s (ctxIdx c) 0x01 st) 0x7000 0x80 n

/-- Contexts that are not FREE. -/
def liveContexts (s : State) : List Nat :=
  (s.dict.od.filter fun x => isCtxIdx (x.1 / 256) && x.1 % 256 == 0x01 && x.2 != 0).map fun x =>
    x.1 / 256 - 0x7000

/-- Whether the fields of a record break R328. -/
def recordBad (s : State) (c : Nat) : Bool :=
  let f (sub : Nat) : Nat := reg s (ctxIdx c) sub
  let k := f 0x07
  decide (18 < f 0x04) || !(decide (k ≤ 20) || k == 255) || f 0x08 == 0 || decide (64 < f 0x08) ||
    decide (f 0x0A < f 0x09) || decide (f 0x0B < 2) || decide (f 0x0C < 2) ||
    (f 0x11 == 0 && f 0x12 != 0) || decide (16384 < f 0x11 + f 0x12) || decide (4096 < f 0x1F + f 0x20)

/-- Whether two ranges of numbers meet. -/
def runsMeet (a n b m : Nat) : Bool := decide (a < b + m) && decide (b < a + n) && n != 0 && m != 0

/-- Whether a context's window or group range overlaps that of another not FREE (R327). -/
def rangesClash (s : State) (c : Nat) : Bool :=
  let f (x sub : Nat) : Nat := reg s (ctxIdx x) sub
  (liveContexts s).any fun x => x != c && x != 0 &&
    (runsMeet (f c 0x11) (f c 0x12) (f x 0x11) (f x 0x12) ||
      runsMeet (f c 0x1F) (f c 0x20) (f x 0x1F) (f x 0x20))

/-! ## Creation (R333, R334) -/

/-- Queue 0 of a context (R77). -/
def queueZero (c : Nat) : Queue := { ctx := c, quarter := c % 4, state := .opened, ringLog2 := 8 }

/-- Whether the tables a creation needs can be allocated (check 5 of R333). -/
def createFits (s : State) (c : Nat) : Bool :=
  decide (otherTables s c + 8 * 2 ^ ctxL1 s c ≤ s.mem.layout.getD 1 1024 * 2 ^ 20) &&
    decide (queuesOn s (c % 4) < 4096) &&
    (ringPlace s (c % 4) (queueZero c).ringBytes).isSome

/-- ROOT of a new context (R45): the manual leaves open where in the page-table area the
first-level table goes; it is aligned to its size. -/
def newRoot (s : State) (c n : Nat) : Nat :=
  let size := max 256 (8 * 2 ^ ctxL1 s c)
  let slots := max 1 (s.mem.layout.getD 1 1024 * 2 ^ 20 / size)
  ctxL1 s c + (roundUp (areaStart s 1) size + (Config.freeWord n).toNat % slots * size) / 256 * 256

/-- Blocks of an HKDF expansion from a number on: each is the HMAC of the one before, info and the number. -/
def hkdfBlocks (prk info : Bytes) : Nat → Nat → Bytes → Bytes
  | 0, _, _ => []
  | n + 1, i, last =>
    let t := Config.hmacSha512 prk (last ++ info ++ [BitVec.ofNat 8 i])
    t ++ hkdfBlocks prk info n (i + 1) t

/-- HKDF expansion with HMAC-SHA-512, whose blocks have 64 bytes: the first n bytes. -/
def hkdfExpand (prk info : Bytes) (n : Nat) : Bytes := (hkdfBlocks prk info ((n + 63) / 64) 1 []).take n

/-- info of R330: "KF4096 ctx" in ASCII, the context and the generation. -/
def keyInfo (c g : Nat) : Bytes :=
  [0x4B, 0x46, 0x34, 0x30, 0x39, 0x36, 0x20, 0x63, 0x74, 0x78] ++ leBytes 2 c ++ leBytes 2 g

/-- The keys of a context at a generation, from the nonce of this boot and the root key (R330). -/
def contextKeys (bootNonce : Bytes) (c g : Nat) : KeySlot :=
  let okm := hkdfExpand (Config.hmacSha512 bootNonce Config.rootKey) (keyInfo c g) 96
  { gen := g, xtsKey := okm.take 64, macKey := okm.drop 64 }

/-- The steps of a creation: keys, table and ROOT, queue 0, ledger, markers, counters, ACTIVE. -/
def makeContext (s : State) (c : Nat) : State :=
  let (n, s) := drawn s
  let s := { s with ctx := { s.ctx with keys := tset s.ctx.keys c (contextKeys s.ctx.bootNonce c (ctxGen s c)) } }
  let s := setReg s (ctxIdx c) 0x05 (newRoot s c n)
  let s := enterQueue s (queueZero c)
  let s := { s with ledgers := tset s.ledgers c {} }
  let s := { s with core := { s.core with markers := tfilter s.core.markers fun k _ => k / 4 != c } }
  setCtxState (setReg (setReg s (ctxIdx c) 0x23 0) (ctxIdx c) 0x25 0) c 1

/-- The checks of R333 in order, with the status of the first that fails. -/
def createStatus (s : State) (c : Nat) : Status :=
  let st := ctxState s c
  firstOf
    [ (st == 1 || st == 2 || st == 3, Code.locked)
    , (st == 4, Code.quota)
    , (recordBad s c, Code.misaligned)
    , (rangesClash s c || role s == 3 || c == 0, Code.protection)
    , (!createFits s c, Code.quota) ]

/-- A creation, if its checks pass. -/
def createContext (s : State) (c : Nat) : State × Status :=
  let st := createStatus s c
  (if st = Code.ok then makeContext s c else s, st)

/-! ## Stop (R337) -/

/-- Numbers of the queues of a context. -/
def queuesOf (s : State) (c : Nat) : List Nat :=
  (s.q.queues.filter fun x => x.2.ctx == c).map fun x => x.2.queue

/-- Every queue enters state draining, and its undispatched descriptors end CONTEXT_RETIRED. -/
def drainQueues (s : State) (c : Nat) : State :=
  (queuesOf s c).foldl (fun s n =>
    abortQueue (modQueue s c n fun r => { r with state := .draining }) c n Code.contextRetired) s

/-- Plays of a context are disarmed; latched and pending starts are dropped (R110). -/
def dropPlays (s : State) (c : Nat) : State :=
  let s := (s.q.plays.filter fun x => x.2.ctx == c).foldl (fun s x => dropPlayWatch s x.1) s
  { s with q := { s.q with plays := tmap s.q.plays fun _ p =>
      if p.ctx = c then
        { p with armed := false, latched := false, state := if p.state = .running then .running else .idle }
      else p } }

/-- Tees of a context are disarmed; a firing of the same cycle starts nothing. -/
def dropTees (s : State) (c : Nat) : State :=
  { s with tees := s.tees.map fun t => tfilter t fun _ x => x.ctx != c }

/-- Reduction groups of a context are disarmed: their finalisations in progress complete (R238, R239). -/
def dropGroups (s : State) (c : Nat) : State :=
  (s.scrum.groups.filter fun x => x.2.ctx == c).foldl
    (fun s x => stopGroup s x.1 Code.contextRetired none) s

/-- A Caddie stream of a retired context enters disarming; its entries in flight end (R323). -/
def retireCaddie (s : State) (key : Nat) (c : CaddieStream) : State :=
  let s := modCaddie s key fun c =>
    { c with state := 2, failStatus := if c.flying.isEmpty then c.failStatus else Code.contextRetired }
  let s := c.flying.foldl (fun s x => bump (dropEntry s key x) 0x6300 0x09) s
  refuseFreed (wakeCaddie s key Code.contextRetired) Code.contextRetired

/-- The arenas of a context close to new tile commands; those in flight complete (R302). -/
def closeArenas (s : State) (c : Nat) : State :=
  (s.pewter.arenas.filter fun x => x.2.ctx == c).foldl (fun s x =>
    closeArena (modArena s x.1 fun a => { a with closing := true }) x.1) s

/-- Caddie streams of a context. -/
def dropCaddie (s : State) (c : Nat) : State :=
  (s.caddie.streams.filter fun x => x.2.ctx == c).foldl (fun s x => retireCaddie s x.1 x.2) s

/-- Open huddle rounds of a context fail. -/
def failRounds (s : State) (c : Nat) : State :=
  (s.huddles.filter fun x => x.2.ctx == c && (x.2.state == .gathering || x.2.state == .sentUp)).foldl
    (fun s x => runAll (failFound s x.1 x.2 Code.contextRetired)) s

/-- Work of a context's engines issues nothing more; relays of its inbound requests go on. -/
def stopJobs (s : State) (c : Nat) : State :=
  setJobs s (tmap s.net.jobs fun _ j => match j.kind with
    | .relay _ => j
    | .rebuild _ => if j.ctx = c then { j with todo := [], failed := some (0, Code.contextRetired, 0) } else j
    | _ => if j.ctx = c then { j with todo := [] } else j)

/-- Whether a descriptor is an UNMAP under way, which a stop leaves alone. -/
def unmapGoes (s : State) (fk : Nat) : Bool := s.xlat.unmaps.any fun u => u.owner == fk

/-- Descriptors in flight of a context issue nothing more and end CONTEXT_RETIRED. -/
def stopFlights (s : State) (c : Nat) : State :=
  (s.q.flights.filter fun x => x.2.ctx == c).foldl (fun s x =>
    if unmapGoes s x.1 then s else stopFlight s x.1 Code.contextRetired) s

/-- Probe reservations of a context end (R338). -/
def dropReservations (s : State) (c : Nat) : State :=
  { s with xlat := { s.xlat with resv := s.xlat.resv.map fun t => tfilter t fun _ r => r.ctx != c } }

/-- The stop of a teardown. -/
def stopContext (s : State) (c : Nat) (again : Bool) : State :=
  let t : Teardown := { since := s.now, reset := again }
  let s := { s with ctx := { s.ctx with teardowns := tset s.ctx.teardowns c t } }
  let s := drainQueues (setCtxState s c 2) c
  let s := dropCaddie (dropGroups (dropTees (dropPlays s c) c) c) c
  closeArenas (dropReservations (stopFlights (stopJobs (failRounds s c) c) c) c) c

/-- TEARDOWN or RESET of a context (R335, R336, R345). -/
def teardown (s : State) (c : Nat) (again : Bool) : State × Status :=
  if c = 0 ∨ ctxState s c ≠ 1 then (s, Code.locked) else (stopContext s c again, Code.ok)

/-- A write of CONTROL (R349). -/
def control (s : State) (c v : Nat) : State × Status :=
  match v with
  | 1 => createContext s c
  | 2 => teardown s c false
  | 3 => teardown s c true
  | _ => (s, Code.misaligned)

/-- A numeric write to a context's record; an ID past 4,095 names no entry. -/
def guardedCtx (s : State) (w : Who) (c sub v : Nat) (k : State → State × Answer) : State × Answer :=
  if 4096 ≤ c then (s, answer Code.misaligned) else guarded s w (ctxIdx c) sub v k

/-- CONTEXT_CREATE. -/
def execContextCreate (via : Via) (ctx : Nat) (s : State) : Out :=
  withVia s via fun s w => guardedCtx s w ctx 0x03 1 fun s => plainAnswer (control s ctx 1)

/-- CONTEXT_TEARDOWN. -/
def execContextTeardown (via : Via) (ctx : Nat) (s : State) : Out :=
  withVia s via fun s w => guardedCtx s w ctx 0x03 2 fun s => plainAnswer (control s ctx 2)

/-- CONTEXT_RESET. -/
def execContextReset (via : Via) (ctx : Nat) (s : State) : Out :=
  withVia s via fun s w => guardedCtx s w ctx 0x03 3 fun s => plainAnswer (control s ctx 3)

/-! ## Drain (R339, R340) -/

/-- Whether the drain of a context has nothing left to wait for. -/
def drained (s : State) (c : Nat) : Bool :=
  !(tany s.q.flights fun _ f => f.ctx == c) &&
    !(tany s.net.reqs fun _ r => r.pkt.ctx == c) &&
    !(tany s.net.jobs fun _ j => j.ctx == c && (match j.kind with
      | .relay _ => !j.isDone
      | _ => !j.live.isEmpty)) &&
    !(tany s.eth.qps fun _ p => p.ctx == c && (!p.sends.isEmpty || !p.waiting.isEmpty)) &&
    !(s.caddie.guarded.any fun h => h.ctx == c) &&
    !(tany s.scrum.groups fun _ g => g.ctx == c) &&
    !(s.xlat.unmaps.any fun u => u.ctx == c) && !(s.xlat.mapQueue.any fun w => w.ctx == c)

/-- Records of a context's rings not yet written. -/
def ringLeft (r : Ring) : Nat := r.waiting.length + r.held.length

/-- A ring closed by its context's generation step: what it has not written is counted in LOST, and what
comes later is dropped and counted too, as for a lost ring (R108, R341). Its record goes in the clear phase. -/
def Ring.shut (r : Ring) : Ring :=
  { r with
    lostCount := min 0xFFFF (r.lostCount + ringLeft r), waiting := [], held := [], dropped := 0
    headAsked := false, lost := some Code.contextRetired }

/-- Rings of a context close; what they have not written is dropped and counted (R341). -/
def dropRings (s : State) (c : Nat) : State :=
  let gone := s.q.rings.filter fun x => x.2.ctx == c
  let n := gone.foldl (fun n x => n + ringLeft x.2) 0
  bumpBy { s with q := { s.q with rings := tmap s.q.rings fun _ r => if r.ctx = c then r.shut else r } } 0x6000 0x08 n

/-- Translation entries of a context are invalidated (R58). -/
def dropTranslations (s : State) (c : Nat) : State :=
  let units := s.xlat.units.map fun u =>
    { u with
      tlb := u.tlb.filter fun e => e.ctx != c, walkCache := u.walkCache.filter fun e => e.ctx != c
      streams := u.streams.filter fun e => e.ctx != c, walks := u.walks.filter fun e => e.ctx != c
      waiting := u.waiting.filter fun e => e.ctx != c }
  let gone (n : Nat) : Bool := (tget s.xlat.windows n).any fun w => w.ctx == c
  let s := dropWindows s gone
  { s with xlat := { s.xlat with
    units := units, windows := tmap s.xlat.windows fun _ w => if w.ctx = c then { w with valid := false } else w } }

/-- Flagged writes held for a context are discarded without reply (R341). -/
def dropHeldFlags (s : State) (c : Nat) : State :=
  let gone := (s.net.heldFlags.list.flatten).filter fun h => h.pkt.ctx == c
  let s := gone.foldl (fun s h =>
    modFlow s h.flow fun f => { f with busy := f.busy.filter fun x => x != h.pkt.seq }) s
  { s with net := { s.net with heldFlags := s.net.heldFlags.map fun l => l.filter fun h => h.pkt.ctx != c } }

/-- Queue pairs, doorbells, UDP targets, the owner's sessions and pending shadows of a context go at
its generation step (R416, R422, R424, R436, R445). -/
def dropOutside (s : State) (c : Nat) : State :=
  let s := setQps s (tfilter s.eth.qps fun _ p => p.ctx != c)
  let s := { s with eth := { s.eth with
    doorbells := tfilter s.eth.doorbells fun _ d => d.ctx != c
    targets := tdel s.eth.targets c } }
  let s := closeSessions s fun x => x.principal == 1 && x.ctx == c
  setShadows s (s.dict.shadows.filter fun x => x.1 / 256 != ctxIdx c)

/-- The generation step (R341, R332). -/
def generationStep (s : State) (c : Nat) : State :=
  let g := ctxGen s c
  let t := (tget s.ctx.teardowns c).getD {}
  let s := setReg s (ctxIdx c) 0x02 (if g = 0xFFFF then g else g + 1)
  let s := setReg s (ctxIdx c) 0x24 (ftOf s 0).toNat
  let s := { s with ctx := { s.ctx with
    keys := tdel s.ctx.keys c
    teardowns := tset s.ctx.teardowns c { t with clearFrom := s.now, exhausted := decide (g = 0xFFFF) } } }
  let s := dropLines (dropTranslations s c) fun _ l => l.ctx == c
  let s := { s with net := { s.net with results := tfilter s.net.results fun _ r => r.ctx != c } }
  let s := dropOutside (dropRings (dropHeldFlags s c) c) c
  setCtxState (bump s 0x7000 0x82) c 3

/-- TEARDOWN_DRAIN_END. -/
def execTeardownDrainEnd (ctx : Nat) (s : State) : Out :=
  if ctxState s ctx = 2 ∧ drained s ctx = true then .next (settle (generationStep s ctx)) else .next s

/-- Descriptors of a context still in flight complete CONTEXT_RETIRED and are counted. -/
def abandonFlights (s : State) (c : Nat) : State :=
  let mine := s.q.flights.filter fun x => x.2.ctx == c
  let s := setReg s (ctxIdx c) 0x25 (min (2 ^ 32 - 1) mine.length)
  let s := bumpBy s 0x7000 0x83 mine.length
  let s := { s with xlat := { s.xlat with unmaps := s.xlat.unmaps.filter fun u => !(mine.any fun x => x.1 == u.owner) } }
  mine.foldl (fun s x =>
    match tget s.q.flights x.1 with
    | none => s
    | some f => (match f.progress with
      | .final st d => completeFlight s x.1 f st d
      | _ => completeFlight s x.1 f Code.contextRetired 0)) s

/-- Requests of a context are abandoned, and inbound ones still waiting are answered. -/
def abandonRequests (s : State) (c : Nat) : State :=
  let relays := s.net.jobs.filter fun x => x.2.ctx == c
  let s := (s.net.reqs.filter fun x => x.2.pkt.ctx == c).foldl (fun s x => dropReq s x.1 x.2) s
  let s := setJobs s (tfilter s.net.jobs fun _ j => j.ctx != c)
  let s := relays.foldl (fun s x => match x.2.kind with
    | .relay p => refuseReq s p Code.contextRetired
    | _ => s) s
  let held := (heldPkts s).filter fun h => h.2.ctx == c
  let s := { s with caddie := { s.caddie with guarded := s.caddie.guarded.filter fun h => h.ctx != c } }
  let s := (s.scrum.groups.filter fun x => x.2.ctx == c).foldl (fun s x => dropGroup s x.1 x.2) s
  let s := { s with eth := { s.eth with qps := tmap s.eth.qps fun _ p =>
    if p.ctx = c then { p with sends := [] } else p } }
  let s := (s.eth.qps.filter fun x => x.2.ctx == c).foldl (fun s x => match x.2.waiting with
    | [] => s
    | w :: _ => roceFail s x.1 w.pkt.psn Code.contextRetired) s
  held.foldl (fun s h => refuseReq s h.1 Code.contextRetired) s

/-- TEARDOWN_DRAIN_LIMIT: 7000:81 has passed since the stop (R340). -/
def execTeardownDrainLimit (ctx : Nat) (s : State) : Out :=
  match tget s.ctx.teardowns ctx with
  | none => .next s
  | some t =>
    if ctxState s ctx = 2 ∧ passedUs s t.since (reg s 0x7000 0x81) = true then
      let s := abandonRequests (abandonFlights s ctx) ctx
      let s := raise s { cls := 0x0F, status := Code.contextRetired, ctx := some ctx }
      .next (settle (generationStep s ctx))
    else .next s

/-! ## Clear phase (R342, R343, R345) -/

/-- Pages of a context are freed: scratchpad is zeroed, clear-map bits of the rest are set. -/
def freePages (s : State) (c : Nat) : State :=
  let es := extentsOf s c
  let s := es.foldl (fun s e =>
    if paTier e.pa = 3 then setCells s (zeroRun s.mem.bytes e.pa e.len)
    else { s with mem := { s.mem with
      region := tfilter s.mem.region fun r _ => !(decide (e.pa / 65536 ≤ r) && decide (r < (e.pa + e.len) / 65536))
      granule := tfilter s.mem.granule fun g _ => !(decide (e.pa ≤ g) && decide (g < e.pa + e.len)) } }) s
  setPages s c []

/-- Records of every kind that a context holds are freed. -/
def freeRecords (s : State) (c : Nat) : State :=
  let s := { s with
    huddles := tfilter s.huddles fun _ h => h.ctx != c
    ledgers := tdel s.ledgers c
    pewter := { s.pewter with arenas := tfilter s.pewter.arenas fun _ a => a.ctx != c }
    caddie := { s.caddie with streams := tfilter s.caddie.streams fun _ x => x.ctx != c }
    scrum := { s.scrum with checks := tfilter s.scrum.checks fun _ d => d.group / 65536 != c }
    recov := { s.recov with rebuilds := tdel s.recov.rebuilds c } }
  let s := { s with q := { s.q with rings := tfilter s.q.rings fun _ r => r.ctx != c } }
  let s := { s with step :=
    { streams := tfilter s.step.streams fun _ x => x.ctx != c
      parity := tfilter s.step.parity fun _ x => x.ctx != c } }
  let s := { s with xlat := { s.xlat with
    windows := tfilter s.xlat.windows fun _ w => w.ctx != c
    track := s.xlat.track.map fun l => l.filter fun t => t.ctx != c } }
  let s := { s with net := { s.net with
    groups := tfilter s.net.groups fun _ g => g.ctx != c, jobs := tfilter s.net.jobs fun _ j => j.ctx != c } }
  { s with q := { s.q with
    queues := tfilter s.q.queues fun _ x => x.ctx != c
    plays := tfilter s.q.plays fun _ x => x.ctx != c
    watches := s.q.watches.map fun l => l.filter fun w => w.ctx != c
    turn := s.q.turn.map fun t => tdel t c } }

/-- Whole µs that have passed since an instant, a part of one counted as one. -/
def usSince (s : State) (since : Nat) : Nat := ((s.now - since) * 5 + 8999) / 9000

/-- CLEAR_PHASE_END. -/
def execClearPhaseEnd (ctx : Nat) (s : State) : Out :=
  if ctxState s ctx ≠ 3 then .next s
  else
    let t := (tget s.ctx.teardowns ctx).getD {}
    let s := freeRecords (freePages s ctx) ctx
    let s := setReg s 0x7000 0x84 (max (reg s 0x7000 0x84) (usSince s t.clearFrom))
    let s := { s with ctx := { s.ctx with teardowns := tdel s.ctx.teardowns ctx } }
    let s := if t.reset ∧ t.exhausted = false then s
      else closeSessions { s with dict := { s.dict with blocks := tdel s.dict.blocks (ctxIdx ctx * 256 + 0x21) } }
        fun x => x.principal == 1 && x.ctx == ctx
    let s := setCtxState s ctx (if t.exhausted then 4 else 0)
    if t.reset ∧ t.exhausted = false then
      let r := createContext s ctx
      if r.2 = Code.ok then .next r.1
      else .next (raise r.1 { cls := 0x10, status := r.2, ctx := some ctx })
    else .next s

/-! ## Entries of a context (R349, R350) -/

/-- A queue is resumed through :22, as RESUME_QUEUE without DISCARD. -/
def resumeByDict (s : State) (c queue : Nat) : State × Status :=
  let st := firstOf
    [ (namedCtxStatus s c != Code.ok, namedCtxStatus s c)
    , ((queueOf s c queue).isNone || decide (1024 ≤ queue), Code.protection) ]
  (if st = Code.ok then resumeQueue s c queue false else s, st)

/-- QUEUE_RESUME_DICT. -/
def execQueueResumeDict (via : Via) (ctx queue : Nat) (s : State) : Out :=
  withVia s via fun s w => guardedCtx s w ctx 0x22 queue fun s => plainAnswer (resumeByDict s ctx queue)

/-- The member words of a group entry. -/
def memberWords (b : Bytes) : List (BitVec 32) :=
  (cutRuns 4 (b.length + 1) b).map fun x => BitVec.ofNat 32 (ofLe x)

/-- Whether a member word of a group of a kind has a reserved field set, or RELAY in a relay group
(R5, R171, R173). -/
def memberBad (kind : Nat) (w : BitVec 32) : Bool :=
  bits w 27 5 != 0 || (bit w 26 && (kind == 1 || bits w 24 2 != 0))

/-- A group entry is written through :30 (R350). -/
def writeGroupEntry (s : State) (c : Nat) (b : Bytes) : State × Status :=
  let num := ofLe (b.take 2)
  let e : BitVec 64 := BitVec.ofNat 64 (ofLe ((b.drop 2).take 8))
  let ws := memberWords (b.drop 10)
  let n := bits e 30 9
  let kind := bits e 1 1
  let base := reg s (ctxIdx c) 0x1F
  let st := firstOf
    [ (decide (b.length < 10) || decide (4095 < num) || bit e 39 || b.length != 10 + 4 * n ||
        (bit e 0 && (n == 0 || decide (256 < n) || ws.any (memberBad kind))), Code.misaligned)
    , (namedCtxStatus s c != Code.ok, namedCtxStatus s c)
    , (c != 0 && !(decide (base ≤ num) && decide (num < base + reg s (ctxIdx c) 0x20)), Code.protection) ]
  if st ≠ Code.ok then (s, st)
  else
    let g : GroupEntry :=
      { kind := kind, ctx := c, gen := ctxGen s c, srcBase := bits e 40 12, srcMask := bits e 52 12, members := ws }
    ({ s with net := { s.net with groups := if bit e 0 then tset s.net.groups num g else tdel s.net.groups num } },
      Code.ok)

/-- GROUP_ENTRY_WRITE. -/
def execGroupEntryWrite (via : Via) (ctx : Nat) (data : Bytes) (s : State) : Out :=
  withVia s via fun s w =>
    if otherTransfer s via (ctxIdx ctx) 0x30 then (s, answer Code.locked)
    else guardedCtx s w ctx 0x30 0 fun s => plainAnswer (writeGroupEntry s ctx data)

end Sys2Proof.Machine
end

