-- ==== Sys2Proof/Machine/Lanes.lean ====
section
/-! DEFINITION. How words travel over the lanes of a port: Gray levels and precoding (R382), 257-bit
blocks (R383), the dealing of blocks to lanes and their RS(544,514) codewords (R384), and ALIGN blocks
(R385). A frame of LINK_FRAME is what the receiver gives after all of this, and the codewords that
`rsDecode` cannot correct are those that UNCORRECTABLE_LIMIT counts (R399). -/

namespace Sys2Proof.Machine

/-! ## Levels (R382) -/

/-- Gray code of a pair of bits, first bit sent first: 00, 01, 11, 10 take levels -3, -1, +1, +3, here 0 to
3. -/
def grayLevel (first second : Bool) : Nat :=
  match first, second with
  | false, false => 0
  | false, true => 1
  | true, true => 2
  | true, false => 3

/-- The pair of bits of a level. -/
def grayBits (level : Nat) : Bool × Bool :=
  match level with
  | 0 => (false, false)
  | 1 => (false, true)
  | 2 => (true, true)
  | _ => (true, false)

/-- Precoding: P(n) = (G(n) - P(n-1)) mod 4, from the P before. -/
def precode : Nat → List Nat → List Nat
  | _, [] => []
  | p, g :: gs =>
    let x := (g + 4 - p) % 4
    x :: precode x gs

/-- The receiver undoes the precoding: G(n) = (P(n) + P(n-1)) mod 4. -/
def undoPrecode : Nat → List Nat → List Nat
  | _, [] => []
  | p, x :: xs => (x + p) % 4 :: undoPrecode x xs

/-! ## Blocks (R383) -/

/-- A word of the transmit stream; every control word has bits 3:0 equal to zero. -/
inductive LaneWord where
  | data (w : BitVec 64)
  | control (w : BitVec 64)
deriving DecidableEq, Repr

/-- The 64 bits of a word. -/
def LaneWord.value : LaneWord → BitVec 64
  | .data w => w
  | .control w => w

/-- Whether a word is a control word. -/
def LaneWord.isControl : LaneWord → Bool
  | .data _ => false
  | .control _ => true

/-- A block: the header bit and four words. -/
structure Block where
  header : Bool := false
  words : List (BitVec 64) := []
deriving DecidableEq, Repr

/-- Bit i of the mask is set when original word i was a control word. -/
def kindMask : List LaneWord → Nat
  | [] => 0
  | w :: ws => (if w.isControl then 1 else 0) + 2 * kindMask ws

/-- Four consecutive words make a block: control words first, the mask in the first word's low bits. -/
def packBlock (ws : List LaneWord) : Block :=
  if ws.any LaneWord.isControl then
    let all := (ws.filter LaneWord.isControl ++ ws.filter fun w => !w.isControl).map LaneWord.value
    { header := true
      words := match all with
        | [] => []
        | w :: rest => (w ||| BitVec.ofNat 64 (kindMask ws)) :: rest }
  else { header := false, words := ws.map LaneWord.value }

/-- The original order restored from a mask: control words and data words in their own orders. -/
def restoreWords : Nat → Nat → List (BitVec 64) → List (BitVec 64) → List LaneWord
  | 0, _, _, _ => []
  | n + 1, mask, cs, ds =>
    if mask % 2 = 1 then .control (cs.headD 0) :: restoreWords n (mask / 2) cs.tail ds
    else .data (ds.headD 0) :: restoreWords n (mask / 2) cs ds.tail

/-- The words of a block. -/
def unpackBlock (b : Block) : List LaneWord :=
  if b.header then
    let first := b.words.headD 0
    let mask := bits first 0 4
    let n := (List.range 4).countP fun i => mask.testBit i
    let cs := (first &&& ~~~(15 : BitVec 64)) :: b.words.tail
    restoreWords 4 mask (cs.take n) (b.words.drop n)
  else b.words.map .data

/-- The 257 bits of a block in the order they are sent: the header bit, then each word from bit 0. -/
def Block.sent (b : Block) : List Bool :=
  b.header :: (b.words.map fun w => (List.range 64).map fun i => w.getLsbD i).flatten

/-! ## Dealing to lanes and codeword boundaries (R384, R385) -/

/-- The lane that block k of a port goes to, of the lanes in use in ascending order. -/
def laneOfBlock (inUse : List Nat) (k : Nat) : Nat := inUse.getD (k % inUse.length) 0

/-- The blocks of a port's stream that go to the (i)-th of W lanes in use, in order. -/
def dealtBlocks (W i : Nat) (stream : List Block) : List Block :=
  (stream.zip (List.range stream.length)).filterMap fun x => if x.2 % W = i then some x.1 else none

/-- Whether block n of a lane is an ALIGN block: every 4,000th, which starts a codeword. -/
def alignSlot (n : Nat) : Bool := n % 4000 == 0

/-- The ALIGN word (Table 5), four of which make an ALIGN block. -/
def alignWord (lane port : Nat) (rxLocked recoverReq : Bool) (count : Nat) : BitVec 64 :=
  BitVec.ofNat 64 (3 * 2 ^ 4 + lane % 4 * 2 ^ 8 + port % 64 * 2 ^ 10 + (if rxLocked then 2 ^ 16 else 0) +
    (if recoverReq then 2 ^ 17 else 0) + count % 2 ^ 16 * 2 ^ 32)

/-- A lane's blocks with its ALIGN blocks put in, from block number n on; the fuel is the length sent. -/
def withAlign (align : Nat → Block) : Nat → Nat → List Block → List Block
  | 0, _, _ => []
  | fuel + 1, n, bs =>
    if alignSlot n then align (n / 4000) :: withAlign align fuel (n + 1) bs
    else match bs with
      | [] => []
      | b :: rest => b :: withAlign align fuel (n + 1) rest

/-! ## The code (R384)

The field, the generator polynomial and the order of symbols are those of IEEE 802.3 Clause 91, which the
manual names and does not print (PRESUMED, log entry 36). -/

/-- A symbol of GF(2^10). -/
abbrev Sym := BitVec 10

/-- Product with x modulo x^10 + x^3 + 1. -/
def symX (a : Sym) : Sym := if a.getLsbD 9 then (a <<< 1) ^^^ 9 else a <<< 1

/-- Product of two symbols, from bit n - 1 of the second down. -/
def symMulFrom (a b : Sym) : Nat → Sym → Sym
  | 0, acc => acc
  | n + 1, acc => symMulFrom a b n (symX acc ^^^ (if b.getLsbD n then a else 0))

/-- Product of two symbols. -/
def symMul (a b : Sym) : Sym := symMulFrom a b 10 0

/-- Power of a symbol. -/
def symPow (a : Sym) : Nat → Sym
  | 0 => 1
  | n + 1 => symMul a (symPow a n)

/-- Inverse of a symbol, its 1,022nd power, by squares and products. -/
def symInv (a : Sym) : Sym :=
  (List.range 9).foldl (fun (acc : Sym × Sym) _ =>
    let sq := symMul acc.1 acc.1
    (sq, symMul acc.2 sq)) (a, 1) |>.2

/-- Sum of two polynomials, lowest coefficient first. -/
def polyAdd : List Sym → List Sym → List Sym
  | [], q => q
  | p, [] => p
  | a :: p, b :: q => (a ^^^ b) :: polyAdd p q

/-- Product of two polynomials. -/
def polyMul : List Sym → List Sym → List Sym
  | [], _ => []
  | a :: p, q => polyAdd (q.map (symMul a)) (0 :: polyMul p q)

/-- Value of a polynomial, lowest coefficient first. -/
def polyAt (p : List Sym) (x : Sym) : Sym := p.foldr (fun a acc => a ^^^ symMul x acc) 0

/-- Coefficients of the generator, highest first: the product of x - a^j for j from 0 to 29, a = x. -/
def rsGenerator : List Sym :=
  ((List.range 30).foldl (fun g j => polyMul g [symPow 2 j, 1]) [1]).reverse

/-- One message symbol through the division by the generator; the register holds the remainder, highest
coefficient first. -/
def rsShift (g : List Sym) (r : List Sym) (m : Sym) : List Sym :=
  let f := m ^^^ r.headD 0
  (r.tail ++ [0]).zipWith (fun a b => a ^^^ symMul f b) g.tail

/-- The 30 check symbols of a message. -/
def rsCheck (msg : List Sym) : List Sym := msg.foldl (rsShift rsGenerator) (List.replicate 30 0)

/-- A codeword: the 514 symbols of the message, then the check symbols. -/
def rsEncode (msg : List Sym) : List Sym := msg ++ rsCheck msg

/-- The 30 syndromes of a received word, first symbol highest. -/
def rsSyndromes (word : List Sym) : List Sym :=
  (List.range 30).map fun j =>
    let a := symPow 2 j
    word.foldl (fun acc r => symMul a acc ^^^ r) 0

/-- State of the search for the error locator: locator, the one before, its length, the shift and the last
discrepancy. -/
structure Locator where
  c : List Sym := [1]
  b : List Sym := [1]
  len : Nat := 0
  shift : Nat := 1
  last : Sym := 1

/-- One syndrome more (the Berlekamp-Massey step). -/
def Locator.step (syn : List Sym) (l : Locator) (n : Nat) : Locator :=
  let d := (List.range (l.len + 1)).foldl (fun acc i => acc ^^^ symMul (l.c.getD i 0) (syn.getD (n - i) 0)) 0
  if d = 0 then { l with shift := l.shift + 1 }
  else
    let k := symMul d (symInv l.last)
    let c := polyAdd l.c (List.replicate l.shift 0 ++ l.b.map (symMul k))
    if 2 * l.len ≤ n then { c := c, b := l.c, len := n + 1 - l.len, shift := 1, last := d }
    else { l with c := c, shift := l.shift + 1 }

/-- The error of the symbol of a degree, from the locator and the evaluator; zero where none lies there. -/
def errorAt (loc ev : List Sym) (degree : Nat) : Sym :=
  let x := symPow 2 degree
  let i := symInv x
  if polyAt loc i ≠ 0 then 0
  else
    let odd := polyAt ((loc.zip (List.range loc.length)).map fun t => if t.2 % 2 = 1 then t.1 else 0) i
    symMul (polyAt ev i) (symInv odd)

/-- A received word corrected where at most 15 symbols are wrong; none for an uncorrectable codeword. What
the search answers is checked: its syndromes are zero, and it differs in at most 15 symbols. -/
def rsCorrect (word : List Sym) : Option (List Sym) :=
  let syn := rsSyndromes word
  if syn.all (· == 0) then some word
  else
    let l := (List.range 30).foldl (Locator.step syn) {}
    let ev := (polyMul syn l.c).take 30
    let fixed := (word.zip (List.range word.length)).map fun t =>
      t.1 ^^^ errorAt l.c ev (word.length - 1 - t.2)
    let wrong := (word.zip fixed).countP fun t => t.1 != t.2
    if decide (wrong ≤ 15) && (rsSyndromes fixed).all (· == 0) then some fixed else none

/-- The message of a received codeword. -/
def rsDecode (word : List Sym) : Option (List Sym) := (rsCorrect word).map fun w => w.take (w.length - 30)

/-- Symbols from bits in the order sent: ten bits each, the first the lowest. -/
def symsOf (b : List Bool) : List Sym :=
  (cutRuns 10 (b.length + 1) b).map fun r => r.foldr (fun x acc => (acc <<< 1) ||| (if x then 1 else 0)) 0

/-- The codeword of 20 consecutive blocks of a lane: a message of 5,140 bits in 514 symbols. -/
def laneCodeword (blocks : List Block) : List Sym := rsEncode (symsOf (blocks.map Block.sent).flatten)

/-- The codewords of a lane, each of 20 consecutive blocks. -/
def laneCodewords (blocks : List Block) : List (List Sym) :=
  ((cutRuns 20 (blocks.length + 1) blocks).filter fun g => g.length == 20).map laneCodeword

/-- Uncorrectable codewords among those a lane has received: what UNCORRECTABLE_LIMIT counts. -/
def uncorrectables (words : List (List Sym)) : Nat := words.countP fun w => (rsDecode w).isNone

end Sys2Proof.Machine
end

