-- ==== Sys2Proof/Machine/Fabric.lean ====
section
/-! DEFINITION. The switch core: routing (R202 to R205), admission to the middles (R186 to R192),
reassembly (R194, R195), the order of transmission (R196, R197), flow control (R198 to R200), marking
(R210) and limiters (R211). -/

namespace Sys2Proof.Machine

/-! ## Packets in the core -/

/-- The state with one FIFO replaced. -/
def setFifo (s : State) (port fifo : Nat) (l : List Nat) : State :=
  setCore s { s.core with fifo := tset s.core.fifo (fifoKey port fifo) l }

/-- Rate of a port in units of 0.5 GB/s: an internal port counts as 200 GB/s (R192); a lane carries 12.5, 25
or 50 GB/s (R381, Table 1). -/
def portRate (s : State) (port : Nat) : Nat :=
  if port < 64 then
    let l := (tget s.links port).getD {}
    l.width * (25 * 2 ^ l.rate)
  else 400

/-! ## Flow control (R198 to R200) -/

/-- Headroom of an external port in bytes, from its delay estimate. -/
def headroomOf (s : State) (n : Nat) : Nat :=
  let d := (medianOf (linkTime s n).delays).toNat
  let r := portRate s n
  min 262144 (roundUp ((d * r + 65535) / 65536 + 2 * 8256 + 64 * r) 4096)

/-- VL of an ingress FIFO. -/
def fifoVl (fifo : Nat) : Nat := if fifo < 5 then fifo else fifo - 2

/-- Shares of a FIFO, in 32nds of what the headroom leaves. -/
def fifoShare (fifo : Nat) : Nat :=
  match fifo with
  | 0 => 2
  | 1 => 4
  | 2 => 4
  | 3 => 6
  | 4 => 6
  | _ => 5

/-- Limit of a FIFO in bytes. -/
def fifoLimit (s : State) (port fifo : Nat) : Nat := (524288 - headroomOf s port) * fifoShare fifo / 32

/-- FIFOs of a VL: the green or control one, and the excess one if there is one. -/
def vlFifos (vl : Nat) : List Nat := if vl < 3 then [vl] else [vl, vl + 2]

/-- Whether scope EXCESS may be sent to a neighbour (R200). -/
def kfNeighbour (s : State) (n : Nat) : Bool :=
  (((tget s.links n).bind (·.neighbour)).map (·.kf4096)).getD false

/-- State sent for a VL of a port after its FIFOs changed, from the state before. -/
def xoffNext (s : State) (port vl old : Nat) : Nat :=
  if fifoLimit s port vl ≤ fifoFill s port vl then 2
  else if 3 ≤ vl ∧ fifoLimit s port (vl + 2) ≤ fifoFill s port (vl + 2) then
    max old (if kfNeighbour s port then 1 else 2)
  else if (vlFifos vl).all fun f => decide (2 * fifoFill s port f ≤ fifoLimit s port f) then 0
  else old

/-- XOFF state sent by a port for a VL. -/
def xoffOut (s : State) (port vl : Nat) : Nat := (tget s.core.xoffSent (port * 8 + vl)).getD 0

/-- The five states a port sends. -/
def flowStates (s : State) (port : Nat) : List Nat := (List.range 5).map (xoffOut s port)

/-- An external port's states follow its FIFOs, and a FLOW word tells of a change; an internal port
sends none. -/
def flowCheck (s : State) (port : Nat) : State :=
  if 64 ≤ port then s
  else
    let old := flowStates s port
    let new := (List.range 5).map fun v => xoffNext s port v (xoffOut s port v)
    if old = new then s
    else
      let rises := ((old.zip new).filter fun x => decide (x.1 < x.2)).length
      let t := (List.range 5).foldl (fun t v => tset t (port * 8 + v) (new.getD v 0)) s.core.xoffSent
      send (bumpBy (setCore s { s.core with xoffSent := t }) 0x3D00 0x0A rises) (.flow port new)

/-! ## Routing (R181, R204) -/

/-- Internal port by which a packet for this part leaves the core (R181). -/
def innerPort (p : Packet) (inp : Nat) : Nat :=
  if p.op = 0x09 then 64 + 4 * portQuarter inp
  else if p.op = 0x44 then 66 + 4 * steer p.ctx (p.aux % 65536)
  else if isReplyOp p.op || p.op == 0x08 then 64 + 4 * issuerQuarter p.srcQueue
  else 64 + 4 * pktHome p

/-- Whether a port may be routed to in a direction. -/
def portUsable (s : State) (n dir : Nat) : Bool := portActive s n && !quarantined s n && portDir s n == dir

/-- Usable ports among the bits of a route entry. -/
def usablePorts (s : State) (mask dir : Nat) : List Nat :=
  (List.range 64).filter fun n => mask.testBit n && portUsable s n dir

/-- The VL a packet leaves with (R147). -/
def vlFor (fromUp down : Bool) (vl : Nat) : Nat :=
  if fromUp && down then (if vl = 1 then 2 else if vl = 3 then 4 else vl) else vl

/-- Load of a port as last sampled. -/
def loadOf (s : State) (n : Nat) : Nat := (tget s.core.loads n).getD 0

/-- The preferred port with the least load; ties go round by a pointer per input. -/
def pickPort (s : State) (inp : Nat) (ports : List Nat) : Option Nat :=
  match ports with
  | [] => none
  | n :: ns =>
    let best := ns.foldl (fun m i => min m (loadOf s i)) (loadOf s n)
    let ties := ports.filter fun i => loadOf s i == best
    let from_ := (tget s.core.rotate inp).getD 0
    match ties.find? fun i => decide (from_ ≤ i) with
    | some i => some i
    | none => ties.head?

/-- Where a packet goes: an internal port, an external one, or nowhere. -/
def routeOf (s : State) (c : CorePkt) : Option Nat :=
  let p := c.pkt
  if isFenced s p.src && p.vl != 0 then none
  else if p.dst = nodeId s then some (innerPort p c.inp)
  else match tget s.core.routes p.dst with
    | none => none
    | some e =>
      if !e.valid || isFenced s p.dst then none
      else
        let downs := usablePorts s e.down 1
        let down := !downs.isEmpty
        let cand := if down then downs else if c.fromUp then [] else usablePorts s e.up 2
        let vl := vlFor c.fromUp down p.vl
        let pref := cand.filter fun n => xoffIn s n vl != 2
        pickPort s c.inp (if pref.isEmpty then cand else pref)

/-- A packet's head is routed, or the packet is discarded and counted in 3D00:08. -/
def routePkt (s : State) (port fifo id : Nat) (c : CorePkt) : State :=
  match routeOf s c with
  | none =>
    flowCheck (bump (dropPkt (setFifo s port fifo ((fifoList s port fifo).filter fun x => x != id)) id)
      0x3D00 0x08) port
  | some o =>
    let down := decide (o < 64) && portDir s o == 1
    let s := modPkt s id fun c => { c with out := some o, vlOut := vlFor c.fromUp down c.pkt.vl }
    setCore s { s.core with rotate := tset s.core.rotate port (o + 1) }

/-! ## Middles (R188 to R192) -/

/-- Key of a middle's cells for an output, and the quarter of a middle. -/
def cellKey (middle output : Nat) : Nat := middle * 80 + output
def middleQuarter (middle : Nat) : Nat := middle % 4

/-- Number of cells on a quarter that satisfy a test of output and cell. -/
def cellCount (s : State) (q : Nat) (test : Nat → CoreCell → Bool) : Nat :=
  s.core.cells.foldl (fun n x =>
    if x.1 / 80 % 4 = q then n + (x.2.filter (test (x.1 % 80))).length else n) 0

/-- D(q, o) in bytes. -/
def heldBytes (s : State) (q o : Nat) : Nat := 128 * cellCount s q fun o' _ => o' == o

/-- Whether a cell is within the share of the output's cap for its colour (R191, R192). -/
def capAllows (s : State) (q o colour : Nat) : Bool :=
  let share := if colour = 0 then 4 else if colour = 1 then 3 else 2
  decide ((heldBytes s q o + 128) * 6400 ≤ reg s 0x3D00 0x02 * 2 ^ 20 * portRate s o * share)

/-- Whether the middle's SRAM takes a cell: threshold factor 2^(e − 6) of the VL (R189). -/
def sramAllows (s : State) (q o vl : Nat) : Bool :=
  let used := 128 * cellCount s q fun _ c => !c.spilled
  let mine := 128 * cellCount s q fun o' c => o' == o && c.vl == vl && !c.spilled
  decide (64 * (mine + 128) ≤ 2 ^ reg s 0x3D01 (vl + 1) * (48 * 2 ^ 20 - used))

/-- Whether the spill area takes a cell (R190). -/
def spillAllows (s : State) (q vl : Nat) : Bool :=
  let used := 128 * cellCount s q fun _ c => c.spilled
  let mine := 128 * cellCount s q fun _ c => c.spilled && c.vl == vl
  decide (mine + 128 ≤ reg s 0x3D02 (vl + 1) * 2 ^ 20) &&
    decide (used + 128 ≤ s.mem.layout.getD 4 4096 * 2 ^ 20)

/-- Where a middle would store a packet's cell: in spill, in SRAM, or nowhere. -/
def admits (s : State) (middle : Nat) (c : CorePkt) : Option Bool :=
  let q := middleQuarter middle
  match c.out with
  | none => none
  | some o =>
    if !capAllows s q o c.colour then none
    else if sramAllows s q o c.vlOut then some false
    else if spillAllows s q c.vlOut then some true
    else none

/-! ## Marking (R210) -/

/-- Whether a packet of a colour is marked at a depth with a 16-bit draw. -/
def marks (s : State) (colour depth draw : Nat) : Bool :=
  let kmin := reg s 0x3D03 (1 + 3 * colour) * 1024
  let kmax := reg s 0x3D03 (2 + 3 * colour) * 1024
  let pmax := reg s 0x3D03 (3 + 3 * colour)
  if depth < kmin then false
  else if kmax ≤ depth then true
  else decide (draw * (kmax - kmin) < pmax * (depth - kmin))

/-- Key of the note interval of a source: node, queue and context. -/
def noteKey (p : Packet) : Nat := (p.src * 65536 + p.srcQueue) * 4096 + p.ctx

/-- Operand of a CONG_NOTE (R152). -/
def noteExt (s : State) (c : CorePkt) (o depth : Nat) : BitVec 128 :=
  BitVec.ofNat 128 (nodeId s + o % 64 * 2 ^ 12 + c.vlOut % 8 * 2 ^ 18 + c.colour % 4 * 2 ^ 21 +
    min 65535 (depth / 4096) * 2 ^ 24)

/-- The first cell of a packet has been admitted on a quarter: the packet may be marked, and its
source told at most once per 3D00:04. -/
def markPkt (s : State) (q id : Nat) (c : CorePkt) (o : Nat) : State :=
  if reg s 0x3D00 0x05 = 0 ∨ c.vlOut < 3 then s
  else
    let depth := heldBytes s q o
    let (n, s) := drawn s
    if !marks s c.colour depth (Config.draw16 n).toNat then s
    else
      let s := modPkt s id fun c => { c with marked := true }
      let k := noteKey c.pkt
      let due := match tget s.core.noted k with
        | some t => passedNs s t (reg s 0x3D00 0x04)
        | none => true
      if due then
        let s := bump (setCore s { s.core with noted := tset s.core.noted k s.now }) 0x3D00 0x09
        sendReply s q (mkUnsequenced s 0x08 c.pkt.src c.pkt.ctx c.pkt.srcQueue (noteExt s c o depth))
      else s

/-! ## Stage 1 (R183, R185, R186) -/

/-- The packets that the head cell of a FIFO carries: up to four control packets bound alike, or one
packet. -/
def headCell (s : State) (port fifo : Nat) : List (Nat × CorePkt) :=
  match fifoList s port fifo with
  | [] => []
  | id :: rest =>
    match corePkt s id with
    | none => []
    | some c =>
      if c.out.isNone then []
      else if c.pkt.isData then [(id, c)]
      else
        (id, c) :: (((rest.take 3).filterMap fun i => (corePkt s i).map fun x => (i, x)).takeWhile
          fun x => !x.2.pkt.isData && x.2.out == c.out && x.2.vlOut == c.vlOut)

/-- Whether a middle admits the head cell of a FIFO. -/
def headAdmitted (s : State) (middle port fifo : Nat) : Bool :=
  match headCell s port fifo with
  | [] => false
  | x :: _ => (admits s middle x.2).isSome

/-- The FIFOs of a rank, the one whose turn it is first (Table 3). -/
def rankFifos (s : State) (port rank : Nat) : List Nat :=
  let turn := (tget s.core.alternate (port * 4 + rank)).getD 0
  match rank with
  | 0 => [0]
  | 1 => if turn = 1 then [2, 1] else [1, 2]
  | 2 => if turn = 3 then [4, 3] else [3, 4]
  | _ => if turn = 5 then [6, 5] else [5, 6]

/-- The FIFO whose head cell an input offers to a middle. -/
def offered (s : State) (port middle : Nat) : Option Nat :=
  ([0, 1, 2, 3].map (rankFifos s port)).flatten.find? (headAdmitted s middle port)

/-- Rank of a FIFO. -/
def fifoRank (fifo : Nat) : Nat :=
  match fifo with
  | 0 => 0
  | 1 => 1
  | 2 => 1
  | 3 => 2
  | 4 => 2
  | _ => 3

/-- The first free slot of a quarter's spill area. -/
def freeSpill (s : State) (q : Nat) : Nat :=
  let used := (s.core.cells.filter fun x => x.1 / 80 % 4 == q).flatMap fun x =>
    (x.2.filter (·.spilled)).map (·.slot)
  ((List.range (used.length + 1)).find? fun i => !used.contains i).getD 0

/-- A cell of some packets enters a middle. -/
def storeCell (s : State) (port fifo middle : Nat) (ps : List (Nat × CorePkt)) : State :=
  match ps with
  | [] => s
  | (id, c) :: _ =>
    match c.out, admits s middle c with
    | some o, some spill =>
      let k := cellKey middle o
      let cell : CoreCell :=
        { pkts := ps.map (·.1), vl := c.vlOut, spilled := spill
          slot := if spill then freeSpill s (middleQuarter middle) else 0, order := s.core.nextOrder }
      let s := setCore s
        { s.core with
          cells := tset s.core.cells k ((tget s.core.cells k).getD [] ++ [cell])
          nextOrder := s.core.nextOrder + 1
          alternate := tset s.core.alternate (port * 4 + fifoRank fifo) fifo
          fed := tset s.core.fed port (s.now + 1) }
      let s := if spill then bump s 0x3D00 0x06 else s
      let s := ps.foldl (fun s x => modPkt s x.1 fun c => { c with admitted := c.admitted + 1 }) s
      let s := if c.admitted + 1 < c.cells then s
        else setFifo s port fifo ((fifoList s port fifo).filter fun x => !(ps.any fun y => y.1 == x))
      flowCheck (if c.admitted = 0 then markPkt s (middleQuarter middle) id c o else s) port
    | _, _ => s

/-! ## Stage 2 (R194, R195) -/

/-- Bytes a packet reserves in reassembly. -/
def CorePkt.reserve (c : CorePkt) : Nat := c.cells * 128

/-- Bytes reserved at an output that satisfy a test. -/
def reservedBytes (s : State) (o : Nat) (test : CorePkt → Bool) : Nat :=
  s.core.pkts.foldl (fun n x =>
    if x.2.reserved ∧ x.2.out = some o ∧ test x.2 then n + x.2.reserve else n) 0

/-- Share of a VL, and of one context on it, in bytes. -/
def vlShare (vl : Nat) : Nat := if vl = 0 then 16384 else if vl < 3 then 32768 else 90112
def ctxShare (vl : Nat) : Nat := if vl = 0 then 16384 else vlShare vl / 4

/-- Whether an output has room for some packets of one VL, taken together. -/
def roomFor (s : State) (o : Nat) (cs : List CorePkt) : Bool :=
  let new := cs.filter fun c => !c.reserved
  let sum (test : CorePkt → Bool) : Nat := (new.filter test).foldl (fun n c => n + c.reserve) 0
  new.all fun c =>
    decide (reservedBytes s o (fun x => x.vlOut == c.vlOut) + sum (fun x => x.vlOut == c.vlOut) ≤
      vlShare c.vlOut) &&
    decide (reservedBytes s o (fun x => x.vlOut == c.vlOut && x.pkt.ctx == c.pkt.ctx) +
      sum (fun x => x.pkt.ctx == c.pkt.ctx) ≤ ctxShare c.vlOut)

/-- The packets of a cell. -/
def cellPkts (s : State) (c : CoreCell) : List CorePkt := c.pkts.filterMap (corePkt s)

/-- The cell a middle sends to an output: the oldest sendable one, VL0 first. -/
def sendable (s : State) (middle o : Nat) : Option CoreCell :=
  let cs := ((tget s.core.cells (cellKey middle o)).getD []).filter fun c => roomFor s o (cellPkts s c)
  match cs.find? fun c => c.vl == 0 with
  | some c => some c
  | none => cs.head?

/-- Whether a packet complete at an output must be discarded: poisoned or cut, or its port not in
service (R193, R208). -/
def lostAt (s : State) (o : Nat) (c : CorePkt) : Option Nat :=
  if o < 64 ∧ c.vlOut ≠ 0 ∧ (portActive s o = false ∨ quarantined s o = true) then some 0x08
  else if c.cut ∨ (o < 64 ∧ portActive s o = false) then some 0x08
  else if c.dead.isSome then some 0x0B
  else none

/-- A cell of a packet reaches its output; a packet complete there waits for transmission. -/
def reachOutput (o : Nat) (s : State) (id : Nat) : State :=
  match corePkt s id with
  | none => s
  | some c =>
    let c := { c with reserved := true, got := c.got + 1 }
    if c.got < c.cells then modPkt s id fun _ => c
    else match lostAt s o c with
      | some sub => bump (dropPkt s id) 0x3D00 sub
      | none =>
        setCore s { s.core with
          pkts := tset s.core.pkts id { c with order := s.core.nextOrder }
          nextOrder := s.core.nextOrder + 1 }

/-! ## Transmission (R196, R197) -/

/-- Whether a complete packet may leave by its port now: XOFF holds no VL0 control of time, which
never comes here, and a quarantined port carries VL0 only. -/
def mayLeave (s : State) (o : Nat) (c : CorePkt) : Bool :=
  if 64 ≤ o then true
  else
    portActive s o && (c.vlOut == 0 || !quarantined s o) &&
      (match xoffIn s o c.vlOut with
       | 0 => true
       | 1 => c.colour == 0
       | _ => false)

/-- Complete packets of an output on a VL that may leave, in order of completion. -/
def ready (s : State) (o vl : Nat) : List (Nat × CorePkt) :=
  let ps := s.core.pkts.filter fun x =>
    x.2.out == some o && x.2.vlOut == vl && x.2.got == x.2.cells && mayLeave s o x.2
  ps.foldl (fun l x =>
    (l.takeWhile fun y => decide (y.2.order < x.2.order)) ++ [x] ++
      l.dropWhile fun y => decide (y.2.order < x.2.order)) []

/-- The first packet of each context, contexts rising. -/
def heads (ps : List (Nat × CorePkt)) : Tbl (Nat × CorePkt) :=
  ps.foldl (fun t x => if thas t x.2.pkt.ctx then t else tset t x.2.pkt.ctx x) []

/-- The group and VL an output serves: VL0, else control and data by bytes 1 to 3, VLs of a group in
turn. -/
def chooseVl (t : OutTurn) (has_ : Nat → Bool) : Option Nat :=
  let ctl := has_ 1 || has_ 2
  let dat := has_ 3 || has_ 4
  let pick (last a b : Nat) : Nat := if last = a then (if has_ b then b else a) else (if has_ a then a else b)
  if has_ 0 then some 0
  else if ctl && (!dat || decide (t.control * 3 ≤ t.data)) then some (pick t.lastControl 1 2)
  else if dat then some (pick t.lastData 3 4)
  else none

/-- Turn of an output after a packet of a VL: bytes count only while both groups wait. -/
def turnAfter (t : OutTurn) (both : Bool) (vl bytes : Nat) : OutTurn :=
  if vl = 0 then t
  else if vl < 3 then
    { t with control := if both then t.control + bytes else 0, data := if both then t.data else 0
             lastControl := vl }
  else
    { t with data := if both then t.data + bytes else 0, control := if both then t.control else 0
             lastData := vl }

/-- The packet an output sends next, with its turn after. -/
def nextOut (s : State) (o : Nat) : Option ((Nat × CorePkt) × OutTurn) :=
  let t := (tget s.core.turns o).getD {}
  let has_ (v : Nat) : Bool := !(ready s o v).isEmpty
  match chooseVl t has_ with
  | none => none
  | some vl =>
    let hs := heads (ready s o vl)
    let d : Tbl Nat := hs.map fun x => (x.1, (tget t.deficit (vl * 4096 + x.1)).getD 0)
    match drr (fun c => 8192 * ctxWeight s c) (fun x => x.2.bytes) hs (2 * hs.length + 3) d (tget t.lastCtx vl) with
    | none => none
    | some (x, d, c) =>
      let kept := tfilter t.deficit fun k _ => k / 4096 != vl
      let deficit := d.foldl (fun m y => tset m (vl * 4096 + y.1) y.2) kept
      let both := (has_ 1 || has_ 2) && (has_ 3 || has_ 4)
      some (x, { turnAfter t both vl x.2.bytes with deficit := deficit, lastCtx := tset t.lastCtx vl c })

/-- Age of a packet in ns. -/
def ageNs (s : State) (c : CorePkt) : Nat := c.age * 1000 + (s.now - c.entered) * 5 / 9

/-- A packet as it leaves: its VL and its mark. -/
def leaving (c : CorePkt) : Packet :=
  c.pkt.withHdr fun h => { h with vl := c.vlOut, cn := h.cn || c.marked }

/-! ## Limiters (R211) -/

/-- R_max of an issuing queue of this part in MB/s: a mover's or Pewter unit's 256 GB/s (R90, R287),
or the rate of the core port of the other engines and issuers (R240). -/
def rMax (s : State) (srcQueue : Nat) : Nat :=
  let fast := tany s.q.queues fun _ r =>
    r.quarter * 4096 + r.record % 4096 == srcQueue && (r.cls == 1 || r.cls == 4)
  if srcQueue < 16384 ∧ fast = true then 256000 else 230400

/-- The state with one quarter's limiters replaced. -/
def setLimiters (s : State) (q : Nat) (t : Tbl Limiter) : State :=
  setCore s { s.core with limiters := s.core.limiters.set q t }

/-- A limiter cut by a note, at most once in 4 µs. -/
def cutLimiter (s : State) (l : Limiter) : Limiter :=
  let due := match l.lastCut with
    | none => true
    | some t => passedUs s t 4
  if due then
    { l with rate := max (l.rmax / 256) (l.rate * 3 / 4), lastCut := some s.now, lastChange := s.now }
  else l

/-- Limiters with room for one more: the fastest is reused when all 1,024 are in use. -/
def roomLimiter (t : Tbl Limiter) : Tbl Limiter :=
  if t.length < 1024 then t
  else
    let top := t.foldl (fun n x => max n x.2.rate) 0
    match t.find? fun x => x.2.rate == top with
    | some x => tdel t x.1
    | none => t

end Sys2Proof.Machine
end

