-- ==== Sys2Proof/Machine/Recovery.lean ====
section
/-! DEFINITION. Failure domains and recovery: loss of a node, fencing and rejoin (R353 to R363), the
power-warning stop (R365, R366), last gasps (R367), rebuild, adoption and replay (R368 to R372), the
fault queue's commands (R373) and suspect scores (R377, R378). -/

namespace Sys2Proof.Machine

/-! ## What the part knows of nodes -/

/-- The domain entry of a node. -/
def domainOf (s : State) (n : Nat) : Domain := (tget s.recov.domains n).getD {}

/-- The state with the recovery block changed. -/
def setRecov (s : State) (r : RecState) : State := { s with recov := r }

/-- Whether some ACTIVE link joins this part to a node. -/
def linkedTo (s : State) (n : Nat) : Bool := (activePorts s).any fun p => neighbourNode s p == n

/-- A packet operand goes out on every ACTIVE link but one. -/
def floodLocal (s : State) (except : Option Nat) (op : Nat) (ext : BitVec 128) : State :=
  ((activePorts s).filter fun p => some p != except).foldl (fun s p => sendLocal s p op ext) s

/-- The operand of a FENCE_NOTICE (R357, Table 3). -/
def noticeExt (node inc kind cause origin : Nat) (ft : FT) : BitVec 128 :=
  BitVec.ofNat 128 (node % 4096 + inc % 16 * 2 ^ 12 + kind % 2 * 2 ^ 16 + cause % 8 * 2 ^ 17 +
    origin % 4096 * 2 ^ 20 + ft.toNat * 2 ^ 64)

/-- The operand of a LAST_GASP (R152). -/
def gaspExt (s : State) (cause quarters : Nat) : BitVec 128 :=
  BitVec.ofNat 128 (cause % 16 + quarters % 16 * 16 + (ftOf s 0).toNat * 2 ^ 64)

/-- A LAST_GASP on every ACTIVE link. -/
def sendGasp (s : State) (cause quarters : Nat) : State := floodLocal s none 0x09 (gaspExt s cause quarters)

/-! ## Incarnations (R360, R170) -/

/-- The incarnation counter rises: flow records, result-cache entries and reservations are freed. -/
def raiseInc (s : State) (n : Nat) : State :=
  let v := (s.recov.incarnation + n) % 2 ^ 32
  let s := setReg (setRecov s { s.recov with incarnation := v }) 0x8100 0x09 v
  { s with
    net := { s.net with flows := [], results := [] }
    xlat := { s.xlat with resv := Quad.all [] } }

/-! ## Applying a fence (R356, R353) -/

/-- The requests outstanding to a node complete as unreachable. -/
def failRequests (s : State) (n : Nat) : State :=
  (s.net.reqs.filter fun x => x.2.pkt.dst == n).foldl (fun s x =>
    match tget s.net.reqs x.1 with
    | some r => finalReq s x.1 r (unreachableStatus r.pkt.op) 0 []
    | none => s) s

/-- Whether a node is the parent or a child part of a huddle entry. -/
def inHuddle (s : State) (n : Nat) (h : Huddle) : Bool := (!h.root && h.parent == n) || isChildNode s h n

/-- Open rounds in which a node takes part fail. -/
def failNodeRounds (s : State) (n : Nat) : State :=
  (s.huddles.filter fun x => (x.2.state == .gathering || x.2.state == .sentUp) && inHuddle s n x.2).foldl
    (fun s x => match tget s.huddles x.1 with
      | some h => runAll (failFound s x.1 h Code.targetLost)
      | none => s) s

/-- Reservations held for a node end, and flagged writes held from it are discarded. -/
def dropNode (s : State) (n : Nat) : State :=
  let s := { s with xlat := { s.xlat with resv := s.xlat.resv.map fun t => tfilter t fun _ r => r.srcNode != n } }
  { s with net := { s.net with
    heldFlags := s.net.heldFlags.map fun l => l.filter fun h => h.pkt.src != n
    heldPushes := s.net.heldPushes.filter fun h => h.pkt.src != n } }

/-- What follows from FENCED of one node being set. -/
def fenceEffects (s : State) (n : Nat) : State :=
  let s := dropNode (failNodeRounds (failRequests s n) n) n
  raise s { cls := 0x02, node := some n, d0 := domainWord (domainOf s n) }

/-- The nodes fenced together with one: its group where it is a KF4096, less this part and those
already fenced. -/
def fenceSet (s : State) (n : Nat) : List Nat :=
  let d := domainOf s n
  if d.valid && d.switch then
    n :: ((s.recov.domains.filter fun x =>
      x.1 != n && x.1 != nodeId s && x.2.valid && x.2.group == d.group && !isFenced s x.1).map (·.1))
  else [n]

/-- A notice record of a node, with its repeats due. -/
def noteNotice (s : State) (n : Nat) (ext : BitVec 128) (repeats : Nat) : State :=
  let keep := s.recov.notices.filter fun x => bits x.operand 0 12 != n || bit x.operand 16 != bit ext 16
  setRecov s { s.recov with notices := keep ++ [{ operand := ext, since := s.now, repeats := repeats }] }

/-- Whether a fence of a node at an incarnation is applied. -/
def fenceApplies (s : State) (n inc : Nat) : Bool :=
  !isFenced s n && (match tget s.net.lastInc n with
    | some i => i == inc % 16
    | none => true)

/-- A fence is applied and its notice spreads (R356, R357). -/
def applyFence (s : State) (n inc cause origin : Nat) (ft : FT) (from_ : Option Nat) : State :=
  if !fenceApplies s n inc then s
  else
    let set := fenceSet s n
    let s := { s with net := { s.net with lastInc := tset s.net.lastInc n (inc % 16) } }
    let s := set.foldl (fun s m =>
      let ext := noticeExt m ((tget s.net.lastInc m).getD 0) 0 cause origin ft
      noteNotice (setRecov s { s.recov with
        fenced := tset s.recov.fenced m true, causes := tset s.recov.causes m cause }) m ext
        (if m = n then 2 else 0)) s
    let s := set.foldl fenceEffects s
    floodLocal (bump s 0x8100 0x0A) from_ 0xE1 (noticeExt n inc 0 cause origin ft)

/-- An unfence is applied and its notice spreads (R363). -/
def applyUnfence (s : State) (n inc cause origin : Nat) (ft : FT) (from_ : Option Nat) : State :=
  let newer := match tget s.net.lastInc n with
    | some i => let d := (inc + 16 - i % 16) % 16; decide (1 ≤ d) && decide (d ≤ 7)
    | none => true
  if !newer then s
  else
    let ext := noticeExt n inc 1 cause origin ft
    let was := isFenced s n
    let s := { s with net := { s.net with lastInc := tset s.net.lastInc n (inc % 16) } }
    let s := setRecov s { s.recov with
      fenced := tdel s.recov.fenced n
      notices := s.recov.notices.filter fun x => bits x.operand 0 12 != n || bit x.operand 16 }
    let s := noteNotice s n ext 2
    let s := if was then raise s { cls := 0x03, node := some n, d0 := domainWord (domainOf s n) } else s
    floodLocal (bump s 0x8100 0x0A) from_ 0xE1 ext

/-- A decision of this part to fence a node (R355, R359). -/
def decideFence (s : State) (n cause : Nat) : State :=
  applyFence s n ((tget s.net.lastInc n).getD 0) cause (nodeId s) (ftOf s 0) none

/-- Contexts other than C0 that are ACTIVE are reset. -/
def resetContexts (s : State) : State :=
  ((liveContexts s).filter fun c => c != 0 && ctxActive s c).foldl (fun s c => (teardown s c true).1) s

/-- The part fences itself (R362). -/
def selfFence (s : State) : State :=
  let s := resetContexts (raiseInc s 1)
  let ext := noticeExt (nodeId s) (ownInc s) 1 3 (nodeId s) (ftOf s 0)
  let s := floodLocal (noteNotice s (nodeId s) ext 2) none 0xE1 ext
  raise s { cls := 0x18, critical := true, d0 := domainWord (domainOf s (nodeId s)) }

/-- FENCE_NOTICE. -/
def execFenceNotice (port : Nat) (p : Packet) (s : State) : Out :=
  if !portActive s port then .next s
  else
    let x := p.ext
    let cause := bits x 17 3
    let n := bits x 0 12
    let inc := bits x 12 4
    let ft : FT := x.extractLsb' 64 64
    if p.op ≠ 0xE1 ∨ unsequencedBad p = true ∨ 3 < cause ∨ (cause = 3 ∧ bit x 16 = false) ∨ bits x 32 32 ≠ 0 then
      .next (bump s 0x3E00 0x0C)
    else if n = nodeId s then
      .next (if bit x 16 = false ∧ inc = ownInc s then settle (selfFence s) else s)
    else if bit x 16 then .next (settle (applyUnfence s n inc cause (bits x 20 12) ft (some port)))
    else .next (settle (applyFence s n inc cause (bits x 20 12) ft (some port)))

/-- FENCE_NOTICE_REPEAT: the repeats due 100 µs and 500 µs after a notice was applied (R357). -/
def execFenceNoticeRepeat (node : Nat) (s : State) : Out :=
  let due (x : Notice) : Bool :=
    bits x.operand 0 12 == node &&
      ((x.repeats == 2 && passedUs s x.since 100) || (x.repeats == 1 && passedUs s x.since 500))
  let mine := s.recov.notices.filter due
  let s := setRecov s { s.recov with
    notices := s.recov.notices.map fun x => if due x then { x with repeats := x.repeats - 1 } else x }
  .next (mine.foldl (fun s x => floodLocal s none 0xE1 x.operand) s)

/-- A fence by a write of 8100:02 (R359). -/
def fenceByDict (s : State) (n : Nat) : State × Status :=
  if n = nodeId s then (s, Code.protection) else (decideFence s n 2, Code.ok)

/-- FENCE_COMMAND. -/
def execFenceCommand (via : Via) (node : Nat) (s : State) : Out :=
  withVia s via fun s w => guarded s w 0x8100 0x02 node fun s => plainAnswer (fenceByDict s node)

/-! ## Loss of a node (R354, R355) -/

/-- Whether a lost node is to be fenced by this part. -/
def mayFence (s : State) (n : Nat) : Bool :=
  (tget s.recov.lossDown n).getD false ||
    (activePorts s).any fun p => portDir s p == 2 && neighbourNode s p != n

/-- Whether some usable port leads to a node (R204). -/
def hasPath (s : State) (n : Nat) : Bool :=
  match tget s.core.routes n with
  | none => false
  | some e => e.valid && !(usablePorts s e.down 1 ++ usablePorts s e.up 2).isEmpty

/-- A node is declared lost: it is fenced, or it stays unusable on this part only, where open rounds
it takes part in fail if no other path leads to it (R355, R32). -/
def declareLost (s : State) (n cause : Nat) : State :=
  let may := mayFence s n
  let s := setRecov s { s.recov with lossFrom := tdel s.recov.lossFrom n, lossDown := tdel s.recov.lossDown n }
  if may then decideFence s n cause else if hasPath s n then s else failNodeRounds s n

/-- Whether a gasp mark of a node is in force. -/
def gasped (s : State) (n : Nat) : Bool :=
  match tget s.recov.gasps n with
  | some t => !passedMs s t 10
  | none => false

/-- A link to a neighbour has left ACTIVE: with the last of them the loss timeout runs, and after a
last gasp the node is lost at once. -/
def linkDown (s : State) (port : Nat) : State :=
  let n := neighbourNode s port
  if linkedTo s n || n == nodeId s || ((tget s.links port).bind (·.neighbour)).isNone then s
  else
    let down := (List.range 64).any fun p =>
      neighbourNode s p == n && ((tget s.links p).bind (·.neighbour)).isSome && portDir s p == 1
    let s := setRecov s { s.recov with
      lossFrom := tset s.recov.lossFrom n s.now, lossDown := tset s.recov.lossDown n down }
    if gasped s n then declareLost s n 1 else s

/-- NODE_LOSS_TIMEOUT: no link to the node has returned within 8100:01. -/
def execNodeLossTimeout (node : Nat) (s : State) : Out :=
  match tget s.recov.lossFrom node with
  | none => .next s
  | some t =>
    if linkedTo s node = false ∧ passedUs s t (reg s 0x8100 0x01) = true then
      .next (settle (declareLost s node 0))
    else .next s

/-- LAST_GASP: a gasp mark for the sender (R367). -/
def execLastGasp (port : Nat) (p : Packet) (s : State) : Out :=
  if !portActive s port then .next s
  else if p.op ≠ 0x09 ∨ unsequencedBad p = true ∨ bits p.ext 8 56 ≠ 0 ∨ bits p.ext 0 4 = 0 ∨ 3 < bits p.ext 0 4 then
    .next (bump s 0x3E00 0x0C)
  else .next (setRecov s { s.recov with gasps := tset s.recov.gasps p.src s.now })

/-- GASP_MARK_EXPIRE: 10 ms have passed since the LAST_GASP. -/
def execGaspMarkExpire (node : Nat) (s : State) : Out :=
  match tget s.recov.gasps node with
  | none => .next s
  | some t =>
    if passedMs s t 10 then .next (setRecov s { s.recov with gasps := tdel s.recov.gasps node }) else .next s

/-! ## Rejoin (R361, R363) -/

/-- A notice for each node held fenced goes out on a new link (R357). -/
def tellFenced (s : State) (port : Nat) : State :=
  (s.recov.notices.filter fun x => !bit x.operand 16 && isFenced s (bits x.operand 0 12)).foldl
    (fun s x => sendLocal s port 0xE1 x.operand) s

/-- A link to a neighbour has come to ACTIVE with an incarnation of it: its loss is over, its fence
ends with a newer incarnation, and it is told of the fences held. -/
def linkUp (s : State) (port node inc : Nat) : State :=
  let s := setRecov s { s.recov with
    lossFrom := tdel s.recov.lossFrom node, lossDown := tdel s.recov.lossDown node }
  let s := if node = nodeId s then s
    else if isFenced s node then applyUnfence s node inc 3 (nodeId s) (ftOf s 0) none
    else { s with net := { s.net with lastInc := tset s.net.lastInc node (inc % 16) } }
  tellFenced s port

/-- What a neighbour reports of this part at a capability exchange (R361, R362). -/
def peerReport (s : State) (fenced valid : Bool) (r : Nat) : State :=
  if !valid then s
  else if fenced && r % 16 == ownInc s then selfFence s
  else if (r + 16 - ownInc s) % 16 ≤ 7 then raiseInc s ((r + 1 + 16 - ownInc s) % 16)
  else s

/-! ## Power warning (R365, R366, R479) -/

/-- Whether a condition that defers an activation holds (R470). -/
def deferring (s : State) : Bool :=
  s.pwr.warnLow || (List.range 4).any fun q => reg s 0x9000 (8 + q) != 0

/-- The last deferring condition has ended at an instant. -/
def noteDeferral (s : State) (t : Nat) : State :=
  if deferring s then { s with fw := { s.fw with clearSince := none } }
  else if s.fw.clearSince.isSome then s
  else { s with fw := { s.fw with clearSince := some t } }

/-- Step applies in progress stop at their next segment boundary (R258). -/
def stopAllApplies (s : State) (status : Status) : State :=
  s.step.streams.foldl (fun s x => if x.2.flight.isSome then stopApply s x.1 status else s) s

/-- POWER_WARNING: PWR_WARN_N has been low for 100 ns. -/
def execPowerWarning (s : State) : Out :=
  if s.pwr.pwrOk = false then .next s
  else
    let s := bump (noteDeferral { s with pwr := { s.pwr with warnLow := true } } s.now) 0x9000 0x14
    let s := setRecov s { s.recov with warnHigh := none }
    if s.recov.warnedAt.isSome then .next s
    else
      let s := sendGasp s 1 15
      let s := raise s { cls := 0x14, critical := true }
      let s := setRecov s { s.recov with warnedAt := some s.now, warnPhase := 0 }
      .next (settle (stopAllApplies s Code.aborted))

/-- POWER_STOP_ISSUE: 100 µs after the warning engines issue no further request. -/
def execPowerStopIssue (s : State) : Out :=
  match s.recov.warnedAt with
  | none => .next s
  | some t =>
    if s.recov.warnPhase = 0 ∧ passedUs s t 100 = true then
      let s := setRecov s { s.recov with warnPhase := 1 }
      .next (settle (s.q.flights.foldl (fun s x => stopFlight s x.1 Code.aborted) s))
    else .next s

/-- Dispatch resumes. -/
def resumeDispatch (s : State) : State :=
  setRecov s { s.recov with warnedAt := none, warnPhase := 0, warnHigh := none }

/-- Descriptors still in flight complete ABORTED, and their requests are abandoned. -/
def abandonAll (s : State) : State :=
  let ofFlight (j : Job) : Bool := match j.kind with
    | .flight _ => true
    | _ => false
  let jobs := tfilter s.net.jobs fun _ j => ofFlight j
  let mine (r : Req) : Bool := match r.owner with
    | .job k _ => thas jobs k
    | _ => false
  let s := (s.net.reqs.filter fun x => mine x.2).foldl (fun s x => dropReq s x.1 x.2) s
  let s := setJobs s (tfilter s.net.jobs fun _ j => !ofFlight j)
  s.q.flights.foldl (fun s x =>
    match tget s.q.flights x.1 with
    | none => s
    | some f => (match f.progress with
      | .final st d => completeFlight s x.1 f st d
      | _ => completeFlight s x.1 f (f.forced.getD Code.aborted) 0)) s

/-- POWER_STOP_ABANDON: 150 µs after the warning. -/
def execPowerStopAbandon (s : State) : Out :=
  match s.recov.warnedAt with
  | none => .next s
  | some t =>
    if s.recov.warnPhase = 1 ∧ passedUs s t 150 = true then
      let s := abandonAll s
      let s := setRecov (flushAll s s.q.rings) { s.recov with warnPhase := 2 }
      .next (settle (if s.recov.warnHigh.isSome then resumeDispatch s else s))
    else .next s

/-- POWER_WARNING_CLEAR: PWR_WARN_N has been high again for 1 ms; a stop in progress runs to its end
first. -/
def execPowerWarningClear (s : State) : Out :=
  if s.recov.warnedAt.isNone ∨ s.pwr.pwrOk = false then .next s
  else
    let s := noteDeferral { s with pwr := { s.pwr with warnLow := false } } (s.now - 1800000)
    .next (settle (if s.recov.warnPhase = 2 then resumeDispatch s
      else setRecov s { s.recov with warnHigh := some s.now }))

/-! ## Rebuild (R368 to R370) -/

/-- Index of a node in a record's list other than the record's own. -/
def lostIndex (p : ParityRec) (lost : Nat) : Option Nat :=
  (othersOf p.index).find? fun m => p.nodes.getD m 0 == lost

/-- The work of one 8 KiB step of a record's rebuild: own parity and the two other stripes are folded,
then the result is written to the spare. -/
def rebuildStep (p : ParityRec) (m spare bank size committed : Nat) (x : Nat × Nat) : List Work :=
  let off := if committed % 2 = 0 then p.offset0 else p.offset1
  let va := if committed % 2 = 0 then p.parVa0 else p.parVa1
  let jm := stripeOf p.index m
  let n := min x.2 (bank - (jm * size + x.1))
  if bank ≤ jm * size + x.1 then []
  else
    [.copy (.va (va + x.1)) (.xorBuffer x.1) n] ++
      ((othersOf p.index).filter (· != m)).flatMap (fun k =>
        let at_ := stripeOf p.index k * size + x.1
        if bank ≤ at_ then []
        else [Work.copy (.handle (mkHandle (p.nodes.getD k 0) p.window (off + at_))) (.xorBuffer x.1)
          (min n (bank - at_))]) ++
      [.barrier, .drain x.1 n (.handle (mkHandle spare p.window (off + jm * size + x.1)))]

/-- The whole work of a record's rebuild. -/
def rebuildWork (p : ParityRec) (st : Stream) (m spare committed : Nat) : List Work :=
  let z := stripeBytes st.rule st.params
  ((piecesOf 8192 z).map (rebuildStep p m spare (bankBytes st.rule st.params) z committed)).flatten

/-- A record's rebuild starts; with its stream disarmed it has failed. -/
def startRebuild (lost spare : Nat) (s : State) (x : Nat × ParityRec) : State :=
  match lostIndex x.2 lost, tget s.step.streams x.1 with
  | some m, some st =>
    startJob s
      { kind := .rebuild x.1, ctx := x.2.ctx, gen := ctxGen s x.2.ctx, quarter := x.2.quarter
        engine := engStep, srcQueue := issuer x.2.quarter 81
        buffer := List.replicate (stripeBytes st.rule st.params) 0 }
      (rebuildWork x.2 st m spare (ledgerOf s x.2.ctx).committed)
  | _, _ =>
    startJob s
      { kind := .rebuild x.1, ctx := x.2.ctx, quarter := x.2.quarter, engine := engStep
        failed := some (0, Code.aborted, 0) } []

/-- Parity records of a context that name a node at an index other than their own. -/
def recordsNaming (s : State) (c lost : Nat) : List (Nat × ParityRec) :=
  s.step.parity.filter fun x => x.2.ctx == c && (lostIndex x.2 lost).isSome

/-- A write of 8100:03. -/
def rebuildByDict (s : State) (b : Bytes) : State × Status :=
  let word (i : Nat) : Nat := ofLe ((b.drop (2 * i)).take 2)
  let c := word 0
  let lost := word 1
  let spare := word 2
  let rows := recordsNaming s c lost
  let ledger := (ledgerOf s c).state
  let st := firstOf
    [ (b.length != 6 || decide (4095 < c) || decide (4095 < lost) || decide (4095 < spare) || lost == spare ||
        lost == nodeId s || spare == nodeId s, Code.misaligned)
    , (namedCtxStatus s c != Code.ok, namedCtxStatus s c)
    , (rows.isEmpty, Code.protection)
    , (!isFenced s lost || (ledger != 0 && ledger != 6) || rebuilding s c, Code.locked) ]
  if st ≠ Code.ok then (s, st)
  else
    let r : Rebuild := { lost := lost, spare := spare, records := rows.length }
    let s := setRecov s { s.recov with rebuilds := tset s.recov.rebuilds c r }
    (rows.foldl (startRebuild lost spare) s, Code.ok)

/-- REBUILD_START. -/
def execRebuildStart (via : Via) (data : Bytes) (s : State) : Out :=
  withVia s via fun s w => guardedBlock s via w 0x8100 0x03 fun s => plainAnswer (rebuildByDict s data)

/-- Bytes a record's rebuild has written: its drains before the first piece not done. -/
def rebuildWritten (s : State) (p : ParityRec) (st : Stream) (r : Rebuild) (j : Job) : Nat :=
  let undone := match j.failed, j.todo with
    | some x, _ => x.1
    | none, x :: _ => x.1
    | none, [] => j.issued
  (numberWork 0 (rebuildWork p st ((lostIndex p r.lost).getD 0) r.spare (ledgerOf s p.ctx).committed)).foldl
    (fun n w => match w.2 with
      | .drain _ len _ => if w.1 < undone then n + len else n
      | _ => n) 0

/-- REBUILD_RECORD_DONE: a record's rebuild has come to its end. -/
def execRebuildRecordDone (ctx record : Nat) (s : State) : Out :=
  match jobOf s (.rebuild record), tget s.step.parity record, tget s.recov.rebuilds ctx with
  | some j, some p, some r =>
    if j.isDone = false ∨ p.ctx ≠ ctx then .next s
    else
      let n := match tget s.step.streams record with
        | some st => rebuildWritten s p st r j
        | none => 0
      let s := endJob s j.kind
      let bad := j.status
      let last := decide (r.records ≤ r.done + 1)
      let status := if r.status = Code.ok then bad else r.status
      let r' : Rebuild :=
        { r with
          done := r.done + 1, written := r.written + n, status := status
          state := if last then (if status = Code.ok then 2 else 3) else r.state }
      let s := setRecov s { s.recov with rebuilds := tset s.recov.rebuilds ctx r' }
      if bad = Code.ok then
        let nodes := p.nodes.set ((lostIndex p r.lost).getD 0) r.spare
        .next (settle { s with step := { s.step with
          parity := tmod s.step.parity record fun p => { p with nodes := nodes } } })
      else if bad = Code.contextRetired then .next (settle s)
      else .next (settle (raise s { cls := 0x19, quarter := some p.quarter, status := bad, ctx := some ctx
                                    node := some r.lost, d0 := domainWord (domainOf s r.lost) }))
  | _, _, _ => .next s

/-- COMMITTED + 1, the number of the innings after a committed one: it stops at 0xFFFFFFFF, where R38 says that INNINGS
stops advancing (DEDUCED, log entry 25). -/
def nextInnings (committed : Nat) : Nat := min (committed + 1) (2 ^ 32 - 1)

/-- A write of 8100:06 (R371). -/
def adoptByDict (s : State) (b : Bytes) : State × Status :=
  let c := ofLe (b.take 2)
  let v := ofLe (b.drop 2)
  let l := ledgerOf s c
  let st := firstOf
    [ (b.length != 6 || decide (4095 < c) || v == 0, Code.misaligned)
    , (namedCtxStatus s c != Code.ok, namedCtxStatus s c)
    , (l.state != 0 || l.innings != 1 || l.committed != 0 || (tany s.step.streams fun _ x => x.ctx == c),
        Code.locked) ]
  if st ≠ Code.ok then (s, st)
  else (modLedger s c fun l =>
    { l with
      committed := v, innings := nextInnings v, replaying := true
      openFt := ftOf s (c % 4), commitFt := ftOf s (c % 4) },
    Code.ok)

/-- ADOPT_INNINGS. -/
def execAdoptInnings (via : Via) (data : Bytes) (s : State) : Out :=
  withVia s via fun s w => guardedBlock s via w 0x8100 0x06 fun s => plainAnswer (adoptByDict s data)

/-- The streams of a context have applied nothing of the innings that is opened again (R256, R372). -/
def reopenStreams (s : State) (c : Nat) : State :=
  { s with step := { s.step with streams := tmap s.step.streams fun _ st =>
    if st.ctx = c ∧ st.flight.isNone = true then
      { st with innings := none, taken := [], done := 0, state := if st.state = 3 then 3 else 0 }
    else st } }

/-- A write of 8100:07 (R372). In state OPEN it sets only REPLAYING, and INNINGS stays even where it is not
COMMITTED + 1: R372's table is followed against R38 (DEDUCED, log entry 17). -/
def replayByDict (s : State) (c : Nat) : State × Status :=
  if namedCtxStatus s c ≠ Code.ok then (s, namedCtxStatus s c)
  else
    match (ledgerOf s c).state with
    | 6 => (modLedger (reopenStreams s c) c fun l =>
        { l with
          state := 0, innings := nextInnings l.committed, replaying := true, openFt := ftOf s (c % 4)
          abortRecorded := false, prepareSent := false, voted := false }, Code.ok)
    | 0 => (modLedger s c fun l => { l with replaying := true }, Code.ok)
    | _ => (s, Code.locked)

/-- INNINGS_REPLAY. -/
def execInningsReplay (via : Via) (ctx : Nat) (s : State) : Out :=
  withVia s via fun s w => guarded s w 0x8100 0x07 ctx fun s =>
    let r := replayByDict s ctx
    (retryApplies r.1 ctx, answer r.2)

/-! ## The fault queue (R373) -/

/-- A write of 8000:05: records leave from the head; no more can be consumed than are held. -/
def consumeFaults (s : State) (n : Nat) : State × Status :=
  if s.recov.faults.length < n then (s, Code.misaligned)
  else
    let rest := s.recov.faults.drop n
    (setReg (setRecov s { s.recov with faults := rest }) 0x8000 0x02 rest.length, Code.ok)

/-- FAULT_RECORDS_CONSUME. -/
def execFaultRecordsConsume (via : Via) (count : Nat) (s : State) : Out :=
  withVia s via fun s w => guarded s w 0x8000 0x05 count fun s => plainAnswer (consumeFaults s count)

/-- A write of 8000:03: 0 clears the summary bits, and no other value is described. -/
def clearSummary (s : State) (v : Nat) : State × Status :=
  if v = 0 then (setReg s 0x8000 0x03 0, Code.ok) else (s, Code.misaligned)

/-- FAULT_SUMMARY_CLEAR. -/
def execFaultSummaryClear (via : Via) (value : Nat) (s : State) : Out :=
  withVia s via fun s w => guarded s w 0x8000 0x03 value fun s => plainAnswer (clearSummary s value)

/-! ## Suspect scores (R377, R378) -/

/-- SUSPECT_DECAY: every second a score loses a 64th. -/
def execSuspectDecay (s : State) : Out :=
  if passedMs s s.recov.decayedAt 1000 then
    .next (setRecov s { s.recov with
      decayedAt := s.now
      suspects := tmap s.recov.suspects fun _ x => { x with score := x.score - x.score / 64 } })
  else .next s

/-- Whether a unit of a kind exists (R377, Table 11). -/
def unitExists (kind unit : Nat) : Bool :=
  match kind with
  | 0 => unit == 0
  | 1 => decide (unit < 4)
  | 2 => decide (unit < 64)
  | 3 => decide (unit < 8)
  | 4 => decide (unit < 20)
  | 5 => decide (unit < 12)
  | 6 => decide (unit < 4)
  | 7 => decide (unit < 128)
  | 8 => decide (unit < 16)
  | 9 => decide (unit < 65536)
  | _ => false

/-- A unit is restored: in service again with score 0; a port loses its SUSPECT cause and a cluster
returns to 6100:04. -/
def restoreUnit (s : State) (kind unit : Nat) : State :=
  let s := setRecov s { s.recov with
    suspects := tmod s.recov.suspects (suspectKey kind unit) fun x => { x with score := 0, out := false } }
  match kind with
  | 2 =>
    let v := reg s (0x3000 + unit) 0x02
    elect (setReg s (0x3000 + unit) 0x02 (if v.testBit 3 then v - 8 else v))
  | 7 => setReg s 0x6100 (4 + unit / 32) ((clustersUp s (unit / 32)).foldl (fun n i => n + 2 ^ i) 0)
  | _ => s

/-- A write of 8200:02: a byte of kind and two bytes of index. -/
def restoreByDict (s : State) (b : Bytes) : State × Status :=
  let kind := ofLe (b.take 1)
  let unit := ofLe (b.drop 1)
  if b.length ≠ 3 ∨ unitExists kind unit = false then (s, Code.misaligned) else (restoreUnit s kind unit, Code.ok)

/-- UNIT_RESTORE. -/
def execUnitRestore (via : Via) (value : Nat) (s : State) : Out :=
  withVia s via fun s w => guardedBlock s via w 0x8200 0x02 fun s =>
    if 2 ^ 24 ≤ value then (s, answer Code.misaligned) else plainAnswer (restoreByDict s (leBytes 3 value))

end Sys2Proof.Machine
end

