-- ==== Sys2Proof/Machine/SwitchCore.lean ====
section
/-! DEFINITION. The commands of the switch core (R180 to R213). -/

namespace Sys2Proof.Machine

/-- The oldest packet of a FIFO that has no output yet. -/
def oldestUnrouted (s : State) (port fifo : Nat) : Option (Nat × CorePkt) :=
  (fifoList s port fifo).findSome? fun id =>
    match corePkt s id with
    | some c => if c.out.isNone then some (id, c) else none
    | none => none

/-- PACKET_ROUTE: the oldest packet of a FIFO not yet routed is routed on its head (R204). -/
def execPacketRoute (port fifo : Nat) (s : State) : Out :=
  if s.core.stopped then .next s
  else
    match oldestUnrouted s port fifo with
    | none => .next s
    | some (id, c) => .next (routePkt s port fifo id c)

/-- CELL_ADMIT: on cycle t input i is connected to middle (i + t) mod 80 and sends it at most one
cell, the first of Table 3 that the middle admits (R185, R186, R191). -/
def execCellAdmit (port fifo middle : Nat) (s : State) : Out :=
  if s.core.stopped = false ∧ middle = (port + s.now) % 80 ∧ tget s.core.fed port ≠ some (s.now + 1) ∧
      offered s port middle = some fifo then
    .next (storeCell s port fifo middle (headCell s port fifo))
  else .next s

/-- PA of a slot of a quarter's spill area (R278). -/
def spillPa (s : State) (q slot : Nat) : Nat := q * 2 ^ 40 + areaStart s 4 + slot * 128

/-- A spilled cell meets an uncorrectable error in the Foil of its quarter: counted, recorded with its PA and
charged, and its packet is poisoned (R193, R284, R377; DEDUCED, log entry 34: the record that R193 names is
the one of R284). -/
def poisonCell (q : Nat) (s : State) (c : CoreCell) : State :=
  let ctx := (c.pkts.head?.bind (corePkt s)).map (·.pkt.ctx)
  let s := raise (bump s 0x5000 0x0A)
    { cls := 0x0A, quarter := some q, status := Code.integrity, ctx := ctx
      unitKind := 6, unit := q, d0 := spillPa s q c.slot }
  c.pkts.foldl (fun s i => modPkt s i fun p => { p with dead := some q }) (charge s 6 q q 8192)

/-- Spilled cells among the first of a list are fetched; whether Foil gives one back with an
uncorrectable error is open (R193). -/
def fetchCells (q : Nat) : State → List CoreCell → State × List CoreCell
  | s, [] => (s, [])
  | s, c :: cs =>
    let (s, c) :=
      if c.spilled && !c.staged then
        let (n, s) := drawn s
        (if Config.freeBit n then poisonCell q s c else s, { c with staged := true })
      else (s, c)
    let r := fetchCells q s cs
    (r.1, c :: r.2)

/-- CELL_TO_OUTPUT: on cycle t middle m is connected to output (m + t) mod 80; a spilled cell that no fetch
has brought back yet is fetched first (R185, R193, R195). -/
def execCellToOutput (middle output : Nat) (s : State) : Out :=
  if s.core.stopped = false ∧ output = (middle + s.now) % 80 ∧
      tget s.core.gave middle ≠ some (s.now + 1) then
    match sendable s middle output with
    | none => .next s
    | some c =>
      let k := cellKey middle output
      let s := (fetchCells (middleQuarter middle) s [c]).1
      let rest := ((tget s.core.cells k).getD []).filter fun x => x.order != c.order
      let s := setCore s
        { s.core with
          cells := if rest.isEmpty then tdel s.core.cells k else tset s.core.cells k rest
          gave := tset s.core.gave middle (s.now + 1) }
      .next (c.pkts.foldl (reachOutput output) s)
  else .next s

/-- SPILL_FETCH. -/
def execSpillFetch (middle output : Nat) (s : State) : Out :=
  let k := cellKey middle output
  match tget s.core.cells k with
  | none => .next s
  | some l =>
    if s.core.stopped then .next s
    else
      let r := fetchCells (middleQuarter middle) s (l.take 16)
      .next (setCore r.1 { r.1.core with cells := tset r.1.core.cells k (r.2 ++ l.drop 16) })

/-- PACKET_TRANSMIT: the next complete packet leaves, or is discarded at the age limit of a fabric
port or of the part's own blocks (R196, R197). -/
def execPacketTransmit (port : Nat) (s : State) : Out :=
  if s.core.stopped then .next s
  else
    match nextOut s port with
    | none => .next s
    | some ((id, c), t) =>
      let s := dropPkt (setCore s { s.core with turns := tset s.core.turns port t }) id
      let age := ageNs s c
      if port < 64 then
        if reg s 0x3D00 0x03 * 1000 < age then .next (bump s 0x3D00 0x07)
        else .next (send (countFrame s port) (.packet port (age / 1000) (leaving c)))
      else if 2000000 < age then .next (bump s 0x3E00 0x0C)
      else .next (send s (.inner port (age / 1000) (leaving c)))

/-- FLOW_REFRESH: an ACTIVE port repeats its five states every 1 µs (R200, R389). -/
def execFlowRefresh (port : Nat) (s : State) : Out :=
  let due := match tget s.core.refreshed port with
    | some t => passedUs s t 1
    | none => true
  if due = true ∧ port < 64 ∧ portActive s port = true then
    .next (send (setCore s { s.core with refreshed := tset s.core.refreshed port s.now })
      (.flow port (flowStates s port)))
  else .next s

/-- FLOW_WORD: the last state received holds; a word of a reserved type or with a reserved field set is discarded and
counted, and one with a code of 3 is discarded (R386, R389). -/
def execFlowWord (port : Nat) (word : BitVec 64) (s : State) : Out :=
  if 64 ≤ port ∨ !portActive s port then .next s
  else if 4 ≤ bits word 4 4 then .next (bump s (0x3000 + port) 0x0E)
  else if bits word 4 4 ≠ 2 then .next s
  else if bits word 0 4 ≠ 0 ∨ bits word 18 46 ≠ 0 then .next (bump s (0x3000 + port) 0x0E)
  else if (List.range 5).any fun v => bits word (8 + 2 * v) 2 == 3 then .next s
  else
    let t := (List.range 5).foldl (fun t v => tset t (port * 8 + v) (bits word (8 + 2 * v) 2)) s.core.xoffRecv
    .next (sendAllHeld (setCore s { s.core with xoffRecv := t }) port)

/-- Bytes held for a port in all middles and in its reassembly buffer (R204). -/
def portLoad (s : State) (o : Nat) : Nat :=
  [0, 1, 2, 3].foldl (fun n q => n + heldBytes s q o) 0 + reservedBytes s o fun _ => true

/-- PORT_LOAD_SAMPLE: every 32 switch-core cycles (R204). -/
def execPortLoadSample (s : State) : Out :=
  if s.now < s.core.sampledAt + 32 then .next s
  else
    let t := (List.range 80).foldl (fun t o => tset t o (portLoad s o)) s.core.loads
    .next (setCore s { s.core with loads := t, sampledAt := s.now })

/-- CONG_NOTE: the limiter of the issuing queue it names is cut (R211). -/
def execCongNote (p : Packet) (s : State) : Out :=
  if unsequencedBad p || !extZero p 23 1 || !extZero p 40 88 then .next (bump s 0x3E00 0x0C)
  else if p.dst ≠ nodeId s then .next s
  else
    let q := issuerQuarter p.srcQueue
    let t := s.core.limiters.get q
    match tget t p.srcQueue with
    | some l => .next (setLimiters s q (tset t p.srcQueue (cutLimiter s l)))
    | none =>
      let r := rMax s p.srcQueue
      let l : Limiter := { rate := r, rmax := r, lastChange := s.now }
      .next (setLimiters s q (tset (roomLimiter t) p.srcQueue (cutLimiter s l)))

/-- LIMITER_INCREASE: 8 µs after its last change (R211). -/
def execLimiterIncrease (srcQueue : Nat) (s : State) : Out :=
  let q := issuerQuarter srcQueue
  let t := s.core.limiters.get q
  match tget t srcQueue with
  | none => .next s
  | some l =>
    if passedUs s l.lastChange 8 then
      let rate := l.rate + (l.rmax - l.rate) / 4
      if l.rmax * 63 ≤ rate * 64 then .next (setLimiters s q (tdel t srcQueue))
      else .next (setLimiters s q (tset t srcQueue { l with rate := rate, lastChange := s.now }))
    else .next s

end Sys2Proof.Machine
end

