-- ==== Sys2Proof/Machine/Links.lean ====
section
/-! DEFINITION. Fabric lanes and link bring-up (R385 to R406): SERVE, equalisation, lock, capability
exchange, quarantine and recovery. -/

namespace Sys2Proof.Machine

/-! ## Ports and lanes -/

/-- The link of a port. -/
def linkOf (s : State) (n : Nat) : Link := (tget s.links n).getD {}

/-- The state with a port's link changed. -/
def modLink (s : State) (n : Nat) (f : Link → Link) : State :=
  { s with links := tset s.links n (f (linkOf s n)) }

/-- A port enters a state. -/
def setPortState (s : State) (n st : Nat) : State :=
  modLink (setReg s (0x3000 + n) 0x01 st) n fun l => { l with since := s.now }

/-- A lane of a link. -/
def Link.lane (l : Link) (i : Nat) : Lane := (tget l.lanes i).getD {}

/-- The state with one lane changed. -/
def modLane (s : State) (n i : Nat) (f : Lane → Lane) : State :=
  modLink s n fun l => { l with lanes := tset l.lanes i (f (l.lane i)) }

/-- Lanes named by a mask. -/
def lanesIn (mask : Nat) : List Nat := (List.range 4).filter fun i => mask.testBit i

/-- The state with every lane of a port changed. -/
def modLanes (s : State) (n : Nat) (f : Lane → Lane) : State :=
  modLink s n fun l => { l with lanes := (List.range 4).map fun i => (i, f (l.lane i)) }

/-- A mask of the lanes that satisfy a test. -/
def Link.mask (l : Link) (p : Lane → Bool) : Nat :=
  (List.range 4).foldl (fun m i => if p (l.lane i) then m + 2 ^ i else m) 0

/-- The bytes of ASCII text. -/
def ascii (t : String) : Bytes := t.toList.map fun c => BitVec.ofNat 8 c.toNat

/-! ## Quarantine (R404, R405) -/

/-- The topology map's entry of a port, 40 bytes. -/
def mapEntry (s : State) (n : Nat) : Option Bytes :=
  s.fw.map.map fun m => (m.body.drop (64 + 40 * n)).take 40

/-- Whether a neighbour differs from what the map expects on a port. -/
def mapDiffers (s : State) (n : Nat) (nb : Neighbour) : Bool :=
  match mapEntry s n with
  | none => false
  | some e =>
    let v := ofLe (e.take 8)
    !(v % 2 == 1 && (v >>> 1) % 4096 == nb.node && (v >>> 13) % 64 == nb.port && e.drop 8 == nb.identity)

/-- Whether a port's node ID arrives on another ACTIVE port with another identity. -/
def duplicated (s : State) (n : Nat) (nb : Neighbour) : Bool :=
  (activePorts s).any fun m => m != n && (match (linkOf s m).neighbour with
    | some x => x.node == nb.node && x.identity != nb.identity
    | none => false)

/-- The quarantine causes of an ACTIVE port. -/
def causesOf (s : State) (n : Nat) : Nat :=
  let suspect := reg s (0x3000 + n) 0x02 &&& 8
  match (linkOf s n).neighbour with
  | none => suspect
  | some nb =>
    suspect + b2n (mapDiffers s n nb) + 2 * b2n (nb.node == nodeId s) + 4 * b2n (duplicated s n nb) +
      16 * b2n (nb.role == 3 || role s == 3)

/-- A port is checked: its causes are shown, and one newly quarantined drops what it holds (R208). -/
def checkPort (s : State) (n : Nat) : State :=
  let old := reg s (0x3000 + n) 0x02
  let new := causesOf s n
  let s := setReg s (0x3000 + n) 0x02 new
  if old = 0 ∧ new ≠ 0 then portCut s n else s

/-- Every ACTIVE port is checked, and the time service chooses again. -/
def checkPorts (s : State) : State := elect ((activePorts s).foldl checkPort s)

/-! ## Leaving and entering states (R397) -/

/-- A port leaves ACTIVE (R208, R354, Table 2 of 12). -/
def leaveActive (s : State) (n : Nat) : State :=
  let l := linkOf s n
  let s := raise s
    { cls := 0x01, quarter := some (portQuarter n), node := some (neighbourNode s n), unitKind := 2, unit := n
      d0 := domainWord (domainOf s (neighbourNode s n)), d1 := l.rxLanes }
  let s := modLink s n fun l => { l with leftActive := some s.now, fastTries := 0 }
  linkDown (timeLinkDown (portCut s n) n) n

/-- A port becomes DISABLED; what it had agreed is gone. -/
def disablePort (s : State) (n : Nat) : State :=
  let s := if portActive s n then leaveActive (setReg s (0x3000 + n) 0x01 0) n else s
  setReg (setReg { s with links := tdel s.links n } (0x3000 + n) 0x01 0) (0x3000 + n) 0x02
    (reg s (0x3000 + n) 0x02 &&& 8)

/-- Whether transmitters may run: the part is up, not stopped by EPO_N or a shutdown. -/
def lanesMayRun (s : State) : Bool := s.pwr.up && !s.pwr.epo && s.pwr.shut.isEmpty

/-- A DISABLED port with a direction enters DETECT. -/
def enablePort (s : State) (n : Nat) : State :=
  if portState s n = 0 ∧ portDir s n ≠ 0 ∧ lanesMayRun s = true then setPortState s n stDetect else s

/-- A port enters DETECT: comma lock begins anew, and no fast recovery follows. -/
def enterDetect (s : State) (n : Nat) : State :=
  modLanes (modLink (setPortState s n stDetect) n fun l => { l with leftActive := none }) n fun x =>
    { x with comma := false }

/-- A port enters SERVE with a new ATTEMPT and the limits of its entries. -/
def enterServe (s : State) (n : Nat) : State :=
  let (k, s) := drawn s
  let top := reg s (0x3000 + n) 0x03
  modLink (setPortState s n stServe) n fun l =>
    let modes := ((List.range 3).filter fun m => decide (m ≤ top) && !l.leftOut.contains m).foldl (fun r m => r + 2 ^ m) 0
    { l with
      attempt := (Config.draw16 k).toNat, peerAttempt := 0, offer := none, accepting := false
      rates := modes, revs := if reg s (0x3000 + n) 0x0C ≥ 2 then 3 else 1
      countdown := none, peerStarted := false, recoverReq := false
      collects := [], inbox := [], sent := [], txKey := none, rxKey := none
      confirmed := false, readySent := false, peerHello := [] }

/-- A port enters RECOVER; the side that found the cause asks for it in its next ALIGN blocks. -/
def enterRecover (s : State) (n : Nat) (own : Bool) : State :=
  let l := linkOf s n
  let word (i : Nat) : Nat :=
    3 * 16 + i * 2 ^ 8 + n % 64 * 2 ^ 10 + 2 ^ 16 + 2 ^ 17 + (l.lane i).count % 65536 * 2 ^ 32
  let s := if own then (lanesIn l.txLanes).foldl (fun s i =>
      modLane (send s (.linkWord n 3 (leBytes 8 (word i)))) n i fun x => { x with count := x.count + 1 }) s else s
  let s := send (leaveActive (setReg s (0x3000 + n) 0x01 stRecover) n) (.linkWord n 4 [])
  modLink (setPortState s n stRecover) n fun l => { l with recoverReq := own }

/-- A lane in use of an ACTIVE port. -/
def laneInUse (s : State) (n i : Nat) : Bool := portActive s n && (linkOf s n).rxLanes.testBit i

/-! ## SERVE (R390 to R392) -/

/-- COMMA_LOCK. -/
def execCommaLock (port lane : Nat) (s : State) : Out :=
  if 64 ≤ port ∨ 4 ≤ lane ∨ s.pwr.up = false ∨ s.pwr.clocksLost.contains (1 + port / 16) = true then .next s
  else if portState s port = stDetect then
    .next (enterServe (modLane s port lane fun x => { x with comma := true }) port)
  else if portState s port = stServe then .next (modLane s port lane fun x => { x with comma := true })
  else .next s

/-- COMMA_LOCK_LOST. -/
def execCommaLockLost (port lane : Nat) (s : State) : Out :=
  if port < 64 ∧ portState s port = stServe then .next (modLane s port lane fun x => { x with comma := false })
  else .next s

/-- Whether a port offers fast recovery (R406). -/
def offersFast (s : State) (l : Link) : Bool :=
  l.revision == 2 && l.resume.isSome && !l.fastRefused && decide (l.fastTries < 3) && l.revs == 3 &&
    (match l.leftActive with
     | some t => !passedMs s t (reg s 0x3B00 0x08)
     | none => false)

/-- The SERVE message of a lane: OFFER or ACCEPT (R391, Table 7). -/
def serveWord (s : State) (l : Link) (lane : Nat) : Nat :=
  let widths := if l.revs = 3 then 7 else 4
  (if l.accepting then 2 else 1) + 16 + lane * 2 ^ 8 + l.mask (·.comma) * 2 ^ 10 +
    (if l.accepting then 2 ^ l.rate else l.rates) * 2 ^ 14 +
    (if l.accepting then (if l.width = 4 then 4 else l.width) else widths) * 2 ^ 17 +
    (if l.accepting then l.txLanes else 0) * 2 ^ 20 +
    b2n (if l.accepting then l.fast else offersFast s l) * 2 ^ 24 +
    (12 + 24 * 2 ^ 8 + 72 * 2 ^ 16 + 100 * 2 ^ 24 + 40 * 2 ^ 32) * 2 ^ 32 + 5 * 2 ^ 72 +
    l.attempt * 2 ^ 80 + l.peerAttempt * 2 ^ 96

/-- SERVE_MESSAGE_SEND: the current message goes out on every lane. -/
def execServeMessageSend (port : Nat) (s : State) : Out :=
  if port < 64 ∧ portState s port = stServe then
    .next ((List.range 4).foldl (fun s i =>
      send s (.linkWord port 1 (leBytes 16 (serveWord s (linkOf s port) i)))) s)
  else .next s

/-- The lanes a side uses of those heard. -/
def laneSet (heard : Nat) : List Nat :=
  if heard % 16 = 15 then [0, 1, 2, 3]
  else if heard % 4 = 3 then [0, 1]
  else if heard / 4 % 4 = 3 then [2, 3]
  else (lanesIn heard).take 1

/-- The mask of the lowest lanes of a set. -/
def lowest (w : Nat) (ls : List Nat) : Nat := (ls.take w).foldl (fun m i => m + 2 ^ i) 0

/-- Rate, width, transmit lanes, receive lanes and FAST, as both sides choose them (R392). -/
def choose (s : State) (l : Link) (o : BitVec 128) : Option (Nat × Nat × Nat × Nat × Bool) :=
  let rates := l.rates &&& bits o 14 3
  let widths := (if l.revs = 3 then 7 else 4) &&& bits o 17 3
  let tx := laneSet (bits o 10 4)
  let rx := laneSet (l.mask (·.comma))
  let rate := [2, 1, 0].find? fun m => rates.testBit m
  let width := [(4, 2), (2, 1), (1, 0)].find? fun x =>
    decide (x.1 ≤ min tx.length rx.length) && widths.testBit x.2
  match rate, width with
  | some r, some w => some (r, w.1, lowest w.1 tx, lowest w.1 rx, bit o 24 && offersFast s l)
  | _, _ => none

/-- A port enters EQUALISE: its receiver asks for its first preset (R395, R406). -/
def enterEqualise (s : State) (n : Nat) : State :=
  let s := modLink (setPortState s n stEqualise) n fun l =>
    { l with countdown := none, peerStarted := false, fastTries := if l.fast then l.fastTries + 1 else l.fastTries }
  let fast := (linkOf s n).fast
  modLanes s n fun x =>
    { x with
      reqTap := 0, reqStep := 0, reqPreset := if fast then 3 else 2, reqId := 1
      ackTap := 0, result := 0, ackId := none, done := false, peerDone := false, locked := false
      peerLocked := false, lastAlign := none }

/-- An ACCEPT that agrees moves on to EQUALISE; one that differs starts again with a new ATTEMPT. -/
def takeAccept (s : State) (n : Nat) (m : BitVec 128) : State :=
  let l := linkOf s n
  if !l.accepting then s
  else if bits m 14 3 = 2 ^ l.rate ∧ bits m 17 3 = (if l.width = 4 then 4 else l.width) ∧
      bit m 24 = l.fast ∧ bits m 96 16 = l.attempt then
    enterEqualise (modLink s n fun l => { l with rxLanes := bits m 20 4 }) n
  else
    let (k, s) := drawn s
    modLink s n fun l => { l with accepting := false, offer := none, attempt := (Config.draw16 k).toNat }

/-- An OFFER is taken; one that echoes this side's ATTEMPT lets it choose, anew from the latest (R392): where nothing
fits, it accepts nothing. -/
def takeOffer (s : State) (n : Nat) (m : BitVec 128) : State :=
  let s := modLink s n fun l => { l with offer := some m }
  let l := linkOf s n
  if bits m 96 16 = l.attempt then
    match choose s l m with
    | some (r, w, tx, rx, fast) =>
      modLink s n fun l =>
        { l with accepting := true, rate := r, width := w, txLanes := tx, rxLanes := rx, fast := fast }
    | none => modLink s n fun l => { l with accepting := false }
  else s

/-- SERVE_MESSAGE: a message with a good CRC on a lane with comma lock. -/
def execServeMessage (port lane : Nat) (message : BitVec 128) (s : State) : Out :=
  if 64 ≤ port ∨ portState s port ≠ stServe ∨ ((linkOf s port).lane lane).comma = false then .next s
  else if bits message 4 4 ≠ 1 ∨ bits message 25 7 ≠ 0 ∨ bits message 112 16 ≠ 0 then .next s
  else
    let s := modLink s port fun l => { l with peerAttempt := bits message 80 16 }
    match bits message 0 4 with
    | 1 => .next (takeOffer s port message)
    | 2 => .next (takeAccept s port message)
    | _ => .next s

/-- SERVE_TIMEOUT. -/
def execServeTimeout (port : Nat) (s : State) : Out :=
  if port < 64 ∧ portState s port = stServe ∧ passedUs s (linkOf s port).since (reg s 0x3B00 0x01) = true then
    .next (enterDetect s port)
  else .next s

/-! ## Equalisation (R393 to R396) -/

/-- CRC-8 of a training message, polynomial x^8 + x^2 + x + 1, initial value 0, over 24 bits, bit 0
first. -/
def crc8 (v : Nat) : Nat :=
  (List.range 24).foldl (fun c i =>
    let top := (c / 128 + v / 2 ^ i) % 2
    (c * 2 % 256) ^^^ (if top = 1 then 7 else 0)) 0

/-- A message with its CRC. -/
def withCrc8 (v : Nat) : Nat := v % 2 ^ 24 + crc8 (v % 2 ^ 24) * 2 ^ 24

/-- Whether a message's CRC is good. -/
def crc8Ok (m : BitVec 32) : Bool := bits m 24 8 == crc8 (bits m 0 24)

/-- Bounds of a tap in steps of 0.005 (R394, Table 10). -/
def tapRange (tap : Nat) : Int × Int :=
  match tap with
  | 0 => (0, 12)
  | 1 => (-24, 0)
  | 2 => (-72, 0)
  | 3 => (100, 200)
  | _ => (-40, 0)

/-- Whether taps are within their ranges and their magnitudes sum to at most 1.0. -/
def tapsOk (ts : List Int) : Bool :=
  ((List.range 5).all fun i =>
    decide ((tapRange i).1 ≤ ts.getD i 0) && decide (ts.getD i 0 ≤ (tapRange i).2)) &&
    decide (ts.foldl (fun n t => n + t.natAbs) 0 ≤ 200)

/-- A preset as five values of two bytes (R440, Table 4; log entry 26). -/
def tapsOf (b : Bytes) : List Int :=
  (List.range 5).map fun i => (BitVec.ofNat 16 (ofLe ((b.drop (2 * i)).take 2))).toInt

/-- The calibrated preset of a lane: the user value where one is present, else the factory's
(R440). -/
def calibratedTaps (s : State) (n lane : Nat) : List Int :=
  let u := blockOf s (0xE000 + n) (0x10 + lane)
  tapsOf (if u.isEmpty then
    (if (blockOf s (0xF000 + n) (0x10 + lane)).isEmpty then Config.factoryTaps (4 * n + lane)
     else blockOf s (0xF000 + n) (0x10 + lane)) else u)

/-- A transmitter's answer to a request: result, and taps after it (R394). -/
def answerRequest (s : State) (n lane : Nat) (x : Lane) (m : BitVec 32) : Nat × List Int :=
  let tap := bits m 0 3
  let step := bits m 3 2
  let preset := bits m 5 2
  if 4 < tap ∨ step = 3 ∨ 1 < bits m 8 2 ∨ (step ≠ 0 ∧ preset ≠ 0) ∨ bits m 16 8 ≠ 0 then (3, x.taps)
  else if preset = 1 then (1, [0, 0, 0, 200, 0])
  else if preset = 2 then (1, calibratedTaps s n lane)
  else if preset = 3 then (1, x.lastTaps)
  else if step = 0 then (1, x.taps)
  else
    let ts := x.taps.set tap (x.taps.getD tap 0 + (if step = 1 then 1 else -1))
    if tapsOk ts then (1, ts) else (2, x.taps)

/-- A request of the peer's receiver is taken. -/
def takeRequest (s : State) (n lane : Nat) (m : BitVec 32) : State :=
  let x := (linkOf s n).lane lane
  let x' := { x with peerDone := bit m 10, precode := bit m 7, pattern := if bits m 8 2 ≤ 1 then bits m 8 2 else x.pattern }
  let r := answerRequest s n lane x m
  modLane s n lane fun _ =>
    if x.ackId = some (bits m 11 5) then x'
    else { x' with taps := r.2, ackTap := bits m 0 3, result := r.1, ackId := some (bits m 11 5) }

/-- The peer's frame with COUNTDOWN 0 is its last: the receiver decodes blocks from then on (R396). -/
def notePeerStart (s : State) (n : Nat) (m : BitVec 32) : State :=
  if bits m 10 4 = 0 then modLink s n fun l => { l with peerStarted := true } else s

/-- The peer's answer to this side's request is taken; a request answered lets the receiver ask for
what it wants next, which the manual leaves to it. -/
def takeStatus (s : State) (n lane : Nat) (m : BitVec 32) : State :=
  let x := (linkOf s n).lane lane
  let s := notePeerStart s n m
  if bits m 5 5 = x.reqId ∧ bits m 3 2 ≠ 0 then
    let (k, s) := drawn s
    let v := (Config.freeWord k).toNat
    modLane s n lane fun x =>
      { x with reqTap := v % 5, reqStep := v / 5 % 3, reqPreset := 0, reqId := (x.reqId + 1) % 32 }
  else s

/-- TRAINING_FRAME: messages with a bad CRC are ignored; `satisfied` says whether the receiver is
content with the lane. In LOCK this side has sent its last frame and asks for nothing more, but a slower peer
may still send frames: only its COUNTDOWN is taken (R396). -/
def execTrainingFrame (port lane : Nat) (request status : BitVec 32) (satisfied : Bool) (s : State) : Out :=
  let l := linkOf s port
  if 64 ≤ port ∨ l.rxLanes.testBit lane = false then .next s
  else if portState s port = stLock then .next (if crc8Ok status then notePeerStart s port status else s)
  else if portState s port ≠ stEqualise then .next s
  else
    let s := if l.countdown.isNone then modLane s port lane fun x => { x with done := satisfied } else s
    let s := if crc8Ok request then takeRequest s port lane request else s
    .next (if crc8Ok status then takeStatus s port lane status else s)

/-- The messages of a lane: request, then status (Tables 8 and 9). -/
def trainingWords (s : State) (n : Nat) (l : Link) (x : Lane) : Nat × Nat :=
  let precode := l.rate == 2 || reg s (0x3000 + n) 0x06 == 1
  (withCrc8 (x.reqTap + x.reqStep * 2 ^ 3 + x.reqPreset * 2 ^ 5 + b2n precode * 2 ^ 7 +
      b2n (!l.fast) * 2 ^ 8 + b2n x.done * 2 ^ 10 + x.reqId * 2 ^ 11),
    withCrc8 (x.ackTap + x.result * 2 ^ 3 + x.ackId.getD 0 * 2 ^ 5 + l.countdown.getD 15 * 2 ^ 10 +
      b2n x.precode * 2 ^ 14))

/-- TRAINING_FRAME_SEND: a frame on each lane in use; COUNTDOWN starts once both sides are content on
every lane, and the frame with 0 is the last. -/
def execTrainingFrameSend (port : Nat) (s : State) : Out :=
  if 64 ≤ port ∨ portState s port ≠ stEqualise then .next s
  else
    let l := linkOf s port
    let content := (lanesIn l.rxLanes).all fun i => (l.lane i).done && (l.lane i).peerDone
    let count := match l.countdown with
      | none => if content then some 14 else none
      | some k => some (k - 1)
    let s := modLink s port fun l => { l with countdown := count }
    let s := (lanesIn l.txLanes).foldl (fun s i =>
      let l := linkOf s port
      let w := trainingWords s port l (l.lane i)
      send s (.linkWord port 2 (leBytes 4 w.1 ++ leBytes 4 w.2))) s
    if count = some 0 then
      .next (modLink (setPortState s port stLock) port fun l => { l with failures := tdel l.failures l.rate })
    else .next s

/-- EQUALISE_TIMEOUT: a rate that fails three times in succession is left out of later OFFERs. -/
def execEqualiseTimeout (port : Nat) (s : State) : Out :=
  let l := linkOf s port
  let due := if l.fast then passedUs s l.since 50 else passedMs s l.since (reg s 0x3B00 0x03)
  if port < 64 ∧ portState s port = stEqualise ∧ due = true then
    let n := (tget l.failures l.rate).getD 0 + 1
    let s := modLink (bump s (0x3000 + port) 0x0A) port fun l =>
      { l with
        failures := tset l.failures l.rate n
        leftOut := if 3 ≤ n ∧ l.leftOut.contains l.rate = false then l.rate :: l.leftOut else l.leftOut }
    .next (enterServe (modLanes s port fun x => { x with comma := false }) port)
  else .next s

/-! ## Capability exchange (R400 to R403, R406) -/

/-- A capability message is sent, and kept to be repeated. -/
def sendCap (s : State) (n kind : Nat) (b : Bytes) : State :=
  modLink (send s (.capability n kind b)) n fun l => { l with sent := tset l.sent kind b, repeatedAt := s.now }

/-- The part's HELLO (Table 14). -/
def helloBytes (s : State) (n : Nat) (l : Link) : Bytes :=
  [1, BitVec.ofNat 8 l.revs] ++
    leBytes 3 (1 + role s % 8 * 2 + nodeId s % 4096 * 16 + n % 64 * 2 ^ 16) ++
    leBytes 4 s.recov.incarnation ++ [0] ++ padTo 16 l.nonce ++ padTo 32 (Config.x25519Base l.secret) ++
    padTo 32 Config.identityKey ++ padTo 64 Config.endorsement ++ List.replicate 6 0

/-- First two bytes' worth of what a CONFIRM or RESUME says of the peer (Table 15). -/
def peerWord (s : State) (msg node rev : Nat) : Bytes :=
  let inc := tget s.net.lastInc node
  leBytes 8 (msg + b2n (isFenced s node) * 2 ^ 8 + b2n inc.isSome * 2 ^ 9 + rev % 4 * 2 ^ 10 + inc.getD 0 * 2 ^ 12)

/-- The RESUME of a port, its MAC over the peer's nonce too once that has been received. -/
def resumeBytes (s : State) (l : Link) (peerNonce : Bytes) : Bytes :=
  let node := (l.neighbour.map (·.node)).getD 0
  let head := peerWord s 3 node 0 ++ padTo 16 l.nonce
  head ++ padTo 16 (Config.hmacSha512 (l.resume.getD []) (head ++ peerNonce))

/-- A port enters CAPABILITY with a new nonce and, for a full exchange, a new key pair. -/
def enterCapability (s : State) (n : Nat) : State :=
  let (k, s) := drawn s
  let s := modLink (setPortState s n stCapability) n fun l =>
    { l with
      nonce := Config.randomBytes k 16, secret := (Config.randomBytes k 48).drop 16, peerHello := []
      collects := [], inbox := [], sent := [], confirmed := false, readySent := false
      txKey := none, rxKey := none, txCtr := 0, rxCtr := 0 }
  let l := linkOf s n
  if l.fast then sendCap s n 3 (resumeBytes s l []) else sendCap s n 1 (helloBytes s n l)

/-- A lane has received the 200 codewords up to its next ALIGN block: how many symbols were corrected in them is what
the channel made it, a free value, and at most 15 in each (R384, R385, log entry 36). -/
def noteCorrected (s : State) (n : Nat) : State :=
  let (k, s) := drawn s
  bumpBy s (0x3000 + n) 0x07 ((Config.freeWord k).toNat % 3001)

/-- ALIGN_BLOCK: lock, the handshake that ends LOCK, and a request to recover (R385, R398, R399). In LOCK blocks are
decoded after the peer's last training frame (R396). -/
def execAlignBlock (port lane : Nat) (word : BitVec 64) (block sinceBad skew : Nat) (s : State) : Out :=
  let st := portState s port
  let l := linkOf s port
  if 64 ≤ port ∨ (st ≠ stLock ∧ st ≠ stCapability ∧ st ≠ stActive) ∨ l.rxLanes.testBit lane = false ∨
      bits word 4 4 ≠ 3 then .next s
  else if bits word 0 4 ≠ 0 ∨ bits word 18 14 ≠ 0 ∨ bits word 48 16 ≠ 0 then
    .next (bump s (0x3000 + port) 0x0E)
  else if st = stLock ∧ l.peerStarted = false then .next s
  else if st = stActive then
    let s := noteCorrected s port
    .next (settle (if bit word 17 then enterRecover s port false
      else modLane s port lane fun x => { x with lastAlign := some block }))
  else
    let s := noteCorrected s port
    let x := l.lane lane
    let good := x.lastAlign == some (block - 4000) && decide (4000 ≤ block) && decide (64 ≤ sinceBad) &&
      decide (skew ≤ 256)
    let s := modLane s port lane fun x =>
      { x with locked := good, peerLocked := bit word 16, lastAlign := some block }
    let l := linkOf s port
    if st = stLock ∧ ((lanesIn l.rxLanes).all fun i => (l.lane i).locked) = true ∧
        ((lanesIn l.rxLanes).any fun i => (l.lane i).peerLocked) = true then .next (enterCapability s port)
    else .next s

/-- LOCK_TIMEOUT. -/
def execLockTimeout (port : Nat) (s : State) : Out :=
  if port < 64 ∧ portState s port = stLock ∧ passedUs s (linkOf s port).since 100 = true then
    .next (enterServe (modLanes s port fun x => { x with comma := false }) port)
  else .next s

/-- CAP_FRAGMENT: fragments of a message are collected (R400). -/
def execCapFragment (port : Nat) (p : Packet) (s : State) : Out :=
  let msg := bits p.ext 0 8
  let index := bits p.ext 8 4
  let last := bits p.ext 12 4
  if 64 ≤ port ∨ portState s port ≠ stCapability then .next s
  else if p.op ≠ 0xE0 ∨ unsequencedBad p = true ∨ msg = 0 ∨ 4 < msg ∨ last < index then .next (bump s 0x3E00 0x0C)
  else
    let l := linkOf s port
    let old := (tget l.collects msg).getD { last := last, since := s.now }
    let old := if old.last = last then old else { last := last, since := s.now }
    let got := tset old.got index (leBytes 14 (bits p.ext 16 112))
    if got.length = last + 1 then
      let b := (got.map (·.2)).flatten
      .next (modLink s port fun l => { l with collects := tdel l.collects msg, inbox := tset l.inbox msg b })
    else
      .next (modLink s port fun l => { l with collects := tset l.collects msg { old with got := got } })

/-- CAP_FRAGMENT_TIMEOUT: a message not complete within 10 µs of its first fragment is dropped. -/
def execCapFragmentTimeout (port message : Nat) (s : State) : Out :=
  match tget (linkOf s port).collects message with
  | none => .next s
  | some c =>
    if passedUs s c.since 10 then .next (modLink s port fun l => { l with collects := tdel l.collects message })
    else .next s

/-- CAP_MESSAGE_REPEAT: messages sent are repeated every 20 µs until the port leaves CAPABILITY; READY
goes in encrypted frames, which the frame counter counts (R388). -/
def execCapMessageRepeat (port : Nat) (s : State) : Out :=
  let l := linkOf s port
  if port < 64 ∧ portState s port = stCapability ∧ passedUs s l.repeatedAt 20 = true then
    let s := l.sent.foldl (fun s m =>
      let s := send s (.capability port m.1 m.2)
      if m.1 = 4 then countFrame s port else s) s
    .next (modLink s port fun l => { l with repeatedAt := s.now })
  else .next s

/-- A failure of the exchange: the port goes to HELD (R403). -/
def failCapability (s : State) (n : Nat) : State :=
  modLink (setPortState (bump s (0x3000 + n) 0x0F) n stHeld) n fun l =>
    { l with txKey := none, rxKey := none, collects := [], inbox := [], sent := [] }

/-- Whether one pair of node and port comes before another. -/
def pairLt (a b : Nat × Nat) : Bool := decide (a.1 < b.1) || (a.1 == b.1 && decide (a.2 < b.2))

/-- Link keys from a secret and the two nonces (R402). -/
def deriveKeys (s : State) (n : Nat) (peer : Nat × Nat) (peerNonce ikm : Bytes) : State :=
  let me := (nodeId s, n)
  let first := pairLt me peer
  let lo := if first then me else peer
  let hi := if first then peer else me
  modLink s n fun l =>
    let salt := if first then l.nonce ++ peerNonce else peerNonce ++ l.nonce
    let info := ascii "KF4096 link" ++ leBytes 2 lo.1 ++ leBytes 1 lo.2 ++ leBytes 2 hi.1 ++ leBytes 1 hi.2
    let okm := Config.hkdfSha512 salt ikm info 104
    let cut (a n : Nat) : Bytes := (okm.drop a).take n
    { l with
      txKey := some (if first then cut 0 32 else cut 32 32), rxKey := some (if first then cut 32 32 else cut 0 32)
      txSalt := if first then cut 64 4 else cut 68 4, rxSalt := if first then cut 68 4 else cut 64 4
      resume := some (cut 72 32), txCtr := 0, rxCtr := 0 }

/-- The HELLO sent in this exchange. -/
def Link.ownHello (l : Link) : Bytes := (tget l.sent 1).getD []

/-- Node and port in a HELLO. -/
def helloPair (b : Bytes) : Nat × Nat :=
  let v := ofLe ((b.drop 2).take 3)
  (v / 16 % 4096, v / 2 ^ 16 % 64)

/-- HELLO: it is checked, keys are derived, and CONFIRM goes out (R401 to R403). -/
def execHello (port : Nat) (s : State) : Out :=
  let l := linkOf s port
  match tget l.inbox 1 with
  | none => .next s
  | some b =>
    if 64 ≤ port ∨ portState s port ≠ stCapability ∨ l.fast = true ∨ l.peerHello ≠ [] then .next s
    else
      let b := padTo 160 b
      let part (a n : Nat) : Bytes := (b.drop a).take n
      let common := l.revs &&& ofLe (part 1 1)
      let shared := Config.x25519 l.secret (part 26 32)
      let signed := part 58 32 ++ [BitVec.ofNat 8 (ofLe (part 2 1) % 2)]
      if Config.ed25519Verify Config.vendorKey signed (part 90 64) = false ∨ common % 4 = 0 ∨
          (shared.all fun x => x == 0) = true ∨ helloPair b = (nodeId s, port) then .next (failCapability s port)
      else
        let rev := if common.testBit 1 then 2 else 1
        let s := modLink s port fun l => { l with peerHello := b, revision := rev, inbox := tdel l.inbox 1 }
        let s := deriveKeys s port (helloPair b) (part 10 16) shared
        let head := peerWord s 2 (helloPair b).1 rev
        let sig := Config.ed25519Sign Config.identitySecret
          (ascii "KF4096 link" ++ l.ownHello ++ b ++ head)
        .next (sendCap s port 2 (head ++ padTo 64 sig))

/-- READY goes out in an encrypted frame, with the counter after any raise. -/
def sendReady (s : State) (n : Nat) : State :=
  countFrame (modLink (sendCap s n 4 (4 :: leBytes 4 s.recov.incarnation)) n fun l =>
    { l with confirmed := true, readySent := true }) n

/-- CONFIRM: its signature is checked, its report is taken, and READY goes out. -/
def execConfirm (port : Nat) (s : State) : Out :=
  let l := linkOf s port
  match tget l.inbox 2 with
  | none => .next s
  | some b =>
    if 64 ≤ port ∨ portState s port ≠ stCapability ∨ l.peerHello = [] ∨ l.confirmed = true then .next s
    else
      let b := padTo 72 b
      let signed := ascii "KF4096 link" ++ l.peerHello ++ l.ownHello ++ b.take 8
      if Config.ed25519Verify ((l.peerHello.drop 58).take 32) signed (b.drop 8) = false then
        .next (failCapability s port)
      else
        let v := ofLe (b.take 2)
        let s := modLink s port fun l => { l with inbox := tdel l.inbox 2 }
        .next (settle (sendReady (peerReport s (v.testBit 8) (v.testBit 9) (v / 4096)) port))

/-- RESUME: its MAC is checked, new keys are derived, and READY goes out; a failure sends the port to
SERVE with FAST refused (R403, R406). -/
def execResume (port : Nat) (s : State) : Out :=
  let l := linkOf s port
  match tget l.inbox 3 with
  | none => .next s
  | some b =>
    if 64 ≤ port ∨ portState s port ≠ stCapability ∨ l.fast = false ∨ l.confirmed = true then .next s
    else
      let b := padTo 40 b
      let key := l.resume.getD []
      let mac (extra : Bytes) : Bytes := padTo 16 (Config.hmacSha512 key (b.take 24 ++ extra))
      if b.drop 24 ≠ mac l.nonce ∧ b.drop 24 ≠ mac [] then
        let s := modLink (bump s (0x3000 + port) 0x0F) port fun l => { l with fastRefused := true }
        .next (enterServe (modLanes s port fun x => { x with comma := false }) port)
      else
        let nonce := (b.drop 8).take 16
        let s := modLink s port fun l => { l with inbox := tdel l.inbox 3 }
        let s := sendCap s port 3 (resumeBytes s (linkOf s port) nonce)
        let nb := l.neighbour.getD {}
        let v := ofLe (b.take 2)
        let s := deriveKeys s port (nb.node, nb.port) nonce key
        .next (settle (sendReady (peerReport s (v.testBit 8) (v.testBit 9) (v / 4096)) port))

/-- What a HELLO and READY say of the neighbour (3000+n:05). -/
def neighbourOf (l : Link) (inc : Nat) : Neighbour :=
  match l.neighbour, l.fast with
  | some nb, true => { nb with incarnation := inc }
  | _, _ =>
    let v := ofLe ((l.peerHello.drop 2).take 3)
    { node := v / 16 % 4096, port := v / 2 ^ 16 % 64, role := v / 2 % 8, revision := l.revision
      kf4096 := v % 2 == 1, identity := (l.peerHello.drop 58).take 32, incarnation := inc }

/-- READY: the port becomes ACTIVE (R402). -/
def execReady (port : Nat) (s : State) : Out :=
  let l := linkOf s port
  match tget l.inbox 4 with
  | none => .next s
  | some b =>
    if 64 ≤ port ∨ portState s port ≠ stCapability ∨ l.readySent = false then .next s
    else
      let inc := ofLe ((b.drop 1).take 4)
      let nb := neighbourOf l inc
      let s := bump s (0x3000 + port) (if l.fast then 0x09 else 0x0A)
      let s := modLink (setPortState s port stActive) port fun l =>
        { l with
          neighbour := some nb, inbox := [], collects := [], sent := [], leftActive := none, fastRefused := false
          fastTries := 0, tagFails := [] }
      let s := modLanes s port fun x => { x with lastTaps := x.taps }
      let s := setReg s (0x3000 + port) 0x04 (l.rate + 4 * l.width)
      .next (settle (checkPorts (linkUp (modLinkTime s port fun _ => {}) port nb.node inc)))

/-- CAPABILITY_TIMEOUT. -/
def execCapabilityTimeout (port : Nat) (s : State) : Out :=
  if port < 64 ∧ portState s port = stCapability ∧ passedMs s (linkOf s port).since 1 = true then
    .next (enterServe (modLanes s port fun x => { x with comma := false }) port)
  else .next s

/-- HELD_BACKOFF_END. -/
def execHeldBackoffEnd (port : Nat) (s : State) : Out :=
  if port < 64 ∧ portState s port = stHeld ∧ passedMs s (linkOf s port).since (reg s 0x3B00 0x05) = true then
    .next (enterDetect s port)
  else .next s

/-! ## Frames (R386 to R388) -/

/-- A packet from its bytes (R145). -/
def packetOf (b : Bytes) : Packet :=
  let h : BitVec 128 := BitVec.ofNat 128 (ofLe (b.take 16))
  let e : BitVec 128 := BitVec.ofNat 128 (ofLe ((b.drop 16).take 16))
  let rest := b.drop 32
  if bit h 15 then
    { hdr := h, ext := e, payload := rest.take (rest.length - 8)
      check := BitVec.ofNat 64 (ofLe (rest.drop (rest.length - 8))) }
  else { hdr := h, ext := e }

/-- A frame's packet and the state after it, where the tag or CRC is good (R388). -/
def openFrame (s : State) (n : Nat) (word : BitVec 64) (body tag : Bytes) : Option (State × Bytes) :=
  let l := linkOf s n
  let aad := leBytes 8 word.toNat
  if bit word 30 then
    if portState s n = stCapability ∧ tag = leBytes 8 (crc64 (aad ++ body)).toNat ++ List.replicate 8 0 then
      some (s, body)
    else none
  else
    match l.rxKey with
    | none => none
    | some key =>
      let d := (bits word 32 16 + 65536 - l.rxCtr % 65536) % 65536
      let ctr := if d < 32768 then l.rxCtr + d else l.rxCtr + d - 65536
      (Config.gcmOpen key (l.rxSalt ++ leBytes 8 ctr) aad (body ++ tag)).map fun p =>
        (modLink s n fun l => { l with rxCtr := ctr + 1 }, p)

/-- A frame is discarded for its tag or as CLEAR; tag failures of the last ms are kept (R388, R399). -/
def dropFrame (s : State) (n : Nat) (clear : Bool) : State :=
  let s := bump s (0x3000 + n) 0x0B
  if clear then s
  else modLink s n fun l => { l with tagFails := s.now :: l.tagFails.filter fun t => !passedMs s t 1 }

/-- Delay of a link in µs, rounded up (R11, R197). -/
def linkDelayUs (s : State) (n : Nat) : Nat :=
  ((medianOf (linkTime s n).delays).toNat + 65535999) / 65536000

/-- Whether a packet is consumed at the port and never enters the core (R181, R400). -/
def portLocal (op : Nat) : Bool := op == 0x0A || op == 0x0B || decide (0xE0 ≤ op) && decide (op ≤ 0xEF)

/-- A packet has arrived on an ACTIVE port: it joins the port's ingress FIFO, unless that is full
(R199, R204). -/
def takePacket (s : State) (n age : Nat) (p : Packet) : State :=
  if portLocal p.op then send s (.inner n age p)
  else if quarantined s n && p.vl != 0 then bump s 0x3D00 0x08
  else if ingressFull s n p.size then
    raise (bump s 0x3D00 0x0B) { cls := 0x0D, quarter := some (portQuarter n), unitKind := 2, unit := n }
  else flowCheck (coreEnter s n (age + linkDelayUs s n) (portDir s n == 2) (!kfNeighbour s n) p) n

/-- LINK_FRAME: a word of a reserved type is discarded and counted (R386); a frame shorter than LEN and
its 16-byte tag was cut off by another FRAME word (R387). -/
def execLinkFrame (port : Nat) (word : BitVec 64) (body tag : Bytes) (s : State) : Out :=
  let st := portState s port
  if 64 ≤ port ∨ (st ≠ stCapability ∧ st ≠ stActive) then .next s
  else if 4 ≤ bits word 4 4 then .next (bump s (0x3000 + port) 0x0E)
  else if bits word 4 4 ≠ 1 then .next s
  else if bits word 0 4 ≠ 0 ∨ bit word 31 = true ∨ bits word 48 16 ≠ 0 then .next (bump s (0x3000 + port) 0x0E)
  else if body.length < 8 * bits word 8 11 ∨ tag.length < 16 then .next (bump s (0x3000 + port) 0x0D)
  else
    match openFrame s port word body tag with
    | none => .next (dropFrame s port (bit word 30))
    | some (s, b) =>
      let p := packetOf b
      if st = stCapability then .next (send s (.inner port (bits word 19 11) p))
      else .next (settle (takePacket s port (bits word 19 11) p))

/-! ## Causes of recovery (R399) -/

/-- A lane of an ACTIVE port meets a cause. -/
def recoverOn (s : State) (port lane : Nat) : Out :=
  if port < 64 ∧ laneInUse s port lane = true then .next (settle (enterRecover s port true)) else .next s

/-- LOSS_OF_SIGNAL. -/
def execLossOfSignal (port lane : Nat) (s : State) : Out := recoverOn s port lane

/-- ALIGN_MISSING: absent at two consecutive expected positions. -/
def execAlignMissing (port lane : Nat) (s : State) : Out := recoverOn s port lane

/-- UNCORRECTABLE_LIMIT: `count` codewords of the lane within 1,000 are such that `rsDecode` cannot correct
them (`uncorrectables`), and reach 3B00:02. -/
def execUncorrectableLimit (port lane count : Nat) (s : State) : Out :=
  if port < 64 ∧ laneInUse s port lane = true then
    let s := bumpBy s (0x3000 + port) 0x08 count
    if reg s 0x3B00 0x02 ≤ count then .next (settle (enterRecover s port true)) else .next s
  else .next s

/-- TAG_FAILURE_LIMIT: the tag failures of the last ms reach 3B00:06. -/
def execTagFailureLimit (port : Nat) (s : State) : Out :=
  let n := ((linkOf s port).tagFails.filter fun t => !passedMs s t 1).length
  if port < 64 ∧ portActive s port = true ∧ reg s 0x3B00 0x06 ≤ n then .next (settle (enterRecover s port true))
  else .next s

/-- SYMBOL_ERROR_LIMIT. -/
def execSymbolErrorLimit (port lane : Nat) (s : State) : Out := recoverOn s port lane

/-- RECOVERY_NOTICE: /R/ from the peer. -/
def execRecoveryNotice (port : Nat) (s : State) : Out :=
  if port < 64 ∧ portActive s port = true then .next (settle (enterRecover s port false)) else .next s

/-- RECOVER_END: 1 µs of /R/ has been sent. -/
def execRecoverEnd (port : Nat) (s : State) : Out :=
  if port < 64 ∧ portState s port = stRecover ∧ passedUs s (linkOf s port).since 1 = true then
    .next (enterServe (modLanes s port fun x => { x with comma := false }) port)
  else .next s

end Sys2Proof.Machine
end

