-- ==== Sys2Proof/Machine/Ethernet.lean ====
section
/-! DEFINITION. The commands of the Ethernet ports (R411 to R429). -/

namespace Sys2Proof.Machine

/-! ## RoCEv2, as responder (R415 to R421) -/

/-- A packet of a ready queue pair is coloured, passes the ingress buffer, and is answered by a CNP
where it is marked CE; what it asks for is then done. -/
def roceArrive (s : State) (k : RocePkt) (ext : Nat) (act : State → QueuePair → State) : Out :=
  match qpOf s k.qpn with
  | none => .next s
  | some p =>
    if p.state ≠ 1 ∨ p.port ≠ k.port ∨ ethUp s k.port = false then .next s
    else
      let size := roceSize p.ipv6 ext k.data.length
      let c := colourPacket s (k.port / 2) p.ctx size
      match ethIn c.2 k.port c.1 size k.ect with
      | (s, none) => .next s
      | (s, some marked) =>
        .next (settle (act (if marked || k.ce then sendCnp s k.qpn p else s) p))

/-- A request of a kind arrives: on RC in PSN order, on UD by itself. -/
def roceRequest (k : RocePkt) (op : RoceOp) (s : State) : Out :=
  let ud := ((qpOf s k.qpn).map (·.ud)).getD false
  roceArrive s k (extBytes op ud k.first k.last) fun s p =>
    if p.ud then udRequest s p op k else rcRequest s k.qpn p op k

/-- RDMA_WRITE: a WRITE through a window (R418, R419). -/
def execRdmaWrite (k : RocePkt) (s : State) : Out := roceRequest k .write s

/-- RDMA_WRITE_PUSH: a WRITE with window 0 (R420). -/
def execRdmaWritePush (k : RocePkt) (s : State) : Out := roceRequest k .push s

/-- RDMA_READ. -/
def execRdmaRead (k : RocePkt) (s : State) : Out := roceRequest k .read s

/-- SEND_WITH_IMMEDIATE (R420). -/
def execSendWithImmediate (k : RocePkt) (s : State) : Out := roceRequest k .send s

/-- FETCH_ADD: an atomic add I64. -/
def execFetchAdd (k : RocePkt) (s : State) : Out := roceRequest k .add s

/-- COMPARE_SWAP: CAS64. -/
def execCompareSwap (k : RocePkt) (s : State) : Out := roceRequest k .swap s

/-- ROCE_UNSUPPORTED_OPCODE: NAK Invalid Request on RC, where the packet is in sequence; discarded and
counted on UD. -/
def execRoceUnsupportedOpcode (k : RocePkt) (s : State) : Out :=
  roceArrive s k 0 fun s p =>
    if p.ud then bump s 0x4200 0x04
    else
      let d := (k.psn + 2 ^ 24 - p.expectedPsn) % 2 ^ 24
      if d = 0 then roceFail s k.qpn k.psn Code.misaligned
      else if 2 ^ 23 ≤ d ∨ p.nakSent = true then s
      else roceSend (modQp s k.qpn fun p => { p with nakSent := true }) k.qpn p.expectedPsn 7 []

/-! ## The part as RC requester (R423, R426) -/

/-- Whether a PSN comes no later than another. -/
def psnLe (a b : Nat) : Bool := decide ((b + 2 ^ 24 - a) % 2 ^ 24 < 2 ^ 23)

/-- Every request outstanding of a queue pair goes out again, the first with new counts. -/
def resendAll (s : State) (qpn : Nat) (f : RingReq → RingReq) : State :=
  match qpOf s qpn with
  | none => s
  | some p => match p.sends with
    | [] => s
    | r :: rs =>
      let rs := rs.map fun r => { r with since := s.now }
      let p := { p with sends := { f r with since := s.now, rnrFrom := none } :: rs }
      p.sends.foldl (fun s r => sendRing s qpn p r) (modQp s qpn fun _ => p)

/-- The first request outstanding is tried again within a limit, or the queue pair is in error. -/
def retry (s : State) (qpn : Nat) (exhausted : Bool) (f : RingReq → RingReq) : State :=
  if exhausted then qpError s qpn Code.targetLost else resendAll s qpn f

/-- Requests answered by an acknowledgement of a PSN: writes, in order, up to it. -/
def acked (psn : Nat) (l : List RingReq) : List RingReq := l.takeWhile fun r => !r.isHead && psnLe r.psn psn

/-- The state without the requests that an acknowledgement covers: their WHISTLE descriptors complete. -/
def takeAck (s : State) (qpn psn : Nat) : State :=
  let done := ((qpOf s qpn).map fun p => acked psn p.sends).getD []
  done.foldl (fun s r => endWhistle s r.flight Code.ok)
    (modQp s qpn fun p => { p with sends := p.sends.drop (acked psn p.sends).length })

/-- The status with which a NAK ends a ring: codes 1 to 3 are Invalid Request, Remote Access Error and
Remote Operational Error. -/
def nakStatus (code : Nat) : Status :=
  match code with
  | 1 => Code.misaligned
  | 2 => Code.protection
  | _ => Code.targetLost

/-- What a response asks for, once the writes before its PSN are taken as performed. -/
def requesterReply (s : State) (qpn psn : Nat) (p : QueuePair) (reply : RoceReply) : State :=
  let prior (s : State) : State := if psn = 0 then takeAck s qpn (2 ^ 24 - 1) else takeAck s qpn (psn - 1)
  match reply with
  | .ack => takeAck s qpn psn
  | .readData data =>
    let s := prior s
    match (qpOf s qpn).bind (·.sends.head?) with
    | some r =>
      if r.isHead ∧ r.psn = psn ∧ data.length = 8 then
        headAnswer (modQp s qpn fun p => { p with sends := p.sends.drop 1 }) r.ring Code.ok data
      else s
    | none => s
  | .rnrNak timer =>
    let s := prior s
    match (qpOf s qpn).bind (·.sends.head?) with
    | some r =>
      if r.psn ≠ psn then s
      else if p.rnrRetry ≠ 7 ∧ p.rnrRetry ≤ r.rnrTries then qpError s qpn Code.targetLost
      else modQp s qpn fun p => { p with sends := p.sends.mapIdx fun i r =>
        if i = 0 then { r with rnrTries := r.rnrTries + 1, rnrFrom := some (s.now, timer) } else r }
    | none => s
  | .nak code =>
    let s := prior s
    if code = 0 then
      match (qpOf s qpn).bind (·.sends.head?) with
      | some r => retry s qpn (decide (p.retryCnt ≤ r.tries)) fun r => { r with tries := r.tries + 1 }
      | none => s
    else qpError s qpn (nakStatus code)

/-- ROCE_REQUESTER_RESPONSE: a response to the part's own requests of a queue pair. -/
def execRoceRequesterResponse (qpn psn : Nat) (reply : RoceReply) (s : State) : Out :=
  match qpOf s qpn with
  | none => .next s
  | some p =>
    if p.state ≠ 1 ∨ ethUp s p.port = false ∨ !(p.sends.any fun r => r.psn == psn) then .next s
    else
      let len := match reply with
        | .readData d => d.length
        | _ => 0
      match ethIn s p.port 0 (roceSize p.ipv6 4 len) false with
      | (s, none) => .next s
      | (s, some _) => .next (settle (requesterReply s qpn psn p reply))

/-- ROCE_REQUESTER_TIMEOUT: 4.096 µs × 2^ACK_TIMEOUT have passed without an answer. -/
def execRoceRequesterTimeout (qpn : Nat) (s : State) : Out :=
  match qpOf s qpn with
  | none => .next s
  | some p => match p.sends with
    | [] => .next s
    | r :: _ =>
      if r.rnrFrom.isNone ∧ passedNs s r.since (4096 * 2 ^ p.ackTimeout) = true then
        .next (settle (retry s qpn (decide (p.retryCnt ≤ r.tries)) fun r => { r with tries := r.tries + 1 }))
      else .next s

/-- RNR timer of a code, in units of 10 µs, as the transport's table gives it. -/
def rnrTime (code : Nat) : Nat :=
  [65536, 1, 2, 3, 4, 6, 8, 12, 16, 24, 32, 48, 64, 96, 128, 192, 256, 384, 512, 768, 1024, 1536, 2048,
    3072, 4096, 6144, 8192, 12288, 16384, 24576, 32768, 49152].getD (code % 32) 65536

/-- ROCE_RNR_TIMER_EXPIRE: the wait after an RNR NAK has ended. -/
def execRoceRnrTimerExpire (qpn : Nat) (s : State) : Out :=
  match (qpOf s qpn).bind (·.sends.head?) with
  | none => .next s
  | some r => match r.rnrFrom with
    | none => .next s
    | some (t, code) =>
      if passedUs s t (10 * rnrTime code) then .next (settle (resendAll s qpn id)) else .next s

/-- CONGESTION_NOTIFICATION: the requester's data packets of a queue pair are limited under R211. -/
def execCongestionNotification (qpn : Nat) (s : State) : Out :=
  match qpOf s qpn with
  | none => .next s
  | some p =>
    if p.ud || !ethUp s p.port then .next s
    else match ethIn s p.port 0 (roceSize p.ipv6 16 0) false with
    | (s, none) => .next s
    | (s, some _) =>
      let rmax := (ethPort s p.port).rate * 125
      let l := (p.limiterNow s).getD { rate := rmax, rmax := rmax, lastChange := s.now }
      .next (modQp s qpn fun p => { p with limiter := some (cutLimiter s l) })

/-! ## Queue pairs (R416) -/

/-- Bits of a queue-pair record. -/
def qpBits (x : BitVec 512) (lo w : Nat) : Nat := bits x lo w

/-- The queue pair of a record (Table 3). -/
def qpOfRecord (x : BitVec 512) : QueuePair :=
  { ud := bit x 1, port := bits x 4 3, ipv6 := bit x 7, ctx := bits x 8 12, proxy := bits x 20 12
    remoteQpn := bits x 64 24, pmtu := bits x 88 3, maxRd := bits x 91 5, expectedPsn := bits x 96 24
    sendPsn := bits x 120 24, dscp := bits x 144 6, ackTimeout := bits x 150 4, retryCnt := bits x 154 3
    rnrRetry := bits x 157 3, sport := bits x 160 16, remoteIp := bits x 192 128, nextHop := bits x 320 48
    targetVa := bits x 384 64, targetRkey := x.extractLsb' 448 32, qkey := x.extractLsb' 480 32 }

/-- Whether a record has a reserved field or a port that does not run. -/
def qpMisaligned (s : State) (x : BitVec 512) : Bool :=
  bit x 0 || bits x 2 2 != 0 || bits x 32 24 != 0 || bits x 56 8 != 0 || bits x 176 16 != 0 ||
    bits x 368 16 != 0 || !ethUp s (bits x 4 3) || decide (2 < bits x 88 3) ||
    decide (16 < bits x 91 5) || (!bit x 1 && bits x 91 5 == 0)

/-- Whether the tables and the context have room for a queue pair. -/
def qpRoom (s : State) (p : QueuePair) : Bool :=
  decide (tcount s.eth.qps (fun _ y => y.ctx == p.ctx) < reg s 0x4000 0x03) &&
    (if p.ud then decide (tcount s.eth.qps (fun _ y => y.ud) < 1024)
     else decide (tcount s.eth.qps (fun _ y => !y.ud) < 16384) &&
      decide (tcount s.eth.qps (fun _ y => !y.ud && y.port / 2 == p.port / 2) < 4096))

/-- The number of a new queue pair, above 0 and 1 (R416). -/
def freeQpn (s : State) : Nat :=
  2 + (pickBelow (fun i => !thas s.eth.qps (i + 2)) (2 ^ 24 - 2) s.fresh).getD 0

/-- A queue pair is created; its number is a free value among those from 2 that are not in use (R416). -/
def createQp (s : State) (w : Who) (data : Bytes) : State × Answer :=
  let x := BitVec.ofNat 512 (ofLe data)
  let p := qpOfRecord x
  let st := firstOf
    [ (data.length != 64, Code.misaligned)
    , (w.principal == 1 && p.ctx != w.ctx, Code.protection)
    , (qpMisaligned s x, Code.misaligned)
    , (namedCtxStatus s p.ctx != Code.ok, namedCtxStatus s p.ctx)
    , (!qpRoom s p, Code.quota) ]
  if st ≠ Code.ok then (s, answer st)
  else
    let qpn := freeQpn s
    (setQps (draw s) (tset s.eth.qps qpn p), { status := Code.ok, detail := qpn })

/-- QUEUE_PAIR_CREATE. -/
def execQueuePairCreate (via : Via) (data : Bytes) (s : State) : Out :=
  withVia s via fun s w => guardedBlock s via w 0x4200 0x01 fun s => createQp s w data

/-- A queue pair is destroyed; its rings are lost. -/
def destroyQp (s : State) (qpn : Nat) : State × Status :=
  if thas s.eth.qps qpn then
    let s := qpError s qpn Code.targetLost
    (setQps s (tdel s.eth.qps qpn), Code.ok)
  else (s, Code.misaligned)

/-- QUEUE_PAIR_DESTROY. -/
def execQueuePairDestroy (via : Via) (qpn : Nat) (s : State) : Out :=
  withVia s via fun s w => guarded s w 0x4200 0x02 qpn fun s => plainAnswer (destroyQp s qpn)

/-! ## UDP doorbells (R422) -/

/-- Whether a source address lies in a slot's prefix; an address of 2^32 or more is IPv6. -/
def Doorbell.admits (b : Doorbell) (source : Nat) : Bool :=
  let w := if b.ipv6 then 128 else 32
  (b.ipv6 == decide (2 ^ 32 ≤ source)) && source >>> (w - b.prefixLen) == b.address >>> (w - b.prefixLen)

/-- The MAC of a doorbell: over the header with its MAC zero and the descriptors. -/
def doorbellMac (key data : Bytes) : Bytes :=
  (Config.hmacSha512 key (data.take 16 ++ leBytes 16 0 ++ data.drop 32)).take 16

/-- Whether a doorbell passes the checks before its push. -/
def doorbellOk (b : Doorbell) (source : Nat) (data : Bytes) : Bool :=
  let h := BitVec.ofNat 256 (ofLe (data.take 32))
  let seq := bits h 64 64
  bits h 0 8 == 1 && bits h 26 6 == 0 && bits h 40 24 == 0 && decide (4 ≤ bits h 32 8) &&
    decide (bits h 32 8 ≤ 128) && data.length == 32 + 64 * bits h 32 8 && b.admits source &&
    doorbellMac b.key data == (data.drop 16).take 16 &&
    (match b.highest with
     | none => true
     | some top => decide (top < seq + 64) && !b.seen.contains seq)

/-- UDP_DOORBELL: authenticated and pushed, or discarded and counted. -/
def execUdpDoorbell (port source : Nat) (data : Bytes) (s : State) : Out :=
  if 8 ≤ port ∨ ethUp s port = false then .next s
  else if port % 2 = 1 then .next (bump s (0x4100 + port) 0x0A)
  else
    let h := BitVec.ofNat 256 (ofLe (data.take 32))
    let slot := bits h 8 8
    match tget s.eth.doorbells slot with
    | none => .next (bump s 0x4400 0x02)
    | some b =>
      let size := (if 2 ^ 32 ≤ source then 66 else 46) + data.length
      let c := colourPacket s (port / 2) b.ctx size
      match ethIn c.2 port c.1 size false with
      | (s, none) => .next s
      | (s, some _) =>
        if doorbellOk b source data then
          let seq := bits h 64 64
          let top := max seq (b.highest.getD 0)
          let kept := (seq :: b.seen).filter fun x => decide (top < x + 64)
          let t := tset s.eth.doorbells slot { b with highest := some top, seen := kept }
          let s := { s with eth := { s.eth with doorbells := t } }
          .next (settle (hostPush s b.ctx (ctxGen s b.ctx) (bits h 16 10) b.proxy (data.drop 32)).1)
        else .next (bump s 0x4400 0x02)

/-! ## PTP (R427) -/

/-- The client ports that may be followed, with their clients: running, in the mask, and hearing a
grandmaster on the PTP timescale within its Announce receipt timeout. -/
def ptpChoices (s : State) : List (Nat × PtpClient) :=
  (List.range 8).filterMap fun e =>
    let p := ethPort s e
    match p.ptp with
    | some c =>
      if p.up && (reg s 0x4500 0x03).testBit e && c.ptpScale && !passedMs s c.heard (3 * c.interval) then
        some (e, c)
      else none
    | none => none

/-- The port with the best grandmaster, the lowest of those alike. -/
def ptpBest (s : State) : Option Nat :=
  ((ptpChoices s).foldl (fun (b : Option (Nat × PtpClient)) x =>
    match b with
    | none => some x
    | some y => if x.2.rank < y.2.rank then some x else some y) none).map (·.1)

/-- External lock is lost, and the election runs again. -/
def loseExternal (s : State) : State :=
  if s.time.externalLock then elect { s with time := { s.time with externalLock := false } } else s

/-- What the active client announces reaches a master's own announces. -/
def ptpAnnounced (s : State) : State :=
  if s.time.state = .master then
    let t := feedUtc s
    if viewOf t = viewOf s then t else announceAll t
  else s

/-- The active client is chosen again; of a new one external lock is judged afresh. -/
def ptpElect (s : State) : State :=
  let best := ptpBest s
  if best = s.eth.ptpActive then s
  else
    let s := { s with eth := { s.eth with ptpActive := best } }
    let s := match best with
      | none => s
      | some e =>
        let c := (ethPort s e).ptp.map fun c => { c with within := none }
        setEthPort s e { ethPort s e with ptp := c }
    ptpAnnounced (loseExternal s)

/-- A message taken in by a port's client. -/
def PtpClient.takeIn (c : PtpClient) (s : State) (m : PtpMsg) : PtpClient :=
  match m with
  | .announce rank identity ptpScale utcOffset leap interval =>
    { c with
      rank := rank, identity := identity, ptpScale := ptpScale, utcOffset := utcOffset, leap := leap
      interval := interval, heard := s.now }
  | .sync offset time delay =>
    { c with
      offset := some offset, delay := delay, time := time, timeAt := s.now
      within := if offset.natAbs ≤ 100 then (match c.within with
        | some t => some t
        | none => some s.now) else none }

/-- A measured offset of the active client: beyond 100 ns external lock is lost; a master with external
lock slews towards PTP, unless 1PPS sets its phase (R14, R17). -/
def ptpSteer (s : State) (offset : Int) (time : Nat) : State :=
  if 100 < offset.natAbs then loseExternal s
  else if s.time.state = .master ∧ s.time.externalLock = true ∧ s.time.taiValid = true ∧
      ppsValid s = false then
    servoRate s (ftDiff (BitVec.ofNat 64 (time * 65536)) (ftOf s 0)) 10
  else s

/-- A latency correction of a port in ps (4100 + e:08 transmit, :09 receive). -/
def ptpCorrection (s : State) (e sub : Nat) : Int := (BitVec.ofNat 32 (reg s (0x4100 + e) sub)).toInt

/-- A Sync exchange with the timestamps corrected: the time stamped at reception falls by the receive correction, and
that of transmission rises by the transmit one, so that the offset moves by half of their difference, PTP time against
it, and the path delay falls by half of their sum (R427, Table 8, log entry 27). -/
def ptpCorrected (s : State) (e : Nat) (m : PtpMsg) : PtpMsg :=
  match m with
  | .sync offset time delay =>
    let tx := ptpCorrection s e 0x08
    let rx := ptpCorrection s e 0x09
    let shift := (tx - rx) / 2000
    .sync (offset + shift) (time - shift).toNat (delay - (tx + rx) / 2000).toNat
  | m => m

/-- PTP_MESSAGE: an Announce or a Sync exchange of the profile's domain on a client port. -/
def execPtpMessage (port domain : Nat) (m : PtpMsg) (s : State) : Out :=
  if 8 ≤ port ∨ ethUp s port = false ∨ (reg s 0x4500 0x03).testBit port = false then .next s
  else match ethIn s port 0 100 false with
  | (s, none) => .next s
  | (s, some _) =>
    if domain ≠ reg s 0x4500 0x02 then .next s
    else match ptpCorrected s port m, (ethPort s port).ptp with
    | .sync _ _ _, none => .next s
    | m, old =>
      let p := ethPort s port
      let s := setEthPort s port { p with ptp := some ((old.getD {}).takeIn s m) }
      match m with
      | .announce _ _ _ _ _ _ =>
        let s := ptpElect s
        .next (if s.eth.ptpActive = some port then ptpAnnounced s else s)
      | .sync offset time _ =>
        .next (if s.eth.ptpActive = some port then ptpSteer s offset time else s)

/-- PTP_ANNOUNCE_TIMEOUT: three intervals have passed without an Announce of the active client. -/
def execPtpAnnounceTimeout (s : State) : Out :=
  match s.eth.ptpActive, activeClient s with
  | some e, some c =>
    if passedMs s c.heard (3 * c.interval) then
      .next (ptpElect (setEthPort s e { ethPort s e with ptp := none }))
    else .next s
  | _, _ => .next s

/-! ## Links and answers (R412 to R414, R428) -/

/-- Number of a rate: 0 100, 1 200, 2 400 Gb/s. -/
def rateIndex (rate : Nat) : Option Nat :=
  match rate with
  | 100 => some 0
  | 200 => some 1
  | 400 => some 2
  | _ => none

/-- ETHERNET_LINK_UP: a port runs at its rate, at most the highest offered. -/
def execEthernetLinkUp (port rate : Nat) (s : State) : Out :=
  match rateIndex rate with
  | none => .next s
  | some i =>
    if port < 8 ∧ lanesMayRun s = true ∧ s.pwr.clocksLost.contains 5 = false ∧
        i ≤ reg s (0x4100 + port) 0x02 then
      .next (setReg (setEthPort s port { ethPort s port with up := true, rate := rate, bufferedAt := s.now })
        (0x4100 + port) 0x01 (i + 1))
    else .next s

/-- A port stops running: its buffers are empty, and its PTP client hears nothing any more. -/
def ethDown (s : State) (e : Nat) : State :=
  ptpElect (setReg (setEthPort s e {}) (0x4100 + e) 0x01 0)

/-- ETHERNET_LINK_DOWN. -/
def execEthernetLinkDown (port : Nat) (s : State) : Out :=
  if port < 8 ∧ ethUp s port = true then .next (ethDown s port) else .next s

/-- MANAGEMENT_AUTONEG_TIMEOUT: in automatic mode, 1 s of 1000BASE-X ends in SGMII. -/
def execManagementAutonegTimeout (s : State) : Out :=
  if reg s 0x4000 0x06 = 2 ∧ s.eth.mgmtMode = 0 ∧ s.pwr.pwrOk = true ∧
      passedMs s s.eth.mgmtSince 1000 = true then
    .next { s with eth := { s.eth with mgmtMode := 1, mgmtSince := s.now } }
  else .next s

/-- MAC address of a port, the management port being 8. -/
def macOf (e : Nat) : Bytes := (leBytes 6 (Config.macBase + e)).reverse

/-- Whether a port answers: a running Ethernet port, or the management port while PWR_OK holds. -/
def answers (s : State) (e : Nat) : Bool := if e = 8 then s.pwr.pwrOk else decide (e < 8) && ethUp s e

/-- IPv4 address configured on a port, and its global IPv6 address. -/
def ipv4Of (s : State) (e : Nat) : Option Nat :=
  let b := if e = 8 then blockOf s 0x4000 0x07 else blockOf s (0x4100 + e) 0x04
  if b.isEmpty then none else some (ofLe (b.take 4).reverse)
def ipv6Of (s : State) (e : Nat) : Option Nat :=
  let b := if e = 8 then [] else blockOf s (0x4100 + e) 0x05
  if b.isEmpty then none else some (ofLe (b.take 16).reverse)

/-- Link-local address of a port by its EUI-64. -/
def linkLocal (e : Nat) : Nat :=
  let m := macOf e
  let eui := [m.getD 0 0 ^^^ 2] ++ (m.drop 1).take 2 ++ [0xFF, 0xFE] ++ m.drop 3
  0xFE80 * 2 ^ 112 + ofLe eui.reverse

/-- An answer leaves a port. -/
def ethAnswer (s : State) (e kind : Nat) (data : Bytes) : State :=
  if e = 8 then send s (.ethernet e kind data) else ethOut s e rankControl 0 (60 + data.length) (.ethernet e kind data)

/-- ARP_REQUEST. -/
def execArpRequest (port address : Nat) (s : State) : Out :=
  .next (if answers s port ∧ ipv4Of s port = some address then ethAnswer s port 0 (macOf port) else s)

/-- NEIGHBOR_SOLICITATION. -/
def execNeighborSolicitation (port address : Nat) (s : State) : Out :=
  .next (if answers s port ∧ (address = linkLocal port ∨ ipv6Of s port = some address) then
    ethAnswer s port 1 (macOf port) else s)

/-- ICMP_ECHO. -/
def execIcmpEcho (port : Nat) (data : Bytes) (s : State) : Out :=
  .next (if answers s port then ethAnswer s port 2 data else s)

/-- ETHERNET_FRAME_DISCARD: a PAUSE, PFC, unlisted or unsupported frame is discarded and counted. -/
def execEthernetFrameDiscard (port : Nat) (s : State) : Out :=
  .next (if port < 8 ∧ ethUp s port = true then bump s (0x4100 + port) 0x0A else s)

end Sys2Proof.Machine
end

