-- ==== Sys2Proof/Machine/Firmware.lean ====
section
/-! DEFINITION. Flash, images, host-loaded items, updates, watchdogs and attestation (R454 to
R475). -/

namespace Sys2Proof.Machine

/-! ## Images (R458 to R460) -/

/-- Bytes of a bank. -/
def bankSize : Nat := 32256 * 1024

/-- The state with the firmware block changed. -/
def setFw (s : State) (f : FwState) : State := { s with fw := f }

/-- A field of a Gianaip header of 256 bytes (Table 3). -/
def hdrField (h : Bytes) (byte n : Nat) : Nat := ofLe ((h.drop byte).take n)

/-- The image that a header describes. -/
def imageOf (h : Bytes) : Image :=
  { kind := hdrField h 4 1, keyIndex := hdrField h 5 1, svn := hdrField h 8 4, version := hdrField h 12 4
    length := hdrField h 16 4, hash := (h.drop 24).take 64 }

/-- The magic of a Gianaip header. -/
def imageMagic : Nat := 0x47414E31

/-- Whether a kind is that of a core's image. -/
def Image.forCore (i : Image) : Bool := decide (1 ≤ i.kind) && decide (i.kind ≤ 5)

/-- The public key an image is checked under. -/
def imageKey (s : State) (i : Image) : Bytes :=
  if i.forCore then Config.signingKey i.keyIndex else s.fw.operatorKey.getD []

/-- The checks of R460 on a header and body of an expected kind. -/
def imageStatus (s : State) (kind : Nat) (h body : Bytes) : Status :=
  let i := imageOf h
  firstOf
    [ (h.length != 256 || hdrField h 0 4 != imageMagic || hdrField h 6 2 != 0 || hdrField h 20 4 != 0 ||
        hdrField h 152 104 != 0 || i.kind != kind || decide (32 * 2 ^ 20 - 256 < i.length) ||
        (i.forCore && decide (64 < i.svn)) || body.length != i.length, Code.misaligned)
    , (if i.forCore then decide (3 < i.keyIndex) || s.fw.revoked.contains i.keyIndex else i.keyIndex != 0xFF,
        Code.protection)
    , (!Config.ed25519Verify (imageKey s i) (Config.sha512 (h.take 88)) ((h.drop 88).take 64), Code.integrity)
    , (Config.sha512 body != i.hash, Code.integrity)
    , (i.forCore && decide (i.svn < reg s 0xA000 0x03), Code.protection) ]

/-- Contents of a bank: 0 A, 1 B. -/
def bankOf (s : State) (b : Nat) : List Host.Cell := if b = 0 then s.fw.bankA else s.fw.bankB

/-- The images of kinds from one up that stand in a bank one after the other, each on a 4 KiB boundary:
the status of the first failure, and the images. -/
def scanBank (s : State) (m : List Host.Cell) : Nat → Nat → Nat → Except Status (List Image)
  | 0, _, off =>
    if ofLe (readRun m off 4) = imageMagic then .error Code.misaligned else .ok []
  | n + 1, kind, off =>
    let h := readRun m off 256
    let i := imageOf h
    if hdrField h 0 4 ≠ imageMagic ∨ bankSize < off + 256 + i.length then .error Code.misaligned
    else
      let st := imageStatus s kind h (readRun m (off + 256) i.length)
      if st ≠ Code.ok then .error st
      else match scanBank s m n (kind + 1) (off + roundUp (256 + i.length) 4096) with
        | .error st => .error st
        | .ok is => .ok (i :: is)

/-- The images of a complete and valid bank (R459, R460). -/
def bankImages (s : State) (b : Nat) : Except Status (List Image) :=
  match scanBank s (bankOf s b) 5 1 0 with
  | .error st => .error st
  | .ok is =>
    if is.all fun i => i.svn == (is.headD {}).svn then .ok is else .error Code.misaligned

/-! ## Loading the cores (R461, R469) -/

/-- Bits of A000:0D. -/
def inService (s : State) (core : Nat) : Bool := (reg s 0xA000 0x0D).testBit core

/-- The state with a bit of A000:0D set or cleared. -/
def setService (s : State) (core : Nat) (on : Bool) : State :=
  let v := reg s 0xA000 0x0D
  setReg s 0xA000 0x0D (if on then v ||| 2 ^ core else v - (v &&& 2 ^ core))

/-- The boot ROM takes the active bank, or the other where it is not valid, and begins to load the
cores; without a valid bank no firmware runs. -/
def loadBank (s : State) : State :=
  let a := reg s 0xA000 0x01
  let s := setFw s { s.fw with cores := [], twice := false, reloadedAt := s.now }
  let s := { s with pwr := { s.pwr with benchLimit := none } }
  match bankImages s a with
  | .ok is => setReg (setFw s { s.fw with images := is }) 0xA000 0x02 (is.headD {}).svn
  | .error _ =>
    match bankImages s (1 - a) with
    | .ok is =>
      setReg (setReg (setFw s { s.fw with images := is }) 0xA000 0x01 (1 - a)) 0xA000 0x02 (is.headD {}).svn
    | .error _ => setReg (setFw s { s.fw with images := [] }) 0xA000 0x02 0

/-- The boot ROM at a reset (R461): no core runs yet. -/
def bootFirmware (s : State) : State :=
  let s := setFw s { s.fw with bench := false, activating := false, deferred := 0 }
  loadBank (setReg s 0xA000 0x0D 0)

/-- Every core but the bench complex stops, which takes their duties, and the cores are reloaded. -/
def reloadCores (s : State) : State := loadBank (setReg s 0xA000 0x0D (if s.fw.bench then 0x80 else 0))

/-- The active bank is swapped, with a trial or back from one (R469, R472). -/
def swapBank (s : State) (trial : Bool) : State :=
  let s := setReg s 0xA000 0x01 (1 - reg s 0xA000 0x01)
  reloadCores (setFw s { s.fw with trial := trial, activating := trial, deferred := 0 })

/-- Bits of the seven cores. -/
def allCores : Nat := 0x7F

/-- FIRMWARE_CORE_RUNNING: a core runs its image; the bench complex, core 7, runs before the others. -/
def execFirmwareCoreRunning (core : Nat) (s : State) : Out :=
  if s.pwr.pwrOk = false ∨ s.fw.images.isEmpty = true ∨ 7 < core then .next s
  else if core = 7 then .next (setFw s { s.fw with bench := true })
  else if s.fw.bench = false ∨ ((tget s.fw.cores core).map (·.stopped)).getD false = true then .next s
  else
    let s := setService s core true
    let s := if reg s 0xA000 0x0D &&& allCores = allCores then setService s 7 false else s
    .next (if core = 0 ∧ s.fw.activating = true then
      setReg (setFw s { s.fw with activating := false }) 0xA000 0x06 4
    else s)

/-! ## Watchdogs (R473) -/

/-- A core's duties pass to the bench complex. -/
def handOver (s : State) (core : Nat) : State :=
  let s := setFw s { s.fw with cores := tset s.fw.cores core { expired := some s.now, stopped := true } }
  let s := if s.fw.bench then setService s 7 true else s
  if core = 1 ∧ s.fw.bench = true then
    let n := min (reg s 0x9000 0x01) 1650
    setReg { s with pwr := { s.pwr with benchLimit := some n } } 0x9000 0x01 n
  else s

/-- WATCHDOG_EXPIRE: a first expiry resets the core, a second within 60 s hands its duties over; when
the bench complex fails, no firmware is in service. -/
def execWatchdogExpire (core : Nat) (s : State) : Out :=
  if 7 < core ∨ (if core = 7 then !s.fw.bench else !inService s core) = true then .next s
  else
    let before := (tget s.fw.cores core).bind (·.expired)
    let second := match before with
      | some t => !passedMs s t 60000
      | none => false
    let s := bump s 0xA000 0x0F
    let s := setFw s { s.fw with
      cores := tset s.fw.cores core { expired := some s.now }, twice := s.fw.twice || before.isSome }
    if core = 7 then
      let s := setService (setFw s { s.fw with bench := false }) 7 false
      .next (if second then
        setReg (setFw s { s.fw with cores := tset s.fw.cores 7 { expired := some s.now, stopped := true } })
          0xA000 0x0D 0
      else s)
    else
      let s := setService s core false
      .next (if second then handOver s core else s)

/-! ## Update, activation and anti-rollback (R468 to R472) -/

/-- Update state (A000:06). -/
def updState (s : State) : Nat := reg s 0xA000 0x06

/-- The state with the update state set. -/
def setUpd (s : State) (n : Nat) : State := setReg s 0xA000 0x06 n

/-- A segment is written to the inactive bank. -/
def writeSegment (s : State) (offset : Nat) (data : Bytes) : State × Status :=
  let st := updState s
  if inService s 0 = false ∨ ¬ (st = 0 ∨ st = 1 ∨ st = 5) then (s, Code.locked)
  else if bankSize < offset + data.length then (s, Code.misaligned)
  else
    let m := writeRun (bankOf s (1 - reg s 0xA000 0x01)) offset data
    let f := if reg s 0xA000 0x01 = 0 then { s.fw with bankB := m } else { s.fw with bankA := m }
    (setUpd (setFw s f) 1, Code.ok)

/-- IMAGE_SEGMENT_WRITE. -/
def execImageSegmentWrite (via : Via) (offset : Nat) (data : Bytes) (s : State) : Out :=
  withVia s via fun s w => guardedBlock s via w 0xA000 0x04 fun s => plainAnswer (writeSegment s offset data)

/-- Command 1: the inactive bank is verified. -/
def verifyBank (s : State) : State × Status :=
  if updState s ≠ 1 ∨ inService s 0 = false then (s, Code.locked)
  else match bankImages s (1 - reg s 0xA000 0x01) with
    | .ok _ => (setUpd s 2, Code.ok)
    | .error st => (setUpd s 5, st)

/-- Whether a deferring condition holds, or ended less than 1 s ago (R470). -/
def deferred (s : State) : Bool :=
  deferring s || (match s.fw.clearSince with
    | some t => !passedMs s t 1000
    | none => false)

/-- Command 2: the verified bank is activated, or its activation deferred. -/
def activate (s : State) : State × Status :=
  if updState s ≠ 2 ∨ inService s 0 = false ∨ s.fw.activating = true then (s, Code.locked)
  else if deferred s then (setUpd (setFw s { s.fw with deferred := 1 }) 3, Code.deferred)
  else (swapBank s true, Code.ok)

/-- Command 3: a deferred activation is cancelled. -/
def cancelUpdate (s : State) : State × Status :=
  if updState s ≠ 3 ∨ inService s 0 = false then (s, Code.locked)
  else (setUpd (setFw s { s.fw with deferred := 0 }) 2, Code.ok)

/-- The fuses are blown to the SVN of the active bank, and the trial ends. -/
def commitFuses (s : State) : State :=
  let n := max (reg s 0xA000 0x03) (reg s 0xA000 0x02)
  setUpd (setReg (setFw s { s.fw with trial := false, deferred := 0 }) 0xA000 0x03 n) 0

/-- Command 4: the active bank is committed, or its commit deferred. -/
def commitUpdate (s : State) : State × Status :=
  if ¬ (updState s = 0 ∨ updState s = 4) ∨ inService s 0 = false then (s, Code.locked)
  else if 64 < reg s 0xA000 0x02 then (s, Code.misaligned)
  else if deferred s then (setFw s { s.fw with deferred := 2 }, Code.deferred)
  else (commitFuses s, Code.ok)

/-- Command 5: every core restarts from the active bank. -/
def restartCores (s : State) : State × Status := (reloadCores s, Code.ok)

/-- The update commands of A000:05 by value. -/
def updateCommand (s : State) (v : Nat) : State × Status :=
  match v with
  | 1 => verifyBank s
  | 2 => activate s
  | 3 => cancelUpdate s
  | 4 => commitUpdate s
  | _ => restartCores s

/-- UPDATE_VERIFY. -/
def execUpdateVerify (via : Via) (s : State) : Out :=
  withVia s via fun s w => guarded s w 0xA000 0x05 1 fun s => plainAnswer (updateCommand s 1)

/-- UPDATE_ACTIVATE. -/
def execUpdateActivate (via : Via) (s : State) : Out :=
  withVia s via fun s w => guarded s w 0xA000 0x05 2 fun s => plainAnswer (updateCommand s 2)

/-- UPDATE_CANCEL. -/
def execUpdateCancel (via : Via) (s : State) : Out :=
  withVia s via fun s w => guarded s w 0xA000 0x05 3 fun s => plainAnswer (updateCommand s 3)

/-- UPDATE_COMMIT. -/
def execUpdateCommit (via : Via) (s : State) : Out :=
  withVia s via fun s w => guarded s w 0xA000 0x05 4 fun s => plainAnswer (updateCommand s 4)

/-- FIRMWARE_RESTART. -/
def execFirmwareRestart (via : Via) (s : State) : Out :=
  withVia s via fun s w => guarded s w 0xA000 0x05 5 fun s => plainAnswer (updateCommand s 5)

/-- ACTIVATION_DEFERRAL_END: 1 s after the last deferring condition ended, what was deferred goes on. -/
def execActivationDeferralEnd (s : State) : Out :=
  match s.fw.clearSince with
  | none => .next s
  | some t =>
    if s.fw.deferred = 0 ∨ deferring s = true ∨ passedMs s t 1000 = false then .next s
    else if s.fw.deferred = 1 then .next (swapBank s true)
    else .next (commitFuses s)

/-- TRIAL_FAIL: a core has expired twice before the commit, or the security core does not run 5 s after
the reload; the previous bank returns. -/
def execTrialFail (s : State) : Out :=
  if s.fw.trial = true ∧ (s.fw.twice = true ∨
      (inService s 0 = false ∧ passedMs s s.fw.reloadedAt 5000 = true)) then
    .next (setUpd (swapBank s false) 5)
  else .next s

/-! ## Operator key and host-loaded items (R462 to R467) -/

/-- OPERATOR_KEY_WRITE: once. -/
def execOperatorKeyWrite (via : Via) (key : Bytes) (s : State) : Out :=
  withVia s via fun s w => guarded s w 0xA000 0x07 0 fun s => plainAnswer <|
    if key.length ≠ 32 then (s, Code.misaligned)
    else if s.fw.operatorKey.isSome then (s, Code.locked)
    else (setFw s { s.fw with operatorKey := some key }, Code.ok)

/-- The checks that every item shares: the security core runs, R460, and the SVN of the last item of
its kind. -/
def itemStatus (s : State) (kind : Nat) (last : Option Item) (data : Bytes) : Status :=
  let h := data.take 256
  if inService s 0 = false then Code.locked
  else
    let st := imageStatus s kind h (data.drop 256)
    if st ≠ Code.ok then st
    else if (last.map fun i => decide ((imageOf h).svn < i.svn)) = some true then Code.protection
    else Code.ok

/-- The item that a Gianaip image carries. -/
def itemOf (data : Bytes) : Item :=
  let i := imageOf (data.take 256)
  { svn := i.svn, version := i.version, hash := i.hash, body := data.drop 256 }

/-- An entry of a trust list: its key and where it is admitted (R464). -/
def trustEntries (b : Bytes) : List (Bytes × Nat) := (cutRuns 40 (b.length + 1) b).map fun e => (e.take 32, hdrField e 32 1)

/-- Whether a key is admitted as principal T on a port: by the fused key, by the trust list, or any key
on the management port before there is an operator key (R462, R464). -/
def admitsT (s : State) (port : Nat) (key : Bytes) : Bool :=
  match s.fw.operatorKey with
  | none => port == 8
  | some k => k == key || (match s.fw.trust with
    | none => false
    | some t => (trustEntries t.body).any fun e => e.1 == key && e.2.testBit (if port = 8 then 0 else 1))

/-- Whether a key stands in a trust list. -/
def inTrust (t : Option Item) (key : Bytes) : Bool :=
  (t.map fun x => (trustEntries x.body).any fun e => e.1 == key).getD false

/-- A trust list is installed; sessions of keys that are gone from it close. -/
def loadTrust (s : State) (data : Bytes) : State × Status :=
  let st := itemStatus s 8 s.fw.trust data
  let i := itemOf data
  let bad := i.body.length % 40 != 0 || decide (64 * 40 < i.body.length) ||
    (cutRuns 40 (i.body.length + 1) i.body).any fun e => decide (3 < hdrField e 32 1) || hdrField e 33 7 != 0
  if st ≠ Code.ok then (s, st)
  else if bad then (s, Code.misaligned)
  else
    let old := s.fw.trust
    let s := setFw s { s.fw with trust := some i }
    (closeSessions s fun x => x.principal == 0 && inTrust old x.key && !inTrust (some i) x.key &&
      !(s.fw.operatorKey == some x.key), Code.ok)

/-- TRUST_LIST_LOAD. -/
def execTrustListLoad (via : Via) (data : Bytes) (s : State) : Out :=
  withVia s via fun s w => guardedBlock s via w 0xA000 0x08 fun s => plainAnswer (loadTrust s data)

/-- The route table that a block of 4,096 entries of 20 bytes holds; entries of zeros are not kept. -/
def routesOf (b : Bytes) : Tbl Route :=
  ((cutRuns 20 (b.length + 1) b).zipIdx.map fun x => (x.2, routeEntryOf x.1)).filter fun x => x.2 != {}

/-- A domain entry of 4 bytes (R352). -/
def domainEntryOf (v : Nat) : Domain :=
  { valid := v % 2 == 1, switch := v / 2 % 2 == 1, group := v / 4 % 1024, shelf := v / 2 ^ 12 % 256
    loop := v / 2 ^ 20 % 256, spare := v / 2 ^ 28 % 2 == 1 }

/-- The domain table that a block of 4,096 entries of 4 bytes holds. -/
def domainsOf (b : Bytes) : Tbl Domain :=
  ((cutRuns 4 (b.length + 1) b).zipIdx.map fun x => (x.2, domainEntryOf (ofLe x.1))).filter fun x => x.2 != {}

/-- Whether a block of route table entries has a reserved bit set. -/
def routesReserved (b : Bytes) : Bool := (cutRuns 20 (b.length + 1) b).any fun e => ofLe e / 2 ^ 132 != 0

/-- Whether a block of domain entries has a reserved bit set. -/
def domainsReserved (b : Bytes) : Bool := (cutRuns 4 (b.length + 1) b).any fun e => ofLe e / 2 ^ 29 != 0

/-- The state with the route table written. -/
def setRoutes (s : State) (b : Bytes) : State := setCore s { s.core with routes := routesOf b }

/-- The state with the node domain table written. -/
def setDomains (s : State) (b : Bytes) : State := setRecov s { s.recov with domains := domainsOf b }

/-- Whether the body of a topology map is refused (R465). -/
def mapBad (s : State) (b : Bytes) : Bool :=
  b.length != 100928 || ofLe (b.take 64) != nodeId s ||
    (List.range 64).any (fun n => hdrField b (64 + 40 * n) 8 / 2 ^ 19 != 0) ||
    routesReserved ((b.drop 2624).take 81920) || domainsReserved (b.drop 84544) ||
    !routesPresent (setFw s { s.fw with map := some { body := b } }) ((b.drop 2624).take 81920)

/-- A topology map is accepted: the tables are written from it and every ACTIVE port is checked again
(R466). -/
def loadMap (s : State) (data : Bytes) : State × Status :=
  let st := itemStatus s 9 s.fw.map data
  let i := itemOf data
  if st ≠ Code.ok then (s, st)
  else if mapBad s i.body then (s, Code.misaligned)
  else
    let s := setRoutes (setFw s { s.fw with map := some i }) ((i.body.drop 2624).take 81920)
    (checkPorts (setDomains s (i.body.drop 84544)), Code.ok)

/-- TOPOLOGY_MAP_LOAD. -/
def execTopologyMapLoad (via : Via) (data : Bytes) (s : State) : Out :=
  withVia s via fun s w => guardedBlock s via w 0xA000 0x09 fun s => plainAnswer (loadMap s data)

/-- A tenant policy is loaded (R467). -/
def loadPolicy (s : State) (data : Bytes) : State × Status :=
  let st := itemStatus s 10 s.fw.policy data
  let i := itemOf data
  if st ≠ Code.ok then (s, st)
  else if i.body.length ≠ 65536 ∨
      ((cutRuns 16 (i.body.length + 1) i.body).any fun e => ofLe e / 2 ^ 41 != 0) = true then
    (s, Code.misaligned)
  else (setFw s { s.fw with policy := some i }, Code.ok)

/-- TENANT_POLICY_LOAD. -/
def execTenantPolicyLoad (via : Via) (data : Bytes) (s : State) : Out :=
  withVia s via fun s w => guardedBlock s via w 0xA000 0x0A fun s => plainAnswer (loadPolicy s data)

/-! ## Attestation (R474) -/

/-- BODY_HASH of the image of a kind in force, zeros where there is none. -/
def kindHash (s : State) (kind : Nat) : Bytes :=
  padTo 64 (((s.fw.images.find? fun i => i.kind == kind).map (·.hash)).getD [])

/-- The first 8 bytes of the BODY_HASH of an item, or zeros. -/
def itemHash (i : Option Item) : Bytes := padTo 8 ((i.map fun x => x.hash.take 8).getD [])

/-- The quote of 416 bytes. -/
def quote (s : State) (nonce : Bytes) : Bytes :=
  nonce ++ leBytes 4 (nodeId s) ++ leBytes 4 (reg s 0xA000 0x03) ++ leBytes 4 (reg s 0xA000 0x02) ++
    ([1, 2, 3, 4, 5].map (kindHash s)).flatten ++ itemHash s.fw.trust ++ itemHash s.fw.map ++
    itemHash s.fw.policy ++ leBytes 4 s.recov.incarnation ++ leBytes 24 0

/-- The quote with its signature by the identity key. -/
def quoteBlock (s : State) (nonce : Bytes) : Bytes :=
  quote s nonce ++ Config.ed25519Sign Config.identitySecret (ascii "KF4096 quote" ++ quote s nonce)

/-- An attestation read: refused while the security core does not run. -/
def attest (s : State) (w : Who) (nonce : Bytes) : Answer :=
  if mayRead w 0xA000 = false then answer Code.protection
  else if nonce.length ≠ 32 then answer Code.misaligned
  else if inService s 0 = false then answer Code.locked
  else { status := Code.ok, length := 480, values := [quoteBlock s nonce] }

/-- ATTESTATION_QUOTE. -/
def execAttestationQuote (via : Via) (nonce : Bytes) (s : State) : Out :=
  withVia s via fun s w => (s, attest s w nonce)

end Sys2Proof.Machine
end

