-- ==== Sys2Proof/Machine/Power.lean ====
section
/-! DEFINITION. Start-up, reset, emergency off, clocks, the power governor and the thermal ladder
(R476 to R501). -/

namespace Sys2Proof.Machine

/-- The state with the power block changed. -/
def setPwr (s : State) (p : PowerState) : State := { s with pwr := p }

/-! ## What a reset leaves (R486, Table 6) -/

/-- Entries whose values every reset keeps: the active bank, its fuses, the temperatures read, and the
factory calibration store. -/
def keptAlways (idx sub : Nat) : Bool :=
  (idx == 0xA000 && (sub == 0x01 || sub == 0x03)) || (decide (idx / 4 = 0x800) && sub == 0x02) ||
    decide (0xF000 ≤ idx)

/-- Entries whose values a warm reset keeps: the always-on bank, the fault queue, the sizing entries of
the next layout (R279), and those of the management port and the Dexol engine. -/
def keptWarm (idx sub : Nat) : Bool :=
  (idx == 0x1000 && sub == 0x08) ||
    (idx == 0x1010 && sub != 0x01) ||
    (idx == 0x2800 && sub == 0x05) || (idx == 0x3D00 && sub == 0x01) || (idx == 0x5000 && sub == 0x02) ||
    (idx == 0x6000 && sub == 0x06) || (idx == 0x6100 && (sub == 0x01 || sub == 0x02)) ||
    (idx == 0x4000 && (sub == 0x06 || sub == 0x07 || sub == 0x08)) ||
    (idx == 0x8000 && (sub == 0x02 || sub == 0x03 || sub == 0x06)) || idx == 0x8010 ||
    (idx == 0x9000 && decide (0x12 ≤ sub) && decide (sub ≤ 0x15))

/-- The dictionary after a reset. -/
def resetDict (s : State) (warm : Bool) : DictState :=
  let keep (k : Nat) : Bool := keptAlways (k / 256) (k % 256) || (warm && keptWarm (k / 256) (k % 256))
  { od := tfilter s.dict.od fun k _ => keep k
    blocks := tfilter s.dict.blocks fun k _ => keep k }

/-- Firmware state after a reset: flash, fuses and a trial stay (R463, R472). -/
def resetFw (f : FwState) : FwState :=
  { bankA := f.bankA, bankB := f.bankB, trial := f.trial, operatorKey := f.operatorKey, revoked := f.revoked }

/-- The state that a reset starts from: that of State.reset but for what Table 6 keeps; the nonce is new. -/
def resetBase (s : State) (warm : Bool) (inc : Nat) : State :=
  let r := State.reset
  { r with
    dict := resetDict s warm
    recov := { r.recov with incarnation := inc, faults := if warm then s.recov.faults else [] }
    eth := { r.eth with
      mgmtMode := if warm then s.eth.mgmtMode else 0, mgmtSince := if warm then s.eth.mgmtSince else s.now }
    ctx := { r.ctx with bootNonce := Config.randomBytes s.fresh 32 }
    fw := resetFw s.fw
    pwr := { r.pwr with
      warm := true, straps := s.pwr.straps, pwrOk := s.pwr.pwrOk, warnLow := s.pwr.warnLow
      resetNLow := s.pwr.resetNLow, resetAt := some s.now, epo := s.pwr.epo
      clocksLost := s.pwr.clocksLost }
    out := s.out, fresh := s.fresh + 1, now := s.now, pending := s.pending }

/-- The pending values of the reset class take effect (R438). -/
def takePending (t : State) (held : Tbl Nat) : State :=
  held.foldl (fun t x => setReg t (x.1 / 256) (x.1 % 256) x.2) t

/-- A reset is recorded: the incarnation, the source and, where counted, one more warm reset. -/
def noteReset (t : State) (inc code upd : Nat) (count : Bool) : State :=
  let t := setReg (setReg t 0x8100 0x09 inc) 0x9000 0x12 code
  let t := if count then setReg t 0x9000 0x13 ((reg t 0x9000 0x13 + 1) % 2 ^ 32) else t
  setReg t 0xA000 0x06 upd

/-- The layout of the hardware region is computed from the sizing entries (R279). -/
def layOut (t : State) : State :=
  setReg { t with mem := { t.mem with layout := areaSizes t } } 0x5000 0x01 (hwEndOf (areaSizes t))

/-- A reset of a kind with a source code (R486). Sources that meet on one cycle cause one reset, with the
lowest code (R487). -/
def resetPart (s : State) (warm : Bool) (code : Nat) : State :=
  let again := s.pwr.resetAt == some s.now
  let warm := warm && (!again || reg s 0x9000 0x12 != 1)
  let code := if again then min code (reg s 0x9000 0x12) else code
  let inc := if warm then (s.recov.incarnation + b2n (!again)) % 2 ^ 32 else 0
  let t := takePending (resetBase s warm inc) (if warm then s.dict.atReset else [])
  let t := noteReset t inc code (if s.fw.trial then 4 else 0) (warm && !again)
  noteDeferral (layOut t) t.now

/-! ## Start-up (R480 to R484) -/

/-- Default direction of a port for a role and TAPER (R481, Table 3): 0 disabled, 1 down, 2 up. -/
def defaultDir (role taper n : Nat) : Nat :=
  match role, taper with
  | 0, 0 => if n < 48 then 1 else if n < 60 then 2 else 0
  | 0, 1 => if n < 48 then 1 else if n < 60 then 2 else 1
  | 0, 2 => if n < 40 then 1 else if n < 60 then 2 else 0
  | 0, _ => if n < 32 then 1 else 2
  | 1, 0 => if n < 54 then 1 else 2
  | 1, 1 => 1
  | 1, 2 => if n < 48 then 1 else 2
  | 1, _ => if n < 32 then 1 else 2
  | 2, 0 => 2
  | 2, 1 => if n < 48 then 2 else 0
  | 2, 2 => if n < 32 then 2 else 0
  | 2, _ => if n < 16 then 2 else 0
  | _, _ => 1

/-- The default directions of the ports for the role in force and TAPER; in the test role every port is
quarantined (R481). -/
def defaultPorts (s : State) : State :=
  (List.range 64).foldl (fun s n =>
    let s := setReg s 0x3C00 (n + 1) (defaultDir (role s) (s.pwr.straps.taper % 4) n)
    setReg s (0x3000 + n) 0x02 (if role s = 3 then 16 else 0)) s

/-- The straps are sampled (R480): node ID, straps as read, the role in force (R1), and with it the default
directions. -/
def sampleStraps (s : State) (x : Straps) : State :=
  let s := setPwr s { s.pwr with straps := x }
  let s := setReg (setReg s 0x1000 0x06 (x.id % 4096)) 0x1000 0x0A (x.role % 4 + 4 * (x.taper % 4))
  let o := reg s 0x1000 0x08
  defaultPorts (setReg s 0x1000 0x07 (if o = 0xFF then x.role % 4 else o))

/-- The ports that are not disabled leave DISABLED for DETECT (R482, Table 4). -/
def startPorts (s : State) : State :=
  (List.range 64).foldl (fun s n =>
    setReg s (0x3000 + n) 0x01 (if reg s 0x3C00 (n + 1) = 0 then 0 else 1)) s

/-- Start-up begins. -/
def beginStart (s : State) : State :=
  let s := setPwr s { s.pwr with up := true, startedAt := s.now }
  let s := startPorts (setReg s 0x9000 0x11 0)
  let s := (List.range 4).foldl (fun s q => setReg s (0x2000 + q) 0x01 1) s
  setReg s 0x3F00 0x04 (ownClass s)

/-- Whether something holds the part in reset: low PWR_OK, RESET_N, or a lost CLK_CORE or CLK_MGMT. -/
def heldReset (s : State) : Bool :=
  !s.pwr.pwrOk || s.pwr.resetNLow || s.pwr.clocksLost.contains 0 || s.pwr.clocksLost.contains 6

/-- Whether some quarter's last reading is at least a temperature in 1/8 °C. -/
def hotterThan (s : State) (t : Int) : Bool := [0, 1, 2, 3].any fun q => decide (t ≤ tempOf s q)

/-- A reset is released: straps and firmware, then start-up, unless EPO_N or the temperature holds it. -/
def releaseReset (s : State) (x : Straps) (hot : Bool) : State :=
  if heldReset s then s
  else
    let s := bootFirmware (sampleStraps s x)
    if s.pwr.epo then setReg { s with core := { s.core with stopped := true } } 0x9000 0x11 3
    else if hot || hotterThan s 760 then setReg s 0x9000 0x11 2
    else beginStart s

/-- POWER_OK_RISE. -/
def execPowerOkRise (straps : Straps) (cold hot : Bool) (s : State) : Out :=
  if s.pwr.pwrOk then .next s
  else
    let c := cold || !s.pwr.warm
    let s := setPwr s { s.pwr with pwrOk := true }
    .next (releaseReset (if c then resetPart s false 1 else s) straps hot)

/-- POWER_OK_FALL: a warm reset that holds the part, or a loss of supplies. -/
def execPowerOkFall (aonLost : Bool) (s : State) : Out :=
  if s.pwr.pwrOk = false ∧ (aonLost = false ∨ s.pwr.warm = false) then .next s
  else
    let s := setPwr s { s.pwr with pwrOk := false }
    if aonLost then
      let t := resetPart s false 1
      .next (setPwr t { t.pwr with warm := false })
    else .next (resetPart s true 2)

/-- RESET_N low for 1 µs: a warm reset after a LAST_GASP, held until the pin is released. -/
def execResetN (s : State) : Out :=
  if s.pwr.pwrOk = false ∨ s.pwr.resetNLow = true then .next s
  else
    let s := sendGasp s 3 15
    .next (resetPart (setPwr s { s.pwr with resetNLow := true }) true 3)

/-- RESET_N_RELEASE. -/
def execResetNRelease (straps : Straps) (s : State) : Out :=
  if s.pwr.resetNLow then .next (releaseReset (setPwr s { s.pwr with resetNLow := false }) straps false)
  else .next s

/-- A write of 9000:10. -/
def resetByDict (s : State) : State × Status :=
  (releaseReset (resetPart (sendGasp s 3 15) true 4) s.pwr.straps false, Code.ok)

/-- RESET_COMMAND. -/
def execResetCommand (via : Via) (value : Nat) (s : State) : Out :=
  withVia s via fun s w => guarded s w 0x9000 0x10 value fun s => plainAnswer (resetByDict s)

/-- A unit that is not there: its record (R275). -/
def unitAbsent (s : State) (kind unit quarter : Nat) : State :=
  raise s { cls := 0x0C, critical := true, quarter := some quarter, unitKind := kind, unit := unit }

/-- PLATE_TRAINING_END: a stack is trained, or marked absent at 150 ms (R275). -/
def execPlateTrainingEnd (stack : Nat) (trained : Bool) (s : State) : Out :=
  if s.pwr.up = false ∨ 20 ≤ stack ∨ s.pwr.stacksDone.contains stack = true ∨
      (trained = false ∧ passedMs s s.pwr.startedAt 150 = false) then .next s
  else
    let s := setPwr s { s.pwr with stacksDone := s.pwr.stacksDone ++ [stack] }
    .next (if trained then setReg s 0x5000 0x04 (reg s 0x5000 0x04 ||| 2 ^ stack)
      else unitAbsent s 4 stack (stack / 5))

/-- SLAB_TRAINING_END: a module of 64 or 128 GiB is trained, or marked absent at 285 ms (R276). -/
def execSlabTrainingEnd (module size : Nat) (trained : Bool) (s : State) : Out :=
  if s.pwr.up = false ∨ 12 ≤ module ∨ s.pwr.modulesDone.contains module = true ∨
      (trained = true ∧ ¬ (size = 64 ∨ size = 128)) ∨
      (trained = false ∧ passedMs s s.pwr.startedAt 285 = false) then .next s
  else
    let s := setPwr s { s.pwr with modulesDone := s.pwr.modulesDone ++ [module] }
    .next (if trained then
      setReg { s with mem := { s.mem with slab := tset s.mem.slab module size } } 0x5000 0x03
        (reg s 0x5000 0x03 ||| 2 ^ module)
    else s)

/-- The units of C1's mapping in order (R69, R483): PA and GiB of each present stack and module. -/
def memUnits (s : State) : List (Nat × Nat) :=
  (((List.range 20).filter fun u => (reg s 0x5000 0x04).testBit u).map fun u => (2 ^ 45 + u * 2 ^ 40, 128)) ++
    (((List.range 12).filter fun u => (reg s 0x5000 0x03).testBit u).map fun u =>
      (2 * 2 ^ 45 + u * 2 ^ 40, ((tget s.mem.slab u).getD 0) / 32 * 31))

/-- The extents of C1, one after the other from a VA. -/
def memExtents : Nat → List (Nat × Nat) → List Extent
  | _, [] => []
  | va, (pa, n) :: us =>
    { va := va, pa := pa, size := 2, count := n, read := true, write := true, atomic := true, reduce := true } ::
      memExtents (va + n * gib) us

/-- The nonce of the boot is drawn, where no reset has drawn it already (R330). -/
def bootDrawn (s : State) : State :=
  if s.ctx.bootNonce.isEmpty then
    { draw s with ctx := { s.ctx with bootNonce := Config.randomBytes s.fresh 32 } }
  else s

/-- C0, and outside the test role C1 with its mapping and windows (R69, R335). -/
def firstContexts (s : State) : State :=
  let s := makeContext (setReg (bootDrawn s) (ctxIdx 0) 0x04 18) 0
  if role s = 3 then s
  else
    let s := setReg (setReg (setReg s (ctxIdx 1) 0x04 12) (ctxIdx 1) 0x11 16368) (ctxIdx 1) 0x12 16
    let s := setPages (makeContext s 1) 1 (memExtents 0 (memUnits s))
    let w := (List.range 16).foldl (fun w i => tset w (16368 + i)
      { valid := true, read := true, write := true, atomic := true, reduce := true, flagged := true, ctx := 1
        gen := ctxGen s 1, baseVa := i * 2 ^ 38, length := 2 ^ 22 }) s.xlat.windows
    { s with xlat := { s.xlat with windows := w } }

/-- STARTUP_COMPLETE: every stack and module has been trained or marked absent; the first contexts
exist, and the data path is usable. -/
def execStartupComplete (s : State) : Out :=
  if s.pwr.up = true ∧ reg s 0x9000 0x11 = 0 ∧ s.pwr.stacksDone.length = 20 ∧ s.pwr.modulesDone.length = 12 then
    let s := firstContexts s
    let s := setPwr s { s.pwr with partReady := true }
    .next (setReg (setReg s 0x9000 0x11 1) 0x9000 0x16 ((s.now - s.pwr.startedAt) * 5 / 9000 % 2 ^ 32))
  else .next s

/-- STARTUP_TEMPERATURE_OK: every quarter reads 90 °C or less. -/
def execStartupTemperatureOk (s : State) : Out :=
  if reg s 0x9000 0x11 = 2 ∧ heldReset s = false ∧ hotterThan s 721 = false then .next (beginStart s)
  else .next s

/-! ## Emergency off (R488, R489) -/

/-- Every fabric port becomes DISABLED and every Ethernet port stops. -/
def quietPorts (s : State) : State :=
  let s := (List.range 64).foldl disablePort s
  (List.range 8).foldl (fun s e => if ethUp s e then ethDown s e else s) s

/-- The switch core and the engines stop at once: what descriptors have in flight is not carried on, and only a reset
follows (R488, R489). -/
def haltEngines (s : State) : State :=
  { s with
    core := { s.core with stopped := true }
    q := { s.q with flights := [] }
    net := { s.net with jobs := [] } }

/-- EPO_ASSERT. -/
def execEpoAssert (s : State) : Out :=
  if s.pwr.pwrOk = false then .next s
  else
    let s := setReg s 0x9000 0x15 ((reg s 0x9000 0x15 + 1) % 2 ^ 32)
    if s.pwr.epo then .next s
    else
      let s := quietPorts (setPwr s { s.pwr with epo := true })
      .next (setReg (haltEngines s) 0x9000 0x11 3)

/-- EPO_RELEASE: 10 ms after EPO_N has risen, a warm reset. -/
def execEpoRelease (s : State) : Out :=
  if s.pwr.epo = true ∧ s.pwr.pwrOk = true then
    .next (releaseReset (resetPart (setPwr s { s.pwr with epo := false }) true 5) s.pwr.straps false)
  else .next s

/-! ## Clocks (R497, R498) -/

/-- Number of a clock. -/
def clockNo (c : RefClock) : Nat :=
  match c with
  | .core => 0
  | .serdes q => 1 + q % 4
  | .eth => 5
  | .mgmt => 6

/-- REFERENCE_CLOCK_LOSS. -/
def execReferenceClockLoss (clock : RefClock) (s : State) : Out :=
  let n := clockNo clock
  if s.pwr.clocksLost.contains n then .next s
  else
    let s := setPwr s { s.pwr with clocksLost := s.pwr.clocksLost ++ [n] }
    match clock with
    | .serdes q =>
      .next (settle ((List.range 16).foldl (fun s i =>
        let p := 16 * (q % 4) + i
        if portActive s p then enterRecover s p true
        else if 2 ≤ portState s p ∧ portState s p ≤ 5 then enterDetect s p else s) s))
    | .eth => .next ((List.range 8).foldl (fun s e => if ethUp s e then ethDown s e else s) s)
    | _ => .next (if s.pwr.pwrOk then resetPart s true 2 else s)

/-- REFERENCE_CLOCK_RETURN. -/
def execReferenceClockReturn (clock : RefClock) (s : State) : Out :=
  let n := clockNo clock
  if s.pwr.clocksLost.contains n then
    let was := heldReset s
    let s := setPwr s { s.pwr with clocksLost := s.pwr.clocksLost.filter fun x => x != n }
    .next (if was then releaseReset s s.pwr.straps false else s)
  else .next s

/-! ## Power governor (R490 to R493) -/

/-- Engine clock of a ladder step in MHz. -/
def ladderClock (step : Nat) : Nat :=
  match step with
  | 0 => 3600
  | 1 => 3000
  | _ => 2400

/-- The engine clocks in force: the lower of the governor's and of each quarter's ladder. -/
def setClocks (s : State) : State :=
  (List.range 4).foldl (fun s q =>
    setReg s (0x2000 + q) 0x03 (min (3600 - 100 * s.pwr.clockSteps) (ladderClock (reg s 0x9000 (8 + q))))) s

/-- Stage in force. -/
def stageOf (p : PowerState) : Nat :=
  if 0 < p.paceSteps then 3 else if 0 < p.clockSteps then 2 else if p.paused then 1 else 0

/-- Time with a stage in force, and over the limit at the last step, up to now. -/
def chargeStage (s : State) : State :=
  let us := (s.now - s.pwr.stageSince) * 5 / 9000
  let s := if stageOf s.pwr ≠ 0 then
      setPwr (bumpBy s 0x9000 0x06 us) { s.pwr with stageSince := s.pwr.stageSince + us * 1800 }
    else setPwr s { s.pwr with stageSince := s.now }
  match s.pwr.overSince with
  | none => s
  | some t =>
    let ms := (s.now - t) * 5 / 9000000
    setPwr (bumpBy s 0x9000 0x07 ms) { s.pwr with overSince := some (t + ms * 1800000) }

/-- The stage and the clocks that the steps taken give. -/
def showStage (s : State) : State := setReg (setClocks s) 0x9000 0x05 (stageOf s.pwr)

/-- A limit is written: clamped to the ceiling, and while the bench complex holds the governor taken
only when it is lower. -/
def limitByDict (s : State) (watts : Nat) : State :=
  let v := min watts (reg s 0x9000 0x02)
  match s.pwr.benchLimit with
  | none => setReg s 0x9000 0x01 v
  | some b => if v < b then setReg (setPwr s { s.pwr with benchLimit := some v }) 0x9000 0x01 v else s

/-- GOVERNOR_LIMIT_WRITE. -/
def execGovernorLimitWrite (via : Via) (watts : Nat) (s : State) : Out :=
  withVia s via fun s w => guarded s w 0x9000 0x01 watts fun s => (limitByDict s watts, answer Code.ok)

/-- POWER_SAMPLE: the readings of 1 ms. -/
def execPowerSample (watts : Nat) (s : State) : Out :=
  if s.pwr.up = true ∧ passedMs s s.pwr.lastSample 1 = true then
    .next (setReg (chargeStage (setPwr s { s.pwr with lastSample := s.now })) 0x9000 0x03 (watts % 2 ^ 32))
  else .next s

/-- The next step of throttling (R492); at the last one, the time over the limit counts. -/
def nextStage (s : State) : State :=
  let p := s.pwr
  if p.paused = false then setPwr s { p with paused := true }
  else if reg s 0x9000 0x04 + 100 * (p.clockSteps + 1) ≤ 3600 then setPwr s { p with clockSteps := p.clockSteps + 1 }
  else if p.paceSteps < 8 then setPwr s { p with paceSteps := p.paceSteps + 1 }
  else if p.overSince.isNone then setPwr s { p with overSince := some s.now }
  else s

/-- GOVERNOR_STEP: every 10 µs. -/
def execGovernorStep (prediction : Nat) (s : State) : Out :=
  if s.pwr.up = false ∨ passedUs s s.pwr.lastStep 10 = false then .next s
  else
    let s := chargeStage (setPwr s { s.pwr with lastStep := s.now })
    if reg s 0x9000 0x01 < prediction then .next (showStage (nextStage s))
    else .next (setPwr s { s.pwr with overSince := none })

/-- The last step of throttling is undone (R493). -/
def undoStage (s : State) : State :=
  let p := s.pwr
  if 0 < p.paceSteps then setPwr s { p with paceSteps := p.paceSteps - 1 }
  else if 0 < p.clockSteps then setPwr s { p with clockSteps := p.clockSteps - 1 }
  else setPwr s { p with paused := false }

/-- GOVERNOR_RELAX: every 100 µs. -/
def execGovernorRelax (prediction : Nat) (s : State) : Out :=
  if s.pwr.up = true ∧ passedUs s s.pwr.lastRelax 100 = true ∧ prediction * 100 < reg s 0x9000 0x01 * 95 then
    let s := chargeStage (setPwr s { s.pwr with lastRelax := s.now, overSince := none })
    .next (showStage (undoStage s))
  else .next s

/-! ## Thermal ladder (R494 to R496) -/

/-- Ladder step of a quarter (9000:08 to :0B). -/
def ladderOf (s : State) (q : Nat) : Nat := reg s 0x9000 (8 + q)

/-- THERM_ALERT_N is asserted while a quarter stands at the 95 °C or 105 °C step. -/
def showAlert (s : State) : State :=
  setPwr s { s.pwr with thermAlert := [0, 1, 2, 3].any fun q => ladderOf s q == 1 || ladderOf s q == 2 }

/-- A quarter takes a ladder step. -/
def setLadder (s : State) (q step : Nat) : State :=
  let s := setReg s 0x9000 (8 + q) step
  let s := setPwr s { s.pwr with coolSince := tdel s.pwr.coolSince q }
  noteDeferral (showAlert (setClocks s)) s.now

/-- A quarter shuts down (R367): LAST_GASP, then every transmitter and the switch core stop. -/
def shutQuarter (s : State) (q : Nat) : State :=
  let s := sendGasp s 2 (2 ^ q)
  let s := raise s { cls := 0x16, critical := true, quarter := some q, unitKind := 1, unit := q }
  let s := setPwr s { s.pwr with thermTrip := true, shut := s.pwr.shut ++ [q] }
  haltEngines (setReg (quietPorts (setLadder s q 3)) (0x2000 + q) 0x01 2)

/-- Reading at or below which a step is left. -/
def leaveAt (step : Nat) : Int := if step = 1 then 720 else 800

/-- The step that a reading in 1/8 °C calls for. -/
def stepFor (t : Int) : Nat := if 920 ≤ t then 3 else if 840 ≤ t then 2 else if 760 ≤ t then 1 else 0

/-- A quarter cools: since when its readings have been low enough to leave its step. -/
def noteCool (s : State) (q : Nat) (t : Int) : State :=
  let c := if ladderOf s q ≠ 0 ∧ t ≤ leaveAt (ladderOf s q) then
      tset s.pwr.coolSince q ((tget s.pwr.coolSince q).getD s.now)
    else tdel s.pwr.coolSince q
  setPwr s { s.pwr with coolSince := c }

/-- THERMAL_SAMPLE: the hottest reading of a quarter in 1/8 °C; none where every sensor of one of its
dies is excluded, which calls for the 105 °C step (R494). -/
def execThermalSample (quarter : Nat) (reading : Option Int) (s : State) : Out :=
  if 4 ≤ quarter ∨ s.pwr.pwrOk = false ∨ ladderOf s quarter = 3 then .next s
  else
    let s := match reading with
      | some t => setReg s (0x2000 + quarter) 0x02 (BitVec.ofInt 32 t).toNat
      | none => s
    let want := (reading.map stepFor).getD 2
    if ladderOf s quarter < want then
      if want = 3 then .next (shutQuarter s quarter)
      else
        .next (raise (setLadder s quarter want)
          { cls := 0x15, critical := true, quarter := some quarter, unitKind := 1, unit := quarter, d0 := want })
    else match reading with
      | some t => .next (noteCool s quarter t)
      | none => .next (setPwr s { s.pwr with coolSince := tdel s.pwr.coolSince quarter })

/-- THERMAL_STEP_CLEAR: 100 ms at or below the leave threshold; the 105 °C step falls back to that of
95 °C, and that to none. -/
def execThermalStepClear (quarter : Nat) (s : State) : Out :=
  match tget s.pwr.coolSince quarter with
  | none => .next s
  | some t =>
    if quarter < 4 ∧ (ladderOf s quarter = 1 ∨ ladderOf s quarter = 2) ∧ passedMs s t 100 = true then
      .next (setLadder s quarter (ladderOf s quarter - 1))
    else .next s

end Sys2Proof.Machine
end

