-- ==== Sys2Proof/Machine/DictReads.lean ====
section
/-! DEFINITION. Reads of the object dictionary (R430, R434, R440, R447, R448): the effective value of
every entry, with what is pending or calibrated beside it. -/

namespace Sys2Proof.Machine

/-! ## Effective values of entries carried as numbers or short strings -/

/-- Whether a subindex of a context's record is one of its quotas (R325). -/
def quotaField (sub : Nat) : Bool := sub == 0x10 || (decide (0x13 ≤ sub) && decide (sub ≤ 0x1E))

/-- The effective value of a numeric entry: FT and headroom are computed, the quotas of C0 read as
their maxima (R327), and the governor's times are charged up to now. -/
def readNumber (s : State) (e : Entry) (idx sub : Nat) : Nat :=
  if idx = 0x3F00 ∧ sub = 0x01 then (ftOf s 0).toNat
  else if idx = 0x3C01 then headroomOf s (sub - 1)
  else if idx = 0x7000 ∧ quotaField sub = true then min e.hi 65535
  else if idx = 0x9000 then reg (chargeStage s) idx sub
  else reg s idx sub

/-- The effective value of an OCTET_STRING. -/
def readOctets (s : State) (idx sub n : Nat) : Bytes :=
  match idx, sub with
  | 0x1000, 0x02 => ascii "KF4096"
  | 0x1000, 0x04 => padTo n Config.serialNumber
  | 0x1000, 0x05 => padTo n Config.identityKey
  | _, _ => padTo n (blockOf s idx sub)

/-! ## Blocks of DOMAIN entries. Where the manual names the contents and not the layout, the fields
stand in the order it names them, packed (log entry 30). -/

/-- 1010:08: index, subindex, group and principal of each pending shadow. -/
def shadowsBlock (s : State) : Bytes :=
  s.dict.shadows.flatMap fun x =>
    leBytes 2 (x.1 / 256) ++ leBytes 1 (x.1 % 256) ++ leBytes 1 x.2.group ++ leBytes 1 x.2.principal

/-- 2000+q:21: a tee slot (Table 6 of 01); zeros where it is not armed. -/
def teeBlock (s : State) (q slot : Nat) : Bytes :=
  match tget (teesOf s q) slot with
  | some t => leBytes 32 (teeWord t).toNat
  | none => List.replicate 32 0

/-- 3000+n:05: the neighbour; zeros where it is not known. -/
def neighbourBlock (s : State) (n : Nat) : Bytes :=
  match (tget s.links n).bind (·.neighbour) with
  | none => List.replicate 41 0
  | some x =>
    leBytes 2 x.node ++ leBytes 1 x.port ++ leBytes 1 x.role ++ leBytes 1 x.revision ++
      padTo 32 x.identity ++ leBytes 4 x.incarnation

/-- 3000+n:10 to :13: the taps of a lane, then its receiver's figures. -/
def laneBlock (s : State) (n lane : Nat) : Bytes :=
  let taps := match (tget s.links n).bind fun l => tget l.lanes lane with
    | some x => x.taps
    | none => ({} : Lane).taps
  taps.flatMap (fun t => leBytes 2 (BitVec.ofInt 16 t).toNat) ++ Config.receiverFigures (4 * n + lane) s.now

/-- A route table entry as it reads (R203, Table 5): LOCAL and FENCED show what the part holds. -/
def routeBlock (s : State) (i : Nat) : Bytes :=
  let r := (tget s.core.routes i).getD {}
  leBytes 20 (r.down % 2 ^ 64 + r.up % 2 ^ 64 * 2 ^ 64 + b2n r.valid * 2 ^ 128 +
    b2n (i == nodeId s) * 2 ^ 129 + b2n (isFenced s i) * 2 ^ 130 + b2n r.rack * 2 ^ 131)

/-- 4200:01: the record of a queue pair (Table 3 of 14); zeros where it is not in use. -/
def qpBlock (s : State) (qpn : Nat) : Bytes :=
  match tget s.eth.qps qpn with
  | none => List.replicate 64 0
  | some p =>
    leBytes 8 (1 + b2n p.ud * 2 + p.state % 4 * 4 + p.port % 8 * 16 + b2n p.ipv6 * 128 +
        p.ctx % 4096 * 2 ^ 8 + p.proxy % 4096 * 2 ^ 20 + qpn % 2 ^ 24 * 2 ^ 32) ++
      leBytes 4 (p.remoteQpn % 2 ^ 24 + p.pmtu % 8 * 2 ^ 24 + p.maxRd % 32 * 2 ^ 27) ++
      leBytes 3 p.expectedPsn ++ leBytes 3 p.sendPsn ++
      leBytes 2 (p.dscp % 64 + p.ackTimeout % 16 * 2 ^ 6 + p.retryCnt % 8 * 2 ^ 10 + p.rnrRetry % 8 * 2 ^ 13) ++
      leBytes 2 p.sport ++ leBytes 2 0 ++ leBytes 16 p.remoteIp ++ leBytes 6 p.nextHop ++ leBytes 2 0 ++
      leBytes 8 p.targetVa ++ leBytes 4 p.targetRkey.toNat ++ leBytes 4 p.qkey.toNat

/-- 4300:01: a context's UDP whistle target. -/
def targetBlock (s : State) (c : Nat) : Bytes :=
  match tget s.eth.targets c with
  | none => List.replicate 20 0
  | some t => leBytes 16 t.address ++ leBytes 2 t.udpPort ++ leBytes 1 t.port ++ leBytes 1 (1 + 2 * b2n t.ipv6)

/-- 4400:01: a doorbell slot, its key not shown. -/
def doorbellBlock (s : State) (slot : Nat) : Bytes :=
  match tget s.eth.doorbells slot with
  | none => List.replicate 54 0
  | some b =>
    leBytes 2 b.ctx ++ List.replicate 32 0 ++ leBytes 16 b.address ++ leBytes 1 b.prefixLen ++
      leBytes 1 (1 + 2 * b2n b.ipv6) ++ leBytes 2 b.proxy

/-- 4500:04: port of the active client, grandmaster identity, offset and mean path delay in ns. -/
def ptpBlock (s : State) : Bytes :=
  match s.eth.ptpActive, activeClient s with
  | some e, some c =>
    leBytes 1 e ++ leBytes 8 c.identity ++ leBytes 8 (BitVec.ofInt 64 (c.offset.getD 0)).toNat ++
      leBytes 8 c.delay
  | _, _ => leBytes 1 255 ++ List.replicate 24 0

/-- 7000+c:28: the innings ledger (Table 12 of 01). -/
def ledgerBlock (s : State) (c : Nat) : Bytes :=
  let l := ledgerOf s c
  leBytes 4 l.innings ++ leBytes 4 l.committed ++ leBytes 8 l.openFt.toNat ++ leBytes 8 l.commitFt.toNat ++
    leBytes 8 (l.state % 16 + b2n l.replaying * 16)

/-- 7000+c:30: a group entry and its members (R350, Table 11 of 05). -/
def groupBlock (s : State) (num : Nat) : Bytes :=
  match tget s.net.groups num with
  | none => List.replicate 8 0
  | some g =>
    leBytes 8 (1 + g.kind % 2 * 2 + g.ctx % 4096 * 2 ^ 2 + g.gen % 65536 * 2 ^ 14 + g.members.length % 512 * 2 ^ 30 +
      g.srcBase % 4096 * 2 ^ 40 + g.srcMask % 4096 * 2 ^ 52) ++ g.members.flatMap fun w => leBytes 4 w.toNat

/-- A fault record of 64 bytes (R374, Table 9). -/
def FaultRec.block (f : FaultRec) : Bytes :=
  leBytes 4 f.seq ++ leBytes 1 f.cls ++
    leBytes 1 (b2n f.critical + f.quarter % 4 * 2 + b2n f.partWide * 8) ++ [f.status] ++
    leBytes 1 f.load.toNat ++ leBytes 8 f.ft.toNat ++ leBytes 2 (BitVec.ofInt 16 f.temp).toNat ++
    leBytes 4 (f.ctx % 4096 + f.node % 4096 * 2 ^ 12 + f.unitKind % 16 * 2 ^ 24) ++ leBytes 2 f.unit ++
    leBytes 8 f.d0 ++ leBytes 8 f.d1 ++ leBytes 8 f.d2 ++ List.replicate 16 0

/-- 8100:04: rebuild status, records rebuilt, bytes written and first failing status of a context. -/
def rebuildBlock (s : State) (c : Nat) : Bytes :=
  match tget s.recov.rebuilds c with
  | none => List.replicate 14 0
  | some r => leBytes 1 r.state ++ leBytes 4 r.done ++ leBytes 8 r.written ++ [r.status]

/-- 8100:08: FENCED, LAST_INC and the cause of the last fence of each node. -/
def fencesBlock (s : State) : Bytes :=
  (List.range 4096).flatMap fun n =>
    leBytes 1 (b2n (isFenced s n)) ++ leBytes 1 ((tget s.net.lastInc n).getD 0) ++
      leBytes 1 ((tget s.recov.causes n).getD 0)

/-- 8200:03: a suspect record (R379, Table 12). -/
def suspectBlock (s : State) (kind unit : Nat) : Bytes :=
  let x := (tget s.recov.suspects (suspectKey kind unit)).getD {}
  leBytes 2 x.score ++ leBytes 1 (b2n x.out) ++ leBytes 1 x.lastLoad.toNat ++ leBytes 1 x.band0 ++
    leBytes 1 x.band1 ++ leBytes 1 x.band2 ++ leBytes 1 x.band3 ++ leBytes 8 x.lastFt.toNat

/-- VERSION, SVN and BODY_HASH of an image or item; zeros where there is none. -/
def versionBlock (x : Option (Nat × Nat × Bytes)) : Bytes :=
  match x with
  | none => List.replicate 72 0
  | some (v, n, h) => leBytes 4 v ++ leBytes 4 n ++ padTo 64 h

/-- A000:0B: the images of kinds 1 to 5 and the items of kinds 8 to 10 in force. -/
def versionsBlock (s : State) : Bytes :=
  ([1, 2, 3, 4, 5].flatMap fun k =>
    versionBlock ((s.fw.images.find? fun i => i.kind == k).map fun i => (i.version, i.svn, i.hash))) ++
  ([s.fw.trust, s.fw.map, s.fw.policy].flatMap fun i => versionBlock (i.map fun x => (x.version, x.svn, x.hash)))

/-! ## Keyed entries (R446) -/

/-- Bytes of the key that a DOMAIN entry takes in ARG; 0 for one without a key. -/
def keyBytes (idx sub : Nat) : Nat :=
  if isCtxIdx idx then (if sub = 0x30 then 2 else 0)
  else
    match idx, sub with
    | 0x2000, 0x21 => 2
    | 0x2001, 0x21 => 2
    | 0x2002, 0x21 => 2
    | 0x2003, 0x21 => 2
    | 0x4200, 0x01 => 4
    | 0x4300, 0x01 => 2
    | 0x4400, 0x01 => 1
    | 0x8100, 0x04 => 2
    | 0x8200, 0x03 => 3
    | 0xA000, 0x0C => 32
    | _, _ => 0

/-- The block of a context's entry. -/
def readCtxBlock (s : State) (c sub k : Nat) : Status × Bytes :=
  if sub = 0x28 then (Code.ok, ledgerBlock s c)
  else if 4095 < k then (Code.misaligned, [])
  else if c ≠ 0 ∧ ¬ (reg s (ctxIdx c) 0x1F ≤ k ∧ k < reg s (ctxIdx c) 0x1F + reg s (ctxIdx c) 0x20) then
    (Code.protection, [])
  else if c ≠ 0 ∧ ((tget s.net.groups k).map (·.ctx)).getD c ≠ c then (Code.ok, List.replicate 8 0)
  else (Code.ok, groupBlock s k)

/-- The block of a DOMAIN entry with a status, for the key k that ARG holds. -/
def readBlock (s : State) (w : Who) (idx sub k : Nat) (arg : Bytes) : Status × Bytes :=
  if isCtxIdx idx then readCtxBlock s (idx - 0x7000) sub k
  else if idx / 4 = 0x800 then
    if 4095 < k then (Code.misaligned, []) else (Code.ok, teeBlock s (idx - 0x2000) k)
  else if idx / 64 = 0xC0 then
    (Code.ok, if sub = 0x05 then neighbourBlock s (idx - 0x3000) else laneBlock s (idx - 0x3000) (sub - 0x10))
  else
    match idx, sub with
    | 0x1010, _ => (Code.ok, shadowsBlock s)
    | 0x3D04, _ => (Code.ok, (List.range 4096).flatMap (routeBlock s))
    | 0x4200, _ => (Code.ok, qpBlock s k)
    | 0x4300, _ => if 4095 < k then (Code.misaligned, []) else (Code.ok, targetBlock s k)
    | 0x4400, _ => (Code.ok, doorbellBlock s k)
    | 0x4500, _ => (Code.ok, ptpBlock s)
    | 0x8000, _ => (Code.ok, (s.recov.faults.take 64).flatMap FaultRec.block)
    | 0x8100, 0x04 => if 4095 < k then (Code.misaligned, []) else (Code.ok, rebuildBlock s k)
    | 0x8100, _ => (Code.ok, fencesBlock s)
    | 0x8200, _ =>
      if unitExists (k % 256) (k / 256) then (Code.ok, suspectBlock s (k % 256) (k / 256)) else (Code.misaligned, [])
    | 0x8300, _ => (Code.ok, (List.range 4096).flatMap fun n => leBytes 4 (domainWord (domainOf s n)))
    | 0xA000, 0x0B => (Code.ok, versionsBlock s)
    | 0xA000, _ => let a := attest s w arg; (a.status, a.values.headD [])
    | _, _ => (Code.ok, blockOf s idx sub)

/-! ## Calibration (R440) -/

/-- Effective, factory and user values of a calibrated quantity of a port. -/
def calibratedValues (s : State) (n sub : Nat) : List Bytes :=
  if sub < 0x10 then
    let u := regInt s (0xE000 + n) sub
    let f := factoryPs s n sub
    [f + u, f, u].map fun x => leBytes 4 (BitVec.ofInt 32 x).toNat
  else
    let u := blockOf s (0xE000 + n) sub
    let g := blockOf s (0xF000 + n) sub
    let f := if g.isEmpty then padTo 10 (Config.factoryTaps (4 * n + (sub - 0x10))) else g
    [if u.isEmpty then f else u, f, u]

/-! ## A read -/

/-- The value that waits for an apply or for the next reset, with its group (R436, R438). -/
def pendingValue (s : State) (e : Entry) (idx sub : Nat) : Option (Bytes × Nat) :=
  let n := e.ty.bytes.getD 0
  match tget s.dict.shadows (idx * 256 + sub), tget s.dict.atReset (idx * 256 + sub) with
  | some x, _ => some (if e.ty.numeric then leBytes n x.value else x.bytes, x.group)
  | none, some v => some (leBytes n v, 0)
  | none, none => none

/-- The effective value of an entry that exists, with a status. -/
def readEffective (s : State) (w : Who) (e : Entry) (idx sub : Nat) (arg : Bytes) : Status × Bytes :=
  match e.ty with
  | .octets n => (Code.ok, readOctets s idx sub n)
  | .domain => readBlock s w idx sub (ofLe arg) arg
  | t => (Code.ok, leBytes (t.bytes.getD 0) (readNumber s e idx sub))

/-- The bytes of each of several values that a REPLY carries (R448). -/
def valueCut (offset length : Nat) (vs : List Bytes) : List Bytes :=
  let cut := vs.map fun v => (v.drop offset).take length
  let cap := if vs.length = 2 then 680 else 448
  if cut.flatten.length ≤ 1360 then cut else cut.map (·.take cap)

/-- An answer that carries values. -/
def valueAnswer (offset length : Nat) (vs : List Bytes) : Answer :=
  let cut := valueCut offset length vs
  { status := Code.ok, length := cut.foldl (fun n v => max n v.length) 0, values := cut }

/-- A read of an entry that exists and may be read. -/
def readEntry (s : State) (w : Who) (e : Entry) (idx sub offset length : Nat) (arg : Bytes) : Answer :=
  if 0xE000 ≤ idx then
    { valueAnswer offset length (calibratedValues s (idx % 0x1000) sub) with calibrated := true }
  else
    let r := readEffective s w e idx sub arg
    if r.1 ≠ Code.ok then answer r.1
    else match pendingValue s e idx sub with
      | some (v, g) => { valueAnswer offset length [r.2, v] with pending := true, group := g }
      | none => valueAnswer offset length [r.2]

/-- Whether an index exists. -/
def indexExists (idx : Nat) : Bool := (entriesOf idx).any fun e => decide (e.idx ≤ idx) && decide (idx < e.idx + e.nIdx)

/-- A READ with its checks (R434): subindex 0 of an index holds the highest in use (R430). -/
def dictRead (s : State) (w : Who) (idx sub offset length : Nat) (arg : Bytes) : Answer :=
  if 1024 < length then answer Code.misaligned
  else if sub = 0 then
    if !indexExists idx then answer Code.misaligned
    else if !mayRead w idx then answer Code.protection
    else valueAnswer offset length [leBytes 1 (highestSub idx)]
  else match entryAt idx sub with
  | none => answer Code.misaligned
  | some e =>
    if keyBytes idx sub ≠ 0 ∧ arg.length ≠ keyBytes idx sub then answer Code.misaligned
    else if e.access = .wo ∨ mayRead w idx = false then answer Code.protection
    else readEntry s w e idx sub offset length arg

/-- DEXOL_READ. -/
def execDexolRead (via : Via) (index sub offset length : Nat) (arg : Bytes) (s : State) : Out :=
  withVia s via fun s w => (s, dictRead s w index sub offset length arg)

end Sys2Proof.Machine
end

