-- ==== Sys2Proof/Machine/DictWrites.lean ====
section
/-! DEFINITION. Writes of the object dictionary (R434 to R440, R447, R508): the effect of a write on
every entry, staging, DOMAIN transfers, and the commands of tees, FT and C0 queues that are writes. -/

namespace Sys2Proof.Machine

/-! ## FT and tees (R9, R22, R26) -/

/-- A write of 3F00:0D: FT steps by a signed number of ns, outside LOCKED and MASTER. -/
def ftStepByDict (s : State) (v : Nat) : State × Status :=
  if s.time.state = .locked ∨ s.time.state = .master then (s, Code.locked)
  else (stepFt s ((BitVec.ofNat 64 v).toInt * 65536), Code.ok)

/-- FT_STEP_COMMAND. -/
def execFtStepCommand (via : Via) (value : BitVec 64) (s : State) : Out :=
  withVia s via fun s w =>
    guarded s w 0x3F00 0x0D value.toNat fun s => plainAnswer (ftStepByDict s value.toNat)

/-- The status of an arming through 2000+q:20, in the order of R22, an armed slot refused (R453). -/
def teeDictStatus (s : State) (q slot : Nat) (x : BitVec 256) : Status :=
  let c := bits x 120 12
  let t := teeOf x c
  firstOf
    [ (teeMisaligned s q x, Code.misaligned)
    , (namedCtxStatus s c != Code.ok, namedCtxStatus s c)
    , (thas (teesOf s q) slot, Code.locked)
    , (!underQuota s c 0x14 (teesHeld s c), Code.quota)
    , (ftLater (ftOf s q) t.fireTime && !t.lateFire, Code.timeout) ]

/-- A write of 2000+q:20: a slot number and a slot record; ENABLE 1 arms it, ENABLE 0 disarms it. -/
def teeByDict (s : State) (q : Nat) (b : Bytes) : State × Status :=
  let slot := ofLe (b.take 2)
  let x := BitVec.ofNat 256 (ofLe (b.drop 2))
  let t := teeOf x (bits x 120 12)
  if b.length ≠ 34 ∨ 4095 < slot then (s, Code.misaligned)
  else if t.enable = false then
    if namedCtxStatus s t.ctx ≠ Code.ok then (s, namedCtxStatus s t.ctx)
    else (disarmTee s q slot, Code.ok)
  else
    let st := teeDictStatus s q slot x
    (if st = Code.ok then enterTee s q slot t else s, st)

/-- TEE_ARM_DICT. -/
def execTeeArmDict (via : Via) (quarter : Nat) (data : Bytes) (s : State) : Out :=
  withVia s via fun s w =>
    guardedBlock s via w (0x2000 + quarter) 0x20 fun s => plainAnswer (teeByDict s quarter data)

/-- TEE_DISARM_DICT. -/
def execTeeDisarmDict (via : Via) (quarter : Nat) (data : Bytes) (s : State) : Out :=
  withVia s via fun s w =>
    guardedBlock s via w (0x2000 + quarter) 0x20 fun s => plainAnswer (teeByDict s quarter data)

/-! ## C0 queues (R508) -/

/-- The status of a push of n descriptors to a C0 queue of a quarter by a principal. -/
def c0PushStatus (s : State) (w : Who) (q queue n : Nat) : Status :=
  match queueOf s 0 queue with
  | none => Code.protection
  | some r =>
    if r.state = .closed then Code.protection
    else if r.state = .draining then Code.contextRetired
    else if r.quarter ≠ q ∨ r.fQueue ≠ (w.principal == 3) then Code.protection
    else if ringFree r < n then Code.quota
    else Code.ok

/-- A write of 2000+q:22: a queue number and 4 to 128 descriptors. -/
def pushByDict (s : State) (w : Who) (q : Nat) (b : Bytes) : State × Status :=
  let queue := ofLe (b.take 2)
  let n := (b.length - 2) / 64
  if b.length ≠ 2 + 64 * n ∨ n < 4 ∨ 128 < n ∨ 1024 ≤ queue then (s, Code.misaligned)
  else if namedCtxStatus s 0 ≠ Code.ok then (s, namedCtxStatus s 0)
  else
    let st := c0PushStatus s w q queue n
    (if st = Code.ok then appendDescs s 0 queue (descsOf (b.drop 2)) none else pushRefused s 0 queue, st)

/-- C0_QUEUE_PUSH. -/
def execC0QueuePush (via : Via) (quarter : Nat) (data : Bytes) (s : State) : Out :=
  withVia s via fun s w =>
    guardedBlock s via w (0x2000 + quarter) 0x22 fun s => plainAnswer (pushByDict s w quarter data)

/-- A write of 2000+q:23: principal F opens an F-queue of C0, checked as OPEN_QUEUE. -/
def openFByDict (s : State) (q : Nat) (b : Bytes) : State × Status :=
  let x : BitVec 96 := BitVec.ofNat 96 (ofLe b)
  let r := queueRecord x 0
  let st := firstOf
    [ (b.length != 12 || queueMisaligned x || bits x 0 12 != 0 || r.quarter != q, Code.misaligned)
    , (namedCtxStatus s 0 != Code.ok, namedCtxStatus s 0)
    , ((queueOf s 0 r.queue).isSome, Code.locked)
    , (!queueFits s r, Code.quota) ]
  (if st = Code.ok then enterQueue s { r with fQueue := true } else s, st)

/-- F_QUEUE_OPEN. -/
def execFQueueOpen (via : Via) (quarter : Nat) (data : Bytes) (s : State) : Out :=
  withVia s via fun s w =>
    guardedBlock s via w (0x2000 + quarter) 0x23 fun s => plainAnswer (openFByDict s quarter data)

/-! ## Writes of entries without a row of their own -/

/-- A direction is written: 0 takes the port to DISABLED whatever its state; another lets a DISABLED
port begin (R202, R437). -/
def writeDirection (s : State) (n v : Nat) : State :=
  if v = 0 then setReg (disablePort s n) 0x3C00 (n + 1) 0 else enablePort (setReg s 0x3C00 (n + 1) v) n

/-- OWNER_KEY is written: sessions of the owner with another key close (R445). -/
def writeOwner (s : State) (c : Nat) (key : Bytes) : State :=
  closeSessions (setBlock s (ctxIdx c) 0x21 key) fun x => x.principal == 1 && x.ctx == c && x.key != key

/-- The route table is written: F may set no bit for a port the map lists as not PRESENT (R456), and
every ACTIVE port is checked again (R404). -/
def routesByDict (s : State) (w : Who) (b : Bytes) : State × Status :=
  if b.length ≠ 81920 then (s, Code.misaligned)
  else if w.principal = 3 ∧ routesPresent s b = false then (s, Code.protection)
  else if routesReserved b then (s, Code.misaligned)
  else (checkPorts (setRoutes s b), Code.ok)

/-- The node domain table is written. -/
def domainsByDict (s : State) (b : Bytes) : State × Status :=
  if b.length ≠ 16384 ∨ domainsReserved b = true then (s, Code.misaligned) else (setDomains s b, Code.ok)

/-- A write of 4300:01: a context and its target of 20 bytes: address, UDP port, egress port, and a byte
with VALID and IPv6. -/
def targetByDict (s : State) (b : Bytes) : State × Status :=
  let c := ofLe (b.take 2)
  let flags := ofLe ((b.drop 21).take 1)
  let t : UdpTarget :=
    { address := ofLe ((b.drop 2).take 16), udpPort := ofLe ((b.drop 18).take 2)
      port := ofLe ((b.drop 20).take 1), ipv6 := flags / 2 == 1 }
  if b.length ≠ 22 ∨ 4095 < c ∨ 3 < flags ∨ 7 < t.port ∨ (t.ipv6 = false ∧ 2 ^ 32 ≤ t.address) then (s, Code.misaligned)
  else if namedCtxStatus s c ≠ Code.ok then (s, namedCtxStatus s c)
  else
    let m := if flags % 2 = 1 then tset s.eth.targets c t else tdel s.eth.targets c
    ({ s with eth := { s.eth with targets := m } }, Code.ok)

/-- A write of 4400:01: a slot number and its 54 bytes: context, key, address, prefix length, a byte
with VALID and IPv6, and proxy node; its window of SEQs is empty. -/
def doorbellByDict (s : State) (b : Bytes) : State × Status :=
  let slot := ofLe (b.take 1)
  let flags := ofLe ((b.drop 52).take 1)
  let d : Doorbell :=
    { ctx := ofLe ((b.drop 1).take 2), key := (b.drop 3).take 32, address := ofLe ((b.drop 35).take 16)
      prefixLen := ofLe ((b.drop 51).take 1), ipv6 := flags / 2 == 1, proxy := ofLe ((b.drop 53).take 2) }
  let bad := b.length != 55 || decide (4095 < d.ctx) || decide (3 < flags) || decide (4095 < d.proxy) ||
    decide ((if d.ipv6 then 128 else 32) < d.prefixLen) || (!d.ipv6 && decide (2 ^ 32 ≤ d.address))
  if bad then (s, Code.misaligned)
  else if namedCtxStatus s d.ctx ≠ Code.ok then (s, namedCtxStatus s d.ctx)
  else if flags % 2 = 0 then ({ s with eth := { s.eth with doorbells := tdel s.eth.doorbells slot } }, Code.ok)
  else ({ s with eth := { s.eth with doorbells := tset s.eth.doorbells slot d } }, Code.ok)

/-- A calibration block: five taps, or nothing, which removes it (R440). -/
def tapsByDict (s : State) (idx sub : Nat) (b : Bytes) : State × Status :=
  if b.isEmpty then ({ s with dict := { s.dict with blocks := tdel s.dict.blocks (idx * 256 + sub) } }, Code.ok)
  else if b.length ≠ 10 then (s, Code.misaligned)
  else (setBlock s idx sub b, Code.ok)

/-! ## The effect of an accepted write -/

/-- A live numeric write to a context's index. -/
def writeCtxNumber (s : State) (c sub v : Nat) : State × Status :=
  match sub with
  | 0x03 => control s c v
  | 0x22 => resumeByDict s c v
  | _ => (setReg s (ctxIdx c) sub v, Code.ok)

/-- A live numeric write (R435). -/
def writeNumber (s : State) (idx sub v : Nat) : State × Status :=
  if isCtxIdx idx then writeCtxNumber s (idx - 0x7000) sub v
  else
    match idx, sub with
    | 0x3C00, n => (writeDirection s (n - 1) v, Code.ok)
    | 0x2800, 0x01 => (limitTlb (setReg s idx sub v), Code.ok)
    | 0x3F00, 0x05 => (elect (setReg s idx sub v), Code.ok)
    | 0x3F00, 0x0D => ftStepByDict s v
    | 0x4200, 0x02 => destroyQp s v
    | 0x6000, 0x0C => (dropLines (setReg s idx sub v) fun _ _ => v == 0, Code.ok)
    | 0x8000, 0x03 => clearSummary s v
    | 0x8000, 0x05 => consumeFaults s v
    | 0x8100, 0x02 => fenceByDict s v
    | 0x8100, 0x07 => let r := replayByDict s v; (retryApplies r.1 v, r.2)
    | 0x9000, 0x01 => (limitByDict s v, Code.ok)
    | 0x9000, 0x10 => resetByDict s
    | 0xA000, 0x05 => updateCommand s v
    | _, _ => if 0xF000 ≤ idx then (setBlock s idx sub (leBytes 4 v), Code.ok) else (setReg s idx sub v, Code.ok)

/-- A live OCTET_STRING write. -/
def writeOctets (s : State) (idx sub : Nat) (b : Bytes) : State × Status :=
  if isCtxIdx idx then (writeOwner s (idx - 0x7000) b, Code.ok)
  else if idx = 0xA000 then
    if s.fw.operatorKey.isSome then (s, Code.locked) else (setFw s { s.fw with operatorKey := some b }, Code.ok)
  else (setBlock s idx sub b, Code.ok)

/-- The write of a whole DOMAIN value. -/
def writeBlock (s : State) (w : Who) (idx sub : Nat) (b : Bytes) : State × Answer :=
  if isCtxIdx idx then plainAnswer (writeGroupEntry s (idx - 0x7000) b)
  else if 0xE000 ≤ idx then plainAnswer (tapsByDict s idx sub b)
  else if idx / 4 = 0x800 then
    plainAnswer (match sub with
      | 0x20 => teeByDict s (idx - 0x2000) b
      | 0x22 => pushByDict s w (idx - 0x2000) b
      | _ => openFByDict s (idx - 0x2000) b)
  else
    match idx, sub with
    | 0x3D04, _ => plainAnswer (routesByDict s w b)
    | 0x4200, _ => createQp s w b
    | 0x4300, _ => plainAnswer (targetByDict s b)
    | 0x4400, _ => plainAnswer (doorbellByDict s b)
    | 0x8100, 0x03 => plainAnswer (rebuildByDict s b)
    | 0x8100, _ => plainAnswer (adoptByDict s b)
    | 0x8200, _ => plainAnswer (restoreByDict s b)
    | 0x8300, _ => plainAnswer (domainsByDict s b)
    | 0xA000, 0x08 => plainAnswer (loadTrust s b)
    | 0xA000, 0x09 => plainAnswer (loadMap s b)
    | 0xA000, _ => plainAnswer (loadPolicy s b)
    | _, _ => (s, answer Code.misaligned)

/-! ## Staging (R436, R438) -/

/-- A write goes to the entry's shadow. -/
def stageWrite (s : State) (w : Who) (idx sub group : Nat) (b : Bytes) : State × Status :=
  let k := idx * 256 + sub
  if thas s.dict.shadows k = false ∧ 1024 ≤ s.dict.shadows.length then (s, Code.quota)
  else
    (setShadows s (tset s.dict.shadows k
      { value := ofLe b, bytes := b, group := group, principal := w.principal, ctx := w.ctx }), Code.ok)

/-- A reset-class value waits for the next reset. -/
def holdForReset (s : State) (idx sub v : Nat) : State :=
  { s with dict := { s.dict with atReset := tset s.dict.atReset (idx * 256 + sub) v } }

/-- What a write that passed its checks does, by the entry's class (R435 to R438). -/
def acceptWrite (s : State) (w : Who) (e : Entry) (idx sub group : Nat) (b : Bytes) : State × Status :=
  if e.access = .rws then stageWrite s w idx sub group b
  else if e.atReset then (holdForReset s idx sub (ofLe b), Code.ok)
  else if e.ty.numeric then writeNumber s idx sub (ofLe b)
  else writeOctets s idx sub b

/-! ## DOMAIN transfers (R447) -/

/-- The value that segments give from offset 0 to a length, if no byte is missing; the segments are in
ascending order of offset. -/
def assemble (total : Nat) : Bytes → List (Nat × Bytes) → Option Bytes
  | acc, [] => if total ≤ acc.length then some (acc.take total) else none
  | acc, (o, b) :: rest =>
    if acc.length < o then none else assemble total (acc.take o ++ b ++ acc.drop (o + b.length)) rest

/-- The transfer that a session holds open for an entry. -/
def openTransfer (s : State) (id idx sub : Nat) : Transfer :=
  ((tget s.dict.sessions id).bind (·.transfer)).getD { idx := idx, sub := sub }

/-- The state with a session's transfer replaced. -/
def setTransfer (s : State) (id : Nat) (t : Option Transfer) : State := modSession s id fun x => { x with transfer := t }

/-- A segment of a DOMAIN write of a session. -/
def segmentWrite (s : State) (w : Who) (id idx sub offset : Nat) (last : Bool) (b : Bytes) : State × Answer :=
  if 1024 < b.length ∨ 2 ^ 20 < offset + b.length then (s, answer Code.misaligned)
  else
    let t := openTransfer s id idx sub
    let t := { t with segments := tset t.segments offset b }
    if !last then (setTransfer s id (some t), answer Code.ok)
    else
      let s := setTransfer s id none
      match assemble (offset + b.length) [] t.segments with
      | none => (s, answer Code.misaligned)
      | some v => guarded s w idx sub 0 fun s => writeBlock s w idx sub v

/-- A DOMAIN write: image segments are written as they come (R468); a session writes in segments, and
principal F writes whole values. -/
def writeDomain (s : State) (via : Via) (w : Who) (idx sub offset : Nat) (last : Bool) (b : Bytes) :
    State × Answer :=
  if otherTransfer s via idx sub then (s, answer Code.locked)
  else if idx = 0xA000 ∧ sub = 0x04 then guarded s w idx sub 0 fun s => plainAnswer (writeSegment s offset b)
  else match via with
  | .firmware =>
    if 2 ^ 20 < b.length then (s, answer Code.misaligned)
    else guarded s w idx sub 0 fun s => writeBlock s w idx sub b
  | .session id _ => segmentWrite s w id idx sub offset last b

/-- A WRITE with its checks (R434). -/
def dictWrite (s : State) (via : Via) (w : Who) (idx sub group offset : Nat) (last : Bool) (b : Bytes) :
    State × Answer :=
  match entryAt idx sub with
  | none => (s, answer (if b.length = 1 then writeStatus s w idx sub 0 else Code.misaligned))
  | some e =>
    if 255 < group ∨ (group ≠ 0 ∧ e.access ≠ .rws) then (s, answer Code.misaligned)
    else if e.ty = .domain then writeDomain s via w idx sub offset last b
    else if b.length ≠ e.ty.bytes.getD 0 then (s, answer Code.misaligned)
    else guarded s w idx sub (ofLe b) fun s => plainAnswer (acceptWrite s w e idx sub group b)

/-- DEXOL_WRITE. -/
def execDexolWrite (via : Via) (index sub group offset : Nat) (last : Bool) (data : Bytes) (s : State) : Out :=
  withVia s via fun s w => dictWrite s via w index sub group offset last data

end Sys2Proof.Machine
end

