-- ==== Sys2Proof/Machine/Dexol.lean ====
section
/-! DEFINITION. Dexol sessions (R441 to R445), COMMIT and DISCARD (R449) and subscriptions (R450,
R451). -/

namespace Sys2Proof.Machine

/-! ## OPEN (R442, R443) -/

/-- The name that OPEN signatures and key derivation begin with. -/
def dexolName : Bytes := ascii "KF4096 dexol"

/-- The OPEN datagram cut into its fields (Tables 5 and 7). -/
structure OpenFields where
  seq : Nat
  principal : Nat
  ctx : Nat
  nonce : Bytes
  ephemeral : Bytes
  key : Bytes
deriving DecidableEq, Repr

/-- The fields of an OPEN datagram of 180 bytes. -/
def openFields (d : Bytes) : OpenFields :=
  let b := d.drop 32
  { seq := ofLe ((d.drop 8).take 4), principal := ofLe (b.take 1) % 16, ctx := ofLe (b.take 2) / 16
    nonce := (b.drop 4).take 16, ephemeral := (b.drop 20).take 32, key := (b.drop 52).take 32 }

/-- Whether header and body keep the layout: VERSION 1, TYPE OPEN, SESSION 0, LENGTH 148, the rest
zero. -/
def openLayoutOk (d : Bytes) : Bool :=
  d.length == 180 && ofLe (d.take 8) == 0x0101 && ofLe ((d.drop 12).take 4) == 148 &&
    ofLe ((d.drop 16).take 16) == 0 && ofLe ((d.drop 34).take 2) == 0

/-- Whether a port carries Dexol: the management port, or one named in 1010:05 that runs (R441). -/
def carriesDexol (s : State) (port : Nat) : Bool :=
  port == 8 || (decide (port < 8) && ethUp s port && (reg s 0x1010 0x05).testBit port)

/-- Whether a key is the owner's of a context on network A (R349). -/
def admitsOwner (s : State) (port c : Nat) (key : Bytes) : Bool :=
  port != 8 && c != 0 && blockOf s (ctxIdx c) 0x21 == key && ofLe key != 0 &&
    ((policyField s c 40 1).map (· == 1)).getD true

/-- Whether an OPEN's key is admitted for its principal on a port (R433, R442). -/
def admitsOpen (s : State) (port : Nat) (f : OpenFields) : Bool :=
  match f.principal with
  | 0 => f.ctx == 0 && admitsT s port f.key
  | 1 => admitsOwner s port f.ctx f.key
  | 2 => f.ctx == 0 && port == 8 && role s == 3 && f.key == Config.factoryKey
  | _ => false

/-- An OPEN_REPLY datagram: it carries no HMAC, and IDENTITY signs it (Table 8). -/
def openReply (s : State) (d nonce ephemeral : Bytes) (status : Status) (id : Nat) : Bytes :=
  let b := [status] ++ leBytes 3 0 ++ leBytes 4 id ++ nonce ++ ephemeral ++ padTo 32 Config.identityKey
  let sig := Config.ed25519Sign Config.identitySecret (dexolName ++ d.drop 32 ++ b)
  dexolHeader s 0x02 id (openFields d).seq 152 true ++ b ++ padTo 64 sig

/-- A session with its keys derived (R443). -/
def newSession (s : State) (port : Nat) (address : Bytes) (f : OpenFields) (okm : Bytes) : Session :=
  { principal := f.principal, ctx := f.ctx, port := port, address := address, key := f.key
    encClient := okm.take 32, encPart := (okm.drop 32).take 32, mac := (okm.drop 64).take 64
    highest := f.seq, heard := s.now }

/-- The number of a new session: none in use, and not 0 (R442). -/
def freeSession (s : State) : Nat :=
  1 + (pickBelow (fun i => !thas s.dict.sessions (i + 1)) (2 ^ 32 - 1) s.fresh).getD 0

/-- An admitted OPEN is answered with a new session, or with QUOTA. -/
def answerOpen (s : State) (port : Nat) (address d secret nonce shared : Bytes) : State :=
  let f := openFields d
  let pub := Config.x25519Base secret
  if reg s 0x1010 0x02 ≤ s.dict.sessions.length then
    dexolOut s port 0 address (openReply s d nonce pub Code.quota 0)
  else
    let id := freeSession s
    let okm := Config.hkdfSha512 (f.nonce ++ nonce) shared (dexolName ++ leBytes 4 id) 128
    let r := openReply s d nonce pub Code.ok id
    let x := { newSession s port address f okm with replies := [(f.seq, r)] }
    dexolOut (setSessions (draw s) (tset s.dict.sessions id x)) port id address r

/-- OPEN: an OPEN that breaks the layout, is not signed by its key, is not admitted or gives an all-zero
secret is discarded without reply and counted. -/
def execOpenSession (port : Nat) (address datagram : Bytes) (s : State) : Out :=
  if s.pwr.pwrOk = false then .next s
  else
    let f := openFields datagram
    let signed := dexolName ++ datagram.take 116
    if !openLayoutOk datagram || !carriesDexol s port || !admitsOpen s port f ||
        !Config.ed25519Verify f.key signed ((datagram.drop 116).take 64) then .next (discardDatagram s)
    else
      let (n, s) := drawn s
      let (m, s) := drawn s
      let secret := Config.randomBytes n 32
      let shared := Config.x25519 secret f.ephemeral
      if shared.all (· == 0) then .next (discardDatagram s)
      else .next (answerOpen s port address datagram secret (padTo 16 (Config.randomBytes m 16)) shared)

/-! ## CLOSE, KEEPALIVE and timeouts (R444, R445) -/

/-- Whether a request is new to its session. -/
def isNew (s : State) (id seq : Nat) : Bool :=
  match tget s.dict.sessions id with
  | none => false
  | some x => x.seqCase seq == .new

/-- CLOSE: answered, and the session is gone. -/
def execClose (id seq : Nat) (s : State) : Out :=
  let t := withSession s id seq fun s _ => (s, answer Code.ok)
  .next (if isNew s id seq then closeSession t id else t)

/-- KEEPALIVE. -/
def execKeepalive (id seq : Nat) (s : State) : Out := .next (withSession s id seq fun s _ => (s, answer Code.ok))

/-- SESSION_IDLE_TIMEOUT: no valid datagram for 1010:03. -/
def execSessionIdleTimeout (id : Nat) (s : State) : Out :=
  match tget s.dict.sessions id with
  | none => .next s
  | some x => .next (if passedMs s x.heard (reg s 0x1010 0x03) then closeSession s id else s)

/-- DEXOL_DATAGRAM_DISCARD. -/
def execDexolDatagramDiscard (s : State) : Out := .next (discardDatagram s)

/-! ## COMMIT and DISCARD (R449) -/

/-- The scope that ARG selects for a principal: a context, or the status of its refusal. -/
def scopeOf (w : Who) (scope : Option Nat) : Except Status Nat :=
  match scope with
  | none => .ok (if w.principal = 1 then w.ctx else 0)
  | some c =>
    if 4095 < c then .error Code.misaligned
    else if w.principal = 1 ∧ c ≠ w.ctx then .error Code.protection
    else .ok c

/-- One apply: its status is that of the first shadow refused, and DETAIL counts those applied. -/
def commitByDict (s : State) (w : Who) (group : Nat) (scope : Option Nat) : State × Answer :=
  if 255 < group then (s, answer Code.misaligned)
  else match scopeOf w scope with
    | .error st => (s, answer st)
    | .ok c =>
      let (s, good, refused) := applyShadows s c group
      (s, { status := if refused = 0 then Code.ok else Code.misaligned, detail := good })

/-- COMMIT. -/
def execCommit (via : Via) (group : Nat) (scope : Option Nat) (s : State) : Out :=
  withVia s via fun s w => commitByDict s w group scope

/-- Pending shadows are removed; DETAIL counts them. -/
def discardByDict (s : State) (w : Who) (group : Nat) (scope : Option Nat) : State × Answer :=
  if 255 < group then (s, answer Code.misaligned)
  else match scopeOf w scope with
    | .error st => (s, answer st)
    | .ok c =>
      let t := dropShadows s c group
      (t, { detail := s.dict.shadows.length - t.dict.shadows.length })

/-- DISCARD. -/
def execDiscard (via : Via) (group : Nat) (scope : Option Nat) (s : State) : Out :=
  withVia s via fun s w => discardByDict s w group scope

/-! ## Subscriptions (R450, R451) -/

/-- Subscriptions of the part. -/
def subsHeld (s : State) : Nat := s.dict.sessions.foldl (fun n x => n + x.2.subs.length) 0

/-- The effective value that a subscription watches. -/
def watchedValue (s : State) (idx sub : Nat) : Bytes :=
  if sub = 0 then leBytes 1 (highestSub idx)
  else match entryAt idx sub with
  | none => []
  | some e => if 0xE000 ≤ idx then (calibratedValues s (idx % 0x1000) sub).headD [] else (readEffective s {} e idx sub []).2

/-- Whether an entry may be subscribed to: it exists, can be read, and takes no key. -/
def mayWatch (idx sub : Nat) : Bool :=
  if sub = 0 then indexExists idx
  else match entryAt idx sub with
  | none => false
  | some e => e.access != .wo && keyBytes idx sub == 0

/-- The checks of a SUBSCRIBE. -/
def subscribeStatus (s : State) (w : Who) (x : Session) (subId idx sub : Nat) (periodic : Bool) (period : Nat) :
    Status :=
  let fresh := !thas x.subs subId
  firstOf
    [ (!mayWatch idx sub || decide (255 < subId) || (periodic && (decide (period < 10) || decide (60000 < period))),
        Code.misaligned)
    , (!mayRead w idx, Code.protection)
    , (fresh && (decide (64 ≤ x.subs.length) || decide (512 ≤ subsHeld s)), Code.quota) ]

/-- The first SEQ that a subscription to 8000:04 sends: that of the queue's head. -/
def headSeq (s : State) : Nat := ((s.recov.faults.head?).map (·.seq)).getD (reg s 0x8000 0x06)

/-- SUBSCRIBE. -/
def execSubscribe (id seq subId index sub : Nat) (periodic : Bool) (period : Nat) (s : State) : Out :=
  .next <| withSession s id seq fun s x =>
    let st := subscribeStatus s { principal := x.principal, ctx := x.ctx } x subId index sub periodic period
    if st ≠ Code.ok then (s, answer st)
    else
      let y : Subscription :=
        { idx := index, sub := sub, periodic := periodic, period := period, since := s.now
          lastValue := watchedValue s index sub, nextFault := headSeq s }
      (modSession s id fun x => { x with subs := tset x.subs subId y }, answer Code.ok)

/-- UNSUBSCRIBE. -/
def execUnsubscribe (id seq subId : Nat) (s : State) : Out :=
  .next <| withSession s id seq fun s _ =>
    (modSession s id fun x => { x with subs := tdel x.subs subId }, answer Code.ok)

/-- Whether a SEQ of the fault queue comes at or after another, modulo 2^32. -/
def seqFrom (a b : Nat) : Bool := decide ((a + 2 ^ 32 - b % 2 ^ 32) % 2 ^ 32 < 2 ^ 31)

/-- The fault records a subscription sends next: up to 16 from its place in the queue. -/
def unsentFaults (s : State) (y : Subscription) : List FaultRec :=
  (s.recov.faults.filter fun f => seqFrom f.seq y.nextFault).take 16

/-- Whether a subscription watches the fault queue. -/
def Subscription.ofFaults (y : Subscription) : Bool := y.idx == 0x8000 && y.sub == 0x04

/-- Whether a NOTIFY is due: its period has passed, or its value has changed and 1010:06 has passed
since the last. -/
def notifyDue (s : State) (y : Subscription) : Bool :=
  if y.periodic then passedMs s (y.lastSent.getD y.since) y.period
  else
    (match y.lastSent with
      | none => true
      | some t => passedUs s t (reg s 0x1010 0x06)) &&
    (if y.ofFaults then !(unsentFaults s y).isEmpty else watchedValue s y.idx y.sub != y.lastValue)

/-- The NOTIFY body (Table 11). -/
def notifyBody (s : State) (subId : Nat) (y : Subscription) : Bytes :=
  let fs := unsentFaults s y
  let v := if y.ofFaults then fs.flatMap FaultRec.block else (watchedValue s y.idx y.sub).take 1368
  leBytes 2 subId ++ leBytes 2 v.length ++ leBytes 2 y.idx ++ leBytes 1 y.sub ++
    leBytes 1 (if y.ofFaults then fs.length else 0) ++ v

/-- A subscription after a NOTIFY of it. -/
def noteSent (s : State) (y : Subscription) : Subscription :=
  let next := match (unsentFaults s y).getLast? with
    | some f => (f.seq + 1) % 2 ^ 32
    | none => y.nextFault
  { y with lastSent := some s.now, lastValue := watchedValue s y.idx y.sub, nextFault := next }

/-- NOTIFY: a due subscription sends its value, numbered by the session's count. -/
def execNotify (id subscription : Nat) (s : State) : Out :=
  match tget s.dict.sessions id with
  | none => .next s
  | some x =>
    match tget x.subs subscription with
    | none => .next s
    | some y =>
      if notifyDue s y = false then .next s
      else
        let n := (x.notified + 1) % 2 ^ 32
        let d := dexolSealed s x id 0x22 n 2 (notifyBody s subscription y)
        .next (dexolOut (modSession s id fun x =>
          { x with notified := n, subs := tset x.subs subscription (noteSent s y) }) x.port id x.address d)

end Sys2Proof.Machine
end

