-- ==== Sys2Proof/Machine/Replies.lean ====
section
/-! DEFINITION. Replies to the part's own requests, their re-sends and their end (R165 to R167,
R176, R507), and what expires at the target (R161, R164, R169). -/

namespace Sys2Proof.Machine

/-! ## Replies -/

/-- Whether a request is answered by an ACK when it succeeds. -/
def wantsAck (op : Nat) : Bool := op != 0x01 && !isAtomicOp op && op != 0x45 && op != 0x46

/-- A final reply of a status reaches one request: a reserved status leaves a record (R176). -/
def takeFinal (s : State) (p : Packet) (key : Nat) (r : Req) (status : Status) (detail : BitVec 64)
    (data : Bytes) : State :=
  let s := if 0x0E ≤ status.toNat then
      raise s { cls := 0x12, quarter := some (issuerQuarter p.srcQueue), status := status
                ctx := some r.pkt.ctx, node := some p.src }
    else s
  finalReq s key r status detail data

/-- The outstanding request that a reply names. -/
def reqFor (s : State) (p : Packet) (back : Nat) : Option (Nat × Req) :=
  let key := reqKey p.src p.srcQueue ((p.seq + 2 ^ 24 - back) % 2 ^ 24)
  (tget s.net.reqs key).map fun r => (key, r)

/-- A reply with a non-zero reserved field is not performed: the request it names completes with
MISALIGNED (R5; DEDUCED, log entry 33: the operation that R5 completes is that request). -/
def badReply (s : State) (p : Packet) : State :=
  match reqFor s p 0 with
  | some (key, r) => finalReq s key r Code.misaligned 0 []
  | none => s

/-- A reply that is to be looked at: its class fits its opcode and it is for this part; the state
has learnt the responder's incarnation (R157, R507). -/
def replyIn (s : State) (p : Packet) (k : State → State) : Out :=
  if p.isData != isDataOp p.op then .next (bump s 0x3E00 0x0C)
  else if p.dst ≠ nodeId s then .next s
  else if !p.crcOk then .next (bump s 0x3E00 0x09)
  else if p.dstInc ≠ ownInc s then .next (learnInc s p.src p.srcInc)
  else if replyMalformed p then .next (settle (badReply (learnInc s p.src p.srcInc) p))
  else .next (settle (k (learnInc s p.src p.srcInc)))

/-- An ACK of status OK makes the requests of its RUN final, lowest first (R150, R169). -/
def ackRun (s : State) (p : Packet) (detail : BitVec 64) : State :=
  (List.range (max 1 (bits p.ext 16 10))).reverse.foldl (fun s back =>
    match reqFor s p back with
    | some (key, r) =>
      if wantsAck r.pkt.op then takeFinal s p key r Code.ok (if back = 0 then detail else 0) [] else s
    | none => s) s

/-- ACK. -/
def execAck (p : Packet) (s : State) : Out :=
  replyIn s p fun s =>
    let status : Status := p.ext.extractLsb' 0 8
    let detail := p.ext.extractLsb' 64 64
    if status = Code.ok then ackRun s p detail
    else match reqFor s p 0 with
      | some (key, r) => takeFinal s p key r status detail []
      | none => s

/-- NACK: CHECK and unlisted reasons are re-sent at once and count; the others wait 1 µs ·
2^(n−1), at most T (R166). -/
def execNack (p : Packet) (s : State) : Out :=
  replyIn s p fun s =>
    match reqFor s p 0 with
    | none => s
    | some (key, r) =>
      let reason := bits p.ext 8 8
      if 2 ≤ reason ∧ reason ≤ 5 then
        let n := r.nacks + 1
        let wait := min (resendTime s r.pkt.dst) (2 ^ (n - 1))
        let r := { r with nacks := n, drewOther := true, backoff := some (s.now, wait) }
        { s with net := { s.net with reqs := tset s.net.reqs key r } }
      else
        let r := { r with nacks := r.nacks + 1, drewCheck := true }
        if r.resends < reg s 0x3E00 0x03 then resend s key { r with resends := r.resends + 1 }
        else { s with net := { s.net with reqs := tset s.net.reqs key r } }

/-- A reply that carries a value reaches its request, if it is of a kind that it answers. -/
def valueReply (s : State) (p : Packet) (answers : Nat → Bool) (status : Status) (detail : BitVec 64)
    (data : Bytes) : State :=
  match reqFor s p 0 with
  | some (key, r) => if answers r.pkt.op then takeFinal s p key r status detail data else s
  | none => s

/-- ATOMIC_REPLY: of a CAS128 it answers only a copy whose entry was freed (R163). -/
def execAtomicReply (p : Packet) (s : State) : Out :=
  replyIn s p fun s =>
    valueReply s p (fun op => isAtomicOp op || op == 0x45 || (op == 0x46 && bits p.ext 0 8 != 0)) (p.ext.extractLsb' 0 8)
      (p.ext.extractLsb' 64 64) (leBytes 8 (bits p.ext 64 64))

/-- READ_REPLY. -/
def execReadReply (p : Packet) (s : State) : Out :=
  replyIn s p fun s => valueReply s p (fun op => op == 0x01) p.dataStatus 0 p.data

/-- CAS128_REPLY. -/
def execCas128Reply (p : Packet) (s : State) : Out :=
  replyIn s p fun s => valueReply s p (fun op => op == 0x46) p.dataStatus 0 p.data

/-! ## Timers of requests -/

/-- An outstanding request by target, issuing queue and SEQ. -/
def outstanding (s : State) (node srcQueue seq : Nat) : Option Req :=
  tget s.net.reqs (reqKey node srcQueue seq)

/-- RESEND_TIMER_EXPIRE: T has passed since the last copy, and fewer than 3E00:03 re-sends have counted; a
back-off in force goes on (R165). -/
def execResendTimerExpire (node srcQueue seq : Nat) (s : State) : Out :=
  match outstanding s node srcQueue seq with
  | none => .next s
  | some r =>
    if passedUs s r.timerFrom (resendTime s node) = true ∧ r.due = false ∧
        r.resends < reg s 0x3E00 0x03 then
      .next (resend s (reqKey node srcQueue seq) { r with resends := r.resends + 1 })
    else .next s

/-- NACK_BACKOFF_EXPIRE: the re-send does not count (R166). -/
def execNackBackoffExpire (node srcQueue seq : Nat) (s : State) : Out :=
  match outstanding s node srcQueue seq with
  | none => .next s
  | some r =>
    match r.backoff with
    | none => .next s
    | some (t, wait) =>
      if passedUs s t wait then .next (resend s (reqKey node srcQueue seq) { r with backoff := none }) else .next s

/-- The status of a request without a final reply 8T after its first send (R167). -/
def giveUpStatus (r : Req) : Status :=
  if r.drewCheck && !r.drewOther then Code.integrity
  else if r.drewOther && !r.drewCheck then Code.timeout
  else unreachableStatus r.pkt.op

/-- REQUEST_GIVE_UP. -/
def execRequestGiveUp (node srcQueue seq : Nat) (s : State) : Out :=
  match outstanding s node srcQueue seq with
  | none => .next s
  | some r =>
    if passedUs s r.firstSent (8 * resendTime s node) then
      .next (settle (finalReq s (reqKey node srcQueue seq) r (giveUpStatus r) 0 []))
    else .next s

/-! ## Expiry at the target -/

/-- ACK_MERGE_EXPIRE (R169). -/
def execAckMergeExpire (src srcQueue : Nat) (s : State) : Out :=
  .next ((s.net.acks.filter fun x =>
    x.2.last.src == src && x.2.last.srcQueue == srcQueue && passedNs s x.2.since (reg s 0x3E00 0x05)).foldl
      (fun s x => flushAck s x.1) s)

/-- FLOW_RECORD_EXPIRE: a record idle for the hold time, with nothing in progress, is freed
(R161). -/
def execFlowRecordExpire (src srcQueue srcInc : Nat) (s : State) : Out :=
  let k := flowKey src srcQueue srcInc
  match tget s.net.flows k with
  | none => .next s
  | some f =>
    if passedUs s f.used (reg s 0x3E00 0x04) = true ∧ f.busy = [] then
      .next { s with net := { s.net with flows := tdel s.net.flows k } }
    else .next s

/-- RESULT_ENTRY_EXPIRE (R164). -/
def execResultEntryExpire (src srcQueue srcInc seq : Nat) (s : State) : Out :=
  let k := resultKey (flowKey src srcQueue srcInc) seq
  match tget s.net.results k with
  | none => .next s
  | some e =>
    if passedUs s e.since (reg s 0x3E00 0x04) then
      .next { s with net := { s.net with results := tdel s.net.results k } }
    else .next s

end Sys2Proof.Machine
end

