-- ==== Sys2Proof/Machine/Dispatch.lean ====
section
/-! DEFINITION. The meaning of every command, one arm per constructor. -/

namespace Sys2Proof.Machine

def exec (i : Instr) (s : State) : Host.Outcome State Fault Refusal :=
  match i with
  | .ftTickFireTee cycles => Sys2Proof.Machine.execFtTickFireTee cycles s
  | .beaconSend port => Sys2Proof.Machine.execBeaconSend port s
  | .timeBeacon port pkt => Sys2Proof.Machine.execTimeBeacon port pkt s
  | .ftLockReached => Sys2Proof.Machine.execFtLockReached s
  | .ftOffsetLimitExceeded => Sys2Proof.Machine.execFtOffsetLimitExceeded s
  | .parentLost => Sys2Proof.Machine.execParentLost s
  | .holdoverHuddleLimit => Sys2Proof.Machine.execHoldoverHuddleLimit s
  | .announceSend => Sys2Proof.Machine.execAnnounceSend s
  | .timeAnnounce port pkt => Sys2Proof.Machine.execTimeAnnounce port pkt s
  | .taiStepMaster => Sys2Proof.Machine.execTaiStepMaster s
  | .externalLockGained => Sys2Proof.Machine.execExternalLockGained s
  | .ppsEdge => Sys2Proof.Machine.execPpsEdge s
  | .ftStepCommand via value => Sys2Proof.Machine.execFtStepCommand via value s
  | .armTee d => Sys2Proof.Machine.execArmTee d s
  | .disarmTee d => Sys2Proof.Machine.execDisarmTee d s
  | .teeArmDict via quarter data => Sys2Proof.Machine.execTeeArmDict via quarter data s
  | .teeDisarmDict via quarter data => Sys2Proof.Machine.execTeeDisarmDict via quarter data s
  | .huddleArm d => Sys2Proof.Machine.execHuddleArm d s
  | .huddleArrive d => Sys2Proof.Machine.execHuddleArrive d s
  | .huddleArrivePacket pkt => Sys2Proof.Machine.execHuddleArrivePacket pkt s
  | .huddleRelease pkt => Sys2Proof.Machine.execHuddleRelease pkt s
  | .huddleRootTimeout ctx no => Sys2Proof.Machine.execHuddleRootTimeout ctx no s
  | .huddleReleaseTimeout ctx no => Sys2Proof.Machine.execHuddleReleaseTimeout ctx no s
  | .map d => Sys2Proof.Machine.execMap d s
  | .unmap d => Sys2Proof.Machine.execUnmap d s
  | .unmapDrainEnd d => Sys2Proof.Machine.execUnmapDrainEnd d s
  | .unmapWaitLimit d => Sys2Proof.Machine.execUnmapWaitLimit d s
  | .walkComplete quarter => Sys2Proof.Machine.execWalkComplete quarter s
  | .openWindow d => Sys2Proof.Machine.execOpenWindow d s
  | .closeWindow d => Sys2Proof.Machine.execCloseWindow d s
  | .reservationExpire quarter id => Sys2Proof.Machine.execReservationExpire quarter id s
  | .descriptorDispatch quarter ctx queue => Sys2Proof.Machine.execDescriptorDispatch quarter ctx queue s
  | .descriptorComplete d => Sys2Proof.Machine.execDescriptorComplete d s
  | .nop d => Sys2Proof.Machine.execNop d s
  | .waitFlag d => Sys2Proof.Machine.execWaitFlag d s
  | .waitFlagTimeout d => Sys2Proof.Machine.execWaitFlagTimeout d s
  | .startPlay d => Sys2Proof.Machine.execStartPlay d s
  | .loadPlay d => Sys2Proof.Machine.execLoadPlay d s
  | .armPlay d => Sys2Proof.Machine.execArmPlay d s
  | .disarmPlay d => Sys2Proof.Machine.execDisarmPlay d s
  | .playAppend ctx play => Sys2Proof.Machine.execPlayAppend ctx play s
  | .whistle d => Sys2Proof.Machine.execWhistle d s
  | .openQueue d => Sys2Proof.Machine.execOpenQueue d s
  | .closeQueue d => Sys2Proof.Machine.execCloseQueue d s
  | .resumeQueue d => Sys2Proof.Machine.execResumeQueue d s
  | .openRing d => Sys2Proof.Machine.execOpenRing d s
  | .closeRing d => Sys2Proof.Machine.execCloseRing d s
  | .coalesceTimeout ctx ring queue => Sys2Proof.Machine.execCoalesceTimeout ctx ring queue s
  | .ringHeadReread ctx ring => Sys2Proof.Machine.execRingHeadReread ctx ring s
  | .copy d => Sys2Proof.Machine.execCopy d s
  | .fill d => Sys2Proof.Machine.execFill d s
  | .cacheLineExpire quarter cls ctx name => Sys2Proof.Machine.execCacheLineExpire quarter cls ctx name s
  | .flagHoldTimeout quarter src srcQueue seq => Sys2Proof.Machine.execFlagHoldTimeout quarter src srcQueue seq s
  | .readReq pkt => Sys2Proof.Machine.execReadReq pkt s
  | .probe pkt => Sys2Proof.Machine.execProbe pkt s
  | .write inPort pkt => Sys2Proof.Machine.execWrite inPort pkt s
  | .flaggedWrite inPort pkt => Sys2Proof.Machine.execFlaggedWrite inPort pkt s
  | .queuePush inPort pkt => Sys2Proof.Machine.execQueuePush inPort pkt s
  | .reduceContrib inPort pkt => Sys2Proof.Machine.execReduceContrib inPort pkt s
  | .atomic pkt => Sys2Proof.Machine.execAtomic pkt s
  | .cas64 inPort pkt => Sys2Proof.Machine.execCas64 inPort pkt s
  | .cas128 inPort pkt => Sys2Proof.Machine.execCas128 inPort pkt s
  | .relayWrite inPort pkt => Sys2Proof.Machine.execRelayWrite inPort pkt s
  | .relayFlaggedWrite inPort pkt => Sys2Proof.Machine.execRelayFlaggedWrite inPort pkt s
  | .reservedOpcodePacket pkt => Sys2Proof.Machine.execReservedOpcodePacket pkt s
  | .ack pkt => Sys2Proof.Machine.execAck pkt s
  | .nack pkt => Sys2Proof.Machine.execNack pkt s
  | .atomicReply pkt => Sys2Proof.Machine.execAtomicReply pkt s
  | .readReply pkt => Sys2Proof.Machine.execReadReply pkt s
  | .cas128Reply pkt => Sys2Proof.Machine.execCas128Reply pkt s
  | .resendTimerExpire node srcQueue seq => Sys2Proof.Machine.execResendTimerExpire node srcQueue seq s
  | .nackBackoffExpire node srcQueue seq => Sys2Proof.Machine.execNackBackoffExpire node srcQueue seq s
  | .requestGiveUp node srcQueue seq => Sys2Proof.Machine.execRequestGiveUp node srcQueue seq s
  | .ackMergeExpire src srcQueue => Sys2Proof.Machine.execAckMergeExpire src srcQueue s
  | .flowRecordExpire src srcQueue srcInc => Sys2Proof.Machine.execFlowRecordExpire src srcQueue srcInc s
  | .resultEntryExpire src srcQueue srcInc seq => Sys2Proof.Machine.execResultEntryExpire src srcQueue srcInc seq s
  | .packetRoute port fifo => Sys2Proof.Machine.execPacketRoute port fifo s
  | .cellAdmit port fifo middle => Sys2Proof.Machine.execCellAdmit port fifo middle s
  | .cellToOutput middle output => Sys2Proof.Machine.execCellToOutput middle output s
  | .spillFetch middle output => Sys2Proof.Machine.execSpillFetch middle output s
  | .packetTransmit port => Sys2Proof.Machine.execPacketTransmit port s
  | .flowRefresh port => Sys2Proof.Machine.execFlowRefresh port s
  | .flowWord port word => Sys2Proof.Machine.execFlowWord port word s
  | .portLoadSample => Sys2Proof.Machine.execPortLoadSample s
  | .congNote pkt => Sys2Proof.Machine.execCongNote pkt s
  | .limiterIncrease srcQueue => Sys2Proof.Machine.execLimiterIncrease srcQueue s
  | .groupArm d => Sys2Proof.Machine.execGroupArm d s
  | .groupDisarm d => Sys2Proof.Machine.execGroupDisarm d s
  | .contribute d => Sys2Proof.Machine.execContribute d s
  | .roundWait d => Sys2Proof.Machine.execRoundWait d s
  | .roundWaitTimeout d => Sys2Proof.Machine.execRoundWaitTimeout d s
  | .roundEnd ctx group => Sys2Proof.Machine.execRoundEnd ctx group s
  | .segmentFeed ctx group segment => Sys2Proof.Machine.execSegmentFeed ctx group segment s
  | .duplicateCheckDone check verdict => Sys2Proof.Machine.execDuplicateCheckDone check verdict s
  | .streamArm d => Sys2Proof.Machine.execStreamArm d s
  | .streamDisarm d => Sys2Proof.Machine.execStreamDisarm d s
  | .stepApply d => Sys2Proof.Machine.execStepApply d s
  | .applyComplete d => Sys2Proof.Machine.execApplyComplete d s
  | .ledgerArm d => Sys2Proof.Machine.execLedgerArm d s
  | .parityArm d => Sys2Proof.Machine.execParityArm d s
  | .ledgerAbort d => Sys2Proof.Machine.execLedgerAbort d s
  | .ledgerResolve d => Sys2Proof.Machine.execLedgerResolve d s
  | .emitCommitted d => Sys2Proof.Machine.execEmitCommitted d s
  | .parityComplete ctx => Sys2Proof.Machine.execParityComplete ctx s
  | .arenaArm d => Sys2Proof.Machine.execArenaArm d s
  | .arenaDisarm d => Sys2Proof.Machine.execArenaDisarm d s
  | .tilePack d => Sys2Proof.Machine.execTilePack d s
  | .tileUnpack d => Sys2Proof.Machine.execTileUnpack d s
  | .tileMove d => Sys2Proof.Machine.execTileMove d s
  | .tileFree d => Sys2Proof.Machine.execTileFree d s
  | .tileStat d => Sys2Proof.Machine.execTileStat d s
  | .compactionMove ctx arena tile => Sys2Proof.Machine.execCompactionMove ctx arena tile s
  | .backgroundZeroFill pa => Sys2Proof.Machine.execBackgroundZeroFill pa s
  | .patrolScrub pa outcome => Sys2Proof.Machine.execPatrolScrub pa outcome s
  | .caddieArm d => Sys2Proof.Machine.execCaddieArm d s
  | .caddieDisarm d => Sys2Proof.Machine.execCaddieDisarm d s
  | .caddieWait d => Sys2Proof.Machine.execCaddieWait d s
  | .caddieWaitTimeout d => Sys2Proof.Machine.execCaddieWaitTimeout d s
  | .caddieFlush d => Sys2Proof.Machine.execCaddieFlush d s
  | .caddieEntryStart quarter ctx stream => Sys2Proof.Machine.execCaddieEntryStart quarter ctx stream s
  | .caddieEntryLand quarter ctx stream entry => Sys2Proof.Machine.execCaddieEntryLand quarter ctx stream entry s
  | .caddieDeadlineMiss quarter ctx stream entry => Sys2Proof.Machine.execCaddieDeadlineMiss quarter ctx stream entry s
  | .contextCreate via ctx => Sys2Proof.Machine.execContextCreate via ctx s
  | .contextTeardown via ctx => Sys2Proof.Machine.execContextTeardown via ctx s
  | .contextReset via ctx => Sys2Proof.Machine.execContextReset via ctx s
  | .teardownDrainEnd ctx => Sys2Proof.Machine.execTeardownDrainEnd ctx s
  | .teardownDrainLimit ctx => Sys2Proof.Machine.execTeardownDrainLimit ctx s
  | .clearPhaseEnd ctx => Sys2Proof.Machine.execClearPhaseEnd ctx s
  | .queueResumeDict via ctx queue => Sys2Proof.Machine.execQueueResumeDict via ctx queue s
  | .groupEntryWrite via ctx data => Sys2Proof.Machine.execGroupEntryWrite via ctx data s
  | .nodeLossTimeout node => Sys2Proof.Machine.execNodeLossTimeout node s
  | .fenceNotice port pkt => Sys2Proof.Machine.execFenceNotice port pkt s
  | .fenceNoticeRepeat node => Sys2Proof.Machine.execFenceNoticeRepeat node s
  | .fenceCommand via node => Sys2Proof.Machine.execFenceCommand via node s
  | .lastGasp port pkt => Sys2Proof.Machine.execLastGasp port pkt s
  | .gaspMarkExpire node => Sys2Proof.Machine.execGaspMarkExpire node s
  | .powerWarning => Sys2Proof.Machine.execPowerWarning s
  | .powerStopIssue => Sys2Proof.Machine.execPowerStopIssue s
  | .powerStopAbandon => Sys2Proof.Machine.execPowerStopAbandon s
  | .powerWarningClear => Sys2Proof.Machine.execPowerWarningClear s
  | .rebuildStart via data => Sys2Proof.Machine.execRebuildStart via data s
  | .rebuildRecordDone ctx record => Sys2Proof.Machine.execRebuildRecordDone ctx record s
  | .adoptInnings via data => Sys2Proof.Machine.execAdoptInnings via data s
  | .inningsReplay via ctx => Sys2Proof.Machine.execInningsReplay via ctx s
  | .faultRecordsConsume via count => Sys2Proof.Machine.execFaultRecordsConsume via count s
  | .faultSummaryClear via value => Sys2Proof.Machine.execFaultSummaryClear via value s
  | .suspectDecay => Sys2Proof.Machine.execSuspectDecay s
  | .unitRestore via value => Sys2Proof.Machine.execUnitRestore via value s
  | .commaLock port lane => Sys2Proof.Machine.execCommaLock port lane s
  | .serveMessageSend port => Sys2Proof.Machine.execServeMessageSend port s
  | .serveMessage port lane message => Sys2Proof.Machine.execServeMessage port lane message s
  | .serveTimeout port => Sys2Proof.Machine.execServeTimeout port s
  | .trainingFrame port lane request status satisfied => Sys2Proof.Machine.execTrainingFrame port lane request status satisfied s
  | .equaliseTimeout port => Sys2Proof.Machine.execEqualiseTimeout port s
  | .alignBlock port lane word block sinceBad skew => Sys2Proof.Machine.execAlignBlock port lane word block sinceBad skew s
  | .lockTimeout port => Sys2Proof.Machine.execLockTimeout port s
  | .linkFrame port word body tag => Sys2Proof.Machine.execLinkFrame port word body tag s
  | .capFragment port pkt => Sys2Proof.Machine.execCapFragment port pkt s
  | .capFragmentTimeout port message => Sys2Proof.Machine.execCapFragmentTimeout port message s
  | .capMessageRepeat port => Sys2Proof.Machine.execCapMessageRepeat port s
  | .hello port => Sys2Proof.Machine.execHello port s
  | .confirm port => Sys2Proof.Machine.execConfirm port s
  | .resume port => Sys2Proof.Machine.execResume port s
  | .ready port => Sys2Proof.Machine.execReady port s
  | .capabilityTimeout port => Sys2Proof.Machine.execCapabilityTimeout port s
  | .heldBackoffEnd port => Sys2Proof.Machine.execHeldBackoffEnd port s
  | .lossOfSignal port lane => Sys2Proof.Machine.execLossOfSignal port lane s
  | .alignMissing port lane => Sys2Proof.Machine.execAlignMissing port lane s
  | .uncorrectableLimit port lane count => Sys2Proof.Machine.execUncorrectableLimit port lane count s
  | .tagFailureLimit port => Sys2Proof.Machine.execTagFailureLimit port s
  | .symbolErrorLimit port lane => Sys2Proof.Machine.execSymbolErrorLimit port lane s
  | .recoveryNotice port => Sys2Proof.Machine.execRecoveryNotice port s
  | .recoverEnd port => Sys2Proof.Machine.execRecoverEnd port s
  | .rdmaWrite pkt => Sys2Proof.Machine.execRdmaWrite pkt s
  | .rdmaWritePush pkt => Sys2Proof.Machine.execRdmaWritePush pkt s
  | .rdmaRead pkt => Sys2Proof.Machine.execRdmaRead pkt s
  | .sendWithImmediate pkt => Sys2Proof.Machine.execSendWithImmediate pkt s
  | .fetchAdd pkt => Sys2Proof.Machine.execFetchAdd pkt s
  | .compareSwap pkt => Sys2Proof.Machine.execCompareSwap pkt s
  | .roceUnsupportedOpcode pkt => Sys2Proof.Machine.execRoceUnsupportedOpcode pkt s
  | .roceRequesterResponse qpn psn reply => Sys2Proof.Machine.execRoceRequesterResponse qpn psn reply s
  | .roceRequesterTimeout qpn => Sys2Proof.Machine.execRoceRequesterTimeout qpn s
  | .congestionNotification qpn => Sys2Proof.Machine.execCongestionNotification qpn s
  | .queuePairCreate via data => Sys2Proof.Machine.execQueuePairCreate via data s
  | .queuePairDestroy via qpn => Sys2Proof.Machine.execQueuePairDestroy via qpn s
  | .udpDoorbell port source data => Sys2Proof.Machine.execUdpDoorbell port source data s
  | .ptpMessage port domain message => Sys2Proof.Machine.execPtpMessage port domain message s
  | .ptpAnnounceTimeout => Sys2Proof.Machine.execPtpAnnounceTimeout s
  | .ethernetLinkUp port rate => Sys2Proof.Machine.execEthernetLinkUp port rate s
  | .arpRequest port address => Sys2Proof.Machine.execArpRequest port address s
  | .neighborSolicitation port address => Sys2Proof.Machine.execNeighborSolicitation port address s
  | .icmpEcho port data => Sys2Proof.Machine.execIcmpEcho port data s
  | .ethernetFrameDiscard port => Sys2Proof.Machine.execEthernetFrameDiscard port s
  | .openSession port address datagram => Sys2Proof.Machine.execOpenSession port address datagram s
  | .close id seq => Sys2Proof.Machine.execClose id seq s
  | .keepalive id seq => Sys2Proof.Machine.execKeepalive id seq s
  | .dexolRead via index sub offset length arg => Sys2Proof.Machine.execDexolRead via index sub offset length arg s
  | .dexolWrite via index sub group offset last data => Sys2Proof.Machine.execDexolWrite via index sub group offset last data s
  | .commit via group scope => Sys2Proof.Machine.execCommit via group scope s
  | .discard via group scope => Sys2Proof.Machine.execDiscard via group scope s
  | .subscribe id seq subId index sub periodic period => Sys2Proof.Machine.execSubscribe id seq subId index sub periodic period s
  | .unsubscribe id seq subId => Sys2Proof.Machine.execUnsubscribe id seq subId s
  | .notify id subscription => Sys2Proof.Machine.execNotify id subscription s
  | .sessionIdleTimeout id => Sys2Proof.Machine.execSessionIdleTimeout id s
  | .dexolDatagramDiscard => Sys2Proof.Machine.execDexolDatagramDiscard s
  | .c0QueuePush via quarter data => Sys2Proof.Machine.execC0QueuePush via quarter data s
  | .fQueueOpen via quarter data => Sys2Proof.Machine.execFQueueOpen via quarter data s
  | .imageSegmentWrite via offset data => Sys2Proof.Machine.execImageSegmentWrite via offset data s
  | .updateVerify via => Sys2Proof.Machine.execUpdateVerify via s
  | .updateActivate via => Sys2Proof.Machine.execUpdateActivate via s
  | .updateCancel via => Sys2Proof.Machine.execUpdateCancel via s
  | .updateCommit via => Sys2Proof.Machine.execUpdateCommit via s
  | .firmwareRestart via => Sys2Proof.Machine.execFirmwareRestart via s
  | .activationDeferralEnd => Sys2Proof.Machine.execActivationDeferralEnd s
  | .trialFail => Sys2Proof.Machine.execTrialFail s
  | .watchdogExpire core => Sys2Proof.Machine.execWatchdogExpire core s
  | .operatorKeyWrite via key => Sys2Proof.Machine.execOperatorKeyWrite via key s
  | .trustListLoad via data => Sys2Proof.Machine.execTrustListLoad via data s
  | .topologyMapLoad via data => Sys2Proof.Machine.execTopologyMapLoad via data s
  | .tenantPolicyLoad via data => Sys2Proof.Machine.execTenantPolicyLoad via data s
  | .attestationQuote via nonce => Sys2Proof.Machine.execAttestationQuote via nonce s
  | .powerOkRise straps cold hot => Sys2Proof.Machine.execPowerOkRise straps cold hot s
  | .powerOkFall aonLost => Sys2Proof.Machine.execPowerOkFall aonLost s
  | .resetN => Sys2Proof.Machine.execResetN s
  | .resetCommand via value => Sys2Proof.Machine.execResetCommand via value s
  | .plateTrainingEnd stack trained => Sys2Proof.Machine.execPlateTrainingEnd stack trained s
  | .slabTrainingEnd module size trained => Sys2Proof.Machine.execSlabTrainingEnd module size trained s
  | .startupComplete => Sys2Proof.Machine.execStartupComplete s
  | .startupTemperatureOk => Sys2Proof.Machine.execStartupTemperatureOk s
  | .epoAssert => Sys2Proof.Machine.execEpoAssert s
  | .epoRelease => Sys2Proof.Machine.execEpoRelease s
  | .referenceClockLoss clock => Sys2Proof.Machine.execReferenceClockLoss clock s
  | .governorLimitWrite via watts => Sys2Proof.Machine.execGovernorLimitWrite via watts s
  | .powerSample watts => Sys2Proof.Machine.execPowerSample watts s
  | .governorStep prediction => Sys2Proof.Machine.execGovernorStep prediction s
  | .governorRelax prediction => Sys2Proof.Machine.execGovernorRelax prediction s
  | .thermalSample quarter reading => Sys2Proof.Machine.execThermalSample quarter reading s
  | .thermalStepClear quarter => Sys2Proof.Machine.execThermalStepClear quarter s
  | .commaLockLost port lane => Sys2Proof.Machine.execCommaLockLost port lane s
  | .trainingFrameSend port => Sys2Proof.Machine.execTrainingFrameSend port s
  | .ethernetLinkDown port => Sys2Proof.Machine.execEthernetLinkDown port s
  | .managementAutonegTimeout => Sys2Proof.Machine.execManagementAutonegTimeout s
  | .resetNRelease straps => Sys2Proof.Machine.execResetNRelease straps s
  | .referenceClockReturn clock => Sys2Proof.Machine.execReferenceClockReturn clock s
  | .firmwareCoreRunning core => Sys2Proof.Machine.execFirmwareCoreRunning core s
  | .arenaLargestSample => Sys2Proof.Machine.execArenaLargestSample s
  | .roceRnrTimerExpire qpn => Sys2Proof.Machine.execRoceRnrTimerExpire qpn s

end Sys2Proof.Machine
end

