-- ==== Sys2Proof/Safety.lean ====
section
/-! DEFINITION. What counts as a safe run, in the terms the statements use: an outcome that is a next state, the
invariant of memory, and when a descriptor's own command acts. -/

namespace Sys2Proof.Machine

/-- The status of something that may fail: that of its failure, or OK. -/
def statusOf {α : Type} (r : Except Status α) : Status :=
  match r with
  | .ok _ => Code.ok
  | .error st => st

/-- A step went on. -/
def Out.isNext (o : Out) : Bool :=
  match o with
  | .next _ => true
  | .fault _ => false
  | .refused _ => false

/-- The invariant kept by every step: the bytes of memory are in canonical form. -/
def State.Inv (s : State) : Prop := Memory.wf s = true

/-- A descriptor in flight, of an opcode, acts on its own command: it has not acted yet, its ORDER lets it
(R122, R126 to R129), and it is not the release of a span in which a descriptor failed (R128). -/
abbrev MayAct (s : State) (d : DescRef) (op : Nat) (f : Flight) : Prop :=
  issuedOp s d op = some f ∧ gateOpen s (refKey d) f = true ∧
    ¬(orderOf f.desc = 2 ∧ spanFailed s f = true)

/-- The state a descriptor acts on: an acquire invalidates first (R127). -/
def actsOn (s : State) (f : Flight) : State :=
  if orderOf f.desc = 1 then acquire s f.ctx f.quarter else s

/-- The outcome of a descriptor that completes: its status and DETAIL are final, and what waited on it goes
on. -/
def completes (s : State) (d : DescRef) (status : Status) (detail : BitVec 64) : Out :=
  .next (settle (finish s (refKey d) status detail))

/-- Who makes a request of the dictionary and on what state it acts, where it is taken up: the firmware's own,
or one whose number its session's window has not yet seen (R433, R444). -/
def askedBy (s : State) (via : Via) : Option (State × Who) :=
  match via with
  | .firmware => some (s, { principal := 3 })
  | .session id seq =>
    match tget s.dict.sessions id with
    | none => none
    | some x =>
      if x.seqCase seq = .new then
        some (modSession s id fun x => { x with heard := s.now }, { principal := x.principal, ctx := x.ctx })
      else none

/-- The state after a request made in `s` is answered in `t`: over the internal port, or with a REPLY of its
session. -/
def repliedTo (s t : State) (via : Via) (a : Answer) : State :=
  match via with
  | .firmware => send t (.answer a.status a.body)
  | .session id seq =>
    match tget s.dict.sessions id with
    | none => t
    | some x => replyTo t x id seq a

/-- The outcome of a request of the dictionary that ends in a state and an answer. -/
def answersTo (s t : State) (via : Via) (a : Answer) : Out := .next (settle (repliedTo s t via a))

end Sys2Proof.Machine
end

