-- ==== Sys2Proof/Certificates/Slice0/Obligations.lean ====
section
/-! DEFINITION. The statements for the provers. Each cites the rules or the chapters of the manual that it
rests on; a clause that rests on the model's own choice names its log entry. -/

section
open Sys2Proof Sys2Proof.Machine

/-- A step runs the command at the front of the queue; an empty queue idles. A step of a state whose queue is
not empty is the first command executed on that state with the queue's rest, whatever the command. With
an empty queue the block idles, which is the model's choice (log entry 2). (spec/INDEX.md,
spec/00_scope.md) -/
def Obligations.StepTakesTheFrontCommand : Prop :=
  (∀ (c : Instr) (rest : List Instr) (s : State), s.pending = c :: rest → step s = exec c { s with pending := rest }) ∧
  (∀ (c : Instr) (s : State), step { s with pending := c :: s.pending } = exec c s) ∧
  (∀ s : State, s.pending = [] → step s = .next s)

/-- The machine right after reset. After reset the bytes of memory are in canonical form with none listed, no
command waits, the four FT counters stand at 0 in state FREE, no record is held, no queue, ring, huddle,
group, stream or arena exists, every numeric entry reads as its default, among them a governor limit of
1,800 W. Fields whose reset value the manual does not give are the model's choice (log entry 7). (R8, R9,
R27, R373, R431, R490, spec/17_power_reset_pins.md) -/
def Obligations.ResetLeavesTheStatedValues : Prop :=
  State.reset.Inv ∧ State.reset.mem.bytes = [] ∧ State.reset.pending = [] ∧
  (∀ q, ftOf State.reset q = 0) ∧ State.reset.time.state = .free ∧ State.reset.recov.faults = [] ∧
  State.reset.q.queues = [] ∧ State.reset.q.rings = [] ∧ State.reset.huddles = [] ∧ State.reset.links = [] ∧
  State.reset.pewter.arenas = [] ∧ State.reset.caddie.streams = [] ∧ State.reset.step.streams = [] ∧
  (∀ idx sub, reg State.reset idx sub = defaultOf idx sub) ∧ reg State.reset 0x9000 0x01 = 1800 ∧
  reg State.reset 0x9000 0x02 = 2000

/-- Window handles and packet headers keep every field. A window handle is 64 bits: OFFSET in bits 37 to 0,
WINDOW in bits 51 to 38 and NODE in bits 63 to 52; a handle made of its fields gives them back, and every
64-bit handle is the one made of its fields. A packet header made of fields within their widths gives
every field back, and a header word whose reserved bit 127 is zero is the word of its fields. (R64) -/
def Obligations.HandlesAndHeadersKeepEveryField : Prop :=
  (∀ h : BitVec 64, handleOffset h = h.toNat % 2 ^ 38 ∧ handleWindow h = h.toNat / 2 ^ 38 % 2 ^ 14 ∧
    handleNode h = h.toNat / 2 ^ 52) ∧
  (∀ n w o : Nat, n < 2 ^ 12 → w < 2 ^ 14 → o < 2 ^ 38 →
    handleNode (mkHandle n w o) = n ∧ handleWindow (mkHandle n w o) = w ∧ handleOffset (mkHandle n w o) = o) ∧
  (∀ h : BitVec 64, mkHandle (handleNode h) (handleWindow h) (handleOffset h) = h) ∧
  (∀ h : Hdr, h.opcode < 2 ^ 8 → h.vl < 2 ^ 3 → h.colour < 2 ^ 2 → h.src < 2 ^ 12 → h.dst < 2 ^ 12 → h.ctx < 2 ^ 12 →
    h.gen < 2 ^ 16 → h.srcQueue < 2 ^ 16 → h.seq < 2 ^ 24 → h.floor < 2 ^ 10 → h.srcInc < 2 ^ 4 → h.dstInc < 2 ^ 4 →
    hdrOf h.word = h) ∧
  (∀ w : BitVec 128, bit w 127 = false → (hdrOf w).word = w)

/-- Every step keeps the bytes of memory in canonical form. From every state whose bytes of the four tiers
are in canonical form, addresses rising and no byte listed that an unlisted address reads as, a step that
goes on leaves them in canonical form, whatever the command. (R41, R283, spec/09_tiers_tiles_pewter.md) -/
def Obligations.MemoryStaysCanonical : Prop :=
  ∀ s t : State, s.Inv → step s = .next t → t.Inv

/-- Bytes read as last written, and every other byte stays. In a state with canonical memory a run of bytes
written at an address reads back, every byte outside the run reads as before, and the memory stays
canonical. A run zeroed reads as zeros. A write of a run of the scratchpad completes with OK, stores
exactly those bytes, and a read of the run gives them; a read of the scratchpad changes nothing. (R41,
R50, R282, spec/09_tiers_tiles_pewter.md) -/
def Obligations.MemoryReadsWhatWasWritten : Prop :=
  (∀ (s : State) (a x : Nat) (b : Bytes), s.Inv →
    readCell (writeRun s.mem.bytes a b) x = (if a ≤ x ∧ x < a + b.length then b.getD (x - a) 0 else readCell s.mem.bytes x) ∧
    readRun (writeRun s.mem.bytes a b) a b.length = b ∧ (setCells s (writeRun s.mem.bytes a b)).Inv) ∧
  (∀ (s : State) (a n x : Nat), s.Inv →
    readCell (zeroRun s.mem.bytes a n) x = (if a ≤ x ∧ x < a + n then 0 else readCell s.mem.bytes x) ∧
    (setCells s (zeroRun s.mem.bytes a n)).Inv) ∧
  (∀ (s : State) (ctx pa x : Nat) (b : Bytes), s.Inv → paTier pa = 3 → paTier (pa + b.length) = 3 →
    let r := writePhys s ctx pa b
    r.status = Code.ok ∧ r.st.Inv ∧ (readPhys r.st ctx pa b.length).data = b ∧
    readCell r.st.mem.bytes x = (if pa ≤ x ∧ x < pa + b.length then b.getD (x - pa) 0 else readCell s.mem.bytes x)) ∧
  (∀ (s : State) (ctx pa n : Nat), paTier pa = 3 → paTier (pa + n) = 3 →
    (readPhys s ctx pa n).st = s ∧ (readPhys s ctx pa n).status = Code.ok)

/-- A fault record raised counts in SEQ, and is admitted behind the others or lost. Raising a fault record
advances SEQ by one modulo 2^32. While fewer than 4,032 records are held, or 4,096 for a critical one, it
joins the queue behind the others, which stay as they were, with the SEQ before the advance and its
class, and 8000:02 shows the number held. Otherwise the queue is unchanged, its class's lost counter
advances, and bit 0 of 8000:03, or bit 1 for a critical one, is set. Memory is unchanged. (R373, R374,
spec/12_failure_recovery.md) -/
def Obligations.FaultRecordsAreNeverOverwritten : Prop :=
  ∀ (s : State) (f : FaultInfo), f.cls < 256 →
    let t := raise s f
    let limit := if f.critical then 4096 else 4032
    reg t 0x8000 0x06 = (reg s 0x8000 0x06 + 1) % 2 ^ 32 ∧ t.mem = s.mem ∧ t.pending = s.pending ∧
    (s.recov.faults.length < limit → ∃ r : FaultRec, t.recov.faults = s.recov.faults ++ [r] ∧
      r.seq = reg s 0x8000 0x06 ∧ r.cls = f.cls ∧ r.critical = f.critical ∧ r.status = f.status ∧
      reg t 0x8000 0x02 = s.recov.faults.length + 1 ∧ reg t 0x8000 0x03 = reg s 0x8000 0x03) ∧
    (limit ≤ s.recov.faults.length → t.recov.faults = s.recov.faults ∧
      reg t 0x8000 0x03 = reg s 0x8000 0x03 ||| (if f.critical then 2 else 1) ∧
      (reg s 0x8010 f.cls + 1 < 2 ^ entryBits 0x8010 f.cls → reg t 0x8010 f.cls = reg s 0x8010 f.cls + 1))

/-- What a warm and a cold reset keep. A reset, the only one on its cycle, empties memory, queues, sessions
and staged shadows, sets FT to 0 in state FREE, and keeps flash, operator key and trial. A warm one
raises the incarnation counter by one, keeps the fault queue and the entries of the always-on bank, of
which one with a pending value takes it, records its source in 9000:12 and counts in 9000:13; a cold one
leaves the incarnation at 0 and no record. (R360, R373, R438, R463, R486, R487,
spec/17_power_reset_pins.md) -/
def Obligations.AWarmResetKeepsTheAlwaysOnBank : Prop :=
  (∀ (s : State) (warm : Bool) (code : Nat), s.pwr.resetAt ≠ some s.now →
    let t := resetPart s warm code
    t.mem.bytes = [] ∧ t.q = State.reset.q ∧ t.time = State.reset.time ∧ t.dict.sessions = [] ∧ t.dict.shadows = [] ∧
    t.fw.trust = none ∧ t.fw.map = none ∧ t.fw.policy = none ∧ t.fw.operatorKey = s.fw.operatorKey ∧
    t.fw.bankA = s.fw.bankA ∧ t.fw.bankB = s.fw.bankB ∧ t.fw.trial = s.fw.trial ∧ t.pending = s.pending ∧
    reg t 0x9000 0x12 = code ∧
    t.recov.incarnation = (if warm then (s.recov.incarnation + 1) % 2 ^ 32 else 0) ∧
    reg t 0x8100 0x09 = (if warm then (s.recov.incarnation + 1) % 2 ^ 32 else 0) ∧
    t.recov.faults = (if warm then s.recov.faults else [])) ∧
  (∀ (s : State) (code idx sub : Nat), s.pwr.resetAt ≠ some s.now → sub < 256 → keptWarm idx sub = true →
    (∀ p ∈ s.dict.atReset, p.1 ≠ idx * 256 + sub) → ¬(idx = 0x9000 ∧ (sub = 0x12 ∨ sub = 0x13)) →
    reg (resetPart s true code) idx sub = reg s idx sub) ∧
  (∀ (s : State) (code idx sub v : Nat), s.pwr.resetAt ≠ some s.now → sub < 256 → keptWarm idx sub = true →
    (idx * 256 + sub, v) ∈ s.dict.atReset → (∀ p ∈ s.dict.atReset, p.1 = idx * 256 + sub → p.2 = v) →
    ¬(idx = 0x9000 ∧ (sub = 0x12 ∨ sub = 0x13)) → reg (resetPart s true code) idx sub = v) ∧
  (∀ (s : State) (code : Nat), s.pwr.resetAt ≠ some s.now → (∀ p ∈ s.dict.atReset, p.1 ≠ 0x9000 * 256 + 0x13) →
    reg (resetPart s true code) 0x9000 0x13 = (reg s 0x9000 0x13 + 1) % 2 ^ 32)

/-- Default port directions at every reset. At every reset that nothing holds, 3C00:01 to 3C00:40 take the
directions of Table 3 for the role in force, that of the ROLE straps unless 1000:08 overrides it, and for
TAPER: 0 disabled, 1 down, 2 up. In the test role all ports are down, and every port is quarantined under
cause TEST. (R481) -/
def Obligations.PortsTakeTheirDefaultDirections : Prop :=
  ∀ (s : State) (x : Straps) (hot : Bool) (n : Nat), heldReset s = false → n < 64 →
    let t := releaseReset s x hot
    let d := reg t 0x3C00 (n + 1)
    role t = (if reg s 0x1000 0x08 = 0xFF then x.role % 4 else reg s 0x1000 0x08) ∧
    (role t = 0 →
      (x.taper % 4 = 0 → d = if n < 48 then 1 else if n < 60 then 2 else 0) ∧
      (x.taper % 4 = 1 → d = if n < 48 then 1 else if n < 60 then 2 else 1) ∧
      (x.taper % 4 = 2 → d = if n < 40 then 1 else if n < 60 then 2 else 0) ∧
      (x.taper % 4 = 3 → d = if n < 32 then 1 else 2)) ∧
    (role t = 1 →
      (x.taper % 4 = 0 → d = if n < 54 then 1 else 2) ∧ (x.taper % 4 = 1 → d = 1) ∧
      (x.taper % 4 = 2 → d = if n < 48 then 1 else 2) ∧ (x.taper % 4 = 3 → d = if n < 32 then 1 else 2)) ∧
    (role t = 2 →
      (x.taper % 4 = 0 → d = 2) ∧ (x.taper % 4 = 1 → d = if n < 48 then 2 else 0) ∧
      (x.taper % 4 = 2 → d = if n < 32 then 2 else 0) ∧ (x.taper % 4 = 3 → d = if n < 16 then 2 else 0)) ∧
    (role t = 3 → d = 1 ∧ reg t (0x3000 + n) 0x02 = 2 ^ 4)

/-- Switch-core cycles advance the four FT counters. The command FT_TICK_FIRE_TEE of n cycles answers a next
state for every n and every state, the state after n cycles, with the memory errors that have come since
and what waits going on. Which errors come is free (log entry 33). With no tee armed the n cycles move
the time since reset by n and each quarter's 96-bit counter by n times the nominal increment plus the
servo's adjustment, and change nothing else. (R8, R23, spec/01_fabric_time.md) -/
def Obligations.FabricTimeAdvancesEveryCycle : Prop :=
  ∀ (s : State) (n : Nat),
    exec (.ftTickFireTee n) s = .next (settle (strike (cycles n s))) ∧
    (s.tees = ⟨[], [], [], []⟩ →
      cycles n s =
        { s with
          now := s.now + n
          time := { s.time with
            ft := s.time.ft.map fun c => c + BitVec.ofNat 96 n * BitVec.ofInt 96 (nominalStep + s.time.adj) } })

/-- Beacons are sent, echoed and measured. On an ACTIVE port BEACON_SEND sends a TIME_BEACON with the send
time, the next SEQ and the echo, and notes the send time under its SEQ. A TIME_BEACON in which the echo
is meaningful and known gives d as half of t4 less t1 less the turnaround, kept among the last 16, and
the offset as the sender's time less t4 plus the median of d; the first on a link lets the election run,
and on the parent's link the servo runs on it. (R10, R11, R12, spec/01_fabric_time.md) -/
def Obligations.BeaconsMeasureAndSteerTheClock : Prop :=
  (∀ (s : State) (port : Nat) (t3 : FT), portActive s port = true →
    ((linkTime s port).lastSent = 0 ∨ passedNs s (linkTime s port).lastSent (reg s 0x3F00 0x06) = true) →
    t3 = ftOf s (portQuarter port) + BitVec.ofInt 64 (portLatency s port 1) →
    exec (.beaconSend port) s =
      .next (sendLocal (modLinkTime s port fun l =>
        { l with nextSeq := (l.nextSeq + 1) % 256, sent := tset l.sent (l.nextSeq % 256) t3, lastSent := s.now })
        port 0x0A (beaconExt s (linkTime s port) t3))) ∧
  (∀ (s : State) (port : Nat) (p : Packet) (t1 t4 : FT) (ds : List Int) (off : Int),
    portActive s port = true → p.op = 0x0A → unsequencedBad p = false → bits p.ext 116 12 = 0 → bits p.ext 113 3 ≤ 3 →
    ¬(s.time.parent = some port ∧ quarantined s port = true) → bit p.ext 112 = true →
    tget (linkTime s port).sent (bits p.ext 104 8) = some t1 →
    t4 = ftOf s (portQuarter port) - BitVec.ofInt 64 (portLatency s port 2) →
    ds = ((ftDiff t4 t1 - bits p.ext 64 32) / 2 :: (linkTime s port).delays).take 16 →
    off = ftDiff (p.ext.extractLsb' 0 64) t4 + medianOf ds →
    exec (.timeBeacon port p) s =
      let t := modLinkTime (modLinkTime s port fun l =>
          { l with echo := some (bits p.ext 96 8, t4), lastBeacon := some s.now })
        port fun l => { l with delays := ds, offset := some off }
      let t := if (linkTime s port).delays = [] then elect t else t
      .next (if t.time.parent = some port then parentOffset t port off else t))

/-- The clock's changes: lock, holdover, loss of the parent, TAI, the second's pulse. After 64 beacons of the
parent within the limit a part in FREE or HOLDOVER becomes LOCKED and takes over the parent's TAI_VALID;
after 8 beyond 10 ns a LOCKED part enters HOLDOVER; a parent unheard for three intervals is lost and its
announce forgotten; 100 ms of HOLDOVER bar huddles; each 1 ms the part announces; a valid announce of a
neighbour is kept and the election runs; 10 s within 100 ns gain external lock and run the election. A
MASTER without TAI_VALID and with external lock steps FT at the active client's whole-second boundary to
its time, sets TAI_VALID and announces. An edge within 500 ns of PTP's second boundary, less the cable
delay, sets the phase of the second, and a MASTER on TAI with external lock slews towards that second, at
most 10 ppm; another edge is ignored and counted. A write of 3F00:0D that passes its checks steps FT on
all quarters by the written signed number of ns while the part is neither LOCKED nor MASTER. (R9, R12,
R14, R15, R16, R17, R18, R21, spec/01_fabric_time.md) -/
def Obligations.TheClockChangesStateByItsRules : Prop :=
  (∀ (s : State) (n : Nat), s.time.parent = some n → (s.time.state = .free ∨ s.time.state = .holdover) →
    64 ≤ s.time.inLimit →
    exec .ftLockReached s =
      let t := setFtState s .locked
      let u := { t with time := { t.time with
        taiValid := t.time.taiValid || ((linkTime s n).announce.map (·.taiValid)).getD false } }
      .next (if viewOf u = viewOf s then u else announceAll u)) ∧
  (∀ s : State, s.time.state = .locked → 8 ≤ s.time.outLimit →
    exec .ftOffsetLimitExceeded s = .next (setFtState s .holdover)) ∧
  (∀ (s : State) (n t : Nat), s.time.parent = some n → (linkTime s n).lastBeacon = some t →
    passedNs s t (3 * reg s 0x3F00 0x06) = true →
    exec .parentLost s = .next (loseParent (modLinkTime s n fun l => { l with announce := none }))) ∧
  (∀ s : State, s.time.state = .holdover → passedMs s s.time.holdoverSince 100 = true →
    exec .holdoverHuddleLimit s = .next { s with time := { s.time with huddleBarred := true } }) ∧
  (∀ s : State, passedUs s s.time.lastAnnounce 1000 = true →
    exec .announceSend s = .next (announceAll s)) ∧
  (∀ (s : State) (port : Nat) (p : Packet), portActive s port = true → p.op = 0x0B →
    unsequencedBad p = false → bits p.ext 57 71 = 0 → bit p.ext 15 = false →
    exec (.timeAnnounce port p) s =
      let a : Announce :=
        { masterId := bits p.ext 0 12, masterClass := heardClass (bits p.ext 12 3), steps := bits p.ext 16 8
          utcOffset := bits p.ext 24 16, leapPending := bit p.ext 40
          senderClass := heardClass (bits p.ext 41 3), senderId := bits p.ext 44 12
          taiValid := bit p.ext 56, heardAt := s.now }
      .next (elect (modLinkTime s port fun l => { l with announce := some a }))) ∧
  (∀ (s : State) (c : PtpClient) (t : Nat), activeClient s = some c → c.within = some t →
    s.time.externalLock = false → passedMs s t 10000 = true →
    exec .externalLockGained s =
      .next (elect { s with time := { s.time with externalLock := true, externalHeld := true } })) ∧
  (∀ (s : State) (c : PtpClient), activeClient s = some c → s.time.state = .master →
    s.time.taiValid = false → s.time.externalLock = true → ptpNow s c % second = 0 →
    exec .taiStepMaster s =
      let t := stepFt s (ftDiff (BitVec.ofNat 64 (ptpNow s c * 65536)) (ftOf s 0))
      .next (announceAll { t with time := { t.time with taiValid := true, firstStep := true } })) ∧
  (∀ (s : State) (c : PtpClient) (r : Int) (edge : FT), activeClient s = some c → reg s 0x3F00 0x0B ≠ 0 →
    r = ((ptpNow s c : Int) - regInt s 0x3F00 0x0C / 1000) % (second : Int) →
    (r ≤ 500 ∨ (second : Int) - 500 ≤ r) →
    edge = ftOf s 0 - BitVec.ofInt 64 (regInt s 0x3F00 0x0C * 65536 / 1000) →
    exec .ppsEdge s =
      let t := { s with time := { s.time with ppsPhase := some (edge, s.now) } }
      let whole := ((ptpNow s c : Int) - regInt s 0x3F00 0x0C / 1000 + second / 2) / second * second
      .next (if s.time.state = .master ∧ s.time.taiValid = true ∧ s.time.externalLock = true then
        servoRate t (ftDiff (BitVec.ofInt 64 (whole * 65536)) edge) 10 else t)) ∧
  (∀ (s : State) (c : PtpClient) (r : Int), activeClient s = some c → reg s 0x3F00 0x0B ≠ 0 →
    r = ((ptpNow s c : Int) - regInt s 0x3F00 0x0C / 1000) % (second : Int) →
    500 < r → r < (second : Int) - 500 → exec .ppsEdge s = .next (bump s 0x3F00 0x10)) ∧
  (∀ (s t : State) (via : Via) (w : Who) (v : BitVec 64), askedBy s via = some (t, w) →
    writeStatus t w 0x3F00 0x0D v.toNat = Code.ok → t.time.state ≠ .locked → t.time.state ≠ .master →
    exec (.ftStepCommand via v) s = answersTo s (stepFt t (v.toInt * 65536)) via (answer Code.ok))

/-- FT values compare by serial arithmetic, and no tee is armed too far ahead. A value a of FT is later than
b exactly when (a − b) mod 2^64 lies in the range 1 to 2^63 − 1, so that any two instants less than 2^47
ns apart are ordered as they are in time. An arming, by ARM_TEE or through 2000+q:20 with ENABLE 1, whose
FIRE_TIME lies more than 2^46 ns ahead of the current FT fails with MISALIGNED and arms nothing, and an
instant at most 2^46 ns ago is not taken as later than the current FT. (R7) -/
def Obligations.TimesCompareSerially : Prop :=
  (∀ a b : FT, ftLater a b = true ↔ 1 ≤ (a - b).toNat ∧ (a - b).toNat ≤ 2 ^ 63 - 1) ∧
  (∀ x y : Nat, y < x → x - y < 2 ^ 47 * 65536 →
    ftLater (BitVec.ofNat 64 x) (BitVec.ofNat 64 y) = true ∧ ftLater (BitVec.ofNat 64 y) (BitVec.ofNat 64 x) = false) ∧
  (∀ (s t : State) (d : DescRef) (f : Flight) (x : BitVec 256) (ahead : Nat), MayAct s d 0x03 f → t = actsOn s f →
    x = f.desc.extractLsb' 64 256 → ahead = (x.extractLsb' 0 64 - ftOf t f.quarter).toNat → 2 ^ 46 * 65536 < ahead →
    ahead ≤ 2 ^ 63 - 1 →
    exec (.armTee d) s = completes t d Code.misaligned 0) ∧
  (∀ (s t : State) (via : Via) (w : Who) (q slot ahead : Nat) (b : Bytes) (x : BitVec 256),
    askedBy s via = some (t, w) → otherTransfer t via (0x2000 + q) 0x20 = false →
    writeStatus t w (0x2000 + q) 0x20 0 = Code.ok → b.length = 34 → slot = ofLe (b.take 2) → slot ≤ 4095 →
    x = BitVec.ofNat 256 (ofLe (b.drop 2)) → bit x 152 = true →
    ahead = (x.extractLsb' 0 64 - ftOf t q).toNat → 2 ^ 46 * 65536 < ahead → ahead ≤ 2 ^ 63 - 1 →
    exec (.teeArmDict via q b) s = answersTo s t via (answer Code.misaligned))

/-- Tees are armed and disarmed, by descriptor and by dictionary. An ARM_TEE that passes the checks enters
its tee in a free slot of its quarter, which the part chooses, completes OK and names the slot; a tee
already past fires at once. A DISARM_TEE of an armed slot that its context may disarm removes the tee,
after the firing whose instant had been reached, and completes OK with FIRED. A dictionary write of a
slot record arms the named free slot with ENABLE 1 and disarms it with ENABLE 0, where the record's
context is ACTIVE; otherwise it changes nothing and answers what R505 names. Which free slot it is is a
free value; the layout of DETAIL is the model's (log entry 16). (R22, R24, R26, R505,
spec/01_fabric_time.md, spec/15_object_dictionary.md) -/
def Obligations.TeesAreArmedAndDisarmed : Prop :=
  (∀ (s t : State) (d : DescRef) (f : Flight) (x : BitVec 256) (slot : Nat), MayAct s d 0x03 f →
    t = actsOn s f → x = f.desc.extractLsb' 64 256 →
    teeMisaligned t f.quarter x = false → bit x 152 = true → clean f.desc 256 192 = true →
    ctxFieldStatus t f (bits x 120 12) = Code.ok →
    underQuota t (namedCtx f (bits x 120 12)) 0x14 (teesHeld t (namedCtx f (bits x 120 12))) = true →
    (∃ i, i < 4096 ∧ thas (teesOf t f.quarter) i = false) → slot = freeSlot t f.quarter →
    (ftLater (ftOf t f.quarter) (x.extractLsb' 0 64) = true → bit x 153 = true) →
    thas (teesOf t f.quarter) slot = false ∧ slot < 4096 ∧ exec (.armTee d) s =
      completes (enterTee (draw t) f.quarter slot (teeOf x (namedCtx f (bits x 120 12)))) d Code.ok (teeName f.quarter slot)) ∧
  (∀ (s t : State) (d : DescRef) (f : Flight) (q slot : Nat) (x : TeeSlot), MayAct s d 0x04 f →
    t = actsOn s f → clean f.desc 14 434 = true → slot = opnd f.desc 0 12 → q = opnd f.desc 12 2 →
    tget (teesOf t q) slot = some x → (f.ctx = 0 ∨ x.ctx = f.ctx) →
    exec (.disarmTee d) s =
      completes (disarmTee t q slot) d Code.ok
        (BitVec.ofNat 64 (if teeDue t q x then satInc 16 x.fired else x.fired))) ∧
  (∀ (s t : State) (via : Via) (w : Who) (q slot : Nat) (b : Bytes) (x : BitVec 256),
    askedBy s via = some (t, w) → otherTransfer t via (0x2000 + q) 0x20 = false →
    writeStatus t w (0x2000 + q) 0x20 0 = Code.ok → b.length = 34 → slot = ofLe (b.take 2) → slot ≤ 4095 →
    x = BitVec.ofNat 256 (ofLe (b.drop 2)) → bit x 152 = true → teeDictStatus t q slot x = Code.ok →
    exec (.teeArmDict via q b) s = answersTo s (enterTee t q slot (teeOf x (bits x 120 12))) via (answer Code.ok)) ∧
  (∀ (s t : State) (via : Via) (w : Who) (q slot : Nat) (b : Bytes),
    askedBy s via = some (t, w) → otherTransfer t via (0x2000 + q) 0x20 = false →
    writeStatus t w (0x2000 + q) 0x20 0 = Code.ok → b.length = 34 → slot = ofLe (b.take 2) → slot ≤ 4095 →
    bit (BitVec.ofNat 256 (ofLe (b.drop 2))) 152 = false →
    exec (.teeDisarmDict via q b) s =
      let st := namedCtxStatus t (bits (BitVec.ofNat 256 (ofLe (b.drop 2))) 120 12)
      answersTo s (if st = Code.ok then disarmTee t q slot else t) via (answer st))

/-- Each firing of a tee is counted once, and sets its next instant. When an armed tee fires, its slot stays
armed with FIRED one more, held at 65,535; a one-shot tee is DONE after it; a periodic tee without
SKIP_MISSED takes its instant plus PERIOD as the next, and is DONE when no firing is left. No other slot
of any quarter changes. (R22, R23, R24, spec/01_fabric_time.md) -/
def Obligations.AFiringIsCountedAndOrdersTheNext : Prop :=
  ∀ (s : State) (q slot : Nat) (late : Bool) (x : TeeSlot), tget (teesOf s q) slot = some x →
    (∃ y, tget (teesOf (fireTee s q slot late) q) slot = some y ∧ y.fired = satInc 16 x.fired ∧
      y.ctx = x.ctx ∧ y.action = x.action ∧ y.target = x.target ∧ y.fireTime = x.fireTime ∧
      (x.left = some 1 → y.done = true) ∧ (x.left = none → y.done = false) ∧
      (x.skipMissed = false → x.period ≠ 0 → y.next = ftAddNs x.next x.period)) ∧
    ∀ q' i, (q' % 4 ≠ q % 4 ∨ i ≠ slot) →
      tget (teesOf (fireTee s q slot late) q') i = tget (teesOf s q') i

/-- Huddle entries are armed, and their members arrive and are released. A HUDDLE_ARM that passes the checks
enters the record as an entry, completing the members that waited in an entry of the same name ABORTED
(log entry 17), and completes OK. A HUDDLE_ARRIVE for the current round, with FT usable and a place for
the member, counts and waits for the release. A child part's combined arrival of the current round counts
once and is acknowledged. The parent's release of the current round releases an entry that has sent up.
Its failed release goes on to the child parts, and fails the entry if it has not failed already. A round
that a timeout finds unfinished fails with TIMEOUT. (R21, R27, R30, R32, R33, spec/01_fabric_time.md) -/
def Obligations.HuddleEntriesAreArmedAndMembersArrive : Prop :=
  (∀ (s t : State) (d : DescRef) (f : Flight) (x : BitVec 256) (c : Nat) (h : Huddle), MayAct s d 0x05 f →
    t = actsOn s f → x = f.desc.extractLsb' 64 256 → c = namedCtx f (bits x 0 12) → h = huddleOf x c →
    bit x 127 = false → bits x 128 96 = 0 → bits x 240 16 = 0 → clean f.desc 256 192 = true →
    h.localMembers ≤ 4096 → h.childParts ≤ 64 → h.combine ≤ 5 → ctxFieldStatus t f (bits x 0 12) = Code.ok →
    (0 < h.childParts → (groupFor t h.childGroup c 0).map (·.members.length) = some h.childParts) →
    (tget t.huddles (huddleKey c h.no) = none →
      underQuota t c 0x15 (huddlesHeld t c) = true ∧ t.huddles.length < 1024) →
    exec (.huddleArm d) s =
      let u := ((tget t.huddles (huddleKey c h.no)).map (abandonHuddle t)).getD t
      completes { u with huddles := tset u.huddles (huddleKey c h.no) h } d Code.ok 0) ∧
  (∀ (s t : State) (d : DescRef) (f : Flight) (key : Nat) (h : Huddle), issuedOp s d 0x06 = some f →
    flightsBefore s (refKey d) = [] → clean f.desc 32 32 = true → clean f.desc 128 320 = true →
    t = waitOn (actsOn s f) (refKey d) → key = huddleKey f.ctx (opnd f.desc 0 16) → tget t.huddles key = some h →
    ftUsable t = true → opnd f.desc 16 16 = h.round → h.state ≠ .failed → h.state ≠ .sentUp →
    (h.arrivals.any fun x => x.who == f.queue) = false →
    (h.arrivals.filter fun x => !isChild x.who).length < h.localMembers →
    exec (.huddleArrive d) s =
      let a : Arrival := { who := f.queue, seq := some (refKey d), value := BitVec.ofNat 64 (opnd f.desc 64 64)
                           stamp := ftOf t f.quarter }
      .next (settle (runAll (countArrival t key a)))) ∧
  (∀ (s t : State) (p : Packet) (key : Nat) (h : Huddle), arrival s none p = .fresh t → liveCtx t p = true →
    key = huddleKey p.ctx (bits p.ext 64 16) → tget t.huddles key = some h → isChildNode t h p.src = true →
    bits p.ext 80 8 = h.round % 256 → h.state ≠ .failed → h.state ≠ .sentUp →
    (h.arrivals.any fun x => x.who == 65536 + p.src) = false →
    exec (.huddleArrivePacket p) s =
      let a : Arrival := { who := 65536 + p.src, count := bits p.ext 88 13, value := p.ext.extractLsb' 0 64
                           stamp := fullStamp t (huddleQuarter h) (bits p.ext 101 27) }
      .next (settle (runAll (countArrival (ackDone t p) key a)))) ∧
  (∀ (s t : State) (p : Packet) (key : Nat) (h : Huddle), arrival s none p = .fresh t → liveCtx t p = true →
    key = huddleKey p.ctx (bits p.ext 64 16) → tget t.huddles key = some h → h.root = false → h.parent = p.src →
    bits p.ext 80 8 = h.round % 256 → bit p.ext 88 = false → h.state = .sentUp →
    exec (.huddleRelease p) s =
      .next (settle (runAll (releaseRound (ackDone t p) key h (p.ext.extractLsb' 0 64))))) ∧
  (∀ (s t : State) (p : Packet) (key : Nat) (h : Huddle) (st : Status), arrival s none p = .fresh t →
    liveCtx t p = true → key = huddleKey p.ctx (bits p.ext 64 16) → tget t.huddles key = some h → h.root = false →
    h.parent = p.src → bits p.ext 80 8 = h.round % 256 → bit p.ext 88 = true → st = p.ext.extractLsb' 89 8 →
    st ≠ Code.ok →
    exec (.huddleRelease p) s =
      let u := releaseChildren (ackDone t p) key h st 0
      .next (settle (if h.state = .failed then u else runAll (failRound u key h st)))) ∧
  (∀ (s : State) (ctx no t : Nat) (h : Huddle), tget s.huddles (huddleKey ctx no) = some h →
    h.firstAt = some t → h.root = true → h.state = .gathering → passedUs s t (huddleTimeout s h) = true →
    exec (.huddleRootTimeout ctx no) s =
      .next (settle (runAll (failFound s (huddleKey ctx no) h Code.timeout)))) ∧
  (∀ (s : State) (ctx no t : Nat) (h : Huddle), tget s.huddles (huddleKey ctx no) = some h →
    h.sentUpAt = some t → h.root = false → h.state = .sentUp → passedUs s t (huddleTimeout s h + 1000) = true →
    exec (.huddleReleaseTimeout ctx no) s =
      .next (settle (runAll (failFound s (huddleKey ctx no) h Code.timeout))))

/-- MAP and UNMAP of pages, their drain, and the end of a walk. A MAP that passes its checks enters the pages
as far as the page-table area and the quota reach, completes OK or QUOTA, and DETAIL counts the pages. An
UNMAP that passes its checks cuts the pages, shoots their translations down, ends the watches on them and
waits for what holds them; with ABORT it stops the holders at once. While an UNMAP of the context drains,
a MAP or UNMAP waits in the order of arrival. When nothing holds the range the UNMAP completes OK with
the count of commands aborted, cut scratchpad bytes reading as zeros, and those that waited follow; at
WAIT_LIMIT the holders are stopped. The end of a walk takes the walk from its quarter's walkers and, of
an unmapped page, caches nothing; of a mapped page that the quarter's TLB holds or has room for, the TLB
holds it afterwards, and no other quarter changes. (R51, R52, R53, R54, R55, R56, R57, R59, R60,
spec/02_address_spaces.md) -/
def Obligations.PagesAreMappedAndUnmapped : Prop :=
  (∀ (s t : State) (d : DescRef) (f : Flight) (ctx size va pa count len n : Nat) (e : Nat → Extent),
    MayAct s d 0x10 f → t = actsOn s f →
    ctx = opnd f.desc 0 12 → size = opnd f.desc 12 2 → va = opnd f.desc 16 48 → pa = opnd f.desc 64 48 →
    count = opnd f.desc 112 24 → len = count * pageBytes size →
    (∀ m, e m = { va := va, pa := pa, size := size, count := m, read := opBit f.desc 136, write := opBit f.desc 137
                  atomic := opBit f.desc 138, reduce := opBit f.desc 139, codec := opBit f.desc 140 }) →
    count ≠ 0 → size ≠ 3 → va % pageBytes size = 0 → pa % pageBytes size = 0 →
    (opBit f.desc 138 = true → opBit f.desc 136 = true ∧ opBit f.desc 137 = true) →
    clean f.desc 14 2 = true → clean f.desc 141 307 = true → f.ctx = 0 → ctxFieldStatus t f ctx = Code.ok →
    mapWaits t ctx = false → va + len ≤ spaceEnd t ctx → paOffset pa + len ≤ unitBound t (paTier pa) (paUnit pa) →
    inHardware t pa = false → ¬(paTier pa = 3 ∧ (size = 2 ∨ paMapped t pa len = true)) →
    ¬(paTier pa = 3 ∧ ctx = 0 ∧ ((queueOf t f.ctx f.queue).map (·.fQueue)).getD false = true) →
    (extentsOf t ctx).any (fun x => x.touches va len) = false →
    (paTier pa = 3 → ctx ≠ 0 → scratchHeld t ctx + len ≤ reg t (ctxIdx ctx) 0x1E * 65536) →
    n = fitCount (fun m => tablesFit t ctx (otherTables t ctx) (insertExtent (e m) (extentsOf t ctx))) 25 0 count →
    exec (.map d) s =
      completes (if n = 0 then t else setPages t ctx (insertExtent (e n) (extentsOf t ctx))) d
        (if n = count then Code.ok else Code.quota) (BitVec.ofNat 64 n)) ∧
  (∀ (s t : State) (d : DescRef) (f : Flight) (ctx size va count len : Nat), MayAct s d 0x11 f → t = actsOn s f →
    ctx = opnd f.desc 0 12 → size = opnd f.desc 12 2 → va = opnd f.desc 16 48 →
    count = opnd f.desc 112 24 → len = count * pageBytes size →
    count ≠ 0 → size ≠ 3 → va % pageBytes size = 0 → opBit f.desc 15 = false → clean f.desc 64 48 = true →
    clean f.desc 136 24 = true → clean f.desc 192 256 = true → f.ctx = 0 → ctxFieldStatus t f ctx = Code.ok →
    mapWaits t ctx = false → va + len ≤ spaceEnd t ctx →
    (extentsOf t ctx).any (fun e => cutsThrough e va len) = false →
    (extentsOf t ctx).any (fun e => e.touches va len) = true →
    exec (.unmap d) s =
      let parts := (extentsOf t ctx).map fun e => splitExtent e va len
      let u := shootdown (setPages t ctx (parts.map (·.1)).flatten) ctx va len
      let limit := if opnd f.desc 160 32 = 0 then reg u 0x2800 0x04 else opnd f.desc 160 32
      let job : UnmapJob :=
        { ctx := ctx, owner := refKey d, va := va, length := len, cut := (parts.map (·.2)).flatten, cutAt := u.now
          limit := if opBit f.desc 14 then none else some limit }
      let w := waitOn { u with xlat := { u.xlat with unmaps := u.xlat.unmaps ++ [job] } } (refKey d)
      let w := cutWatches w ctx va len
      let r := if opBit f.desc 14 then abortRange w ctx va len else (w, 0)
      .next (settle (modUnmap r.1 (refKey d) fun j => { j with aborted := r.2 }))) ∧
  (∀ (s t : State) (d : DescRef) (f : Flight), MayAct s d 0x10 f → t = actsOn s f → mapForm t f = Code.ok →
    mapWaits t (opnd f.desc 0 12) = true →
    exec (.map d) s = .next (settle (queueMap t (refKey d) (opnd f.desc 0 12)))) ∧
  (∀ (s t : State) (d : DescRef) (f : Flight), MayAct s d 0x11 f → t = actsOn s f → unmapForm t f = Code.ok →
    mapWaits t (opnd f.desc 0 12) = true →
    exec (.unmap d) s = .next (settle (queueMap t (refKey d) (opnd f.desc 0 12)))) ∧
  (∀ (s : State) (d : DescRef) (u : UnmapJob), (s.xlat.unmaps.find? fun u => u.owner == refKey d) = some u →
    holdersOf s u.ctx u.va u.length = [] → resvCount s u.ctx u.va u.length = 0 →
    requestHeld s u.ctx u.va u.length = false →
    exec (.unmapDrainEnd d) s =
      let t := zeroScratch s u.cut
      let t := { t with xlat := { t.xlat with unmaps := t.xlat.unmaps.filter fun x => x.owner != refKey d } }
      let t := finish t (refKey d) Code.ok (BitVec.ofNat 64 u.aborted)
      .next (settle (runMaps t.xlat.mapQueue.length t u.ctx))) ∧
  (∀ (s : State) (d : DescRef) (u : UnmapJob) (limit : Nat),
    (s.xlat.unmaps.find? fun u => u.owner == refKey d) = some u → u.limit = some limit →
    passedUs s u.cutAt limit = true →
    exec (.unmapWaitLimit d) s =
      let r := abortRange s u.ctx u.va u.length
      .next (settle (modUnmap r.1 (refKey d) fun u => { u with limit := none, aborted := u.aborted + r.2 }))) ∧
  (∀ (s : State) (q : Nat) (w : Walk) (rest : List Walk), (s.xlat.units.get q).walks = w :: rest →
    extentAt s w.ctx w.va = none →
    exec (.walkComplete q) s =
      let u := s.xlat.units.get q
      let u := { u with
        walks := rest
        streams := u.streams.map fun x =>
          if x.ctx = w.ctx then
            { x with misses := x.misses.filter fun va => va != w.va, behind := x.behind.filter fun va => va != w.va }
          else x }
      .next { s with xlat := { s.xlat with
        units := s.xlat.units.set q (startWalks (reg s 0x2800 0x02) 16 (retryMisses s u)) } }) ∧
  (∀ (s : State) (q : Nat) (w : Walk) (rest : List Walk) (e : Extent), (s.xlat.units.get q).walks = w :: rest →
    extentAt s w.ctx w.va = some e →
    let tlb := (s.xlat.units.get q).tlb
    ∃ t, exec (.walkComplete q) s = .next { s with xlat := { s.xlat with units := t } } ∧
      ((tlb.any fun x => x.ctx == w.ctx && x.va == e.pageOf w.va && x.size == e.size) = true ∨
        (tlb.filter fun x => x.ctx == w.ctx).length < reg s 0x2800 0x01 ∧ tlb.length < 8192 →
        ((t.get q).tlb.any fun x => x.ctx == w.ctx && x.va == e.pageOf w.va && x.size == e.size) = true) ∧
      ∀ q', q' % 4 ≠ q % 4 → t.get q' = s.xlat.units.get q')

/-- Windows open and close, and reservations lapse. An OPEN_WINDOW that passes its checks makes its window
valid for the context and its current generation, with the rights, sources and range given. A
CLOSE_WINDOW of a valid window of the context invalidates it and ends its reservations with PROTECTION,
and completes OK at once unless a request that has passed the window's checks holds it; then it waits. A
reservation lapses once 2800:06 has passed since its probe. (R65, R66, R67, R72,
spec/02_address_spaces.md) -/
def Obligations.WindowsAreOpenedAndClosed : Prop :=
  (∀ (s t : State) (d : DescRef) (f : Flight) (x : Desc) (n c : Nat) (w : Window), MayAct s d 0x07 f →
    t = actsOn s f → x = f.desc → n = opnd x 0 14 → c = namedCtx f (opnd x 136 12) →
    w = { valid := true, read := opBit x 14, write := opBit x 15, atomic := opBit x 16
          reduce := opBit x 17, flagged := opBit x 18, ctx := c, gen := ctxGen t c
          srcBase := opnd x 32 12, srcMask := opnd x 44 12, baseVa := opnd x 64 48, length := opnd x 112 23 } →
    w.baseVa % 65536 = 0 → w.length ≠ 0 → w.length ≤ 4194304 → (w.flagged = true → w.write = true) →
    clean x 19 13 = true → clean x 56 8 = true → opBit x 135 = false → clean x 148 300 = true →
    ctxFieldStatus t f (opnd x 136 12) = Code.ok → n ≠ 0 → windowValid t n = false →
    (f.ctx = 0 ∨ windowInRange t c n = true) → w.baseVa + w.length * 65536 ≤ spaceEnd t c →
    exec (.openWindow d) s =
      completes { t with xlat := { t.xlat with windows := tset t.xlat.windows n w } } d Code.ok 0) ∧
  (∀ (s t : State) (d : DescRef) (f : Flight) (n c : Nat) (w : Window), MayAct s d 0x08 f → t = actsOn s f →
    n = opnd f.desc 0 14 → c = namedCtx f (opnd f.desc 136 12) → clean f.desc 14 122 = true →
    clean f.desc 148 300 = true → ctxFieldStatus t f (opnd f.desc 136 12) = Code.ok →
    windowValid t n = true → tget t.xlat.windows n = some w → w.ctx = c →
    (f.ctx = 0 ∨ windowInRange t c n = true) →
    exec (.closeWindow d) s =
      (if windowHeld t n = true then .next (settle (closeWindow (waitOn t (refKey d)) n))
      else completes (closeWindow t n) d Code.ok 0)) ∧
  (∀ (s : State) (q id : Nat) (r : Reservation), tget (s.xlat.resv.get q) id = some r →
    passedUs s r.since (reg s 0x2800 0x06) = true →
    exec (.reservationExpire q id) s =
      .next { s with xlat := { s.xlat with resv := s.xlat.resv.mod q fun t => tdel t id } })

/-- Descriptors are dispatched in turn, act, and complete. The head of a ready queue, in its context's turn,
becomes a descriptor in flight on its engine, with the next sequence number, and the context's credit
falls. A descriptor whose result is known completes with its status and DETAIL: the queue's counters, its
state, its whistle and its play run follow. A NOP whose operand is zero completes OK. A WAIT_FLAG that
passes its checks, its flag under no Caddie guard, waits on its flag, evaluated at once, and at its
timeout it completes TIMEOUT with the flag's value in DETAIL. (R82, R84, R86, R87, R88, R89, R98,
spec/03_queues_plays_whistles.md) -/
def Obligations.DescriptorsAreDispatchedAndComplete : Prop :=
  (∀ (s : State) (q ctx queue : Nat) (r : Queue) (w : Waiting) (ws : List Waiting), queueOf s ctx queue = some r →
    r.slots = w :: ws → r.quarter = q → running s = true → s.core.stopped = false → ctxActive s ctx = true →
    queueReady s r = true → turnOf s q ctx = true →
    exec (.descriptorDispatch q ctx queue) s =
      .next (settle (launch (takeTurn (dispatchAs s r w).1 q ctx) r w
        ((engineFor s q (opcodeOf w.desc)).getD engPoint) (dispatchAs s r w).2))) ∧
  (∀ (s : State) (r : Queue) (w : Waiting) (e : Nat) (p : Progress), r.dispatched < 2 ^ 32 - 1 →
    flightOf (launch s r w e p) ⟨r.ctx, r.queue, r.dispatched + 1⟩ =
      some { ctx := r.ctx, queue := r.queue, seq := r.dispatched + 1, desc := w.desc, quarter := r.quarter, engine := e
             run := w.run, lastOfRun := w.lastOfRun, progress := p, since := s.now }) ∧
  (∀ (s : State) (d : DescRef) (f : Flight) (st : Status) (detail : BitVec 64), flightOf s d = some f →
    f.progress = .final st detail →
    exec (.descriptorComplete d) s = .next (settle (completeFlight s (refKey d) f st detail))) ∧
  (∀ (s : State) (d : DescRef) (f : Flight), issuedOp s d 0x00 = some f → bits f.desc 64 448 = 0 →
    exec (.nop d) s = completes s d Code.ok 0) ∧
  (∀ (s t : State) (d : DescRef) (f : Flight), MayAct s d 0x01 f → t = actsOn s f →
    clean f.desc 50 14 = true → clean f.desc 160 288 = true →
    flagCheck t f.ctx (opnd f.desc 0 48) (opnd f.desc 48 2) = none → watchesOn t f.quarter < 1024 →
    heldBy t (.command (refKey d)) f.ctx [(opnd f.desc 0 48, 8)] = none →
    exec (.waitFlag d) s =
      .next (settle (addWatch (waitOn t (refKey d)) f.quarter
        { ctx := f.ctx, va := opnd f.desc 0 48, cmp := opnd f.desc 48 2, value := BitVec.ofNat 64 (opnd f.desc 64 64)
          who := .wait (refKey d) }))) ∧
  (∀ (s : State) (d : DescRef) (f : Flight), waitingOp s d 0x01 = some f → opnd f.desc 128 32 ≠ 0 →
    passedUs s f.since (opnd f.desc 128 32) = true →
    exec (.waitFlagTimeout d) s =
      .next (settle (pruneWatches (finish s (refKey d) Code.timeout
        (BitVec.ofNat 64 (flagValue s f.ctx (opnd f.desc 0 48)))))))

/-- Plays are loaded, armed, started and appended to their queue. A START_PLAY triggers a play that exists
and completes OK with the play's state in DETAIL. A LOAD_PLAY that passes its checks, with no earlier
descriptor's bytes and no Caddie guard in its way, stores the descriptors it reads and completes OK. An
ARM_PLAY that passes its checks, its flag under no guard, arms the play on its trigger in its bound
queue's quarter and completes OK. A DISARM_PLAY of a play that exists removes its watch and disarms it. A
pending play's descriptors join its open queue as one run once there is room, and the play runs. (R96,
R97, R98, R99, R100, R111, spec/03_queues_plays_whistles.md) -/
def Obligations.PlaysAreLoadedArmedAndStarted : Prop :=
  (∀ (s t : State) (d : DescRef) (f : Flight) (key : Nat) (p : Play), MayAct s d 0x02 f → t = actsOn s f →
    key = playKey f.ctx (opnd f.desc 0 16) → clean f.desc 16 432 = true → tget t.q.plays key = some p →
    exec (.startPlay d) s =
      completes (trigger t key false) d Code.ok
        (BitVec.ofNat 64 (((tget (trigger t key false).q.plays key).map fun p => p.state.code).getD 0))) ∧
  (∀ (s t u : State) (d : DescRef) (f : Flight) (no va n q at_ : Nat) (base : Play), MayAct s d 0x0B f →
    t = actsOn s f → no = opnd f.desc 0 16 → va = opnd f.desc 16 48 → n = opnd f.desc 64 9 → n ≠ 0 → n ≤ 256 →
    clean f.desc 73 375 = true → ((tget t.q.plays (playKey f.ctx no)).map (·.busy)).getD false = false →
    sideCheck t f.ctx [(va, n * 64)] .read = none → (readVa t f.ctx va (n * 64)).status = Code.ok →
    u = (readVa t f.ctx va (n * 64)).st → earlierMeets t (refKey d) [(.va va, n * 64)] = false →
    heldBy t (.command (refKey d)) f.ctx [(va, n * 64)] = none →
    base = (tget t.q.plays (playKey f.ctx no)).getD { ctx := f.ctx, no := no, queue := f.queue, store := f.quarter } →
    q = ((queueOf t f.ctx base.queue).map (·.quarter)).getD base.store →
    (tget t.q.plays (playKey f.ctx no) = none →
      underQuota t f.ctx 0x16 (tcount t.q.plays fun _ p => p.ctx == f.ctx) = true ∧ t.q.plays.length < 16384) →
    (f.ctx = 0 ∨ storeHeld t f.ctx (playKey f.ctx no) + n ≤ reg t (ctxIdx f.ctx) 0x17 * 16) →
    storeRun t q n = some at_ →
    exec (.loadPlay d) s =
      let p := { base with store := q, descBase := at_, descs := descsOf (readVa t f.ctx va (n * 64)).data }
      completes { u with q := { u.q with plays := tset u.q.plays (playKey f.ctx no) p } } d Code.ok 0) ∧
  (∀ (s t : State) (d : DescRef) (f : Flight) (x : Desc) (c key q at_ : Nat) (old : Play) (b : Queue),
    MayAct s d 0x0C f → t = actsOn s f → x = f.desc → c = namedCtx f (opnd x 3 12) → key = playKey c (opnd x 32 16) →
    opBit x 0 = false → clean x 30 2 = true → clean x 48 16 = true → clean x 192 256 = true → opnd x 25 2 ≠ 3 →
    (opnd x 1 2 = 1 → opnd x 64 48 % 8 = 0) → ctxFieldStatus t f (opnd x 3 12) = Code.ok →
    tget t.q.plays key = some old → old.busy = false → queueOf t c (opnd x 15 10) = some b → b.state ≠ .closed →
    (opnd x 1 2 = 1 → flagCheck t c (opnd x 64 48) (opnd x 25 2) = none) → q = b.quarter →
    (opnd x 1 2 = 1 → heldBy t (.command (refKey d)) c [(opnd x 64 48, 8)] = none) →
    (opnd x 1 2 = 1 → watchesOn (dropPlayWatch t key) q < 1024) →
    (if old.store = q ∨ old.descs.isEmpty = true then some old.descBase else storeRun t q old.descs.length) = some at_ →
    exec (.armPlay d) s =
      let u := finish (modPlay (dropPlayWatch t key) key fun p =>
        { p with
          trigger := opnd x 1 2, queue := opnd x 15 10, flagCmp := opnd x 25 2, oneShot := opBit x 27
          whistleStart := opBit x 28, whistleEnd := opBit x 29, flagVa := opnd x 64 48
          huddleNo := opnd x 112 16, flagValue := BitVec.ofNat 64 (opnd x 128 64)
          store := q, descBase := at_, state := .armed, armed := true }) (refKey d) Code.ok
      .next (settle (if opnd x 1 2 = 1 then
        addWatch u q { ctx := c, va := opnd x 64 48, cmp := opnd x 25 2, value := BitVec.ofNat 64 (opnd x 128 64)
                       who := .play key }
      else u))) ∧
  (∀ (s t : State) (d : DescRef) (f : Flight) (key : Nat) (p : Play), MayAct s d 0x0D f → t = actsOn s f →
    key = playKey f.ctx (opnd f.desc 0 16) → clean f.desc 16 432 = true → tget t.q.plays key = some p →
    exec (.disarmPlay d) s =
      completes (modPlay (dropPlayWatch t key) key fun p =>
        { p with armed := false, state := if p.state = .armed then .idle else p.state }) d Code.ok 0) ∧
  (∀ (s : State) (ctx no : Nat) (p : Play) (r : Queue), tget s.q.plays (playKey ctx no) = some p →
    queueOf s ctx p.queue = some r → p.state = .pending → r.state = .opened → p.descs.length ≤ ringFree r →
    running s = true → p.descs ≠ [] → sourcePasses (nodeId s) r.srcBase r.srcMask = true →
    exec (.playAppend ctx no) s =
      .next (modPlay (appendDescs s ctx p.queue p.descs (some (playKey ctx no))) (playKey ctx no) fun p =>
        { p with state := .running }))

/-- Whistle rings: opening, user whistles, merged records, and closing. A WHISTLE to an open ring puts a
record of kind 0x09 with the operand's value into the ring's order and waits for its write; where the
record is dropped it completes at once, OK or with the ring's loss. An OPEN_RING that passes its checks
opens the ring with the record given. A CLOSE_RING of an open ring writes its held records and waits for
its writes. When COALESCE_TIME has passed, a held record is written; HEAD of a full ring is asked for
again when its time has come. (R102, R104, R106, R107, R108, spec/03_queues_plays_whistles.md) -/
def Obligations.RingsAreOpenedWrittenAndClosed : Prop :=
  (∀ (s t : State) (d : DescRef) (f : Flight) (r : Ring), MayAct s d 0x0E f → t = actsOn s f →
    clean f.desc 16 48 = true → clean f.desc 128 320 = true →
    tget t.q.rings (ringKey f.ctx (opnd f.desc 0 16)) = some r →
    exec (.whistle d) s =
      let u := whistleNow (waitOn t (refKey d))
        { kind := 0x09, ctx := f.ctx, queue := f.queue, quarter := f.quarter, tag := bits f.desc 16 16
          detail := BitVec.ofNat 64 (opnd f.desc 64 64), ft := ftOf t f.quarter, seq := f.seq
          owner := some (refKey d) } (opnd f.desc 0 16)
      if recordDropped u (ringKey f.ctx (opnd f.desc 0 16)) (refKey d) = true then
        completes u d (r.lost.getD Code.ok) 0
      else .next (settle u)) ∧
  (∀ (s t : State) (d : DescRef) (f : Flight) (x : Desc) (c : Nat) (r : Ring), MayAct s d 0x12 f → t = actsOn s f →
    x = f.desc → c = namedCtx f (opnd x 16 12) → r = ringOf x c → opBit x 28 = false → opBit x 31 = false →
    clean x 37 3 = true → clean x 52 12 = true → clean x 96 32 = true → clean x 256 192 = true →
    4 ≤ r.sizeLog2 → r.sizeLog2 ≤ 20 →
    (r.baseKind = false → handleOffset r.base % (32 * 2 ^ r.sizeLog2) = 0) →
    ctxFieldStatus t f (opnd x 16 12) = Code.ok → thas t.q.rings (ringKey c r.no) = false → ringTargetOk t r = true →
    underQuota t c 0x13 (tcount t.q.rings fun _ r => r.ctx == c) = true →
    exec (.openRing d) s =
      completes { t with q := { t.q with rings := tset t.q.rings (ringKey c r.no) r } } d Code.ok 0) ∧
  (∀ (s t : State) (d : DescRef) (f : Flight) (key : Nat) (r : Ring), MayAct s d 0x13 f → t = actsOn s f →
    key = ringKey f.ctx (opnd f.desc 0 16) → clean f.desc 16 432 = true → tget t.q.rings key = some r →
    r.closing = none →
    exec (.closeRing d) s =
      .next (settle (modRing (flushAll (waitOn t (refKey d)) [(key, r)]) key fun r =>
        { r with closing := some (refKey d) }))) ∧
  (∀ (s : State) (ctx ring queue : Nat) (r : Ring) (h : Held), tget s.q.rings (ringKey ctx ring) = some r →
    tget r.held queue = some h → passedNs s h.since (if r.coalTime = 0 then 1000 else r.coalTime) = true →
    ringFull r = false →
    exec (.coalesceTimeout ctx ring queue) s = .next (settle (flushHeld s ctx ring queue))) ∧
  (∀ (s : State) (ctx ring : Nat) (r : Ring), tget s.q.rings (ringKey ctx ring) = some r → ringFull r = true →
    r.headAsked = false → r.lost = none → headDue s r = true → ringFlowOpen s r r.head = true →
    exec (.ringHeadReread ctx ring) s = .next (settle (askHead s (ringKey ctx ring) r)))

/-- Queues open, close and resume; cache lines and held flags lapse. An OPEN_QUEUE that passes its checks
opens the queue with a free record of its quarter, an F-queue's own only in C0. A CLOSE_QUEUE closes the
queue, its undispatched descriptors final with ABORTED, and completes once nothing of the queue is in
flight. A RESUME_QUEUE puts a queue in error back to open, with DISCARD first aborting what it holds. A
line older than its lifetime leaves its cache, and no other line does. A flagged write held too long is
forgotten and counted, without reply. Which free record it is is a free value. (R76, R77, R88, R109,
R120, R134, spec/03_queues_plays_whistles.md, spec/04_memory_model.md) -/
def Obligations.QueuesAreOpenedClosedAndResumed : Prop :=
  (∀ (s t : State) (d : DescRef) (f : Flight) (x : BitVec 96) (r : Queue), MayAct s d 0x09 f → t = actsOn s f →
    x = f.desc.extractLsb' 64 96 → r = queueRecord x (namedCtx f (bits x 0 12)) → queueMisaligned x = false →
    clean f.desc 96 352 = true → ctxFieldStatus t f (bits x 0 12) = Code.ok → queueOf t r.ctx r.queue = none →
    queueFits t r = true →
    exec (.openQueue d) s =
      completes (enterQueue t { r with
        fQueue := ((queueOf t f.ctx f.queue).map (·.fQueue)).getD false && r.ctx == 0 }) d Code.ok 0) ∧
  (∀ (s t : State) (d : DescRef) (f : Flight) (n : Nat) (r : Queue), MayAct s d 0x0A f → t = actsOn s f →
    n = opnd f.desc 0 10 → clean f.desc 10 438 = true → n ≠ 0 → queueOf t f.ctx n = some r → r.state ≠ .closed →
    tany t.q.plays (fun _ p => p.ctx == f.ctx && p.queue == n && decide (p.state ≠ .idle)) = false →
    exec (.closeQueue d) s =
      let u := modQueue (waitOn t (refKey d)) f.ctx n fun r => { r with state := .closed, closing := some (refKey d) }
      .next (settle (closeQueueIfEmpty (abortQueue u f.ctx n Code.aborted) f.ctx n))) ∧
  (∀ (s t : State) (d : DescRef) (f : Flight) (n c : Nat) (r : Queue), MayAct s d 0x0F f → t = actsOn s f →
    n = opnd f.desc 0 10 → c = namedCtx f (opnd f.desc 64 12) → clean f.desc 10 6 = true → clean f.desc 17 47 = true →
    clean f.desc 76 372 = true → ctxFieldStatus t f (opnd f.desc 64 12) = Code.ok → queueOf t c n = some r →
    r.state = .error →
    exec (.resumeQueue d) s =
      let u := if opBit f.desc 16 then completeFinal (abortQueue t c n Code.aborted) c n else t
      completes (modQueue u c n fun r => { r with state := .opened }) d Code.ok 0) ∧
  (∀ (s : State) (q cls ctx name : Nat), exec (.cacheLineExpire q cls ctx name) s =
    .next (dropLines s fun k l => k == cacheKey q cls && l.ctx == ctx && l.name == name && !l.data.isEmpty &&
      passedUs s l.since l.lifetime)) ∧
  (∀ (s : State) (q src srcQueue seq : Nat) (h : HeldWrite), s.net.heldFlags.get q = [h] → h.pkt.src = src →
    h.pkt.srcQueue = srcQueue → h.pkt.seq = seq → passedUs s h.since (resendTime s src) = true →
    exec (.flagHoldTimeout q src srcQueue seq) s =
      .next (bump (modFlow { s with net := { s.net with heldFlags := s.net.heldFlags.set q [] } } h.flow fun f =>
        { f with busy := f.busy.filter fun x => x != seq }) 0x6000 0x0E))

/-- COPY and FILL hold their ranges and start their requests. A COPY or FILL that passes its checks, with
room in its quarter's range tracker, looks up and holds the translations of its local ranges, waits, and
starts its work: the probes of sides that need more than one packet, then rows in ascending order cut
into packets, the flagged write last. Where the spans of a COPY's VA sides meet, every byte is read
before any is written, each byte of the overlap from its own source byte or from where the copy's write
over that byte came from, which of the two being free; a byte outside the overlap comes from its own
source byte. (R70, R90, R91, R92, R93, R124, spec/03_queues_plays_whistles.md, spec/04_memory_model.md) -/
def Obligations.MoversStartTheirWork : Prop :=
  (∀ (s t : State) (d : DescRef) (f : Flight) (fill : Bool) (m : MoverOp),
    MayAct s d (if fill then 0x21 else 0x20) f → t = actsOn s f → m = moverOp f.desc fill →
    moverMisaligned f.desc m = false →
    (((queueOf t f.ctx f.queue).map (·.fQueue)).getD false = true →
      (fill = true ∨ isRemote t m.src = false) ∧ isRemote t m.dst = false ∧
        (m.flagEn = true → isRemote t m.flag = false)) →
    trackerFull t f.quarter = false → moverCheck t f.ctx m = none →
    exec (if fill then .fill d else .copy d) s =
      let ranges :=
        (if fill then [] else localRanges m.src (rowOffsets m.rows m.srcPitch) m.rowBytes) ++
          localRanges m.dst (rowOffsets m.rows m.dstPitch) m.rowBytes ++
          (if m.flagEn then localRanges m.flag [0] 8 else [])
      let u := ranges.foldl (fun s r => lookupRange s f.quarter (moverStream f.engine f.ctx) f.ctx r.1 r.2) t
      let u := hold (waitOn u (refKey d)) f.quarter f.ctx (holdFlight (refKey d)) ranges
      let v := if (sidesMeet m).isSome then draw u else u
      .next (settle (startJob v (flightJob v (refKey d) f) (moverWork m (reg v 0x6000 0x03) u.fresh)))) ∧
  (∀ (m : MoverOp) (a b n fuel i : Nat),
    inSource m a (sideByte b m.dstPitch m.rowBytes i) = false ∨
      dstByteAt m b (sideByte a m.srcPitch m.rowBytes i) = none → copiedFrom m a b n fuel i = i)

/-- Reads, writes, flagged writes and atomics past their checks are performed. A fresh request that passes
the window checks or is covered by a reservation, and is held by no guard, is performed at its VA. A read
is answered with the bytes it reads, a write stores its data and is acknowledged, a flagged write whose
covered requests are all final and none refused stores and becomes the start of the next span, and an
atomic with room for its result reads the operand, stores the new value, keeps the result for copies, and
answers with the old value. (R68, R71, R72, R115, R132, R158, R163, spec/02_address_spaces.md,
spec/05_fabric_transactions.md) -/
def Obligations.WindowRequestsArePerformed : Prop :=
  (∀ (s t u : State) (p : Packet) (va : Nat), arrival s none p = .fresh t → p.op = 0x01 →
    passWindow t p p.bytes .read = (u, .ok va) → heldBy u (.request p) p.ctx [(va, p.bytes)] = none →
    (readVa u p.ctx va p.bytes).status = Code.ok →
    exec (.readReq p) s =
      let r := readVa u p.ctx va p.bytes
      .next (settle (sendReply (markDone r.st p) (pktHome p) (mkDataReply r.st p 0x42 Code.ok r.data)))) ∧
  (∀ (s t u : State) (i : Nat) (p : Packet) (va : Nat), arrival s (some i) p = .fresh t → p.op = 0x40 →
    passWindow t p p.bytes .write = (u, .ok va) → heldBy u (.request p) p.ctx [(va, p.bytes)] = none →
    (storeVa u p.ctx va p.data).status = Code.ok →
    exec (.write i p) s = .next (settle (ackDone (storeVa u p.ctx va p.data).st p))) ∧
  (∀ (s t u : State) (i : Nat) (p : Packet) (va : Nat) (f : Flow), arrival s (some i) p = .fresh t → p.op = 0x41 →
    tget t.net.flows (pktFlow p) = some f → coveredFinal f p.seq = true → spanRefused f p.seq = false →
    passWindow t p p.bytes .flagged = (u, .ok va) → heldBy u (.request p) p.ctx [(va, p.bytes)] = none →
    (storeVa u p.ctx va p.data).status = Code.ok →
    exec (.flaggedWrite i p) s =
      .next (settle (modFlow (ackDone (storeVa u p.ctx va p.data).st p) (pktFlow p) fun f => { f with spanFrom := p.seq }))) ∧
  (∀ (s t u : State) (p : Packet) (va : Nat), arrival s none p = .fresh t → isAtomicOp p.op = true →
    passWindow t p (atomicBytes p.op) .atomic = (u, .ok va) → heldBy u (.request p) p.ctx [(va, atomicBytes p.op)] = none →
    exec (.atomic p) s = .next (settle (performAtomic u p va))) ∧
  (∀ (s t u : State) (i : Nat) (p : Packet) (va : Nat), arrival s (some i) p = .fresh t → p.op = 0x45 →
    passWindow t p 8 .atomic = (u, .ok va) → heldBy u (.request p) p.ctx [(va, 8)] = none →
    exec (.cas64 i p) s = .next (settle (performAtomic u p va))) ∧
  (∀ (s t u : State) (i : Nat) (p : Packet) (va : Nat), arrival s (some i) p = .fresh t → p.op = 0x46 →
    passWindow t p 16 .atomic = (u, .ok va) → heldBy u (.request p) p.ctx [(va, 16)] = none →
    exec (.cas128 i p) s = .next (settle (performAtomic u p va))) ∧
  (∀ (u r w : State) (p : Packet) (va pa old : Nat), pa = (paOf u p.ctx va).getD 0 →
    resultsOn u (pktHome p) < 8192 → (atomicQueue u (controllerOf pa)).length < 1024 →
    r = touchLine (readVa (queueAtomic u pa p.op) p.ctx va (atomicBytes p.op)).st pa →
    (readVa (queueAtomic u pa p.op) p.ctx va (atomicBytes p.op)).status = Code.ok →
    old = ofLe (readVa (queueAtomic u pa p.op) p.ctx va (atomicBytes p.op)).data →
    (storeVa r p.ctx va (leBytes (atomicBytes p.op) (atomicNew p old))).status = Code.ok →
    w = markDone (storeVa r p.ctx va (leBytes (atomicBytes p.op) (atomicNew p old))).st p →
    performAtomic u p va =
      let e : ResultEntry := { old := BitVec.ofNat 128 old, ctx := p.ctx, since := u.now }
      replyAtomic { w with net := { w.net with results := tset w.net.results (resultKey (pktFlow p) p.seq) e } } p
        Code.ok (BitVec.ofNat 128 old))

/-- Probes reserve, pushes append, relays are re-issued. A fresh probe whose range passes all checks, with
room in the tracker, leaves a reservation of the range and is acknowledged. A fresh push that Table 4
passes, no lower SEQ of its flow missing, appends its descriptors in order and is acknowledged with their
count, and those that waited follow; with one missing it waits. A fresh relay request whose group admits
it starts one request to each member; a relay flagged write does so once the requests it covers are
final, and a copy of a request already performed is acknowledged again. A packet of an opcode that is not
listed is counted and not answered. (R71, R80, R81, R157, R173, R174, spec/02_address_spaces.md,
spec/03_queues_plays_whistles.md, spec/05_fabric_transactions.md) -/
def Obligations.ProbesPushesAndRelaysAreTaken : Prop :=
  (∀ (s t : State) (p : Packet) (op : Acc) (va : Nat), arrival s none p = .fresh t → op = probeOp (bits p.ext 102 2) →
    inboundCheck t (inboundOf p (bits p.ext 64 38) op) = .ok va → trackerFull t (pktHome p) = false →
    exec (.probe p) s =
      let r : Reservation :=
        { srcNode := p.src, srcQueue := p.srcQueue, srcInc := p.srcInc, ctx := p.ctx
          window := handleWindow p.handle, offset := handleOffset p.handle, length := bits p.ext 64 38, op := op
          seq := p.seq, since := t.now }
      let v := t.xlat.resv.get (pktHome p)
      let u := setResv (touchWindow t (pktHome p) (handleWindow p.handle)) (pktHome p) (tset v (freeFrom v 0) r)
      .next (settle (ackDone (lookupRange u (pktHome p) (inboundStream p.src p.ctx) p.ctx va (bits p.ext 64 38)) p))) ∧
  (∀ (s t : State) (i : Nat) (p : Packet), arrival s (some i) p = .fresh t → pushTurn t p = true →
    pushStatus t p = Code.ok →
    exec (.queuePush i p) s =
      let u := ackDone (appendDescs t (bits p.handle 26 12) (bits p.handle 16 10) (descsOf p.data) none) p
        (BitVec.ofNat 64 (p.bytes / 64))
      .next (settle (pumpPushes u.net.heldPushes.length u))) ∧
  (∀ (s t : State) (i : Nat) (p : Packet), arrival s (some i) p = .fresh t → pushTurn t p = false →
    exec (.queuePush i p) s =
      let u := markBusy t p
      .next (settle { u with net := { u.net with
        heldPushes := u.net.heldPushes ++ [{ pkt := p, flow := pktFlow p, since := u.now }] } })) ∧
  (∀ (s t : State) (i : Nat) (p : Packet) (g : GroupEntry), arrival s (some i) p = .fresh t → relayStatus t p = Code.ok →
    tget t.net.groups (p.aux % 4096) = some g → (tget t.net.flows (pktFlow p)).isSome = true →
    (p.op = 0x49 → ∀ f, tget t.net.flows (pktFlow p) = some f →
      coveredFinal f p.seq = true ∧ spanRefused f p.seq = false) →
    let u := modFlow t (pktFlow p) fun f => { f with busy := if f.busy.contains p.seq then f.busy else f.busy ++ [p.seq] }
    let j : Job := { kind := .relay p, ctx := p.ctx, gen := p.gen, quarter := pktHome p, engine := engPoint
                     srcQueue := issuer (pktHome p) 2, multicast := true }
    (p.op = 0x48 → exec (.relayWrite i p) s = .next (settle (startJob u j (relayWork p g.members)))) ∧
    (p.op = 0x49 → exec (.relayFlaggedWrite i p) s = .next (settle (startJob u j (relayWork p g.members))))) ∧
  (∀ (s t : State) (i : Nat) (p : Packet), arrival s (some i) p = .copy t →
    exec (.write i p) s = .next (settle (ackMerged t p)) ∧
    exec (.flaggedWrite i p) s = .next (settle (ackMerged t p)) ∧
    exec (.queuePush i p) s = .next (settle (ackMerged t p)) ∧
    exec (.relayWrite i p) s = .next (settle (ackMerged t p))) ∧
  (∀ (s : State) (p : Packet), isListedOp p.op = false →
    exec (.reservedOpcodePacket p) s = .next (bump s 0x3E00 0x0C))

/-- Replies and timers settle the requests outstanding. A reply of the right class, for this part and its
incarnation, whose check passes, teaches the part its sender's incarnation. An ACK of OK makes the
requests of its run final; an ACK of another status, and an ATOMIC_REPLY, READ_REPLY or CAS128_REPLY of a
request of its kind, makes its request final with status and data. A NACK counts; one that counts against
the re-sends re-sends at once, and one of the reasons 2 to 5 sets the back-off of 1 µs times 2 to the
power of n−1, at most T. A request whose T has passed, re-sends left, is sent again and counts, whatever
back-off is in force, and waits where its queue's limiter holds it; a malformed reply makes its request
final with MISALIGNED (log entry 33); a back-off that has passed re-sends without counting; 8T after its
first send a request is final with INTEGRITY, TIMEOUT or its unreachable status. Merged ACKs go out at
their time. An idle flow record and a result entry are freed after 3E00:04. (R150, R157, R161, R164,
R165, R166, R167, R169, R176, R507, spec/05_fabric_transactions.md) -/
def Obligations.RepliesAndTimersSettleRequests : Prop :=
  (∀ (s t : State) (p : Packet) (key : Nat) (r : Req), p.isData = isDataOp p.op → p.dst = nodeId s →
      p.dstInc = ownInc s → p.crcOk = true → replyMalformed p = false → t = learnInc s p.src p.srcInc →
      key = reqKey p.src p.srcQueue p.seq → tget t.net.reqs key = some r →
      (p.ext.extractLsb' 0 8 = Code.ok →
        exec (.ack p) s = .next (settle (ackRun t p (p.ext.extractLsb' 64 64)))) ∧
      (p.ext.extractLsb' 0 8 ≠ Code.ok →
        exec (.ack p) s =
          .next (settle (takeFinal t p key r (p.ext.extractLsb' 0 8) (p.ext.extractLsb' 64 64) []))) ∧
      (isAtomicOp r.pkt.op = true ∨ r.pkt.op = 0x45 →
        exec (.atomicReply p) s =
          .next (settle (takeFinal t p key r (p.ext.extractLsb' 0 8) (p.ext.extractLsb' 64 64)
            (leBytes 8 (bits p.ext 64 64))))) ∧
      (r.pkt.op = 0x01 → exec (.readReply p) s = .next (settle (takeFinal t p key r p.dataStatus 0 p.data))) ∧
      (r.pkt.op = 0x46 → exec (.cas128Reply p) s = .next (settle (takeFinal t p key r p.dataStatus 0 p.data))) ∧
      (2 ≤ bits p.ext 8 8 → bits p.ext 8 8 ≤ 5 →
        exec (.nack p) s =
          let r := { r with
            nacks := r.nacks + 1, drewOther := true
            backoff := some (t.now, min (resendTime t r.pkt.dst) (2 ^ (r.nacks + 1 - 1))) }
          .next (settle { t with net := { t.net with reqs := tset t.net.reqs key r } })) ∧
      (¬(2 ≤ bits p.ext 8 8 ∧ bits p.ext 8 8 ≤ 5) → r.resends < reg t 0x3E00 0x03 →
        exec (.nack p) s =
          .next (settle (resend t key { r with nacks := r.nacks + 1, drewCheck := true, resends := r.resends + 1 })))) ∧
  (∀ (s t : State) (p : Packet) (key : Nat) (r : Req), p.isData = isDataOp p.op → p.dst = nodeId s →
      p.dstInc = ownInc s → p.crcOk = true → replyMalformed p = true → t = learnInc s p.src p.srcInc →
      key = reqKey p.src p.srcQueue p.seq → tget t.net.reqs key = some r →
      let o := Host.Outcome.next (settle (finalReq t key r Code.misaligned 0 []))
      exec (.ack p) s = o ∧ exec (.nack p) s = o ∧ exec (.atomicReply p) s = o ∧ exec (.readReply p) s = o ∧
        exec (.cas128Reply p) s = o) ∧
  ((∀ (s : State) (node q seq : Nat) (r : Req), outstanding s node q seq = some r →
      passedUs s r.timerFrom (resendTime s node) = true → r.due = false → r.resends < reg s 0x3E00 0x03 →
      exec (.resendTimerExpire node q seq) s = .next (resend s (reqKey node q seq) { r with resends := r.resends + 1 })) ∧
    (∀ (s : State) (node q seq t w : Nat) (r : Req), outstanding s node q seq = some r → r.backoff = some (t, w) →
      passedUs s t w = true →
      exec (.nackBackoffExpire node q seq) s = .next (resend s (reqKey node q seq) { r with backoff := none })) ∧
    (∀ (s : State) (node q seq : Nat) (r : Req), outstanding s node q seq = some r →
      passedUs s r.firstSent (8 * resendTime s node) = true →
      exec (.requestGiveUp node q seq) s =
        .next (settle (finalReq s (reqKey node q seq) r
          (if r.drewCheck = true ∧ r.drewOther = false then Code.integrity
           else if r.drewOther = true ∧ r.drewCheck = false then Code.timeout
           else unreachableStatus r.pkt.op) 0 []))) ∧
    (∀ (s : State) (src q k : Nat) (m : MergedAck), s.net.acks = [(k, m)] → m.last.src = src → m.last.srcQueue = q →
      passedNs s m.since (reg s 0x3E00 0x05) = true →
      exec (.ackMergeExpire src q) s = .next (flushAck s k)) ∧
    (∀ (s : State) (src q inc : Nat) (f : Flow), tget s.net.flows (flowKey src q inc) = some f →
      passedUs s f.used (reg s 0x3E00 0x04) = true → f.busy = [] →
      exec (.flowRecordExpire src q inc) s =
        .next { s with net := { s.net with flows := tdel s.net.flows (flowKey src q inc) } }) ∧
    (∀ (s : State) (src q inc seq : Nat) (e : ResultEntry),
      tget s.net.results (resultKey (flowKey src q inc) seq) = some e → passedUs s e.since (reg s 0x3E00 0x04) = true →
      exec (.resultEntryExpire src q inc seq) s =
        .next { s with net := { s.net with results := tdel s.net.results (resultKey (flowKey src q inc) seq) } }))

/-- Packets are routed, cut, switched, fetched and sent. The oldest packet of a FIFO without an output is
routed; on the cycle that connects an input to a middle, the cell offered there is stored; on the cycle
that connects a middle to an output, the first sendable cell leaves the middle and reaches the output, a
spilled one that no fetch has brought back being fetched first; spilled cells among a buffer's first
sixteen are fetched; the next complete packet of a port leaves it, on a fabric port with its age in µs
and a frame counted, or is discarded and counted beyond the age limit. (R182, R185, R186, R193, R195,
R196, R197, R204, spec/06_switch_core.md) -/
def Obligations.PacketsCrossTheCore : Prop :=
  (∀ (s : State) (port fifo id : Nat) (c : CorePkt), s.core.stopped = false →
    oldestUnrouted s port fifo = some (id, c) →
    exec (.packetRoute port fifo) s = .next (routePkt s port fifo id c)) ∧
  (∀ (s : State) (port fifo middle : Nat), s.core.stopped = false → middle = (port + s.now) % 80 →
    tget s.core.fed port ≠ some (s.now + 1) → offered s port middle = some fifo →
    exec (.cellAdmit port fifo middle) s = .next (storeCell s port fifo middle (headCell s port fifo))) ∧
  (∀ (s : State) (middle output : Nat) (c : CoreCell), s.core.stopped = false → output = (middle + s.now) % 80 →
    tget s.core.gave middle ≠ some (s.now + 1) → sendable s middle output = some c →
    exec (.cellToOutput middle output) s =
      let k := cellKey middle output
      let u := (fetchCells (middleQuarter middle) s [c]).1
      let rest := ((tget u.core.cells k).getD []).filter fun x => x.order != c.order
      .next (c.pkts.foldl (reachOutput output) (setCore u { u.core with
        cells := if rest.isEmpty then tdel u.core.cells k else tset u.core.cells k rest
        gave := tset u.core.gave middle (u.now + 1) }))) ∧
  (∀ (q : Nat) (s : State) (c : CoreCell), (c.spilled = false ∨ c.staged = true) → fetchCells q s [c] = (s, [c])) ∧
  (∀ (s : State) (middle output : Nat) (l : List CoreCell), s.core.stopped = false →
    tget s.core.cells (cellKey middle output) = some l →
    exec (.spillFetch middle output) s =
      let r := fetchCells (middleQuarter middle) s (l.take 16)
      .next (setCore r.1 { r.1.core with cells := tset r.1.core.cells (cellKey middle output) (r.2 ++ l.drop 16) })) ∧
  (∀ (q : Nat) (s : State) (cs : List CoreCell) (c : CoreCell), c ∈ (fetchCells q s cs).2 → c.spilled = true → c.staged = true) ∧
  (∀ (s : State) (port id : Nat) (c : CorePkt) (t : OutTurn), s.core.stopped = false →
    nextOut s port = some ((id, c), t) →
    exec (.packetTransmit port) s =
      let u := dropPkt (setCore s { s.core with turns := tset s.core.turns port t }) id
      .next (if port < 64 then
          if reg u 0x3D00 0x03 * 1000 < ageNs u c then bump u 0x3D00 0x07
          else send (countFrame u port) (.packet port (ageNs u c / 1000) (leaving c))
        else if 2000000 < ageNs u c then bump u 0x3E00 0x0C
        else send u (.inner port (ageNs u c / 1000) (leaving c))))

/-- Flow words, port loads, and the limiters of congestion notes. An ACTIVE port whose last flow word is 1 µs
old sends its five states. A well-formed flow word received on an ACTIVE port sets the state held of each
virtual lane, and local packets held under XOFF of VL0 leave once it is over. Every 32 cycles the loads
of all 80 outputs are sampled. A congestion note for this part cuts the limiter of the issuing queue it
names, which starts at full rate where there is none. A limiter rises by a quarter of what it lacks 8 µs
after its last change, and is gone at 63/64 of its full rate. (R200, R204, R210, R211, R386, R389,
spec/06_switch_core.md, spec/13_lanes_bringup.md) -/
def Obligations.FlowControlAndCongestionAct : Prop :=
  (∀ (s : State) (port : Nat), (∀ t, tget s.core.refreshed port = some t → passedUs s t 1 = true) → port < 64 →
    portActive s port = true →
    exec (.flowRefresh port) s =
      .next (send (setCore s { s.core with refreshed := tset s.core.refreshed port s.now })
        (.flow port (flowStates s port)))) ∧
  (∀ (s : State) (port : Nat) (w : BitVec 64), port < 64 → portActive s port = true → bits w 4 4 = 2 → bits w 0 4 = 0 →
    bits w 18 46 = 0 → ((List.range 5).any fun v => bits w (8 + 2 * v) 2 == 3) = false →
    exec (.flowWord port w) s =
      .next (sendAllHeld (setCore s { s.core with
        xoffRecv := (List.range 5).foldl (fun t v => tset t (port * 8 + v) (bits w (8 + 2 * v) 2)) s.core.xoffRecv })
        port)) ∧
  (∀ s : State, s.core.sampledAt + 32 ≤ s.now →
    exec .portLoadSample s = .next (setCore s { s.core with
      loads := (List.range 80).foldl (fun t o => tset t o (portLoad s o)) s.core.loads, sampledAt := s.now })) ∧
  (∀ (s : State) (p : Packet), unsequencedBad p = false → extZero p 23 1 = true → extZero p 40 88 = true → p.dst = nodeId s →
    exec (.congNote p) s =
      let q := issuerQuarter p.srcQueue
      let t := s.core.limiters.get q
      .next (match tget t p.srcQueue with
        | some l => setLimiters s q (tset t p.srcQueue (cutLimiter s l))
        | none => setLimiters s q (tset (roomLimiter t) p.srcQueue
            (cutLimiter s { rate := rMax s p.srcQueue, rmax := rMax s p.srcQueue, lastChange := s.now })))) ∧
  (∀ (s : State) (k : Nat) (l : Limiter), tget (s.core.limiters.get (issuerQuarter k)) k = some l →
    passedUs s l.lastChange 8 = true →
    exec (.limiterIncrease k) s =
      let q := issuerQuarter k
      let rate := l.rate + (l.rmax - l.rate) / 4
      .next (setLimiters s q (if l.rmax * 63 ≤ rate * 64 then tdel (s.core.limiters.get q) k
        else tset (s.core.limiters.get q) k { l with rate := rate, lastChange := s.now })))

/-- Reduction groups are armed and take contributions. A GROUP_ARM that passes its checks, with room in the
range tracker of its home quarter, holds the destination's translations, takes accumulator space, enters
the group at rest and completes OK with the home quarter in DETAIL. A fresh REDUCE_CONTRIB past all
checks is accumulated, counted and acknowledged; one that fails them is refused with its status, and one
whose destination bytes a Caddie guard covers is held. A CONTRIBUTE that passes its checks holds its
local ranges and starts its packets. (R158, R224, R225, R226, R228, R235, spec/07_scrum_reduction.md) -/
def Obligations.GroupsAreArmedAndTakeContributions : Prop :=
  (∀ (s t : State) (d : DescRef) (f : Flight) (x : BitVec 320) (c : Nat) (g : Group) (va : Nat), MayAct s d 0x40 f →
    t = actsOn s f → x = f.desc.extractLsb' 64 320 → c = namedCtx f (bits x 1 12) → g = groupOf x c →
    groupReserved f.desc = false → groupMisaligned t g = false → ctxFieldStatus t f (bits x 1 12) = Code.ok →
    groupProtected t g = false → thas t.scrum.groups (groupKey c g.no) = false →
    va = ((groupWindow t g).map (·.baseVa)).getD 0 + g.destOffset →
    rangesCheck t c [(va, g.destBytes, .reduce)] = none → groupQuota t g = false → trackerFull t (steer c g.no) = false →
    exec (.groupArm d) s =
      let key := groupKey c g.no
      let h := { g with destVa := va, sram := (groupSpace t g).1, foil := (groupSpace t g).2, bank := freeBank t key }
      let u := hold t (steer c g.no) c (holdGroup key) [(va, g.destBytes)]
      completes (bumpBy { u with scrum := { u.scrum with groups := tset u.scrum.groups key h } } 0x6100 0x0D
        (groupSpace t g).2) d Code.ok (BitVec.ofNat 64 (steer c g.no))) ∧
  (∀ (s t u : State) (i : Nat) (p : Packet) (st : Status) (off : Nat), arrival s (some i) p = .fresh t →
    passWindow t p (contribLen t p) .reduce = (u, .error (st, off)) →
    exec (.reduceContrib i p) s = .next (settle (refuseReq u p st (BitVec.ofNat 64 off)))) ∧
  (∀ (s t u v : State) (i : Nat) (p : Packet) (va : Nat), arrival s (some i) p = .fresh t →
    passWindow t p (contribLen t p) .reduce = (u, .ok va) → heldBy u (.request p) p.ctx (contribLoads u p) = some v →
    exec (.reduceContrib i p) s = .next (settle (markBusy v p))) ∧
  (∀ (s t u v : State) (i : Nat) (p : Packet) (va off : Nat) (st : Status), arrival s (some i) p = .fresh t →
    passWindow t p (contribLen t p) .reduce = (u, .ok va) → heldBy u (.request p) p.ctx (contribLoads u p) = none →
    contributeAt u p = (v, st, off) →
    exec (.reduceContrib i p) s =
      .next (settle (if st = Code.ok then ackDone v p else refuseReq v p st (BitVec.ofNat 64 off)))) ∧
  (∀ (u v : State) (p : Packet) (g : Group) (segs : List (Nat × Bool)),
    tget u.scrum.groups (groupKey p.ctx (p.aux % 65536)) = some g → groupChecks g p = .ok segs →
    initStatus u g segs = (v, Code.ok) →
    contributeAt u p =
      (((segs.zip (cutRuns g.segIn (p.data.length + 1) p.data)).foldl
        (fun s x => addSeg s (groupKey p.ctx (p.aux % 65536)) x.1.1 x.1.2 x.2) (bump v 0x6100 0x08)), Code.ok, 0)) ∧
  (∀ (s t : State) (d : DescRef) (f : Flight) (src : Place) (len : Nat), MayAct s d 0x42 f → t = actsOn s f →
    src = placeOf (opBit f.desc 183) (opnd f.desc 0 64) →
    len = opnd f.desc 152 31 / 2 ^ opnd f.desc 188 4 * contribSeg f.desc → contribMisaligned f.desc = false →
    trackerFull t f.quarter = false → localSide t f.ctx src [0] len .read = none →
    exec (.contribute d) s =
      let ranges := localRanges src [0] len
      let u := ranges.foldl (fun s r => lookupRange s f.quarter (unitStream f.engine f.ctx f.queue) f.ctx r.1 r.2) t
      let u := hold (waitOn u (refKey d)) f.quarter f.ctx (holdFlight (refKey d)) ranges
      .next (settle (startJob u (flightJob u (refKey d) f) (contribWork u f.ctx f.desc))))

/-- Rounds end, are waited for, feed the step engine, and are checked in duplicate. A ROUND_WAIT of a group
in service completes at once for a round that has ended, with the group's last status and the round's
DETAIL, or with the failing status of a failed group, and otherwise waits; at its timeout it completes
TIMEOUT. A round whose gather and flag requests are all final ends. A finalised segment that waits is
taken by its stream. A GROUP_DISARM ends the group's ROUND_WAITs ABORTED and stops the group, which goes
once its finalisations in progress have completed; the descriptor completes OK then, or once the group's
requests are final. The duplicate checks of a quarter end in the order of finalisation; one that agrees
is counted and releases a segment withheld; one that differs counts a mismatch, leaves a record and
charges what the verdict says. (R231, R233, R237, R238, R241, R242, R243, R255,
spec/07_scrum_reduction.md) -/
def Obligations.RoundsEndAndAreWaitedFor : Prop :=
  (∀ (s t : State) (d : DescRef) (f : Flight) (g : Group) (past : Nat), MayAct s d 0x43 f → t = actsOn s f →
    clean f.desc 76 372 = true → ctxFieldStatus t f (opnd f.desc 64 12) = Code.ok →
    tget t.scrum.groups (groupKey (namedCtx f (opnd f.desc 64 12)) (opnd f.desc 0 16)) = some g →
    past = (g.round + 65536 - opnd f.desc 16 16) % 65536 → g.disarm = false →
    exec (.roundWait d) s =
      if g.state = 2 then completes t d g.failStatus 0
      else if 1 ≤ past ∧ past ≤ 32767 then completes t d g.lastStatus (roundDetail g)
      else .next (waitOn t (refKey d))) ∧
  (∀ (s : State) (d : DescRef) (f : Flight), waitingOp s d 0x43 = some f → opnd f.desc 32 32 ≠ 0 →
    passedUs s f.since (opnd f.desc 32 32) = true → exec (.roundWaitTimeout d) s = completes s d Code.timeout 0) ∧
  (∀ (s : State) (ctx no : Nat) (g : Group), tget s.scrum.groups (groupKey ctx no) = some g → g.state = 1 → g.ending = false →
    gatherOver s (groupKey ctx no) g = true →
    exec (.roundEnd ctx no) s = .next (settle (endRound s (groupKey ctx no) g))) ∧
  (∀ (s : State) (ctx no seg : Nat) (g : Group), tget s.scrum.groups (groupKey ctx no) = some g → g.state = 0 →
    (g.seg seg).stage = 1 →
    exec (.segmentFeed ctx no seg) s = .next (settle (feedSeg s (groupKey ctx no) seg))) ∧
  (∀ (s t : State) (d : DescRef) (f : Flight) (key : Nat) (g : Group), MayAct s d 0x41 f → t = actsOn s f →
    clean f.desc 16 48 = true → clean f.desc 76 372 = true → ctxFieldStatus t f (opnd f.desc 64 12) = Code.ok →
    key = groupKey (namedCtx f (opnd f.desc 64 12)) (opnd f.desc 0 16) → tget t.scrum.groups key = some g →
    g.disarm = false →
    exec (.groupDisarm d) s =
      let u := (roundWaiters (waitOn t (refKey d)) key).foldl (fun s w => finish s w.1 Code.aborted) (waitOn t (refKey d))
      let h := { g with disarm := true, disarmBy := some (refKey d) }
      let u := { u with scrum := { u.scrum with groups := tmod u.scrum.groups key fun g => { g with disarm := true, disarmBy := some (refKey d) } } }
      .next (settle (
        if g.finalising = true ∧ g.state ≠ 2 then u
        else if gatherLive u key then dropGroup u key h
        else finish (dropGroup u key h) (refKey d) Code.ok))) ∧
  (∀ (s : State) (key : Nat) (g : Group) (b : Nat), tget s.scrum.groups key = some g → g.disarm = true →
    g.disarmBy = some b → (g.finalising = false ∨ g.state = 2) →
    disarmEnds s key = if gatherLive s key then dropGroup s key g else finish (dropGroup s key g) b Code.ok) ∧
  (∀ (s t : State) (n : Nat) (c : DupCheck), tget s.scrum.checks n = some c →
    (s.scrum.checks.any fun x => x.2.checker == c.checker && decide (x.1 < n)) = false → c.orphan = false →
    t = bump (modGroup { s with scrum := { s.scrum with checks := tdel s.scrum.checks n } } c.group fun g =>
      { g with checks := satInc 16 g.checks }) 0x6100 0x0A →
    exec (.duplicateCheckDone n .same) s = .next (settle (if c.hold then releaseHeld t c else t)) ∧
    ∀ first count third, exec (.duplicateCheckDone n (.differs first count third)) s =
      let u := mismatchRecord (bump (modGroup t c.group fun g => { g with mismatches := satInc 16 g.mismatches })
        0x6100 0x0C) c first count
      .next (settle (
        if c.hold = false then chargeCluster (chargeCluster u c.quarter c.cluster) c.checker c.checkCluster
        else if third = 0 then releaseHeld (chargeCluster u c.checker c.checkCluster) c
        else if third = 1 then releaseHeld (chargeCluster u c.quarter c.cluster) c
        else failGroup (chargeCluster (chargeCluster u c.quarter c.cluster) c.checker c.checkCluster) c.group
          Code.integrity))) ∧
  (∀ (s : State) (n : Nat) (c : DupCheck), tget s.scrum.checks n = some c →
    (s.scrum.checks.any fun x => x.2.checker == c.checker && decide (x.1 < n)) = false → c.orphan = true →
    exec (.duplicateCheckDone n .same) s =
      .next (settle (bump { s with scrum := { s.scrum with checks := tdel s.scrum.checks n } } 0x6100 0x0A)))

/-- Streams are armed and disarmed; applies start, wait, and end. A STREAM_ARM that passes its checks, with
room in the range tracker, holds the translations of the stream's ranges, enters the stream and completes
OK. A STREAM_DISARM releases them, removes the stream and completes OK. A STEP_APPLY that passes its
first checks waits and is tried; with the open innings, no CLIP_EN, and neither an apply of that innings
taken nor one waiting, it starts. An apply of every parameter, or one that stops, whose emission is final
completes with its status, the emission status and the count of non-finite parameters in DETAIL, and the
ledger goes on as the end of an apply says. (R248, R251, R252, R254, R256, R257, R264,
spec/08_step_engine.md) -/
def Obligations.StreamsAreArmedAndApply : Prop :=
  (∀ (s t : State) (d : DescRef) (f : Flight) (x : BitVec 416) (c : Nat) (st : Stream), MayAct s d 0x60 f →
    t = actsOn s f → x = f.desc.extractLsb' 64 416 → c = namedCtx f (bits x 1 12) → st = streamOf x f.quarter c →
    streamReserved f.desc = false → streamMisaligned t st = false → ctxFieldStatus t f (bits x 1 12) = Code.ok →
    (st.emitEn && (groupFor t st.emitGroup c 0).isNone) = false →
    thas t.step.streams (streamKey f.quarter st.no) = false → (ledgerOf t c).state = 0 →
    bankCheck t c st.ranges = none →
    underQuota t c 0x19 (tcount t.step.streams fun _ x => x.ctx == c) = true → trackerFull t f.quarter = false →
    exec (.streamArm d) s =
      let key := streamKey f.quarter st.no
      let u := hold t f.quarter c (holdStream key) st.ranges
      completes { u with step := { u.step with streams := tset u.step.streams key st } } d Code.ok 0) ∧
  (∀ (s t : State) (d : DescRef) (f : Flight) (n c key : Nat) (st : Stream), MayAct s d 0x61 f → t = actsOn s f →
    n = opnd f.desc 64 12 → c = namedCtx f n → key = streamKey f.quarter (opnd f.desc 0 6) →
    clean f.desc 6 58 = true → clean f.desc 76 372 = true → ctxFieldStatus t f n = Code.ok →
    tget t.step.streams key = some st → st.ctx = c → ((ledgerOf t c).state = 0 ∨ (ledgerOf t c).state = 6) →
    rebuilding t c = false →
    exec (.streamDisarm d) s =
      let u := release t (holdStream key)
      completes (dropApplies { u with step := { u.step with streams := tdel u.step.streams key } } key st) d Code.ok 0) ∧
  (∀ (s t : State) (d : DescRef) (f : Flight), MayAct s d 0x62 f → t = actsOn s f → applyReserved f.desc = false →
    clipsFed t f = false → ctxFieldStatus t f (opnd f.desc 384 12) = Code.ok → rebuilding t (applyCtx f) = false →
    exec (.stepApply d) s = .next (settle (tryApply (waitOn t (refKey d)) (refKey d)))) ∧
  (∀ (s : State) (fk key : Nat) (f : Flight) (st : Stream), tget s.q.flights fk = some f →
    key = streamKey f.quarter (opnd f.desc 0 6) → tget s.step.streams key = some st → st.ctx = applyCtx f →
    opnd f.desc 8 32 = (ledgerOf s st.ctx).innings →
    ((ledgerOf s st.ctx).state = 0 ∨ (ledgerOf s st.ctx).state = 1) → st.innings ≠ some (opnd f.desc 8 32) →
    applyWaiting s fk f = false → st.state ≠ 3 → opBit f.desc 40 = false →
    tryApply s fk = startApply s key st fk fp32One) ∧
  (∀ (s t : State) (d : DescRef) (f : Flight) (key : Nat) (st : Stream) (j : Option Job) (status : Status),
    waitingOp s d 0x62 = some f →
    applyStreamOf s (refKey d) = some key → tget s.step.streams key = some st → j = jobOf s (.emission key) →
    ((j.map (·.isDone)).getD true && (st.failing.isSome || st.done == st.params)) = true →
    status = f.forced.getD (st.failing.getD Code.ok) →
    t = modStream (endJob s (.emission key)) key (fun st => { st with
      flight := none, failing := none
      state := if status = Code.ok then 2 else if st.state = 3 then 3 else 0
      applied := if status = Code.ok then st.innings.getD 0 else st.applied }) →
    exec (.applyComplete d) s =
      .next (settle (applyEnds (finish t (refKey d) status
        (BitVec.ofNat 64 (((j.map (·.status)).getD Code.ok).toNat + st.nonFinite % 2 ^ 32 * 2 ^ 32))) st.ctx status)))

/-- The innings ledger is armed, aborted and resolved; parity and committed copies. A LEDGER_ARM that passes
its checks names the two huddles and completes OK. A LEDGER_ABORT stops the applies and aborts the
innings from OPEN or APPLYING, is recorded in APPLIED, aborts from PARITY, and completes OK, unless the
innings was committed on this cycle. A LEDGER_RESOLVE in IN_DOUBT commits or aborts and completes OK. A
PARITY_ARM that passes its checks holds the parity banks, enters the record and completes OK. When every
row of a context is written the rows are final and the part votes to commit; when one has failed it votes
to abort. An EMIT_COMMITTED of a stream that does not emit completes OK at once; one that does reads the
committed weights and starts their packets, or is held while a guard has the weights' bytes. (R260, R262,
R263, R264, R265, R266, R267, R269, R270, R271, spec/08_step_engine.md) -/
def Obligations.TheLedgerAndItsParity : Prop :=
  (∀ (s t : State) (d : DescRef) (f : Flight) (n c : Nat) (h1 h2 : Huddle), MayAct s d 0x63 f → t = actsOn s f →
    n = opnd f.desc 64 12 → c = namedCtx f n → clean f.desc 33 31 = true → clean f.desc 76 372 = true →
    ctxFieldStatus t f n = Code.ok → (ledgerOf t c).state = 0 → (ledgerOf t c).innings = (ledgerOf t c).committed + 1 →
    ledgerHuddle t c (opnd f.desc 0 16) = some h1 → ledgerHuddle t c (opnd f.desc 16 16) = some h2 → h1.combine = 2 →
    h2.combine = 2 →
    exec (.ledgerArm d) s =
      completes (modLedger t c fun l => { l with
        armed := true, prepare := opnd f.desc 0 16, commit := opnd f.desc 16 16, prepareEn := opBit f.desc 32 })
        d Code.ok 0) ∧
  (∀ (s t : State) (d : DescRef) (f : Flight) (n c state : Nat), MayAct s d 0x65 f → t = actsOn s f →
    n = opnd f.desc 64 12 → c = namedCtx f n → state = (ledgerOf t c).state → clean f.desc 0 64 = true →
    clean f.desc 76 372 = true → ctxFieldStatus t f n = Code.ok → state ≠ 4 → state ≠ 5 →
    committedNow t c = false →
    exec (.ledgerAbort d) s =
      completes (if state ≤ 1 then runAll (abortOpen (stopApplies t c) c)
        else if state = 2 then modLedger t c fun l => { l with abortRecorded := true }
        else if state = 3 then runAll (abortParity t c)
        else t) d Code.ok 0) ∧
  (∀ (s t : State) (d : DescRef) (f : Flight) (n c : Nat), MayAct s d 0x66 f → t = actsOn s f →
    n = opnd f.desc 64 12 → c = namedCtx f n → clean f.desc 1 63 = true → clean f.desc 76 372 = true →
    ctxFieldStatus t f n = Code.ok → (ledgerOf t c).state = 5 →
    exec (.ledgerResolve d) s =
      completes (if opBit f.desc 0 then commitInnings t c else ledgerAborts t c) d Code.ok 0) ∧
  (∀ (s t : State) (d : DescRef) (f : Flight) (x : BitVec 284) (c : Nat) (p : ParityRec) (st : Stream),
    MayAct s d 0x64 f → t = actsOn s f → x = f.desc.extractLsb' 64 284 → c = namedCtx f (bits x 272 12) →
    p = parityOf x f.quarter c → parityReserved f.desc = false → parityMisaligned t p = false →
    streamFor t f.quarter p.stream c = some st → parityOverlaps t p st = false →
    ctxFieldStatus t f (bits x 272 12) = Code.ok → (ledgerOf t c).state = 0 →
    thas t.step.parity (streamKey f.quarter p.stream) = false → rebuilding t c = false →
    bankCheck t c (p.banks st) = none → tcount t.step.parity (fun _ r => r.quarter == f.quarter) < 64 →
    trackerFull t f.quarter = false →
    exec (.parityArm d) s =
      let key := streamKey f.quarter p.stream
      let u := hold t f.quarter c (holdParity key) (p.banks st)
      completes { u with step := { u.step with parity := tset u.step.parity key p } } d Code.ok 0) ∧
  (∀ (s : State) (ctx : Nat) (rows : List (Nat × ParityRec)) (failed : Bool),
    (ledgerOf s ctx).state = 3 → rows = s.step.parity.filter (fun x => x.2.ctx == ctx) →
    failed = ((rows.any fun x => x.2.row == 3 || x.2.row == 4) ||
      (rows.map fun x => jobOf s (.parity x.1 (ledgerOf s ctx).innings)).any fun j => (j.bind (·.failed)).isSome) →
    (failed = true → exec (.parityComplete ctx) s = .next (settle (runAll (abortParity s ctx)))) ∧
    (failed = false →
      ((rows.map fun x => jobOf s (.parity x.1 (ledgerOf s ctx).innings)).all fun j => (j.map (·.isDone)).getD false) =
        true →
      exec (.parityComplete ctx) s =
        .next (settle (runAll (goReady (stopRows (rows.foldl (fun s x => setRow s x.1 2) s) ctx) ctx))))) ∧
  (∀ (s t : State) (d : DescRef) (f : Flight) (n c : Nat) (st : Stream), MayAct s d 0x67 f → t = actsOn s f →
    n = opnd f.desc 64 12 → c = namedCtx f n → clean f.desc 6 58 = true → clean f.desc 76 372 = true →
    ctxFieldStatus t f n = Code.ok → streamFor t f.quarter (opnd f.desc 0 6) c = some st →
    ((ledgerOf t c).state = 0 ∨ (ledgerOf t c).state = 6) →
    (st.emitEn = false → exec (.emitCommitted d) s = completes t d Code.ok 0) ∧
    (∀ (g : GroupEntry) (k : Nat) (w : Access1) (data : Bytes), st.emitEn = true → groupFor t st.emitGroup c 0 = some g →
      k = (ledgerOf t c).committed → w = readVa t c (st.bank k) (st.params * 4) → w.status = Code.ok →
      heldBy t (.command (refKey d)) c [(st.bank k, st.params * 4)] = none →
      data = encodeElems st.emitFmt (roundings st.emitStochastic (roundSeed t c) (0xF000 + 64 * f.quarter + st.no) k 0
        st.params) (words32 w.data) →
      exec (.emitCommitted d) s =
        .next (settle (startNumbered (waitOn w.st (refKey d)) { flightJob t (refKey d) f with
          ctx := c, gen := ctxGen t c, srcQueue := issuer f.quarter (8 + st.no), multicast := true }
          (memberWork (committedWork st k data) 0 g.members)))) ∧
    (∀ (g : GroupEntry) (u : State), st.emitEn = true → groupFor t st.emitGroup c 0 = some g →
      heldBy t (.command (refKey d)) c [(st.bank (ledgerOf t c).committed, st.params * 4)] = some u →
      exec (.emitCommitted d) s = .next u))

/-- Arenas are armed and disarmed; the background work of the tiers. An ARENA_ARM that passes its checks,
with room in the range tracker, holds the arena's translations, lays out its directory and free map and
completes with the count of entries it made invalid. An ARENA_DISARM of an armed arena closes it to new
commands and completes once none reads it. Every 100 microseconds LARGEST is sampled for every arena.
While background work runs: a mapped region whose clear-map bit is set is filled with zeros; a tile of an
arena to be compacted moves, still coded, to a lower free run; a patrolled line with no error changes
nothing, a correctable error is counted, recorded and charged, and an uncorrectable one poisons the
granule and is recorded. An invalid address stops as one that does not exist. (R283, R284, R293, R294,
R300, R302, R303, spec/09_tiers_tiles_pewter.md) -/
def Obligations.ArenasAreArmedAndKept : Prop :=
  (∀ (s t : State) (d : DescRef) (f : Flight) (x : BitVec 192) (c : Nat) (a : Arena), MayAct s d 0x80 f → t = actsOn s f →
    x = f.desc.extractLsb' 64 192 → c = namedCtx f (bits x 1 12) → a = arenaOf x f.quarter c →
    arenaReserved f.desc = false → arenaMisaligned t a = false → ctxFieldStatus t f (bits x 1 12) = Code.ok →
    thas t.pewter.arenas (arenaKey c a.no) = false →
    tany t.pewter.arenas (fun _ o => o.ctx == c && rangesMeet o.range a.range) = false →
    codecCheck t c a.base (a.sectors * 4096) = none → t.pewter.arenas.length < 1024 →
    underQuota t c 0x1A (tcount t.pewter.arenas fun _ o => o.ctx == c) = true → trackerFull t f.quarter = false →
    exec (.arenaArm d) s =
      let key := arenaKey c a.no
      let r := layArena (hold t f.quarter c (holdArena key) [a.range]) key a
      completes r.1 d r.2.1 (BitVec.ofNat 64 r.2.2)) ∧
  (∀ (s t : State) (d : DescRef) (f : Flight) (n key : Nat) (a : Arena), MayAct s d 0x81 f → t = actsOn s f →
    n = opnd f.desc 64 12 → key = arenaKey (namedCtx f n) (opnd f.desc 0 8) → clean f.desc 8 56 = true →
    clean f.desc 76 372 = true → ctxFieldStatus t f n = Code.ok → tget t.pewter.arenas key = some a → a.closing = false →
    exec (.arenaDisarm d) s =
      .next (settle (closeArena (modArena (waitOn t (refKey d)) key fun a => { a with closing := true, closer := some (refKey d) }) key))) ∧
  (∀ s : State, passedUs s s.pewter.sampledAt 100 = true → exec .arenaLargestSample s =
    .next { s with pewter := { s.pewter with
      arenas := tmap s.pewter.arenas fun _ a => { a with largest := a.largestRun }, sampledAt := s.now } }) ∧
  (∀ (s : State) (pa c : Nat), paValid s pa = true → background s = true → reg s 0x5000 0x05 = 1 →
    inHardware s pa = false → paTier pa ≠ 3 → tget s.mem.region (pa / 65536) = none →
    mapperOf s (pa / 65536 * 65536) = some c →
    exec (.backgroundZeroFill pa) s = .next (fillRegion s (pa / 65536) (ctxKey s c))) ∧
  (∀ (s u v w : State) (ctx arena tile key p : Nat) (a : Arena) (e : DirEntry) (h : TileHdr) (b : Bytes) (x : Access1),
    key = arenaKey ctx arena → tget s.pewter.arenas key = some a → background s = true → compacts s a = true →
    tile < a.tiles → readDir s key a tile = (u, .ok e) → e.valid = true → placeFrom e.sectors 0 a.gaps = some p →
    p < e.first → readRunOf u a e = (v, .ok (h, b)) → x = writeVa v a.ctx (a.sectorVa p) (h.bytes ++ b) →
    x.status = Code.ok →
    writeDir (modArena x.st key fun a => { a with used := insertRun (p, e.sectors) a.used }) key a tile
      { e with first := p } = (w, Code.ok) →
    exec (.compactionMove ctx arena tile) s =
      .next (settle (writeMap (modArena (bumpBy w 0x5000 0x10 e.sectors) key fun a =>
        retireRun a e.first e.sectors) key))) ∧
  (∀ (s : State) (pa g : Nat), g = pa / granuleSize pa * granuleSize pa → paValid s pa = true → background s = true →
    paTier pa ≠ 3 →
    exec (.patrolScrub pa .clean) s = .next s ∧
    exec (.patrolScrub pa .corrected) s =
      .next (settle (charge (raise (bump { s with mem := { s.mem with soft := s.mem.soft.filter fun x => x != g } } 0x5000 0x09)
        { cls := 0x09, quarter := some (paQuarter g), ctx := mapperOf s g, unitKind := memUnitKind g
          unit := paUnit g, d0 := g }) (memUnitKind g) (paUnit g) (paQuarter g) 64)) ∧
    exec (.patrolScrub pa .uncorrectable) s =
      let poisoned := if s.mem.poison.contains g then s.mem.poison else s.mem.poison ++ [g]
      let t := uncorrectable { s with mem := { s.mem with poison := poisoned } } g
        (mapperOf { s with mem := { s.mem with poison := poisoned } } g)
      .next (settle (if inHardware t g && decide (areaStart t 5 ≤ paOffset g) then overflowHit t (paUnit g) else t))) ∧
  (∀ (s : State) (pa : Nat) (o : Scrub), paValid s pa = false →
    exec (.backgroundZeroFill pa) s = .fault (.noSuchAddress pa) ∧
    exec (.patrolScrub pa o) s = .fault (.noSuchAddress pa))

/-- Tile commands: pack, unpack, move, free, stat. A TILE_PACK that passes its checks holds its ranges, joins
its arena's readers and starts reading its plain rows. The other four read their tile's directory entry.
One that is not VALID fails with TRANSLATION_FAULT and the tile number. On a VALID one: an unpack whose
header agrees probes its plain side, then decodes the run and starts writing the plain rows; a move
places the coded run at its destination and goes on to its flag; a free makes the entry invalid, retires
the run and completes with the VERSION; a stat completes with sectors, mode, format and VERSION. (R285,
R291, R295, R296, R297, R298, R299, spec/09_tiers_tiles_pewter.md) -/
def Obligations.TilesArePackedReadMovedAndFreed : Prop :=
  (∀ (s t : State) (d : DescRef) (f : Flight) (key fmt : Nat) (a : Arena), MayAct s d 0x82 f → t = actsOn s f →
    key = arenaKey f.ctx (opnd f.desc 160 8) → fmt = opnd f.desc 194 4 → tileBehind t (refKey d) f.desc = false →
    tileMisaligned 0x82 f.desc = false → arenaFor t f.ctx (opnd f.desc 160 8) (opnd f.desc 168 24) = some a →
    tileSides t f.ctx f.desc (some (fmt, .read)) = none → trackerFull t f.quarter = false →
    exec (.tilePack d) s =
      let u := setTileWork (beginTile t (refKey d) f key (some fmt)) (refKey d)
        { arena := key, tile := opnd f.desc 168 24 }
      .next (settle (startJob u (flightJob u (refKey d) f) (plainProbe f.desc fmt 0 ++ packReads f.desc)))) ∧
  (∀ (s u : State) (d : DescRef) (f : Flight) (op key tile : Nat) (a : Arena) (e : DirEntry),
    op = 0x83 ∨ op = 0x84 ∨ op = 0x85 ∨ op = 0x86 → MayAct s d op f → key = arenaKey f.ctx (opnd f.desc 160 8) →
    tile = opnd f.desc 168 24 → tileBehind (actsOn s f) (refKey d) f.desc = false → tileMisaligned op f.desc = false →
    arenaFor (actsOn s f) f.ctx (opnd f.desc 160 8) tile = some a →
    (op = 0x84 → (arenaFor (actsOn s f) f.ctx (opnd f.desc 224 8) (opnd f.desc 232 24)).isNone = false) →
    readDir (actsOn s f) key a tile = (u, .ok e) →
    (e.valid = false →
      exec (if op = 0x83 then .tileUnpack d else if op = 0x84 then .tileMove d else if op = 0x85 then .tileFree d
        else .tileStat d) s = completes u d Code.translationFault (BitVec.ofNat 64 tile)) ∧
    (op = 0x83 → e.valid = true → ∀ (h : Access1) (out : Nat), out = opnd f.desc 198 4 →
      h = readVa u a.ctx (a.sectorVa e.first) 64 → h.status = Code.ok → unpackBad (tileHdrOf h.data) f.desc = false →
      tileSides h.st f.ctx f.desc (some (out, .write)) = none → trackerFull h.st f.quarter = false →
      exec (.tileUnpack d) s =
        let w : TileWork := { arena := key, tile := tile, first := e.first, sectors := e.sectors, version := e.version
                              phase := 3, detail := BitVec.ofNat 64 e.version }
        let t := setTileWork (beginTile h.st (refKey d) f key (some out)) (refKey d) w
        .next (settle (if (plainProbe f.desc out 1).isEmpty then unpackRun t (refKey d) f w
          else startJob t (flightJob t (refKey d) f) (plainProbe f.desc out 1)))) ∧
    (op = 0x84 → e.valid = true → ∀ (v w : State) (h : TileHdr) (b : Bytes) (n dst : Nat),
      dst = arenaKey f.ctx (opnd f.desc 224 8) → tileSides u f.ctx f.desc none = none → trackerFull u f.quarter = false →
      readRunOf (joinArena (beginTile u (refKey d) f key none) dst (readerOf (refKey d))) a e = (v, .ok (h, b)) →
      placeTile v dst (opnd f.desc 232 24) h b = (w, .ok n) →
      exec (.tileMove d) s =
        .next (settle (tileFlagPhase w (refKey d) f { arena := dst, source := some key, tile := opnd f.desc 232 24, first := e.first, sectors := e.sectors, version := e.version } (BitVec.ofNat 64 n)))) ∧
    (op = 0x85 → e.valid = true → ∀ v : State, writeDir u key a tile { e with valid := false } = (v, Code.ok) →
      exec (.tileFree d) s =
        completes (writeMap (modArena v key fun a => retireRun a e.first e.sectors) key) d Code.ok
          (BitVec.ofNat 64 e.version)) ∧
    (op = 0x86 → e.valid = true → ∀ r : Access1, r = readVa u a.ctx (a.sectorVa e.first) 64 → r.status = Code.ok →
      exec (.tileStat d) s =
        completes r.st d Code.ok (BitVec.ofNat 64 (e.sectors + (tileHdrOf r.data).mode * 2 ^ 13 +
          (tileHdrOf r.data).fmt * 2 ^ 15 + e.version * 2 ^ 32)))) ∧
  (∀ (s v : State) (fk : Nat) (f : Flight) (w : TileWork) (a : Arena) (x : TileRead) (plain : Bytes),
    tget s.pewter.arenas w.arena = some a → a.failed = false →
    readTile s a { valid := true, first := w.first, sectors := w.sectors, version := w.version } f.quarter
      (f.engine - 18) = (v, .ok x) →
    plain = plainOf x.hdr (opnd f.desc 198 4) x.data →
    unpackRun s fk f w =
      let t := setTileWork (bumpBy v 0x5000 0x0D plain.length) fk { w with phase := 1 }
      startJob t (flightJob t fk f) (unpackWrites f.desc plain ++ tileFlag f.desc))

/-- Caddie streams are armed and disarmed, waited for, and flushed. A CADDIE_ARM past its checks, whose
entries can be read and none of which is faulty, copies the entries, holds its ranges, watches its cursor
words and completes OK. A CADDIE_DISARM enters disarming, ends the waits ABORTED, and completes once
nothing is in flight. A CADDIE_WAIT completes with the stream's MISSES in DETAIL: at once for an entry
that has landed, with the failing status of a failed stream, ABORTED on a disarming one, else it waits;
at its timeout it completes TIMEOUT. A CADDIE_FLUSH with no guarded slot writes back every slot that owes
it and completes with the count; where a guard has one of them it is held. (R306, R307, R309, R317, R321,
R322, spec/10_caddie.md) -/
def Obligations.CaddieStreamsAreArmedWaitedForAndFlushed : Prop :=
  (∀ (s t : State) (d : DescRef) (f : Flight) (x : BitVec 256) (n key : Nat) (c : CaddieStream) (r : Access1),
    MayAct s d 0xA0 f → t = actsOn s f → x = f.desc.extractLsb' 64 256 → n = bits x 9 12 →
    c = caddieOf x f.quarter (namedCtx f n) t.now → key = caddieKey c.quarter c.ctx c.no →
    caddieReserved f.desc = false → c.count ≠ 0 → c.count ≤ 4096 → ctxFieldStatus t f n = Code.ok →
    sideCheck t c.ctx [(c.entryVa, c.count * 64)] .read = none →
    heldBy t (.command (refKey d)) c.ctx [(c.entryVa, c.count * 64)] = none →
    r = readVa t c.ctx c.entryVa (c.count * 64) → r.status = Code.ok → caddieMisaligned r.st c = false →
    firstBadEntry c 0 (descsOf r.data) = none → thas r.st.caddie.streams key = false →
    caddiePages r.st c = none → caddieQuota r.st c = false → trackerFull r.st c.quarter = false →
    exec (.caddieArm d) s =
      let e := { c with entries := (descsOf r.data).map schedOf }
      let u := hold r.st c.quarter c.ctx (holdCaddie key) e.ranges
      completes (watchCursor { u with caddie := { u.caddie with streams := tset u.caddie.streams key e } } key e) d
        Code.ok 0) ∧
  (∀ (s t : State) (d : DescRef) (f : Flight) (n key : Nat), MayAct s d 0xA1 f → t = actsOn s f → n = opnd f.desc 64 12 →
    key = caddieKey f.quarter (namedCtx f n) (opnd f.desc 0 8) → clean f.desc 8 56 = true →
    clean f.desc 76 372 = true → ctxFieldStatus t f n = Code.ok →
    (caddieFor t f.quarter (namedCtx f n) (opnd f.desc 0 8)).isNone = false →
    exec (.caddieDisarm d) s =
      .next (settle (closeCaddie (wakeCaddie (modCaddie (waitOn t (refKey d)) key fun c =>
        { c with state := 2, closing := some (refKey d) }) key Code.aborted) key))) ∧
  (∀ (s t : State) (d : DescRef) (f : Flight) (n : Nat) (c : CaddieStream), MayAct s d 0xA2 f → t = actsOn s f →
    n = opnd f.desc 96 12 → clean f.desc 20 12 = true → clean f.desc 108 340 = true → ctxFieldStatus t f n = Code.ok →
    tget t.caddie.streams (caddieKey f.quarter (namedCtx f n) (opnd f.desc 0 8)) = some c →
    exec (.caddieWait d) s =
      if c.hasLanded (opnd f.desc 8 12) (opnd f.desc 32 32) then completes t d Code.ok (BitVec.ofNat 64 c.misses)
      else if c.state = 3 then completes t d c.failStatus (BitVec.ofNat 64 c.misses)
      else if c.state = 2 then completes t d Code.aborted (BitVec.ofNat 64 c.misses)
      else .next (settle (waitOn t (refKey d)))) ∧
  (∀ (s : State) (d : DescRef) (f : Flight), waitingOp s d 0xA2 = some f → opnd f.desc 64 32 ≠ 0 →
    passedUs s f.since (opnd f.desc 64 32) = true →
    exec (.caddieWaitTimeout d) s =
      completes s d Code.timeout
        (caddieMisses s (caddieKey f.quarter (namedCtx f (opnd f.desc 96 12)) (opnd f.desc 0 8)))) ∧
  (∀ (s t : State) (d : DescRef) (f : Flight) (n key : Nat) (c : CaddieStream), MayAct s d 0xA3 f → t = actsOn s f →
    n = opnd f.desc 64 12 → key = caddieKey f.quarter (namedCtx f n) (opnd f.desc 0 8) → clean f.desc 8 56 = true →
    clean f.desc 76 372 = true → ctxFieldStatus t f n = Code.ok →
    caddieFor t f.quarter (namedCtx f n) (opnd f.desc 0 8) = some c →
    heldBy t (.command (refKey d)) (namedCtx f n)
      ((c.occupants.filter fun x => c.owesBack x.2).map fun x => (c.slotAt x.1, c.slotBytes)) = none →
    exec (.caddieFlush d) s =
      let r := (c.occupants.filter fun x => c.owesBack x.2).foldl (fun (r : State × Status × Nat) x =>
        ((writeBack r.1 key c x.1 x.2).1,
          if r.2.1 = Code.ok then (writeBack r.1 key c x.1 x.2).2 else r.2.1,
          if (writeBack r.1 key c x.1 x.2).2 = Code.ok then r.2.2 + 1 else r.2.2)) (t, Code.ok, 0)
      completes r.1 d r.2.1 (BitVec.ofNat 64 r.2.2)) ∧
  (∀ (s t u : State) (d : DescRef) (f : Flight) (n : Nat) (c : CaddieStream), MayAct s d 0xA3 f → t = actsOn s f →
    n = opnd f.desc 64 12 → clean f.desc 8 56 = true → clean f.desc 76 372 = true → ctxFieldStatus t f n = Code.ok →
    caddieFor t f.quarter (namedCtx f n) (opnd f.desc 0 8) = some c →
    heldBy t (.command (refKey d)) (namedCtx f n)
      ((c.occupants.filter fun x => c.owesBack x.2).map fun x => (c.slotAt x.1, c.slotBytes)) = some u →
    exec (.caddieFlush d) s = .next u)

/-- Caddie entries start, land or fail, and miss their deadlines. The entry NEXT of a stream starts where all
that R310 names holds. The oldest entry in flight of an index whose steps are over lands with status OK,
or fails and fails its stream. An entry in flight past its deadline, not missed before, counts a miss of
its stream; an entry not yet started past its deadline counts one once, and what it waits for goes on.
(R310, R314, R315, R316, R319, R320, spec/10_caddie.md) -/
def Obligations.CaddieEntriesStartAndLand : Prop :=
  (∀ (s : State) (q ctx no : Nat) (c : CaddieStream), tget s.caddie.streams (caddieKey q ctx no) = some c →
    canStart s c = true → s.core.stopped = false →
    exec (.caddieEntryStart q ctx no) s = .next (settle (startEntry s (caddieKey q ctx no) c))) ∧
  (∀ (s t : State) (q ctx no i : Nat) (c : CaddieStream) (x : FlyEntry) (st : Status) (h : Tbl TileHdr),
    tget s.caddie.streams (caddieKey q ctx no) = some c → c.flying.find? (fun x => x.index == i) = some x →
    s.core.stopped = false → landSteps s (caddieKey q ctx no) c (c.entry x.index) x = some (t, st, h) →
    exec (.caddieEntryLand q ctx no i) s =
      .next (settle (if st = Code.ok then landEntry t (caddieKey q ctx no) c (c.entry x.index) x h
        else closeCaddie (failEntry t (caddieKey q ctx no) x st) (caddieKey q ctx no)))) ∧
  (∀ (s : State) (q ctx no i : Nat) (c : CaddieStream) (x : FlyEntry),
    tget s.caddie.streams (caddieKey q ctx no) = some c →
    c.flying.find? (fun x => x.index == i && !x.missed &&
      overdue s (c.entry i) (c.reference (c.entry i) x.pass (some x.reference))) = some x →
    exec (.caddieDeadlineMiss q ctx no i) s = .next (missEntry s (caddieKey q ctx no) x)) ∧
  (∀ (s : State) (q ctx no i p : Nat) (c : CaddieStream), tget s.caddie.streams (caddieKey q ctx no) = some c →
    c.flying.find? (fun x => x.index == i && !x.missed &&
      overdue s (c.entry i) (c.reference (c.entry i) x.pass (some x.reference))) = none →
    c.waitPass i = some p → c.waitMissed.contains (i, p) = false →
    overdue s (c.entry i) (c.reference (c.entry i) p (c.waitFrom (c.entry i) i p)) = true →
    exec (.caddieDeadlineMiss q ctx no i) s =
      .next (modCaddie (countMiss s (caddieKey q ctx no) i) (caddieKey q ctx no) fun c =>
        { c with waitMissed := c.waitMissed ++ [(i, p)] }))

/-- Contexts are created, torn down, reset, resumed, and given groups. A CONTEXT_CREATE that may be written
and passes the checks of R333 makes the context and is answered OK; one that fails them changes nothing
of it and is answered with the first failing status. A CONTEXT_TEARDOWN or CONTEXT_RESET of an ACTIVE
context other than C0 stops it; of any other it is answered LOCKED. QUEUE_RESUME_DICT resumes a queue as
RESUME_QUEUE without DISCARD does. GROUP_ENTRY_WRITE of a well-formed entry in the context's range sets
the group's members, kind and sources for the context's current generation, or clears it. (R333, R334,
R335, R336, R337, R345, R349, R350, spec/11_contexts_isolation.md) -/
def Obligations.ContextsAreMadeAndStopped : Prop :=
  (∀ (s t : State) (via : Via) (w : Who) (c : Nat), askedBy s via = some (t, w) → c < 4096 →
    writeStatus t w (ctxIdx c) 0x03 1 = Code.ok →
    exec (.contextCreate via c) s =
      answersTo s (if createStatus t c = Code.ok then makeContext t c else t) via (answer (createStatus t c))) ∧
  (∀ (s t : State) (via : Via) (w : Who) (c : Nat), askedBy s via = some (t, w) → c < 4096 →
    writeStatus t w (ctxIdx c) 0x03 2 = Code.ok →
    exec (.contextTeardown via c) s =
      if c = 0 ∨ ctxState t c ≠ 1 then answersTo s t via (answer Code.locked)
      else answersTo s (stopContext t c false) via (answer Code.ok)) ∧
  (∀ (s t : State) (via : Via) (w : Who) (c : Nat), askedBy s via = some (t, w) → c < 4096 →
    writeStatus t w (ctxIdx c) 0x03 3 = Code.ok →
    exec (.contextReset via c) s =
      if c = 0 ∨ ctxState t c ≠ 1 then answersTo s t via (answer Code.locked)
      else answersTo s (stopContext t c true) via (answer Code.ok)) ∧
  (∀ (s t : State) (via : Via) (w : Who) (c n : Nat), askedBy s via = some (t, w) → c < 4096 →
    writeStatus t w (ctxIdx c) 0x22 n = Code.ok → namedCtxStatus t c = Code.ok → n < 1024 →
    (queueOf t c n).isNone = false →
    exec (.queueResumeDict via c n) s = answersTo s (resumeQueue t c n false) via (answer Code.ok)) ∧
  (∀ (s t : State) (via : Via) (w : Who) (c num n kind base : Nat) (b : Bytes) (e : BitVec 64), askedBy s via = some (t, w) →
    otherTransfer t via (ctxIdx c) 0x30 = false → c < 4096 → writeStatus t w (ctxIdx c) 0x30 0 = Code.ok →
    num = ofLe (b.take 2) → e = BitVec.ofNat 64 (ofLe ((b.drop 2).take 8)) → n = bits e 30 9 → kind = bits e 1 1 →
    base = reg t (ctxIdx c) 0x1F → num ≤ 4095 → bit e 39 = false → b.length = 10 + 4 * n →
    (bit e 0 = true → 0 < n ∧ n ≤ 256 ∧ (memberWords (b.drop 10)).any (memberBad kind) = false) →
    namedCtxStatus t c = Code.ok → (c ≠ 0 → base ≤ num ∧ num < base + reg t (ctxIdx c) 0x20) →
    exec (.groupEntryWrite via c b) s =
      let g : GroupEntry := { kind := kind, ctx := c, gen := ctxGen t c, srcBase := bits e 40 12, srcMask := bits e 52 12, members := memberWords (b.drop 10) }
      answersTo s { t with net := { t.net with
        groups := if bit e 0 then tset t.net.groups num g else tdel t.net.groups num } } via (answer Code.ok))

/-- A teardown drains, takes the generation step, and clears. A stopped context that has drained takes the
generation step; when the drain limit 7000:81 has passed first, its descriptors and requests are
abandoned with CONTEXT_RETIRED, a record is left, and it takes the generation step. When the clear phase
ends the context's pages and records are freed, the longest clear time is kept, and the context is FREE,
or EXHAUSTED where its generation ran out, or made again where the teardown was a reset. (R339, R340,
R341, R342, R343, R345, spec/11_contexts_isolation.md) -/
def Obligations.TeardownDrainsStepsAndClears : Prop :=
  (∀ (s : State) (c : Nat), ctxState s c = 2 → drained s c = true →
    exec (.teardownDrainEnd c) s = .next (settle (generationStep s c))) ∧
  (∀ (s : State) (c : Nat) (x : Teardown), tget s.ctx.teardowns c = some x → ctxState s c = 2 →
    passedUs s x.since (reg s 0x7000 0x81) = true →
    exec (.teardownDrainLimit c) s =
      .next (settle (generationStep (raise (abandonRequests (abandonFlights s c) c)
        { cls := 0x0F, status := Code.contextRetired, ctx := some c }) c))) ∧
  (∀ (s t : State) (c : Nat) (x : Teardown), ctxState s c = 3 → tget s.ctx.teardowns c = some x →
    t = (let u := freeRecords (freePages s c) c
      let u := setReg u 0x7000 0x84 (max (reg u 0x7000 0x84) (usSince u x.clearFrom))
      { u with ctx := { u.ctx with teardowns := tdel u.ctx.teardowns c } }) →
    (x.reset = true → x.exhausted = false →
      exec (.clearPhaseEnd c) s =
        .next (if (createContext (setCtxState t c 0) c).2 = Code.ok then (createContext (setCtxState t c 0) c).1
          else raise (createContext (setCtxState t c 0) c).1
            { cls := 0x10, status := (createContext (setCtxState t c 0) c).2, ctx := some c })) ∧
    (x.reset = false ∨ x.exhausted = true →
      exec (.clearPhaseEnd c) s =
        .next (setCtxState (closeSessions
          { t with dict := { t.dict with blocks := tdel t.dict.blocks (ctxIdx c * 256 + 0x21) } }
          fun x => x.principal == 1 && x.ctx == c) c (if x.exhausted then 4 else 0))))

/-- A write of 8100:02 is a decision of this part. A principal T (the operator key being written) or F fences
a node by writing its ID to 8100:02: the write answers OK and is a decision of this part, a fence with
CAUSE 2 and this part as its origin, at the LAST_INC that the part holds for the node. The write is
refused with PROTECTION, and nothing changes, when it names this part. (R359) -/
def Obligations.AFenceCommandIsADecision : Prop :=
  ∀ (s t : State) (via : Via) (w : Who) (n : Nat), askedBy s via = some (t, w) →
    (w.principal = 0 ∧ t.fw.operatorKey.isSome = true ∨ w.principal = 3) → n < 4096 →
    (n = nodeId t → exec (.fenceCommand via n) s = answersTo s t via (answer Code.protection)) ∧
    (∀ inc : Nat, n ≠ nodeId t → tget t.net.lastInc n = some inc →
      exec (.fenceCommand via n) s =
        answersTo s (applyFence t n inc 2 (nodeId t) (ftOf t 0) none) via (answer Code.ok))

/-- Nodes are fenced, unfenced and lost; last gasps are marked. FENCE_NOTICE, its repeats, a node loss and a
gasp mark answer a next state in every state. A well-formed FENCE_NOTICE on an ACTIVE port fences or
unfences the node it names; of this node it fences this part at its present incarnation and changes
nothing at another. Repeats due are sent and counted down; with none due, nothing. A node without a link
for 8100:01 is declared lost; with a link back, nothing. A well-formed LAST_GASP marks its sender, and
the mark goes after 10 ms. On a port that is not ACTIVE a packet changes nothing, and one not well formed
is discarded and counted. A fence of a node that is fenced already changes nothing. A write of 8100:02
naming this node is answered PROTECTION, and naming another decides its fence. (R5, R353, R354, R355,
R356, R357, R359, R362, R363, R367, spec/12_failure_recovery.md) -/
def Obligations.NodesAreFencedAndLost : Prop :=
  (∀ (s : State) (port : Nat) (p : Packet),
    let x := p.ext
    let bad := p.op ≠ 0xE1 ∨ unsequencedBad p = true ∨ 3 < bits x 17 3 ∨ (bits x 17 3 = 3 ∧ bit x 16 = false) ∨
      bits x 32 32 ≠ 0
    (portActive s port = false → exec (.fenceNotice port p) s = .next s) ∧
    (portActive s port = true → bad → exec (.fenceNotice port p) s = .next (bump s 0x3E00 0x0C)) ∧
    (portActive s port = true → ¬bad → bits x 0 12 = nodeId s → bit x 16 = false → bits x 12 4 = ownInc s →
      exec (.fenceNotice port p) s = .next (settle (selfFence s))) ∧
    (portActive s port = true → ¬bad → bits x 0 12 = nodeId s → (bit x 16 = true ∨ bits x 12 4 ≠ ownInc s) →
      exec (.fenceNotice port p) s = .next s) ∧
    (portActive s port = true → ¬bad → bits x 0 12 ≠ nodeId s → bit x 16 = true →
      exec (.fenceNotice port p) s = .next (settle (applyUnfence s (bits x 0 12) (bits x 12 4) (bits x 17 3)
        (bits x 20 12) (x.extractLsb' 64 64) (some port)))) ∧
    (portActive s port = true → ¬bad → bits x 0 12 ≠ nodeId s → bit x 16 = false →
      exec (.fenceNotice port p) s = .next (settle (applyFence s (bits x 0 12) (bits x 12 4) (bits x 17 3)
        (bits x 20 12) (x.extractLsb' 64 64) (some port))))) ∧
  (∀ (s : State) (n : Nat),
    let due (x : Notice) : Bool := bits x.operand 0 12 == n &&
      ((x.repeats == 2 && passedUs s x.since 100) || (x.repeats == 1 && passedUs s x.since 500))
    exec (.fenceNoticeRepeat n) s = .next ((s.recov.notices.filter due).foldl
      (fun s x => floodLocal s none 0xE1 x.operand)
      (setRecov s { s.recov with
        notices := s.recov.notices.map fun x => if due x then { x with repeats := x.repeats - 1 } else x })) ∧
    ((s.recov.notices.any due) = false → exec (.fenceNoticeRepeat n) s = .next s)) ∧
  (∀ (s : State) (n : Nat),
    (∀ since, tget s.recov.lossFrom n = some since → linkedTo s n = false →
      passedUs s since (reg s 0x8100 0x01) = true → exec (.nodeLossTimeout n) s = .next (settle (declareLost s n 0))) ∧
    ((tget s.recov.lossFrom n = none ∨ linkedTo s n = true) → exec (.nodeLossTimeout n) s = .next s)) ∧
  (∀ (s : State) (port : Nat) (p : Packet),
    let bad := p.op ≠ 0x09 ∨ unsequencedBad p = true ∨ bits p.ext 8 56 ≠ 0 ∨ bits p.ext 0 4 = 0 ∨ 3 < bits p.ext 0 4
    (portActive s port = false → exec (.lastGasp port p) s = .next s) ∧
    (portActive s port = true → bad → exec (.lastGasp port p) s = .next (bump s 0x3E00 0x0C)) ∧
    (portActive s port = true → ¬bad →
      exec (.lastGasp port p) s = .next (setRecov s { s.recov with gasps := tset s.recov.gasps p.src s.now }))) ∧
  (∀ (s : State) (n : Nat),
    (∀ since, tget s.recov.gasps n = some since → passedMs s since 10 = true →
      exec (.gaspMarkExpire n) s = .next (setRecov s { s.recov with gasps := tdel s.recov.gasps n })) ∧
    (∀ since, tget s.recov.gasps n = some since → passedMs s since 10 = false →
      exec (.gaspMarkExpire n) s = .next s) ∧
    (tget s.recov.gasps n = none → exec (.gaspMarkExpire n) s = .next s)) ∧
  (∀ (s : State) (n inc cause origin : Nat) (ft : FT) (skip : Option Nat), isFenced s n = true →
    applyFence s n inc cause origin ft skip = s) ∧
  (∀ (s t : State) (via : Via) (w : Who) (n : Nat), askedBy s via = some (t, w) →
    writeStatus t w 0x8100 0x02 n = Code.ok →
    exec (.fenceCommand via n) s =
      if n = nodeId t then answersTo s t via (answer Code.protection)
      else answersTo s (decideFence t n 2) via (answer Code.ok))

/-- The power-warning stop, step by step. A power warning sends a LAST_GASP on every ACTIVE link, leaves a
critical record and stops the applies; 100 µs after it the descriptors in flight issue nothing more; at
150 µs they complete and the held whistles go out; when the warning has cleared for 1 ms dispatch
resumes, at once where the stop has run to its end. (R258, R365, R366, R367, R479,
spec/12_failure_recovery.md, spec/17_power_reset_pins.md) -/
def Obligations.PowerWarningStopsThePart : Prop :=
  (∀ (s : State), s.pwr.pwrOk = true → s.recov.warnedAt = none →
    exec .powerWarning s =
      let t := bump (noteDeferral { s with pwr := { s.pwr with warnLow := true } } s.now) 0x9000 0x14
      let t := setRecov t { t.recov with warnHigh := none }
      if t.recov.warnedAt.isSome then .next t
      else
        let u := raise (sendGasp t 1 15) { cls := 0x14, critical := true }
        .next (settle (stopAllApplies (setRecov u { u.recov with warnedAt := some u.now, warnPhase := 0 })
          Code.aborted))) ∧
  (∀ (s : State) (since : Nat), s.recov.warnedAt = some since → s.recov.warnPhase = 0 → passedUs s since 100 = true →
    exec .powerStopIssue s =
      let t := setRecov s { s.recov with warnPhase := 1 }
      .next (settle (t.q.flights.foldl (fun s x => stopFlight s x.1 Code.aborted) t))) ∧
  (∀ (s : State) (since : Nat), s.recov.warnedAt = some since → s.recov.warnPhase = 1 → passedUs s since 150 = true →
    exec .powerStopAbandon s =
      let t := abandonAll s
      let u := setRecov (flushAll t t.q.rings) { t.recov with warnPhase := 2 }
      .next (settle (if u.recov.warnHigh.isSome then resumeDispatch u else u))) ∧
  (∀ (s : State), s.recov.warnedAt.isSome = true → s.pwr.pwrOk = true →
    exec .powerWarningClear s =
      let t := noteDeferral { s with pwr := { s.pwr with warnLow := false } } (s.now - 1800000)
      .next (settle (if t.recov.warnPhase = 2 then resumeDispatch t
        else setRecov t { t.recov with warnHigh := some t.now })))

/-- Rebuild of a lost part, adoption, and replay of an innings. A REBUILD_START of three numbers that passes
its checks enters the rebuild and starts one record's work for each parity record that names the lost
part. A record whose work has ended counts, adds what it wrote, and puts the spare in the lost part's
place where it ended OK, else leaves a record, or none where its context was retired. An ADOPT_INNINGS of
a fresh ledger sets COMMITTED, INNINGS and REPLAYING. An INNINGS_REPLAY in ABORTED opens the innings
after COMMITTED with REPLAYING set, and in OPEN sets REPLAYING; then applies that wait are tried again.
(R368, R369, R370, R371, R372, spec/12_failure_recovery.md) -/
def Obligations.RowsAreRebuiltAndInningsReplayed : Prop :=
  (∀ (s t : State) (via : Via) (w : Who) (c lost spare : Nat), askedBy s via = some (t, w) →
    otherTransfer t via 0x8100 0x03 = false → writeStatus t w 0x8100 0x03 0 = Code.ok → c < 4096 → lost < 4096 →
    spare < 4096 → lost ≠ spare → lost ≠ nodeId t → spare ≠ nodeId t → namedCtxStatus t c = Code.ok →
    (recordsNaming t c lost).isEmpty = false → isFenced t lost = true →
    ((ledgerOf t c).state = 0 ∨ (ledgerOf t c).state = 6) → rebuilding t c = false →
    exec (.rebuildStart via (leBytes 2 c ++ leBytes 2 lost ++ leBytes 2 spare)) s =
      let r : Rebuild := { lost := lost, spare := spare, records := (recordsNaming t c lost).length }
      answersTo s ((recordsNaming t c lost).foldl (startRebuild lost spare)
        (setRecov t { t.recov with rebuilds := tset t.recov.rebuilds c r })) via (answer Code.ok)) ∧
  (∀ (s t : State) (c k : Nat) (j : Job) (p : ParityRec) (r : Rebuild) (st : Stream) (status : Status),
    jobOf s (.rebuild k) = some j → tget s.step.parity k = some p → tget s.recov.rebuilds c = some r →
    tget s.step.streams k = some st → j.isDone = true → p.ctx = c →
    status = (if r.status = Code.ok then j.status else r.status) →
    t = (let u := endJob s j.kind
      let r' : Rebuild := { r with done := r.done + 1, written := r.written + rebuildWritten s p st r j, status := status, state := if r.records ≤ r.done + 1 then (if status = Code.ok then 2 else 3) else r.state }
      setRecov u { u.recov with rebuilds := tset u.recov.rebuilds c r' }) →
    exec (.rebuildRecordDone c k) s =
      if j.status = Code.ok then
        .next (settle { t with step := { t.step with parity := tmod t.step.parity k fun p' =>
          { p' with nodes := p.nodes.set ((lostIndex p r.lost).getD 0) r.spare } } })
      else if j.status = Code.contextRetired then .next (settle t)
      else .next (settle (raise t { cls := 0x19, quarter := some p.quarter, status := j.status, ctx := some c, node := some r.lost, d0 := domainWord (domainOf t r.lost) }))) ∧
  (∀ (s t : State) (via : Via) (w : Who) (c v : Nat), askedBy s via = some (t, w) →
    otherTransfer t via 0x8100 0x06 = false → writeStatus t w 0x8100 0x06 0 = Code.ok → c < 4096 → 0 < v →
    v < 2 ^ 32 → namedCtxStatus t c = Code.ok → (ledgerOf t c).state = 0 → (ledgerOf t c).innings = 1 →
    (ledgerOf t c).committed = 0 → tany t.step.streams (fun _ x => x.ctx == c) = false →
    exec (.adoptInnings via (leBytes 2 c ++ leBytes 4 v)) s =
      answersTo s (modLedger t c fun l =>
        { l with committed := v, innings := min (v + 1) (2 ^ 32 - 1), replaying := true, openFt := ftOf t (c % 4), commitFt := ftOf t (c % 4) })
        via (answer Code.ok)) ∧
  (∀ (s t : State) (via : Via) (w : Who) (c : Nat), askedBy s via = some (t, w) →
    writeStatus t w 0x8100 0x07 c = Code.ok → namedCtxStatus t c = Code.ok →
    ((ledgerOf t c).state = 6 →
      exec (.inningsReplay via c) s =
        answersTo s (retryApplies (modLedger (reopenStreams t c) c fun l =>
          { l with state := 0, innings := min (l.committed + 1) (2 ^ 32 - 1), replaying := true, openFt := ftOf t (c % 4), abortRecorded := false, prepareSent := false, voted := false }) c) via (answer Code.ok)) ∧
    ((ledgerOf t c).state = 0 →
      exec (.inningsReplay via c) s =
        answersTo s (retryApplies (modLedger t c fun l => { l with replaying := true }) c) via (answer Code.ok)))

/-- The fault queue's commands and the suspect scores. Consuming no more fault records than are held takes
them from the head and leaves the count of the rest in 8000:02; consuming more is answered MISALIGNED.
Writing 0 to 8000:03 clears the summary bits. Every second each score loses a 64th. A UNIT_RESTORE of a
unit that exists returns it to service with score 0, and of one that does not is answered MISALIGNED. The
refusal of a count beyond what is held is the model's (log entry 25). (R373, R377, R378,
spec/12_failure_recovery.md) -/
def Obligations.FaultsAreConsumedAndUnitsRestored : Prop :=
  (∀ (s t : State) (via : Via) (w : Who) (n : Nat), askedBy s via = some (t, w) →
    writeStatus t w 0x8000 0x05 n = Code.ok →
    exec (.faultRecordsConsume via n) s =
      if n ≤ t.recov.faults.length then
        answersTo s (setReg (setRecov t { t.recov with faults := t.recov.faults.drop n }) 0x8000 0x02
          (t.recov.faults.length - n)) via (answer Code.ok)
      else answersTo s t via (answer Code.misaligned)) ∧
  (∀ (s t : State) (via : Via) (w : Who), askedBy s via = some (t, w) → writeStatus t w 0x8000 0x03 0 = Code.ok →
    exec (.faultSummaryClear via 0) s = answersTo s (setReg t 0x8000 0x03 0) via (answer Code.ok)) ∧
  (∀ (s : State), passedMs s s.recov.decayedAt 1000 = true →
    exec .suspectDecay s = .next (setRecov s { s.recov with
      decayedAt := s.now, suspects := tmap s.recov.suspects fun _ x => { x with score := x.score - x.score / 64 } })) ∧
  (∀ (s t : State) (via : Via) (w : Who) (kind unit : Nat), askedBy s via = some (t, w) →
    otherTransfer t via 0x8200 0x02 = false → writeStatus t w 0x8200 0x02 0 = Code.ok → kind < 256 → unit < 65536 →
    exec (.unitRestore via (kind + 256 * unit)) s =
      if unitExists kind unit then answersTo s (restoreUnit t kind unit) via (answer Code.ok)
      else answersTo s t via (answer Code.misaligned))

/-- Comma lock and the SERVE exchange. Comma lock on a lane of a port in DETECT takes the port to SERVE with
a new ATTEMPT, and in SERVE marks the lane; losing it unmarks the lane. A port in SERVE sends its message
on all four lanes. A well-formed message on a lane with comma lock gives the peer's ATTEMPT; an OFFER is
taken, and where it echoes this side's ATTEMPT the two sides' choice is made; an ACCEPT is taken. SERVE
ends in DETECT after 3B00:01. (R390, R391, R392, R397, R410, spec/13_lanes_bringup.md) -/
def Obligations.PortsServe : Prop :=
  (∀ (s : State) (n i : Nat), n < 64 → i < 4 → s.pwr.up = true → s.pwr.clocksLost.contains (1 + n / 16) = false →
    (portState s n = stDetect →
      exec (.commaLock n i) s = .next (enterServe (modLane s n i fun x => { x with comma := true }) n)) ∧
    (portState s n = stServe →
      exec (.commaLock n i) s = .next (modLane s n i fun x => { x with comma := true }) ∧
      exec (.commaLockLost n i) s = .next (modLane s n i fun x => { x with comma := false }))) ∧
  (∀ (s : State) (n : Nat), n < 64 → portState s n = stServe →
    exec (.serveMessageSend n) s =
      .next ((List.range 4).foldl (fun s i => send s (.linkWord n 1 (leBytes 16 (serveWord s (linkOf s n) i)))) s)) ∧
  (∀ (s : State) (n i : Nat) (m : BitVec 128), n < 64 → portState s n = stServe →
    ((linkOf s n).lane i).comma = true → bits m 4 4 = 1 → bits m 25 7 = 0 → bits m 112 16 = 0 →
    exec (.serveMessage n i m) s =
      let t := modLink s n fun l => { l with peerAttempt := bits m 80 16 }
      .next (if bits m 0 4 = 1 then takeOffer t n m else if bits m 0 4 = 2 then takeAccept t n m else t)) ∧
  (∀ (s : State) (n : Nat), n < 64 → portState s n = stServe →
    passedUs s (linkOf s n).since (reg s 0x3B00 0x01) = true →
    exec (.serveTimeout n) s = .next (enterDetect s n))

/-- Training frames, ALIGN blocks, and the time limits of EQUALISE and LOCK. On a lane in use of a port in
EQUALISE a training frame's request and status are taken where their CRC is good. A port in EQUALISE
sends a frame on each lane; COUNTDOWN runs once both sides are content, and the frame with 0 takes it to
LOCK, where only the peer's COUNTDOWN is still taken. A failed EQUALISE counts against its rate, and the
third in succession leaves the rate out. Once the peer's COUNTDOWN has reached 0, ALIGN blocks in their
places lock a lane; when every lane is locked and the peer says so the port enters CAPABILITY; on an
ACTIVE port they are noted, or ask for RECOVER. LOCK ends in SERVE after 100 µs. (R393, R394, R395, R396,
R397, R398, R399, spec/13_lanes_bringup.md) -/
def Obligations.LanesEqualiseAndLock : Prop :=
  (∀ (s t : State) (n i : Nat) (req st : BitVec 32) (content : Bool), n < 64 → portState s n = stEqualise →
    (linkOf s n).rxLanes.testBit i = true →
    t = (let u := if (linkOf s n).countdown.isNone then modLane s n i (fun x => { x with done := content }) else s
      if crc8Ok req then takeRequest u n i req else u) →
    exec (.trainingFrame n i req st content) s = .next (if crc8Ok st then takeStatus t n i st else t)) ∧
  (∀ (s : State) (n i : Nat) (req st : BitVec 32) (content : Bool), n < 64 → portState s n = stLock →
    (linkOf s n).rxLanes.testBit i = true →
    exec (.trainingFrame n i req st content) s =
      .next (if crc8Ok st = true ∧ bits st 10 4 = 0 then modLink s n fun l => { l with peerStarted := true } else s)) ∧
  (∀ (s t : State) (n : Nat) (count : Option Nat), n < 64 → portState s n = stEqualise →
    count = (if (linkOf s n).countdown.isSome then (linkOf s n).countdown.map (· - 1)
      else if (lanesIn (linkOf s n).rxLanes).all (fun i => ((linkOf s n).lane i).done && ((linkOf s n).lane i).peerDone)
      then some 14 else none) →
    t = (lanesIn (linkOf s n).txLanes).foldl (fun s i =>
      send s (.linkWord n 2 (leBytes 4 (trainingWords s n (linkOf s n) ((linkOf s n).lane i)).1 ++
        leBytes 4 (trainingWords s n (linkOf s n) ((linkOf s n).lane i)).2)))
      (modLink s n fun l => { l with countdown := count }) →
    exec (.trainingFrameSend n) s =
      .next (if count = some 0 then
        modLink (setPortState t n stLock) n fun l => { l with failures := tdel l.failures l.rate } else t)) ∧
  (∀ (s : State) (n k : Nat), n < 64 → portState s n = stEqualise →
    (if (linkOf s n).fast then passedUs s (linkOf s n).since 50
      else passedMs s (linkOf s n).since (reg s 0x3B00 0x03)) = true →
    k = (tget (linkOf s n).failures (linkOf s n).rate).getD 0 + 1 →
    exec (.equaliseTimeout n) s =

      let t := modLink (bump s (0x3000 + n) 0x0A) n fun l => { l with
        failures := tset l.failures l.rate k
        leftOut := if 3 ≤ k ∧ l.leftOut.contains l.rate = false then l.rate :: l.leftOut else l.leftOut }
      .next (enterServe (modLanes t n fun x => { x with comma := false }) n)) ∧
  (∀ (s : State) (n i : Nat) (w : BitVec 64) (block clean skew : Nat), n < 64 → (linkOf s n).rxLanes.testBit i = true →
    bits w 4 4 = 3 → bits w 0 4 = 0 → bits w 18 14 = 0 → bits w 48 16 = 0 →
    (portState s n = stActive →
      exec (.alignBlock n i w block clean skew) s =
        .next (settle (if bit w 17 then enterRecover (noteCorrected s n) n false
          else modLane (noteCorrected s n) n i fun x => { x with lastAlign := some block }))) ∧
    (portState s n = stLock → (linkOf s n).peerStarted = true →
      exec (.alignBlock n i w block clean skew) s =
        let good := ((linkOf s n).lane i).lastAlign == some (block - 4000) && decide (4000 ≤ block) &&
          decide (64 ≤ clean) && decide (skew ≤ 256)
        let t := modLane (noteCorrected s n) n i fun x => { x with locked := good, peerLocked := bit w 16, lastAlign := some block }
        .next (if ((lanesIn (linkOf t n).rxLanes).all fun i => ((linkOf t n).lane i).locked) = true ∧
          ((lanesIn (linkOf t n).rxLanes).any fun i => ((linkOf t n).lane i).peerLocked) = true
          then enterCapability t n else t))) ∧
  (∀ (s : State) (n : Nat), n < 64 → portState s n = stLock → passedUs s (linkOf s n).since 100 = true →
    exec (.lockTimeout n) s = .next (enterServe (modLanes s n fun x => { x with comma := false }) n))

/-- The capability exchange, its messages and its time limits. In CAPABILITY a fragment joins its message, a
message complete is taken up, one not complete in 10 µs is dropped, and messages sent are repeated every
20 µs. A HELLO, CONFIRM or RESUME that was collected is checked: one that passes brings keys, the next
message or READY; one that fails takes the port to HELD, or for a RESUME to SERVE with FAST refused. A
READY after this side's own makes the port ACTIVE. The exchange ends in SERVE after 1 ms, and HELD in
DETECT after its back-off. (R400, R401, R402, R403, R406, R397, spec/13_lanes_bringup.md) -/
def Obligations.PortsExchangeCapabilities : Prop :=
  (∀ (s : State) (n msg index last : Nat) (p : Packet) (got : Tbl Bytes) (old : Collect), n < 64 →
    portState s n = stCapability → p.op = 0xE0 → unsequencedBad p = false → msg = bits p.ext 0 8 → index = bits p.ext 8 4 → last = bits p.ext 12 4 →
    1 ≤ msg → msg ≤ 4 → index ≤ last →
    old = (let o := (tget (linkOf s n).collects msg).getD { last := last, since := s.now }
      if o.last = last then o else { last := last, since := s.now }) →
    got = tset old.got index (leBytes 14 (bits p.ext 16 112)) →
    exec (.capFragment n p) s =
      if got.length = last + 1 then
        .next (modLink s n fun l => { l with collects := tdel l.collects msg, inbox := tset l.inbox msg (got.map (·.2)).flatten })
      else .next (modLink s n fun l => { l with collects := tset l.collects msg { old with got := got } })) ∧
  (∀ (s : State) (n msg : Nat) (c : Collect), tget (linkOf s n).collects msg = some c → passedUs s c.since 10 = true →
    exec (.capFragmentTimeout n msg) s = .next (modLink s n fun l => { l with collects := tdel l.collects msg })) ∧
  (∀ (s : State) (n : Nat), n < 64 → portState s n = stCapability → passedUs s (linkOf s n).repeatedAt 20 = true →
    exec (.capMessageRepeat n) s =
      let t := (linkOf s n).sent.foldl (fun s m =>
        if m.1 = 4 then countFrame (send s (.capability n m.1 m.2)) n else send s (.capability n m.1 m.2)) s
      .next (modLink t n fun l => { l with repeatedAt := t.now })) ∧
  (∀ (s : State) (n common : Nat) (b shared : Bytes), n < 64 → portState s n = stCapability →
    (linkOf s n).fast = false → (linkOf s n).peerHello = [] → (tget (linkOf s n).inbox 1).map (padTo 160) = some b →
    common = (linkOf s n).revs &&& ofLe ((b.drop 1).take 1) →
    shared = Config.x25519 (linkOf s n).secret ((b.drop 26).take 32) →
    exec (.hello n) s =
      if Config.ed25519Verify Config.vendorKey ((b.drop 58).take 32 ++ [BitVec.ofNat 8 (ofLe ((b.drop 2).take 1) % 2)])
          ((b.drop 90).take 64) = false ∨ common % 4 = 0 ∨ (shared.all fun x => x == 0) = true ∨
          helloPair b = (nodeId s, n) then .next (failCapability s n)
      else
        let rev := if common.testBit 1 then 2 else 1
        let t := deriveKeys (modLink s n fun l => { l with peerHello := b, revision := rev, inbox := tdel l.inbox 1 }) n
          (helloPair b) ((b.drop 10).take 16) shared
        let head := peerWord t 2 (helloPair b).1 rev
        .next (sendCap t n 2 (head ++ padTo 64 (Config.ed25519Sign Config.identitySecret
          (ascii "KF4096 link" ++ (linkOf s n).ownHello ++ b ++ head))))) ∧
  (∀ (s : State) (n : Nat) (b : Bytes), n < 64 → portState s n = stCapability → (linkOf s n).peerHello ≠ [] →
    (linkOf s n).confirmed = false → (tget (linkOf s n).inbox 2).map (padTo 72) = some b →
    exec (.confirm n) s =
      if Config.ed25519Verify (((linkOf s n).peerHello.drop 58).take 32)
          (ascii "KF4096 link" ++ (linkOf s n).peerHello ++ (linkOf s n).ownHello ++ b.take 8) (b.drop 8) = false then
        .next (failCapability s n)
      else
        let v := ofLe (b.take 2)
        .next (settle (sendReady (peerReport (modLink s n fun l => { l with inbox := tdel l.inbox 2 })
          (v.testBit 8) (v.testBit 9) (v / 4096)) n))) ∧
  (∀ (s : State) (n : Nat) (b key : Bytes), n < 64 → portState s n = stCapability → (linkOf s n).fast = true →
    (linkOf s n).confirmed = false → (tget (linkOf s n).inbox 3).map (padTo 40) = some b →
    key = (linkOf s n).resume.getD [] →
    exec (.resume n) s =
      if b.drop 24 ≠ padTo 16 (Config.hmacSha512 key (b.take 24 ++ (linkOf s n).nonce)) ∧
          b.drop 24 ≠ padTo 16 (Config.hmacSha512 key (b.take 24 ++ [])) then
        .next (enterServe (modLanes (modLink (bump s (0x3000 + n) 0x0F) n fun l => { l with fastRefused := true }) n
          fun x => { x with comma := false }) n)
      else
        let t := modLink s n fun l => { l with inbox := tdel l.inbox 3 }
        let t := sendCap t n 3 (resumeBytes t (linkOf t n) ((b.drop 8).take 16))
        let nb := (linkOf s n).neighbour.getD {}
        let v := ofLe (b.take 2)
        .next (settle (sendReady (peerReport (deriveKeys t n (nb.node, nb.port) ((b.drop 8).take 16) key)
          (v.testBit 8) (v.testBit 9) (v / 4096)) n))) ∧
  (∀ (s : State) (n inc : Nat) (b : Bytes), n < 64 → portState s n = stCapability → (linkOf s n).readySent = true →
    tget (linkOf s n).inbox 4 = some b → inc = ofLe ((b.drop 1).take 4) →
    exec (.ready n) s =
      let l := linkOf s n
      let t := modLink (setPortState (bump s (0x3000 + n) (if l.fast then 0x09 else 0x0A)) n stActive) n fun l' =>
        { l' with neighbour := some (neighbourOf l inc), inbox := [], collects := [], sent := [], leftActive := none, fastRefused := false, fastTries := 0, tagFails := [] }
      let t := setReg (modLanes t n fun x => { x with lastTaps := x.taps }) (0x3000 + n) 0x04 (l.rate + 4 * l.width)
      .next (settle (checkPorts (linkUp (modLinkTime t n fun _ => {}) n (neighbourOf l inc).node inc)))) ∧
  (∀ (s : State) (n : Nat), n < 64 → portState s n = stCapability → passedMs s (linkOf s n).since 1 = true →
    exec (.capabilityTimeout n) s = .next (enterServe (modLanes s n fun x => { x with comma := false }) n)) ∧
  (∀ (s : State) (n : Nat), n < 64 → portState s n = stHeld →
    passedMs s (linkOf s n).since (reg s 0x3B00 0x05) = true → exec (.heldBackoffEnd n) s = .next (enterDetect s n))

/-- Frames, the causes of recovery, and the end of RECOVER. A frame with its reserved bits 0, on a port in
CAPABILITY or ACTIVE, is counted and discarded where it is cut off before the end of its packet or tag,
and else opened: one whose tag or CRC is bad is dropped and counted; in CAPABILITY its packet goes to the
exchange, in ACTIVE into the port's ingress. Loss of signal, missing ALIGN blocks or a symbol-error limit
on a lane in use of an ACTIVE port, uncorrectable codewords or tag failures at their limit, and /R/ from
the peer take the port to RECOVER, which ends in SERVE after 1 µs. (R386, R387, R388, R399, R397, R208,
R354, spec/13_lanes_bringup.md) -/
def Obligations.FramesArriveAndLinksRecover : Prop :=
  (∀ (s : State) (n : Nat) (w : BitVec 64) (body tag : Bytes), n < 64 →
    (portState s n = stCapability ∨ portState s n = stActive) → bits w 4 4 = 1 → bits w 0 4 = 0 → bit w 31 = false →
    bits w 48 16 = 0 →
    exec (.linkFrame n w body tag) s =
      .next (if body.length < 8 * bits w 8 11 ∨ tag.length < 16 then bump s (0x3000 + n) 0x0D else
        (openFrame s n w body tag).elim (dropFrame s n (bit w 30)) fun x =>
        if portState s n = stCapability then send x.1 (.inner n (bits w 19 11) (packetOf x.2))
        else settle (takePacket x.1 n (bits w 19 11) (packetOf x.2)))) ∧
  (∀ (s : State) (n i : Nat), n < 64 → laneInUse s n i = true →
    exec (.lossOfSignal n i) s = .next (settle (enterRecover s n true)) ∧
    exec (.alignMissing n i) s = .next (settle (enterRecover s n true)) ∧
    exec (.symbolErrorLimit n i) s = .next (settle (enterRecover s n true))) ∧
  (∀ (s t : State) (n i count : Nat), n < 64 → laneInUse s n i = true → t = bumpBy s (0x3000 + n) 0x08 count →
    exec (.uncorrectableLimit n i count) s =
      if reg t 0x3B00 0x02 ≤ count then .next (settle (enterRecover t n true)) else .next t) ∧
  (∀ (s : State) (n : Nat), n < 64 → portActive s n = true →
    (reg s 0x3B00 0x06 ≤ ((linkOf s n).tagFails.filter fun t => !passedMs s t 1).length →
      exec (.tagFailureLimit n) s = .next (settle (enterRecover s n true))) ∧
    exec (.recoveryNotice n) s = .next (settle (enterRecover s n false))) ∧
  (∀ (s : State) (n : Nat), n < 64 → portState s n = stRecover → passedUs s (linkOf s n).since 1 = true →
    exec (.recoverEnd n) s = .next (enterServe (modLanes s n fun x => { x with comma := false }) n))

/-- RoCEv2 requests arrive and are performed. A request packet to a ready queue pair of its running port that
the ingress buffer takes is answered with a CNP where marked, and is then taken as a datagram on UD or in
PSN order on RC. In sequence it waits its turn; the first waiting request with no guard on it is
performed. A single-packet WRITE past its checks stores its data and is acknowledged; a READ returns its
data in packets of PMTU; an atomic writes the new value, keeps and returns the old. A packet of an
unsupported opcode is answered by kind: counted on UD, NAK Invalid Request in sequence on RC. (R415,
R417, R418, R419, R420, R421, R425, R426, spec/14_ethernet.md) -/
def Obligations.RoceRequestsArriveAndArePerformed : Prop :=
  (∀ (s u v : State) (k : RocePkt) (op : RoceOp) (p : QueuePair) (c : Nat × State) (marked : Bool) (r : Out),
    qpOf s k.qpn = some p → p.state = 1 → p.port = k.port → ethUp s k.port = true →
    c = colourPacket s (k.port / 2) p.ctx (roceSize p.ipv6 (extBytes op p.ud k.first k.last) k.data.length) →
    ethIn c.2 k.port c.1 (roceSize p.ipv6 (extBytes op p.ud k.first k.last) k.data.length) k.ect = (u, some marked) →
    v = (if marked || k.ce then sendCnp u k.qpn p else u) →
    r = .next (settle (if p.ud then udRequest v p op k else rcRequest v k.qpn p op k)) →
    (op = .write → exec (.rdmaWrite k) s = r) ∧ (op = .push → exec (.rdmaWritePush k) s = r) ∧
    (op = .read → exec (.rdmaRead k) s = r) ∧ (op = .send → exec (.sendWithImmediate k) s = r) ∧
    (op = .add → exec (.fetchAdd k) s = r) ∧ (op = .swap → exec (.compareSwap k) s = r)) ∧
  (∀ (s : State) (qpn : Nat) (p : QueuePair) (op : RoceOp) (k : RocePkt), k.psn = p.expectedPsn → k.psn < 2 ^ 24 →
    rcRequest s qpn p op k = pumpQp (p.waiting.length + 2) (modQp s qpn fun p => { p with
      expectedPsn := (k.psn + psnCount p op k) % 2 ^ 24, nakSent := false
      waiting := p.waiting ++ [{ op := op, pkt := k }] }) qpn) ∧
  (∀ (s : State) (n qpn : Nat) (p : QueuePair) (w : RoceWait) (ws : List RoceWait), qpOf s qpn = some p →
    p.waiting = w :: ws → w.refused = none →
    (((w.held || rocePasses s qpn p w.op w.pkt) = false ∨ heldBy s (.pair qpn) p.ctx (roceSpan s p w.op w.pkt) = none) →
      pumpQp (n + 1) s qpn =
        pumpQp n (startCursors (performRoce (modQp s qpn fun p => { p with waiting := ws }) qpn p w.held w.op w.pkt)) qpn) ∧
    (∀ u : State, (w.held || rocePasses s qpn p w.op w.pkt) = true →
      heldBy s (.pair qpn) p.ctx (roceSpan s p w.op w.pkt) = some u →
      pumpQp (n + 1) s qpn = modQp u qpn fun p => { p with waiting := { w with held := true } :: ws })) ∧
  (∀ (s u : State) (qpn va : Nat) (p : QueuePair) (held : Bool) (k : RocePkt), k.first = true → k.last = true → p.run = none →
    k.data.length = k.len → roceCheck s p held k.rkey k.va k.len .write = (u, .ok va) →
    (storeVa u p.ctx va k.data).status = Code.ok →
    performRoce s qpn p held .write k =
      roceSend (modQp (storeVa u p.ctx va k.data).st qpn fun p => { p with run := none }) qpn k.psn 0 []) ∧
  (∀ (s u : State) (qpn va : Nat) (p : QueuePair) (held : Bool) (k : RocePkt) (a : Access1),
    roceCheck s p held k.rkey k.va k.len .read = (u, .ok va) → a = readVa u p.ctx va k.len → a.status = Code.ok →
    performRoce s qpn p held .read k =
      ((if k.len = 0 then [(0, 0)] else piecesOf p.pmtuBytes k.len).zipIdx).foldl (fun s x =>
        roceSend s qpn ((k.psn + x.2) % 2 ^ 24) 1 ((a.data.drop x.1.1).take x.1.2)) a.st) ∧
  (∀ (s u : State) (qpn va pa old new : Nat) (p : QueuePair) (held : Bool) (k : RocePkt) (add : Bool) (a b : Access1),
    roceCheck s p held k.rkey k.va 8 .atomic = (u, .ok va) → pa = (paOf u p.ctx va).getD 0 →
    (atomicQueue u (controllerOf pa)).length < 1024 → a = readVa (queueAtomic u pa (if add then 0x11 else 0x45)) p.ctx va 8 →
    a.status = Code.ok → old = ofLe a.data →
    new = (if add then atomicResult 0x11 old k.operand.toNat
      else if old = k.compare.toNat then k.operand.toNat else old) →
    b = storeVa (touchLine a.st pa) p.ctx va (leBytes 8 new) → b.status = Code.ok →
    performRoce s qpn p held (if add then .add else .swap) k =
      roceSend (modQp b.st qpn fun p =>
        { p with atomics := List.drop ((p.atomics.filter fun x => x.1 != k.psn).length + 1 - p.maxRd) (p.atomics.filter fun x => x.1 != k.psn) ++ [(k.psn, BitVec.ofNat 64 old)] })
        qpn k.psn 2 (leBytes 8 old)) ∧
  (∀ (s u v : State) (k : RocePkt) (p : QueuePair) (c : Nat × State) (marked : Bool), qpOf s k.qpn = some p →
    p.state = 1 → p.port = k.port → ethUp s k.port = true →
    c = colourPacket s (k.port / 2) p.ctx (roceSize p.ipv6 0 k.data.length) →
    ethIn c.2 k.port c.1 (roceSize p.ipv6 0 k.data.length) k.ect = (u, some marked) →
    v = (if marked || k.ce then sendCnp u k.qpn p else u) →
    exec (.roceUnsupportedOpcode k) s =
      .next (settle (if p.ud then bump v 0x4200 0x04
        else if (k.psn + 2 ^ 24 - p.expectedPsn) % 2 ^ 24 = 0 then roceFail v k.qpn k.psn Code.misaligned
        else if 2 ^ 23 ≤ (k.psn + 2 ^ 24 - p.expectedPsn) % 2 ^ 24 ∨ p.nakSent = true then v
        else roceSend (modQp v k.qpn fun p => { p with nakSent := true }) k.qpn p.expectedPsn 7 [])))

/-- The part as RC requester: responses, retries, and congestion notification. A response to an outstanding
request of a ready queue pair, taken by the ingress buffer, is acted on. A request unanswered for 4.096
µs × 2^ACK_TIMEOUT is sent again with those after it, or its queue pair is in error with TARGET_LOST once
its retries are used. When an RNR wait has ended the requests go out again. A congestion notification
cuts the limiter of the queue pair, a new one starting at the port's rate. (R211, R423, R426,
spec/14_ethernet.md) -/
def Obligations.TheRequesterAndItsTimers : Prop :=
  (∀ (s u : State) (qpn psn : Nat) (p : QueuePair) (reply : RoceReply) (len : Nat) (marked : Bool), qpOf s qpn = some p →
    p.state = 1 → ethUp s p.port = true → (p.sends.any fun r => r.psn == psn) = true →
    (∀ d, reply = .readData d → len = d.length) → ((∀ d, reply ≠ .readData d) → len = 0) →
    ethIn s p.port 0 (roceSize p.ipv6 4 len) false = (u, some marked) →
    exec (.roceRequesterResponse qpn psn reply) s = .next (settle (requesterReply u qpn psn p reply))) ∧
  (∀ (s : State) (qpn : Nat) (p : QueuePair) (r : RingReq) (rs : List RingReq), qpOf s qpn = some p → p.sends = r :: rs →
    r.rnrFrom = none → passedNs s r.since (4096 * 2 ^ p.ackTimeout) = true →
    exec (.roceRequesterTimeout qpn) s =
      .next (settle (if p.retryCnt ≤ r.tries then qpError s qpn Code.targetLost
        else resendAll s qpn fun r => { r with tries := r.tries + 1 }))) ∧
  (∀ (s : State) (qpn since code : Nat) (r : RingReq), (qpOf s qpn).bind (·.sends.head?) = some r →
    r.rnrFrom = some (since, code) → passedUs s since (10 * rnrTime code) = true →
    exec (.roceRnrTimerExpire qpn) s = .next (settle (resendAll s qpn id))) ∧
  (∀ (s u : State) (qpn : Nat) (p : QueuePair) (l : Limiter) (marked : Bool), qpOf s qpn = some p → p.ud = false →
    ethUp s p.port = true → ethIn s p.port 0 (roceSize p.ipv6 16 0) false = (u, some marked) →
    l = (p.limiterNow u).getD { rate := (ethPort u p.port).rate * 125, rmax := (ethPort u p.port).rate * 125, lastChange := u.now } →
    exec (.congestionNotification qpn) s = .next (modQp u qpn fun p => { p with limiter := some (cutLimiter u l) })) ∧
  (∀ (s : State) (qpn psn : Nat) (p : QueuePair),
    requesterReply s qpn psn p .ack =
      (((qpOf s qpn).map fun p => acked psn p.sends).getD []).foldl (fun s r => endWhistle s r.flight Code.ok)
        (modQp s qpn fun p => { p with sends := p.sends.drop (acked psn p.sends).length }))

/-- Queue pairs are created and destroyed; UDP doorbells push. A well-formed queue-pair record of an ACTIVE
context, written by a principal that may write it, with room, enters the table and is answered with its
number; which free number from 2 it is is a free value (log entry 27). Destroying one loses its rings
with TARGET_LOST and frees it; of a number not in use it is answered MISALIGNED. A doorbell to a slot in
use on an even port that the buffer takes is pushed with its sequence number recorded where it passes
every check, and is counted and discarded where it does not. (R416, R420, R422, R423,
spec/14_ethernet.md) -/
def Obligations.QueuePairsAndDoorbells : Prop :=
  (∀ (s t : State) (via : Via) (w : Who) (data : Bytes) (x : BitVec 512) (p : QueuePair), askedBy s via = some (t, w) →
    otherTransfer t via 0x4200 0x01 = false → writeStatus t w 0x4200 0x01 0 = Code.ok → data.length = 64 →
    x = BitVec.ofNat 512 (ofLe data) → p = qpOfRecord x → (w.principal = 1 → p.ctx = w.ctx) → qpMisaligned t x = false →
    namedCtxStatus t p.ctx = Code.ok → qpRoom t p = true →
    (∃ i, 2 ≤ i ∧ i < 2 ^ 24 ∧ thas t.eth.qps i = false) →
    let n := freeQpn t
    2 ≤ n ∧ n < 2 ^ 24 ∧ thas t.eth.qps n = false ∧ exec (.queuePairCreate via data) s =
      answersTo s (setQps (draw t) (tset t.eth.qps n p)) via { status := Code.ok, detail := n }) ∧
  (∀ (s t : State) (via : Via) (w : Who) (n : Nat), askedBy s via = some (t, w) →
    writeStatus t w 0x4200 0x02 n = Code.ok →
    exec (.queuePairDestroy via n) s =
      if thas t.eth.qps n then
        let u := qpError t n Code.targetLost
        answersTo s (setQps u (tdel u.eth.qps n)) via (answer Code.ok)
      else answersTo s t via (answer Code.misaligned)) ∧
  (∀ (s u : State) (port source slot : Nat) (data : Bytes) (h : BitVec 256) (b : Doorbell) (c : Nat × State) (marked : Bool),
    port < 8 → ethUp s port = true → port % 2 = 0 → h = BitVec.ofNat 256 (ofLe (data.take 32)) → slot = bits h 8 8 →
    tget s.eth.doorbells slot = some b →
    c = colourPacket s (port / 2) b.ctx ((if 2 ^ 32 ≤ source then 66 else 46) + data.length) →
    ethIn c.2 port c.1 ((if 2 ^ 32 ≤ source then 66 else 46) + data.length) false = (u, some marked) →
    exec (.udpDoorbell port source data) s =
      if doorbellOk b source data then
        let top := max (bits h 64 64) (b.highest.getD 0)
        let kept := (bits h 64 64 :: b.seen).filter fun x => decide (top < x + 64)
        let v := { u with eth := { u.eth with
          doorbells := tset u.eth.doorbells slot { b with highest := some top, seen := kept } } }
        .next (settle (hostPush v b.ctx (ctxGen v b.ctx) (bits h 16 10) b.proxy (data.drop 32)).1)
      else .next (bump u 0x4400 0x02))

/-- Ethernet ports: links, PTP, answers and discarded frames. An Announce of the profile's domain on a client
port is taken in and the best grandmaster is elected, and the active client's is announced on; a Sync of
one that has announced is taken in with the port's latency corrections (log entry 27), and the active
client's steers the clock. Of the frames that wait at a port PTP events leave first, then control. Three
intervals without an Announce end the active client. A port comes up at a rate it may run and goes down;
the management port's mode falls back after 1 s. A port that answers returns its address to an ARP
request or a neighbour solicitation of it, and an ICMP echo; a frame not carried is counted. (R412, R413,
R414, R426, R427, R428, spec/14_ethernet.md) -/
def Obligations.EthernetPortsAndTheirTime : Prop :=
  (∀ (s u : State) (e rank identity utc interval : Nat) (scale leap marked : Bool), e < 8 → ethUp s e = true →
    (reg s 0x4500 0x03).testBit e = true → ethIn s e 0 100 false = (u, some marked) →
    exec (.ptpMessage e (reg u 0x4500 0x02) (.announce rank identity scale utc leap interval)) s =
      let c := ((ethPort u e).ptp.getD {}).takeIn u (.announce rank identity scale utc leap interval)
      let v := ptpElect (setEthPort u e { ethPort u e with ptp := some c })
      .next (if v.eth.ptpActive = some e then ptpAnnounced v else v)) ∧
  (∀ (s u : State) (e time delay : Nat) (offset tx rx : Int) (c : PtpClient) (marked : Bool), e < 8 → ethUp s e = true →
    (reg s 0x4500 0x03).testBit e = true → ethIn s e 0 100 false = (u, some marked) → (ethPort u e).ptp = some c →
    tx = (BitVec.ofNat 32 (reg u (0x4100 + e) 0x08)).toInt → rx = (BitVec.ofNat 32 (reg u (0x4100 + e) 0x09)).toInt →
    exec (.ptpMessage e (reg u 0x4500 0x02) (.sync offset time delay)) s =
      let offset' := offset + (tx - rx) / 2000
      let time' := (time - (tx - rx) / 2000).toNat
      let m : PtpMsg := .sync offset' time' (delay - (tx + rx) / 2000).toNat
      let v := setEthPort u e { ethPort u e with ptp := some (c.takeIn u m) }
      .next (if v.eth.ptpActive = some e then ptpSteer v offset' time' else v)) ∧
  (∀ (s : State) (p q : EthPort) (f : EthFrame), nextFrame s p = some (f, q) →
    (p.egress.any (fun x => x.rank == 1) = true → f.rank = 1) ∧
    (p.egress.any (fun x => x.rank == 1) = false → p.egress.any (fun x => x.rank == 2) = true → f.rank = 2)) ∧
  (∀ (s : State) (e : Nat) (c : PtpClient), s.eth.ptpActive = some e → activeClient s = some c →
    passedMs s c.heard (3 * c.interval) = true →
    exec .ptpAnnounceTimeout s = .next (ptpElect (setEthPort s e { ethPort s e with ptp := none }))) ∧
  (∀ (s : State) (e rate i : Nat), rateIndex rate = some i → e < 8 → lanesMayRun s = true →
    s.pwr.clocksLost.contains 5 = false → i ≤ reg s (0x4100 + e) 0x02 →
    exec (.ethernetLinkUp e rate) s =
      .next (setReg (setEthPort s e { ethPort s e with up := true, rate := rate, bufferedAt := s.now })
        (0x4100 + e) 0x01 (i + 1))) ∧
  (∀ (s : State) (e : Nat), e < 8 → ethUp s e = true →
    exec (.ethernetLinkDown e) s = .next (ptpElect (setReg (setEthPort s e {}) (0x4100 + e) 0x01 0)) ∧
    exec (.ethernetFrameDiscard e) s = .next (bump s (0x4100 + e) 0x0A)) ∧
  (∀ (s : State), reg s 0x4000 0x06 = 2 → s.eth.mgmtMode = 0 → s.pwr.pwrOk = true → passedMs s s.eth.mgmtSince 1000 = true →
    exec .managementAutonegTimeout s = .next { s with eth := { s.eth with mgmtMode := 1, mgmtSince := s.now } }) ∧
  (∀ (s : State) (e address : Nat) (data : Bytes), answers s e = true →
    exec (.arpRequest e address) s =
      .next (if ipv4Of s e = some address then ethAnswer s e 0 (macOf e) else s) ∧
    exec (.neighborSolicitation e address) s =
      .next (if address = linkLocal e ∨ ipv6Of s e = some address then ethAnswer s e 1 (macOf e) else s) ∧
    exec (.icmpEcho e data) s = .next (ethAnswer s e 2 data)) ∧
  (∀ (s : State) (e address : Nat) (data : Bytes), answers s e = false →
    exec (.arpRequest e address) s = .next s ∧ exec (.neighborSolicitation e address) s = .next s ∧
    exec (.icmpEcho e data) s = .next s)

/-- Dexol sessions open, live and close. An OPEN of the right layout, on a port that carries Dexol, of an
admitted key: one not signed by that key or giving an all-zero secret is discarded and counted, and any
other is answered with a session, or with QUOTA. A new request of a session is performed and answered;
one answered before is answered again from the window; one below the window or of no session is discarded
and counted. A KEEPALIVE is answered OK, a CLOSE is answered OK and the session is gone, and a session
not heard for 1010:03 closes. (R441, R442, R443, R444, R445, spec/15_object_dictionary.md) -/
def Obligations.SessionsOpenLiveAndClose : Prop :=
  (∀ (s : State) (port n m : Nat) (address d : Bytes) (t : State), s.pwr.pwrOk = true → openLayoutOk d = true →
    carriesDexol s port = true → admitsOpen s port (openFields d) = true → n = s.fresh → m = (draw s).fresh →
    t = draw (draw s) →
    exec (.openSession port address d) s =
      .next (if Config.ed25519Verify (openFields d).key (dexolName ++ d.take 116) ((d.drop 116).take 64) = false then
          discardDatagram s
        else if (Config.x25519 (Config.randomBytes n 32) (openFields d).ephemeral).all (· == 0) then discardDatagram t
        else answerOpen t port address d (Config.randomBytes n 32) (padTo 16 (Config.randomBytes m 16))
          (Config.x25519 (Config.randomBytes n 32) (openFields d).ephemeral))) ∧
  (∀ (s : State) (id seq : Nat) (x : Session) (k : State → Session → State × Answer), tget s.dict.sessions id = some x →
    (x.seqCase seq = .below → withSession s id seq k = discardDatagram s) ∧
    (∀ d, x.seqCase seq = .answered d →
      withSession s id seq k = dexolOut (modSession s id fun x => { x with heard := s.now }) x.port id x.address d) ∧
    (x.seqCase seq = .new →
      withSession s id seq k =
        replyTo (k (modSession s id fun x => { x with heard := s.now }) x).1 x id seq
          (k (modSession s id fun x => { x with heard := s.now }) x).2)) ∧
  (∀ (s t : State) (id seq : Nat) (x : Session), tget s.dict.sessions id = some x → x.seqCase seq = .new →
    t = replyTo (modSession s id fun x => { x with heard := s.now }) x id seq (answer Code.ok) →
    exec (.keepalive id seq) s = .next t ∧ exec (.close id seq) s = .next (closeSession t id)) ∧
  (∀ (s : State) (id : Nat) (x : Session), tget s.dict.sessions id = some x →
    exec (.sessionIdleTimeout id) s =
      .next (if passedMs s x.heard (reg s 0x1010 0x03) then closeSession s id else s)) ∧
  (∀ s : State, exec .dexolDatagramDiscard s = .next (bump s 0x1010 0x04))

/-- READ, WRITE, COMMIT and DISCARD of the object dictionary. A READ changes nothing but what its answer
does. A WRITE of a value of its entry's length that passes checks 1 to 4 is answered with the status of
its effect, which is: of an rws entry, a shadow of its group; of a reset-class entry, a value held for
the next reset; of any other, the live effect. A whole DOMAIN value of the firmware's is written by its
block. One COMMIT applies the pending shadows of its scope and group, DISCARD removes them, and each is
answered with its count in DETAIL; a scope that may not be named is refused. (R434, R435, R436, R437,
R438, R447, R448, R449, spec/15_object_dictionary.md) -/
def Obligations.DictionaryReadsWritesAndCommits : Prop :=
  (∀ (s t : State) (via : Via) (w : Who) (idx sub offset length : Nat) (arg : Bytes), askedBy s via = some (t, w) →
    exec (.dexolRead via idx sub offset length arg) s = answersTo s t via (dictRead t w idx sub offset length arg)) ∧
  (∀ (s t : State) (via : Via) (w : Who) (e : Entry) (idx sub group offset : Nat) (last : Bool) (b : Bytes),
    askedBy s via = some (t, w) → entryAt idx sub = some e → e.ty ≠ .domain → group ≤ 255 →
    (group ≠ 0 → e.access = .rws) → b.length = e.ty.bytes.getD 0 → writeStatus t w idx sub (ofLe b) = Code.ok →
    exec (.dexolWrite via idx sub group offset last b) s =
      let r := if e.access = .rws then
          (if thas t.dict.shadows (idx * 256 + sub) = false ∧ 1024 ≤ t.dict.shadows.length then (t, Code.quota)
          else (setShadows t (tset t.dict.shadows (idx * 256 + sub)
            { value := ofLe b, bytes := b, group := group, principal := w.principal, ctx := w.ctx }), Code.ok))
        else if e.atReset then (holdForReset t idx sub (ofLe b), Code.ok)
        else if e.ty.numeric then writeNumber t idx sub (ofLe b)
        else writeOctets t idx sub b
      answersTo s r.1 via (answer r.2)) ∧
  (∀ (s : State) (e : Entry) (idx sub offset : Nat) (last : Bool) (b : Bytes), entryAt idx sub = some e →
    e.ty = .domain → ¬(idx = 0xA000 ∧ sub = 0x04) → b.length ≤ 2 ^ 20 →
    writeStatus s { principal := 3 } idx sub 0 = Code.ok →
    exec (.dexolWrite .firmware idx sub 0 offset last b) s =
      answersTo s (writeBlock s { principal := 3 } idx sub b).1 .firmware (writeBlock s { principal := 3 } idx sub b).2) ∧
  (∀ (s t : State) (via : Via) (w : Who) (group c : Nat) (scope : Option Nat), askedBy s via = some (t, w) → group ≤ 255 →
    scopeOf w scope = .ok c →
    exec (.commit via group scope) s =
      (let r := applyShadows t c group
       answersTo s r.1 via { status := if r.2.2 = 0 then Code.ok else Code.misaligned, detail := r.2.1 }) ∧
    exec (.discard via group scope) s =
      (let u := dropShadows t c group
       answersTo s u via { detail := t.dict.shadows.length - u.dict.shadows.length })) ∧
  (∀ (s t : State) (via : Via) (w : Who) (group : Nat) (scope : Option Nat) (st : Status), askedBy s via = some (t, w) →
    group ≤ 255 → scopeOf w scope = .error st →
    exec (.commit via group scope) s = answersTo s t via (answer st) ∧
    exec (.discard via group scope) s = answersTo s t via (answer st))

/-- Subscriptions and their NOTIFYs; pushes to C0 queues and F-queues. A SUBSCRIBE that passes its checks
enters the subscription with the value of that moment, an UNSUBSCRIBE removes it, and each is answered
OK. A due subscription sends a NOTIFY of its number and value, sealed for its session, and counts it. A
write of 2000+q:22 of 4 to 128 descriptors to an open C0 queue of the principal's kind on that quarter
with room appends them; a write of 2000+q:23 of a record that OPEN_QUEUE would accept opens an F-queue.
(R444, R450, R451, R508, spec/15_object_dictionary.md, spec/98_reader.md) -/
def Obligations.SubscriptionsAndFirmwareQueues : Prop :=
  (∀ (s t u : State) (id seq subId idx sub period : Nat) (periodic : Bool) (x : Session) (y : Subscription),
    tget s.dict.sessions id = some x → x.seqCase seq = .new → t = modSession s id (fun x => { x with heard := s.now }) →
    subscribeStatus t { principal := x.principal, ctx := x.ctx } x subId idx sub periodic period = Code.ok →
    y = { idx := idx, sub := sub, periodic := periodic, period := period, since := t.now, lastValue := watchedValue t idx sub, nextFault := headSeq t } →
    u = modSession t id (fun x => { x with subs := tset x.subs subId y }) →
    exec (.subscribe id seq subId idx sub periodic period) s = .next (replyTo u x id seq (answer Code.ok))) ∧
  (∀ (s : State) (id seq subId : Nat) (x : Session), tget s.dict.sessions id = some x → x.seqCase seq = .new →
    exec (.unsubscribe id seq subId) s =
      .next (replyTo (modSession (modSession s id fun x => { x with heard := s.now }) id fun x =>
        { x with subs := tdel x.subs subId }) x id seq (answer Code.ok))) ∧
  (∀ (s : State) (id k n : Nat) (x : Session) (y : Subscription), tget s.dict.sessions id = some x →
    tget x.subs k = some y → notifyDue s y = true → n = (x.notified + 1) % 2 ^ 32 →
    exec (.notify id k) s =
      .next (dexolOut (modSession s id fun x => { x with notified := n, subs := tset x.subs k (noteSent s y) })
        x.port id x.address (dexolSealed s x id 0x22 n 2 (notifyBody s k y)))) ∧
  (∀ (s t : State) (via : Via) (w : Who) (q queue : Nat) (b : Bytes) (n : Nat) (r : Queue), askedBy s via = some (t, w) →
    otherTransfer t via (0x2000 + q) 0x22 = false → writeStatus t w (0x2000 + q) 0x22 0 = Code.ok →
    queue = ofLe (b.take 2) → b.length = 2 + 64 * n → 4 ≤ n → n ≤ 128 → queue < 1024 → namedCtxStatus t 0 = Code.ok →
    queueOf t 0 queue = some r → r.state ≠ .closed → r.state ≠ .draining → r.quarter = q →
    r.fQueue = (w.principal == 3) → n ≤ ringFree r →
    exec (.c0QueuePush via q b) s =
      answersTo s (appendDescs t 0 queue (descsOf (b.drop 2)) none) via (answer Code.ok)) ∧
  (∀ (s t : State) (via : Via) (w : Who) (q : Nat) (b : Bytes) (x : BitVec 96) (r : Queue), askedBy s via = some (t, w) →
    otherTransfer t via (0x2000 + q) 0x23 = false → writeStatus t w (0x2000 + q) 0x23 0 = Code.ok → b.length = 12 →
    x = BitVec.ofNat 96 (ofLe b) → r = queueRecord x 0 → queueMisaligned x = false → bits x 0 12 = 0 → r.quarter = q →
    namedCtxStatus t 0 = Code.ok → queueOf t 0 r.queue = none → queueFits t r = true →
    exec (.fQueueOpen via q b) s = answersTo s (enterQueue t { r with fQueue := true }) via (answer Code.ok))

/-- Update segments, verify, activate, cancel, commit and restart. A segment that fits is written to the
inactive bank, and the state becomes 1. Verify in state 1 gives state 2, or state 5 and the first failing
status. Activate in state 2 swaps the banks with a trial, or is deferred to state 3; cancel in state 3
gives state 2; commit in state 0 or 4 blows the fuses, or is deferred; restart reloads the cores. One
second after the last deferring condition ended the deferred command goes on, and a failed trial returns
to the previous bank in state 5. (R468, R469, R470, R471, R472, spec/16_firmware.md) -/
def Obligations.UpdateCommandsFollowTheTable : Prop :=
  (∀ (s t u : State) (via : Via) (w : Who) (offset : Nat) (b : Bytes), askedBy s via = some (t, w) →
    otherTransfer t via 0xA000 0x04 = false → writeStatus t w 0xA000 0x04 0 = Code.ok → inService t 0 = true →
    (updState t = 0 ∨ updState t = 1 ∨ updState t = 5) → offset + b.length ≤ bankSize →
    u = setUpd (setFw t (if reg t 0xA000 0x01 = 0 then { t.fw with bankB := writeRun t.fw.bankB offset b }
      else { t.fw with bankA := writeRun t.fw.bankA offset b })) 1 →
    exec (.imageSegmentWrite via offset b) s = answersTo s u via (answer Code.ok)) ∧
  (∀ (s t : State) (via : Via) (w : Who) (r : Except Status (List Image)), askedBy s via = some (t, w) →
    writeStatus t w 0xA000 0x05 1 = Code.ok → inService t 0 = true → updState t = 1 →
    r = bankImages t (1 - reg t 0xA000 0x01) →
    exec (.updateVerify via) s = answersTo s (setUpd t (if r.toBool then 2 else 5)) via (answer (statusOf r))) ∧
  (∀ (s t : State) (via : Via) (w : Who), askedBy s via = some (t, w) → writeStatus t w 0xA000 0x05 2 = Code.ok →
    inService t 0 = true → updState t = 2 → t.fw.activating = false →
    exec (.updateActivate via) s =
      if deferred t then answersTo s (setUpd (setFw t { t.fw with deferred := 1 }) 3) via (answer Code.deferred)
      else answersTo s (swapBank t true) via (answer Code.ok)) ∧
  (∀ (s t : State) (via : Via) (w : Who), askedBy s via = some (t, w) → writeStatus t w 0xA000 0x05 3 = Code.ok →
    inService t 0 = true → updState t = 3 →
    exec (.updateCancel via) s =
      answersTo s (setUpd (setFw t { t.fw with deferred := 0 }) 2) via (answer Code.ok)) ∧
  (∀ (s t : State) (via : Via) (w : Who), askedBy s via = some (t, w) → writeStatus t w 0xA000 0x05 4 = Code.ok →
    inService t 0 = true → (updState t = 0 ∨ updState t = 4) → reg t 0xA000 0x02 ≤ 64 →
    exec (.updateCommit via) s =
      if deferred t then answersTo s (setFw t { t.fw with deferred := 2 }) via (answer Code.deferred)
      else answersTo s (commitFuses t) via (answer Code.ok)) ∧
  (∀ (s t : State) (via : Via) (w : Who), askedBy s via = some (t, w) → writeStatus t w 0xA000 0x05 5 = Code.ok →
    exec (.firmwareRestart via) s = answersTo s (reloadCores t) via (answer Code.ok)) ∧
  (∀ (s : State) (t : Nat), s.fw.clearSince = some t → s.fw.deferred ≠ 0 → deferring s = false →
    passedMs s t 1000 = true →
    exec .activationDeferralEnd s = .next (if s.fw.deferred = 1 then swapBank s true else commitFuses s)) ∧
  (∀ s : State, s.fw.trial = true →
    (s.fw.twice = true ∨ (inService s 0 = false ∧ passedMs s s.fw.reloadedAt 5000 = true)) →
    exec .trialFail s = .next (setUpd (swapBank s false) 5)) ∧
  (∀ s : State, let t := commitFuses s
    reg t 0xA000 0x03 = max (reg s 0xA000 0x03) (reg s 0xA000 0x02) ∧ updState t = 0 ∧ t.fw.trial = false ∧
      t.mem = s.mem ∧ t.fw.bankA = s.fw.bankA ∧ t.fw.bankB = s.fw.bankB)

/-- Cores run their images; watchdogs reset a core, then hand it over. With a valid bank the bench complex
runs first, then a core that is not stopped: it is in service, bit 7 clears when all seven are, and the
security core ends an activation in state 4. A first expiry of a core in service counts and takes it out
of service; a second within 60 s hands its duties to the bench complex, which for the power-management
core caps the governor at the lower of its limit and 1,650 W. When the bench complex fails, nothing is in
service. (R461, R469, R473, spec/16_firmware.md) -/
def Obligations.WatchdogsResetCoresThenHandOver : Prop :=
  (∀ s : State, s.pwr.pwrOk = true → s.fw.images ≠ [] →
    exec (.firmwareCoreRunning 7) s = .next (setFw s { s.fw with bench := true })) ∧
  (∀ (s t u : State) (core : Nat), s.pwr.pwrOk = true → s.fw.images ≠ [] → core < 7 → s.fw.bench = true →
    ((tget s.fw.cores core).map (·.stopped)).getD false = false → t = setService s core true →
    u = (if reg t 0xA000 0x0D &&& 0x7F = 0x7F then setService t 7 false else t) →
    exec (.firmwareCoreRunning core) s =
      .next (if core = 0 ∧ u.fw.activating = true then setUpd (setFw u { u.fw with activating := false }) 4 else u)) ∧
  (∀ (s t : State) (core : Nat) (c : Core), core < 7 → inService s core = true → t = bump s 0xA000 0x0F →
    c = { expired := some t.now } → ((tget s.fw.cores core).bind (·.expired)).all (fun x => passedMs s x 60000) = true →
    exec (.watchdogExpire core) s =
      .next (setService (setFw t { t.fw with
        cores := tset t.fw.cores core c
        twice := t.fw.twice || ((tget s.fw.cores core).bind (·.expired)).isSome }) core false)) ∧
  (∀ (s t : State) (core x : Nat) (c : Core), core < 7 → inService s core = true →
    (tget s.fw.cores core).bind (·.expired) = some x → passedMs s x 60000 = false → t = bump s 0xA000 0x0F →
    c = { expired := some t.now } →
    exec (.watchdogExpire core) s =
      .next (handOver (setService (setFw t { t.fw with cores := tset t.fw.cores core c, twice := true }) core false)
        core)) ∧
  (∀ (s t : State) (c : Core), s.fw.bench = true → (tget s.fw.cores 7).bind (·.expired) = none →
    t = bump s 0xA000 0x0F → c = { expired := some t.now } →
    exec (.watchdogExpire 7) s =
      .next (setService (setFw t { t.fw with cores := tset t.fw.cores 7 c, bench := false }) 7 false)) ∧
  (∀ (s : State) (x : Nat), s.fw.bench = true → (tget s.fw.cores 7).bind (·.expired) = some x →
    passedMs s x 60000 = false → ∃ t, exec (.watchdogExpire 7) s = .next t ∧
      reg t 0xA000 0x0D = 0 ∧ t.fw.bench = false ∧ t.mem = s.mem ∧ t.pwr = s.pwr) ∧
  (∀ s : State, s.fw.bench = true → reg (handOver s 1) 0x9000 0x01 = min (reg s 0x9000 0x01) 1650)

/-- The operator key, the three host-loaded items and the attestation quote. The operator key of 32 bytes is
written once and refused with LOCKED after. A trust list, a topology map or a tenant policy that fails
its checks changes nothing and is answered with the status of the first failure; a good one replaces the
last, closes the sessions of keys gone from the list, or writes the route and domain tables and checks
the ports. While the security core runs, a nonce of 32 bytes is answered with the quote and its
signature; otherwise the quote is LOCKED. (R462, R463, R464, R465, R466, R467, R474, spec/16_firmware.md) -/
def Obligations.HostLoadedItemsAreCheckedAndInstalled : Prop :=
  (∀ (s t : State) (via : Via) (w : Who) (key : Bytes), askedBy s via = some (t, w) →
    writeStatus t w 0xA000 0x07 0 = Code.ok → key.length = 32 →
    exec (.operatorKeyWrite via key) s =
      if t.fw.operatorKey.isSome then answersTo s t via (answer Code.locked)
      else answersTo s (setFw t { t.fw with operatorKey := some key }) via (answer Code.ok)) ∧
  (∀ (s t u : State) (via : Via) (w : Who) (data : Bytes) (i : Item) (gone : Session → Bool),
    askedBy s via = some (t, w) → otherTransfer t via 0xA000 0x08 = false → writeStatus t w 0xA000 0x08 0 = Code.ok →
    i = itemOf data → i.body.length % 40 = 0 → i.body.length ≤ 64 * 40 →
    (∀ e ∈ cutRuns 40 (i.body.length + 1) i.body, hdrField e 32 1 ≤ 3 ∧ hdrField e 33 7 = 0) →
    gone = (fun x => x.principal == 0 && inTrust t.fw.trust x.key && !inTrust (some i) x.key &&
      !(t.fw.operatorKey == some x.key)) →
    u = closeSessions (setFw t { t.fw with trust := some i }) gone →
    exec (.trustListLoad via data) s =
      if itemStatus t 8 t.fw.trust data ≠ Code.ok then answersTo s t via (answer (itemStatus t 8 t.fw.trust data))
      else answersTo s u via (answer Code.ok)) ∧
  (∀ (s t u : State) (via : Via) (w : Who) (data : Bytes) (i : Item), askedBy s via = some (t, w) →
    otherTransfer t via 0xA000 0x09 = false → writeStatus t w 0xA000 0x09 0 = Code.ok → i = itemOf data →
    u = setRoutes (setFw t { t.fw with map := some i }) ((i.body.drop 2624).take 81920) →
    exec (.topologyMapLoad via data) s =
      if itemStatus t 9 t.fw.map data ≠ Code.ok then answersTo s t via (answer (itemStatus t 9 t.fw.map data))
      else if mapBad t i.body then answersTo s t via (answer Code.misaligned)
      else answersTo s (checkPorts (setDomains u (i.body.drop 84544))) via (answer Code.ok)) ∧
  (∀ (s t : State) (via : Via) (w : Who) (data : Bytes) (i : Item), askedBy s via = some (t, w) →
    otherTransfer t via 0xA000 0x0A = false → writeStatus t w 0xA000 0x0A 0 = Code.ok → i = itemOf data →
    i.body.length = 65536 → (∀ e ∈ cutRuns 16 (i.body.length + 1) i.body, ofLe e / 2 ^ 41 = 0) →
    exec (.tenantPolicyLoad via data) s =
      if itemStatus t 10 t.fw.policy data ≠ Code.ok then answersTo s t via (answer (itemStatus t 10 t.fw.policy data))
      else answersTo s (setFw t { t.fw with policy := some i }) via (answer Code.ok)) ∧
  (∀ (s : State) (kind : Nat) (last : Option Item) (data : Bytes), inService s 0 = false →
    itemStatus s kind last data = Code.locked) ∧
  (∀ (s t : State) (via : Via) (w : Who) (nonce : Bytes), askedBy s via = some (t, w) → mayRead w 0xA000 = true →
    nonce.length = 32 →
    exec (.attestationQuote via nonce) s =
      if inService t 0 then
        answersTo s t via { status := Code.ok, length := 480, values := [quoteBlock t nonce] }
      else answersTo s t via (answer Code.locked))

/-- PWR_OK, RESET_N and the reset command. A rise of PWR_OK releases the part, after a cold reset where
supplies were lost. A fall of PWR_OK is a warm reset that holds the part, and a loss of the always-on
supply a cold one. RESET_N low and a write of 9000:10 send a LAST_GASP and are warm resets; RESET_N holds
the part until it is released. A release does nothing while something holds the part; otherwise straps
are sampled and firmware loaded, and the part starts unless EPO_N (state 3) or the temperature (state 2)
holds it. (R480, R481, R485, R486, R487, R488, spec/17_power_reset_pins.md) -/
def Obligations.ResetsHoldAndReleaseThePart : Prop :=
  (∀ (s t : State) (x : Straps) (cold hot : Bool), s.pwr.pwrOk = false →
    t = setPwr s { s.pwr with pwrOk := true } →
    exec (.powerOkRise x cold hot) s =
      .next (releaseReset (if cold = true ∨ s.pwr.warm = false then resetPart t false 1 else t) x hot)) ∧
  (∀ s t : State, s.pwr.pwrOk = true → t = setPwr s { s.pwr with pwrOk := false } →
    exec (.powerOkFall false) s = .next (resetPart t true 2) ∧
    exec (.powerOkFall true) s =
      .next (setPwr (resetPart t false 1) { (resetPart t false 1).pwr with warm := false })) ∧
  (∀ s t : State, s.pwr.pwrOk = true → s.pwr.resetNLow = false → t = sendGasp s 3 15 →
    exec .resetN s = .next (resetPart (setPwr t { t.pwr with resetNLow := true }) true 3)) ∧
  (∀ (s : State) (x : Straps), s.pwr.resetNLow = true →
    exec (.resetNRelease x) s = .next (releaseReset (setPwr s { s.pwr with resetNLow := false }) x false)) ∧
  (∀ (s t : State) (via : Via) (w : Who) (v : Nat), askedBy s via = some (t, w) →
    writeStatus t w 0x9000 0x10 v = Code.ok →
    exec (.resetCommand via v) s =
      answersTo s (releaseReset (resetPart (sendGasp t 3 15) true 4) t.pwr.straps false) via (answer Code.ok)) ∧
  (∀ (s : State) (x : Straps) (hot : Bool), heldReset s = true → releaseReset s x hot = s) ∧
  (∀ (s t : State) (x : Straps) (hot : Bool), heldReset s = false → t = bootFirmware (sampleStraps s x) →
    (t.pwr.epo = true → reg (releaseReset s x hot) 0x9000 0x11 = 3) ∧
    (t.pwr.epo = false → (hot = true ∨ hotterThan t 760 = true) → releaseReset s x hot = setReg t 0x9000 0x11 2) ∧
    (t.pwr.epo = false → hot = false → hotterThan t 760 = false → releaseReset s x hot = beginStart t))

/-- Training of stacks and modules, and the end of start-up. Once, while the part starts, a stack trained is
marked present, and one not trained by 150 ms is marked absent with a critical record of its own; a
module of 64 or 128 GiB trained is marked present with its size, and one not trained by 285 ms stays
absent. When all 20 stacks and 12 modules are done the first contexts exist, PART_READY rises, 9000:11
shows 1 and 9000:16 the start-up time in microseconds. A part held for its temperature starts once every
quarter reads 90 degrees or less. (R275, R276, R335, R482, R483, R484, spec/17_power_reset_pins.md) -/
def Obligations.StartUpTrainsMemoryThenReadiesThePart : Prop :=
  (∀ (s t : State) (n : Nat) (ok : Bool), s.pwr.up = true → n < 20 → n ∉ s.pwr.stacksDone →
    (ok = false → passedMs s s.pwr.startedAt 150 = true) →
    t = setPwr s { s.pwr with stacksDone := s.pwr.stacksDone ++ [n] } →
    exec (.plateTrainingEnd n ok) s =
      .next (if ok then setReg t 0x5000 0x04 (reg t 0x5000 0x04 ||| 2 ^ n) else unitAbsent t 4 n (n / 5))) ∧
  (∀ (s t : State) (n size : Nat) (ok : Bool), s.pwr.up = true → n < 12 → n ∉ s.pwr.modulesDone →
    (ok = true → size = 64 ∨ size = 128) → (ok = false → passedMs s s.pwr.startedAt 285 = true) →
    t = setPwr s { s.pwr with modulesDone := s.pwr.modulesDone ++ [n] } →
    exec (.slabTrainingEnd n size ok) s =
      .next (if ok then
          setReg { t with mem := { t.mem with slab := tset t.mem.slab n size } } 0x5000 0x03 (reg t 0x5000 0x03 ||| 2 ^ n)
        else t)) ∧
  (∀ s t u : State, s.pwr.up = true → reg s 0x9000 0x11 = 0 → s.pwr.stacksDone.length = 20 →
    s.pwr.modulesDone.length = 12 → u = firstContexts s → t = setPwr u { u.pwr with partReady := true } →
    exec .startupComplete s = .next (setReg (setReg t 0x9000 0x11 1) 0x9000 0x16
      ((t.now - t.pwr.startedAt) * 5 / 9000 % 2 ^ 32))) ∧
  (∀ s : State, reg s 0x9000 0x11 = 2 → heldReset s = false → hotterThan s 721 = false →
    exec .startupTemperatureOk s = .next (beginStart s))

/-- EPO_N, the reference clocks and the thermal ladder. With PWR_OK high every assertion of EPO_N is counted;
a new one quiets every fabric and Ethernet port, stops the core and the engines, whose work in flight
goes, and shows state 3. Its release is a warm reset of source 5. A lost core or management clock is a
warm reset of source 2 that holds the part; a lost serdes clock takes the active ports of its quarter to
RECOVER and those in training to DETECT; a lost Ethernet clock takes its ports down; a clock that returns
releases a part that it held. The hottest reading of a quarter is shown in 2000+q:02. A reading of 95 or
105 degrees takes that step with a critical THERMAL_STEP record, and one of 115 degrees shuts the quarter
down and stops the core. No reading at all calls for the 105 degree step. After 100 ms at or below the
leave threshold the step is left; that of 105 falls back to that of 95 (log entry 29). A shut quarter
takes no more readings. (R367, R399, R488, R489, R494, R495, R496, R497, R498,
spec/17_power_reset_pins.md) -/
def Obligations.EmergencyOffClocksAndTheThermalLadder : Prop :=
  ((∀ s t u : State, s.pwr.pwrOk = true → t = setReg s 0x9000 0x15 ((reg s 0x9000 0x15 + 1) % 2 ^ 32) →
      u = quietPorts (setPwr t { t.pwr with epo := true }) →
      exec .epoAssert s = .next (if s.pwr.epo then t else
        setReg { u with
          core := { u.core with stopped := true }
          q := { u.q with flights := [] }
          net := { u.net with jobs := [] } } 0x9000 0x11 3)) ∧
    (∀ s : State, s.pwr.epo = true → s.pwr.pwrOk = true →
      exec .epoRelease s =
        .next (releaseReset (resetPart (setPwr s { s.pwr with epo := false }) true 5) s.pwr.straps false)) ∧
    (∀ (s t : State) (c : RefClock), (c = .core ∨ c = .mgmt) → clockNo c ∉ s.pwr.clocksLost →
      t = setPwr s { s.pwr with clocksLost := s.pwr.clocksLost ++ [clockNo c] } →
      heldReset t = true ∧ exec (.referenceClockLoss c) s = .next (if s.pwr.pwrOk then resetPart t true 2 else t)) ∧
    (∀ (s t : State) (q : Nat) (f : State → Nat → State), 1 + q % 4 ∉ s.pwr.clocksLost →
      t = setPwr s { s.pwr with clocksLost := s.pwr.clocksLost ++ [1 + q % 4] } →
      f = (fun s p => if portActive s p then enterRecover s p true
        else if 2 ≤ portState s p ∧ portState s p ≤ 5 then enterDetect s p else s) →
      exec (.referenceClockLoss (.serdes q)) s =
        .next (settle ((List.range 16).foldl (fun s i => f s (16 * (q % 4) + i)) t))) ∧
    (∀ s t : State, 5 ∉ s.pwr.clocksLost → t = setPwr s { s.pwr with clocksLost := s.pwr.clocksLost ++ [5] } →
      exec (.referenceClockLoss .eth) s =
        .next ((List.range 8).foldl (fun s e => if ethUp s e then ethDown s e else s) t)) ∧
    (∀ (s t : State) (c : RefClock), clockNo c ∈ s.pwr.clocksLost →
      t = setPwr s { s.pwr with clocksLost := s.pwr.clocksLost.filter fun x => x != clockNo c } →
      exec (.referenceClockReturn c) s = .next (if heldReset s then releaseReset t t.pwr.straps false else t))) ∧
  ((∀ (s t : State) (q : Nat) (x : Int), q < 4 → s.pwr.pwrOk = true → ladderOf s q ≠ 3 →
      t = setReg s (0x2000 + q) 0x02 (BitVec.ofInt 32 x).toNat →
      exec (.thermalSample q (some x)) s = .next (
        if ladderOf t q < stepFor x then
          (if stepFor x = 3 then shutQuarter t q
          else raise (setLadder t q (stepFor x)) { cls := 0x15, critical := true, quarter := some q, unitKind := 1, unit := q, d0 := stepFor x })
        else noteCool t q x)) ∧
    (∀ (s : State) (q : Nat), q < 4 → s.pwr.pwrOk = true → ladderOf s q ≠ 3 →
      exec (.thermalSample q none) s = .next (
        if ladderOf s q < 2 then
          raise (setLadder s q 2) { cls := 0x15, critical := true, quarter := some q, unitKind := 1, unit := q, d0 := 2 }
        else setPwr s { s.pwr with coolSince := tdel s.pwr.coolSince q })) ∧
    (∀ (s : State) (q t : Nat), tget s.pwr.coolSince q = some t → q < 4 → (ladderOf s q = 1 ∨ ladderOf s q = 2) →
      passedMs s t 100 = true → exec (.thermalStepClear q) s = .next (setLadder s q (ladderOf s q - 1))) ∧
    (∀ x : Int, (x < 95 * 8 → stepFor x = 0) ∧ (95 * 8 ≤ x → x < 105 * 8 → stepFor x = 1) ∧
      (105 * 8 ≤ x → x < 115 * 8 → stepFor x = 2) ∧ (115 * 8 ≤ x → stepFor x = 3)) ∧
    (∀ (s : State) (q : Nat) (x : Option Int), ladderOf s q = 3 → exec (.thermalSample q x) s = .next s) ∧
    (∀ (s : State) (q : Nat), let t := shutQuarter s q
      t.core.stopped = true ∧ reg t (0x2000 + q) 0x01 = 2))

/-- The governor's limit, samples, steps and their undoing. A limit written is clamped to the ceiling; under
the bench complex only a lower one is taken. A sample of 1 ms is shown in 9000:03. Each 10 us in which
the prediction exceeds the limit takes the next step: background pauses, then the engine clock falls in
steps of 100 MHz to its floor, then the tiers are paced in 8 steps, then the time counts. Each 100 us
below 95 % of the limit undoes the last step in reverse order; the engine clock of a quarter is the lower
of the governor's and of its ladder's. (R490, R491, R492, R493, spec/17_power_reset_pins.md) -/
def Obligations.TheGovernorThrottlesInOrder : Prop :=
  (∀ (s t : State) (via : Via) (w : Who) (n : Nat), askedBy s via = some (t, w) →
    writeStatus t w 0x9000 0x01 n = Code.ok →
    exec (.governorLimitWrite via n) s = answersTo s
      (if t.pwr.benchLimit.all (fun b => decide (min n (reg t 0x9000 0x02) < b)) then
        setReg (if t.pwr.benchLimit = none then t else setPwr t { t.pwr with benchLimit := some (min n (reg t 0x9000 0x02)) })
          0x9000 0x01 (min n (reg t 0x9000 0x02))
      else t) via (answer Code.ok)) ∧
  (∀ (s : State) (n : Nat), s.pwr.up = true → passedMs s s.pwr.lastSample 1 = true →
    exec (.powerSample n) s =
      .next (setReg (chargeStage (setPwr s { s.pwr with lastSample := s.now })) 0x9000 0x03 (n % 2 ^ 32))) ∧
  (∀ (s t : State) (n : Nat), s.pwr.up = true → passedUs s s.pwr.lastStep 10 = true →
    t = chargeStage (setPwr s { s.pwr with lastStep := s.now }) →
    exec (.governorStep n) s =
      .next (if reg t 0x9000 0x01 < n then showStage (nextStage t) else setPwr t { t.pwr with overSince := none })) ∧
  (∀ s : State,
    (s.pwr.paused = false → nextStage s = setPwr s { s.pwr with paused := true }) ∧
    (s.pwr.paused = true → reg s 0x9000 0x04 + 100 * (s.pwr.clockSteps + 1) ≤ 3600 →
      nextStage s = setPwr s { s.pwr with clockSteps := s.pwr.clockSteps + 1 }) ∧
    (s.pwr.paused = true → 3600 < reg s 0x9000 0x04 + 100 * (s.pwr.clockSteps + 1) → s.pwr.paceSteps < 8 →
      nextStage s = setPwr s { s.pwr with paceSteps := s.pwr.paceSteps + 1 })) ∧
  (∀ (s t : State) (n : Nat), s.pwr.up = true → passedUs s s.pwr.lastRelax 100 = true →
    n * 100 < reg s 0x9000 0x01 * 95 → t = chargeStage (setPwr s { s.pwr with lastRelax := s.now, overSince := none }) →
    exec (.governorRelax n) s = .next (showStage (undoStage t))) ∧
  (∀ s : State,
    (0 < s.pwr.paceSteps → undoStage s = setPwr s { s.pwr with paceSteps := s.pwr.paceSteps - 1 }) ∧
    (s.pwr.paceSteps = 0 → 0 < s.pwr.clockSteps →
      undoStage s = setPwr s { s.pwr with clockSteps := s.pwr.clockSteps - 1 }) ∧
    (s.pwr.paceSteps = 0 → s.pwr.clockSteps = 0 → undoStage s = setPwr s { s.pwr with paused := false })) ∧
  (∀ (s : State) (q : Nat), q < 4 →
    reg (setClocks s) (0x2000 + q) 0x03 = min (3600 - 100 * s.pwr.clockSteps) (ladderClock (reg s 0x9000 (8 + q))))

end
end

