-- ==== Sys2Proof/Laws/Descs.lean ====
section
/-! SUPPORT. What the shared operations of descriptors do, said once. -/

namespace Sys2Proof.Machine

/-- A descriptor that may act runs its meaning on the state after its ORDER. -/
theorem withDesc_acts {s : State} {d : DescRef} {op : Nat} {f : Flight} (h : MayAct s d op f)
    (k : State → Nat → Flight → Out) : withDesc s d op k = k (actsOn s f) (refKey d) f := by
  obtain ⟨h1, h2, h3⟩ := h
  unfold withDesc actsOn
  simp [h1, h2, h3]

/-- A descriptor that may act has the opcode of its command. -/
theorem mayAct_op {s : State} {d : DescRef} {op : Nat} {f : Flight} (h : MayAct s d op f) : opcodeOf f.desc = op := by
  have h1 := h.1
  unfold issuedOp at h1
  split at h1
  · split at h1
    · rename_i hc; simp at h1; subst h1; exact hc.2
    · simp at h1
  · simp at h1

/-- A descriptor that is not in flight with the opcode, or has acted, changes nothing. -/
theorem withDesc_none {s : State} {d : DescRef} {op : Nat} (h : issuedOp s d op = none)
    (k : State → Nat → Flight → Out) : withDesc s d op k = .next s := by
  unfold withDesc; simp [h]

/-- A request of the dictionary that is taken up runs its meaning and is answered. -/
theorem withVia_asked {s t : State} {via : Via} {w : Who} (h : askedBy s via = some (t, w))
    (k : State → Who → State × Answer) : withVia s via k = answersTo s (k t w).1 via (k t w).2 := by
  unfold withVia answersTo repliedTo
  unfold askedBy at h
  cases via with
  | firmware => simp at h; obtain ⟨rfl, rfl⟩ := h; rfl
  | session id seq =>
    unfold withSession
    simp only at h ⊢
    cases hx : tget s.dict.sessions id with
    | none => simp [hx] at h
    | some x =>
      simp only [hx] at h ⊢
      split at h
      · rename_i hn; simp only [hn]; simp at h; obtain ⟨rfl, rfl⟩ := h; rfl
      · simp at h

/-- A write that passes its checks is performed. -/
theorem guarded_ok {s : State} {w : Who} {idx sub v : Nat} (h : writeStatus s w idx sub v = Code.ok)
    (k : State → State × Answer) : guarded s w idx sub v k = k s := by
  unfold guarded; simp [h]

/-- A block write that passes its checks is performed where its session writes no other entry. -/
theorem guardedBlock_ok {s : State} {via : Via} {w : Who} {idx sub : Nat}
    (h1 : otherTransfer s via idx sub = false) (h2 : writeStatus s w idx sub 0 = Code.ok)
    (k : State → State × Answer) : guardedBlock s via w idx sub k = k s := by
  unfold guardedBlock; simp [h1, guarded_ok h2]

end Sys2Proof.Machine
end

