-- ==== Sys2Proof/Laws/State.lean ====
section
/-! SUPPORT. What each update of State leaves as it was, field by field, each true by unfolding. -/

namespace Sys2Proof.Machine

@[simp] theorem setReg_time (s : State) (idx sub v : Nat) : (setReg s idx sub v).time = s.time := rfl
@[simp] theorem setReg_tees (s : State) (idx sub v : Nat) : (setReg s idx sub v).tees = s.tees := rfl
@[simp] theorem setReg_huddles (s : State) (idx sub v : Nat) : (setReg s idx sub v).huddles = s.huddles := rfl
@[simp] theorem setReg_ledgers (s : State) (idx sub v : Nat) : (setReg s idx sub v).ledgers = s.ledgers := rfl
@[simp] theorem setReg_xlat (s : State) (idx sub v : Nat) : (setReg s idx sub v).xlat = s.xlat := rfl
@[simp] theorem setReg_q (s : State) (idx sub v : Nat) : (setReg s idx sub v).q = s.q := rfl
@[simp] theorem setReg_mem (s : State) (idx sub v : Nat) : (setReg s idx sub v).mem = s.mem := rfl
@[simp] theorem setReg_net (s : State) (idx sub v : Nat) : (setReg s idx sub v).net = s.net := rfl
@[simp] theorem setReg_core (s : State) (idx sub v : Nat) : (setReg s idx sub v).core = s.core := rfl
@[simp] theorem setReg_scrum (s : State) (idx sub v : Nat) : (setReg s idx sub v).scrum = s.scrum := rfl
@[simp] theorem setReg_step (s : State) (idx sub v : Nat) : (setReg s idx sub v).step = s.step := rfl
@[simp] theorem setReg_pewter (s : State) (idx sub v : Nat) : (setReg s idx sub v).pewter = s.pewter := rfl
@[simp] theorem setReg_caddie (s : State) (idx sub v : Nat) : (setReg s idx sub v).caddie = s.caddie := rfl
@[simp] theorem setReg_ctx (s : State) (idx sub v : Nat) : (setReg s idx sub v).ctx = s.ctx := rfl
@[simp] theorem setReg_recov (s : State) (idx sub v : Nat) : (setReg s idx sub v).recov = s.recov := rfl
@[simp] theorem setReg_eth (s : State) (idx sub v : Nat) : (setReg s idx sub v).eth = s.eth := rfl
@[simp] theorem setReg_links (s : State) (idx sub v : Nat) : (setReg s idx sub v).links = s.links := rfl
@[simp] theorem setReg_fw (s : State) (idx sub v : Nat) : (setReg s idx sub v).fw = s.fw := rfl
@[simp] theorem setReg_pwr (s : State) (idx sub v : Nat) : (setReg s idx sub v).pwr = s.pwr := rfl
@[simp] theorem setReg_out (s : State) (idx sub v : Nat) : (setReg s idx sub v).out = s.out := rfl
@[simp] theorem setReg_fresh (s : State) (idx sub v : Nat) : (setReg s idx sub v).fresh = s.fresh := rfl
@[simp] theorem setReg_now (s : State) (idx sub v : Nat) : (setReg s idx sub v).now = s.now := rfl
@[simp] theorem setReg_pending (s : State) (idx sub v : Nat) : (setReg s idx sub v).pending = s.pending := rfl
@[simp] theorem bumpBy_time (s : State) (idx sub n : Nat) : (bumpBy s idx sub n).time = s.time := rfl
@[simp] theorem bumpBy_tees (s : State) (idx sub n : Nat) : (bumpBy s idx sub n).tees = s.tees := rfl
@[simp] theorem bumpBy_huddles (s : State) (idx sub n : Nat) : (bumpBy s idx sub n).huddles = s.huddles := rfl
@[simp] theorem bumpBy_ledgers (s : State) (idx sub n : Nat) : (bumpBy s idx sub n).ledgers = s.ledgers := rfl
@[simp] theorem bumpBy_xlat (s : State) (idx sub n : Nat) : (bumpBy s idx sub n).xlat = s.xlat := rfl
@[simp] theorem bumpBy_q (s : State) (idx sub n : Nat) : (bumpBy s idx sub n).q = s.q := rfl
@[simp] theorem bumpBy_mem (s : State) (idx sub n : Nat) : (bumpBy s idx sub n).mem = s.mem := rfl
@[simp] theorem bumpBy_net (s : State) (idx sub n : Nat) : (bumpBy s idx sub n).net = s.net := rfl
@[simp] theorem bumpBy_core (s : State) (idx sub n : Nat) : (bumpBy s idx sub n).core = s.core := rfl
@[simp] theorem bumpBy_scrum (s : State) (idx sub n : Nat) : (bumpBy s idx sub n).scrum = s.scrum := rfl
@[simp] theorem bumpBy_step (s : State) (idx sub n : Nat) : (bumpBy s idx sub n).step = s.step := rfl
@[simp] theorem bumpBy_pewter (s : State) (idx sub n : Nat) : (bumpBy s idx sub n).pewter = s.pewter := rfl
@[simp] theorem bumpBy_caddie (s : State) (idx sub n : Nat) : (bumpBy s idx sub n).caddie = s.caddie := rfl
@[simp] theorem bumpBy_ctx (s : State) (idx sub n : Nat) : (bumpBy s idx sub n).ctx = s.ctx := rfl
@[simp] theorem bumpBy_recov (s : State) (idx sub n : Nat) : (bumpBy s idx sub n).recov = s.recov := rfl
@[simp] theorem bumpBy_eth (s : State) (idx sub n : Nat) : (bumpBy s idx sub n).eth = s.eth := rfl
@[simp] theorem bumpBy_links (s : State) (idx sub n : Nat) : (bumpBy s idx sub n).links = s.links := rfl
@[simp] theorem bumpBy_fw (s : State) (idx sub n : Nat) : (bumpBy s idx sub n).fw = s.fw := rfl
@[simp] theorem bumpBy_pwr (s : State) (idx sub n : Nat) : (bumpBy s idx sub n).pwr = s.pwr := rfl
@[simp] theorem bumpBy_out (s : State) (idx sub n : Nat) : (bumpBy s idx sub n).out = s.out := rfl
@[simp] theorem bumpBy_fresh (s : State) (idx sub n : Nat) : (bumpBy s idx sub n).fresh = s.fresh := rfl
@[simp] theorem bumpBy_now (s : State) (idx sub n : Nat) : (bumpBy s idx sub n).now = s.now := rfl
@[simp] theorem bumpBy_pending (s : State) (idx sub n : Nat) : (bumpBy s idx sub n).pending = s.pending := rfl
@[simp] theorem bump_time (s : State) (idx sub : Nat) : (bump s idx sub).time = s.time := rfl
@[simp] theorem bump_tees (s : State) (idx sub : Nat) : (bump s idx sub).tees = s.tees := rfl
@[simp] theorem bump_huddles (s : State) (idx sub : Nat) : (bump s idx sub).huddles = s.huddles := rfl
@[simp] theorem bump_ledgers (s : State) (idx sub : Nat) : (bump s idx sub).ledgers = s.ledgers := rfl
@[simp] theorem bump_xlat (s : State) (idx sub : Nat) : (bump s idx sub).xlat = s.xlat := rfl
@[simp] theorem bump_q (s : State) (idx sub : Nat) : (bump s idx sub).q = s.q := rfl
@[simp] theorem bump_mem (s : State) (idx sub : Nat) : (bump s idx sub).mem = s.mem := rfl
@[simp] theorem bump_net (s : State) (idx sub : Nat) : (bump s idx sub).net = s.net := rfl
@[simp] theorem bump_core (s : State) (idx sub : Nat) : (bump s idx sub).core = s.core := rfl
@[simp] theorem bump_scrum (s : State) (idx sub : Nat) : (bump s idx sub).scrum = s.scrum := rfl
@[simp] theorem bump_step (s : State) (idx sub : Nat) : (bump s idx sub).step = s.step := rfl
@[simp] theorem bump_pewter (s : State) (idx sub : Nat) : (bump s idx sub).pewter = s.pewter := rfl
@[simp] theorem bump_caddie (s : State) (idx sub : Nat) : (bump s idx sub).caddie = s.caddie := rfl
@[simp] theorem bump_ctx (s : State) (idx sub : Nat) : (bump s idx sub).ctx = s.ctx := rfl
@[simp] theorem bump_recov (s : State) (idx sub : Nat) : (bump s idx sub).recov = s.recov := rfl
@[simp] theorem bump_eth (s : State) (idx sub : Nat) : (bump s idx sub).eth = s.eth := rfl
@[simp] theorem bump_links (s : State) (idx sub : Nat) : (bump s idx sub).links = s.links := rfl
@[simp] theorem bump_fw (s : State) (idx sub : Nat) : (bump s idx sub).fw = s.fw := rfl
@[simp] theorem bump_pwr (s : State) (idx sub : Nat) : (bump s idx sub).pwr = s.pwr := rfl
@[simp] theorem bump_out (s : State) (idx sub : Nat) : (bump s idx sub).out = s.out := rfl
@[simp] theorem bump_fresh (s : State) (idx sub : Nat) : (bump s idx sub).fresh = s.fresh := rfl
@[simp] theorem bump_now (s : State) (idx sub : Nat) : (bump s idx sub).now = s.now := rfl
@[simp] theorem bump_pending (s : State) (idx sub : Nat) : (bump s idx sub).pending = s.pending := rfl
@[simp] theorem draw_time (s : State) : (draw s).time = s.time := rfl
@[simp] theorem draw_tees (s : State) : (draw s).tees = s.tees := rfl
@[simp] theorem draw_huddles (s : State) : (draw s).huddles = s.huddles := rfl
@[simp] theorem draw_ledgers (s : State) : (draw s).ledgers = s.ledgers := rfl
@[simp] theorem draw_xlat (s : State) : (draw s).xlat = s.xlat := rfl
@[simp] theorem draw_q (s : State) : (draw s).q = s.q := rfl
@[simp] theorem draw_mem (s : State) : (draw s).mem = s.mem := rfl
@[simp] theorem draw_net (s : State) : (draw s).net = s.net := rfl
@[simp] theorem draw_core (s : State) : (draw s).core = s.core := rfl
@[simp] theorem draw_scrum (s : State) : (draw s).scrum = s.scrum := rfl
@[simp] theorem draw_step (s : State) : (draw s).step = s.step := rfl
@[simp] theorem draw_pewter (s : State) : (draw s).pewter = s.pewter := rfl
@[simp] theorem draw_caddie (s : State) : (draw s).caddie = s.caddie := rfl
@[simp] theorem draw_ctx (s : State) : (draw s).ctx = s.ctx := rfl
@[simp] theorem draw_recov (s : State) : (draw s).recov = s.recov := rfl
@[simp] theorem draw_eth (s : State) : (draw s).eth = s.eth := rfl
@[simp] theorem draw_dict (s : State) : (draw s).dict = s.dict := rfl
@[simp] theorem draw_links (s : State) : (draw s).links = s.links := rfl
@[simp] theorem draw_fw (s : State) : (draw s).fw = s.fw := rfl
@[simp] theorem draw_pwr (s : State) : (draw s).pwr = s.pwr := rfl
@[simp] theorem draw_out (s : State) : (draw s).out = s.out := rfl
@[simp] theorem draw_now (s : State) : (draw s).now = s.now := rfl
@[simp] theorem draw_pending (s : State) : (draw s).pending = s.pending := rfl
@[simp] theorem send_time (s : State) (x : Sent) : (send s x).time = s.time := rfl
@[simp] theorem send_tees (s : State) (x : Sent) : (send s x).tees = s.tees := rfl
@[simp] theorem send_huddles (s : State) (x : Sent) : (send s x).huddles = s.huddles := rfl
@[simp] theorem send_ledgers (s : State) (x : Sent) : (send s x).ledgers = s.ledgers := rfl
@[simp] theorem send_xlat (s : State) (x : Sent) : (send s x).xlat = s.xlat := rfl
@[simp] theorem send_q (s : State) (x : Sent) : (send s x).q = s.q := rfl
@[simp] theorem send_mem (s : State) (x : Sent) : (send s x).mem = s.mem := rfl
@[simp] theorem send_net (s : State) (x : Sent) : (send s x).net = s.net := rfl
@[simp] theorem send_core (s : State) (x : Sent) : (send s x).core = s.core := rfl
@[simp] theorem send_scrum (s : State) (x : Sent) : (send s x).scrum = s.scrum := rfl
@[simp] theorem send_step (s : State) (x : Sent) : (send s x).step = s.step := rfl
@[simp] theorem send_pewter (s : State) (x : Sent) : (send s x).pewter = s.pewter := rfl
@[simp] theorem send_caddie (s : State) (x : Sent) : (send s x).caddie = s.caddie := rfl
@[simp] theorem send_ctx (s : State) (x : Sent) : (send s x).ctx = s.ctx := rfl
@[simp] theorem send_recov (s : State) (x : Sent) : (send s x).recov = s.recov := rfl
@[simp] theorem send_eth (s : State) (x : Sent) : (send s x).eth = s.eth := rfl
@[simp] theorem send_dict (s : State) (x : Sent) : (send s x).dict = s.dict := rfl
@[simp] theorem send_links (s : State) (x : Sent) : (send s x).links = s.links := rfl
@[simp] theorem send_fw (s : State) (x : Sent) : (send s x).fw = s.fw := rfl
@[simp] theorem send_pwr (s : State) (x : Sent) : (send s x).pwr = s.pwr := rfl
@[simp] theorem send_fresh (s : State) (x : Sent) : (send s x).fresh = s.fresh := rfl
@[simp] theorem send_now (s : State) (x : Sent) : (send s x).now = s.now := rfl
@[simp] theorem send_pending (s : State) (x : Sent) : (send s x).pending = s.pending := rfl
@[simp] theorem setBlock_time (s : State) (idx sub : Nat) (b : Bytes) : (setBlock s idx sub b).time = s.time := rfl
@[simp] theorem setBlock_tees (s : State) (idx sub : Nat) (b : Bytes) : (setBlock s idx sub b).tees = s.tees := rfl
@[simp] theorem setBlock_huddles (s : State) (idx sub : Nat) (b : Bytes) : (setBlock s idx sub b).huddles = s.huddles := rfl
@[simp] theorem setBlock_ledgers (s : State) (idx sub : Nat) (b : Bytes) : (setBlock s idx sub b).ledgers = s.ledgers := rfl
@[simp] theorem setBlock_xlat (s : State) (idx sub : Nat) (b : Bytes) : (setBlock s idx sub b).xlat = s.xlat := rfl
@[simp] theorem setBlock_q (s : State) (idx sub : Nat) (b : Bytes) : (setBlock s idx sub b).q = s.q := rfl
@[simp] theorem setBlock_mem (s : State) (idx sub : Nat) (b : Bytes) : (setBlock s idx sub b).mem = s.mem := rfl
@[simp] theorem setBlock_net (s : State) (idx sub : Nat) (b : Bytes) : (setBlock s idx sub b).net = s.net := rfl
@[simp] theorem setBlock_core (s : State) (idx sub : Nat) (b : Bytes) : (setBlock s idx sub b).core = s.core := rfl
@[simp] theorem setBlock_scrum (s : State) (idx sub : Nat) (b : Bytes) : (setBlock s idx sub b).scrum = s.scrum := rfl
@[simp] theorem setBlock_step (s : State) (idx sub : Nat) (b : Bytes) : (setBlock s idx sub b).step = s.step := rfl
@[simp] theorem setBlock_pewter (s : State) (idx sub : Nat) (b : Bytes) : (setBlock s idx sub b).pewter = s.pewter := rfl
@[simp] theorem setBlock_caddie (s : State) (idx sub : Nat) (b : Bytes) : (setBlock s idx sub b).caddie = s.caddie := rfl
@[simp] theorem setBlock_ctx (s : State) (idx sub : Nat) (b : Bytes) : (setBlock s idx sub b).ctx = s.ctx := rfl
@[simp] theorem setBlock_recov (s : State) (idx sub : Nat) (b : Bytes) : (setBlock s idx sub b).recov = s.recov := rfl
@[simp] theorem setBlock_eth (s : State) (idx sub : Nat) (b : Bytes) : (setBlock s idx sub b).eth = s.eth := rfl
@[simp] theorem setBlock_links (s : State) (idx sub : Nat) (b : Bytes) : (setBlock s idx sub b).links = s.links := rfl
@[simp] theorem setBlock_fw (s : State) (idx sub : Nat) (b : Bytes) : (setBlock s idx sub b).fw = s.fw := rfl
@[simp] theorem setBlock_pwr (s : State) (idx sub : Nat) (b : Bytes) : (setBlock s idx sub b).pwr = s.pwr := rfl
@[simp] theorem setBlock_out (s : State) (idx sub : Nat) (b : Bytes) : (setBlock s idx sub b).out = s.out := rfl
@[simp] theorem setBlock_fresh (s : State) (idx sub : Nat) (b : Bytes) : (setBlock s idx sub b).fresh = s.fresh := rfl
@[simp] theorem setBlock_now (s : State) (idx sub : Nat) (b : Bytes) : (setBlock s idx sub b).now = s.now := rfl
@[simp] theorem setBlock_pending (s : State) (idx sub : Nat) (b : Bytes) : (setBlock s idx sub b).pending = s.pending := rfl
@[simp] theorem setShadows_time (s : State) (t : Tbl Shadow) : (setShadows s t).time = s.time := rfl
@[simp] theorem setShadows_tees (s : State) (t : Tbl Shadow) : (setShadows s t).tees = s.tees := rfl
@[simp] theorem setShadows_huddles (s : State) (t : Tbl Shadow) : (setShadows s t).huddles = s.huddles := rfl
@[simp] theorem setShadows_ledgers (s : State) (t : Tbl Shadow) : (setShadows s t).ledgers = s.ledgers := rfl
@[simp] theorem setShadows_xlat (s : State) (t : Tbl Shadow) : (setShadows s t).xlat = s.xlat := rfl
@[simp] theorem setShadows_q (s : State) (t : Tbl Shadow) : (setShadows s t).q = s.q := rfl
@[simp] theorem setShadows_mem (s : State) (t : Tbl Shadow) : (setShadows s t).mem = s.mem := rfl
@[simp] theorem setShadows_net (s : State) (t : Tbl Shadow) : (setShadows s t).net = s.net := rfl
@[simp] theorem setShadows_core (s : State) (t : Tbl Shadow) : (setShadows s t).core = s.core := rfl
@[simp] theorem setShadows_scrum (s : State) (t : Tbl Shadow) : (setShadows s t).scrum = s.scrum := rfl
@[simp] theorem setShadows_step (s : State) (t : Tbl Shadow) : (setShadows s t).step = s.step := rfl
@[simp] theorem setShadows_pewter (s : State) (t : Tbl Shadow) : (setShadows s t).pewter = s.pewter := rfl
@[simp] theorem setShadows_caddie (s : State) (t : Tbl Shadow) : (setShadows s t).caddie = s.caddie := rfl
@[simp] theorem setShadows_ctx (s : State) (t : Tbl Shadow) : (setShadows s t).ctx = s.ctx := rfl
@[simp] theorem setShadows_recov (s : State) (t : Tbl Shadow) : (setShadows s t).recov = s.recov := rfl
@[simp] theorem setShadows_eth (s : State) (t : Tbl Shadow) : (setShadows s t).eth = s.eth := rfl
@[simp] theorem setShadows_links (s : State) (t : Tbl Shadow) : (setShadows s t).links = s.links := rfl
@[simp] theorem setShadows_fw (s : State) (t : Tbl Shadow) : (setShadows s t).fw = s.fw := rfl
@[simp] theorem setShadows_pwr (s : State) (t : Tbl Shadow) : (setShadows s t).pwr = s.pwr := rfl
@[simp] theorem setShadows_out (s : State) (t : Tbl Shadow) : (setShadows s t).out = s.out := rfl
@[simp] theorem setShadows_fresh (s : State) (t : Tbl Shadow) : (setShadows s t).fresh = s.fresh := rfl
@[simp] theorem setShadows_now (s : State) (t : Tbl Shadow) : (setShadows s t).now = s.now := rfl
@[simp] theorem setShadows_pending (s : State) (t : Tbl Shadow) : (setShadows s t).pending = s.pending := rfl
@[simp] theorem setSessions_time (s : State) (t : Tbl Session) : (setSessions s t).time = s.time := rfl
@[simp] theorem setSessions_tees (s : State) (t : Tbl Session) : (setSessions s t).tees = s.tees := rfl
@[simp] theorem setSessions_huddles (s : State) (t : Tbl Session) : (setSessions s t).huddles = s.huddles := rfl
@[simp] theorem setSessions_ledgers (s : State) (t : Tbl Session) : (setSessions s t).ledgers = s.ledgers := rfl
@[simp] theorem setSessions_xlat (s : State) (t : Tbl Session) : (setSessions s t).xlat = s.xlat := rfl
@[simp] theorem setSessions_q (s : State) (t : Tbl Session) : (setSessions s t).q = s.q := rfl
@[simp] theorem setSessions_mem (s : State) (t : Tbl Session) : (setSessions s t).mem = s.mem := rfl
@[simp] theorem setSessions_net (s : State) (t : Tbl Session) : (setSessions s t).net = s.net := rfl
@[simp] theorem setSessions_core (s : State) (t : Tbl Session) : (setSessions s t).core = s.core := rfl
@[simp] theorem setSessions_scrum (s : State) (t : Tbl Session) : (setSessions s t).scrum = s.scrum := rfl
@[simp] theorem setSessions_step (s : State) (t : Tbl Session) : (setSessions s t).step = s.step := rfl
@[simp] theorem setSessions_pewter (s : State) (t : Tbl Session) : (setSessions s t).pewter = s.pewter := rfl
@[simp] theorem setSessions_caddie (s : State) (t : Tbl Session) : (setSessions s t).caddie = s.caddie := rfl
@[simp] theorem setSessions_ctx (s : State) (t : Tbl Session) : (setSessions s t).ctx = s.ctx := rfl
@[simp] theorem setSessions_recov (s : State) (t : Tbl Session) : (setSessions s t).recov = s.recov := rfl
@[simp] theorem setSessions_eth (s : State) (t : Tbl Session) : (setSessions s t).eth = s.eth := rfl
@[simp] theorem setSessions_links (s : State) (t : Tbl Session) : (setSessions s t).links = s.links := rfl
@[simp] theorem setSessions_fw (s : State) (t : Tbl Session) : (setSessions s t).fw = s.fw := rfl
@[simp] theorem setSessions_pwr (s : State) (t : Tbl Session) : (setSessions s t).pwr = s.pwr := rfl
@[simp] theorem setSessions_out (s : State) (t : Tbl Session) : (setSessions s t).out = s.out := rfl
@[simp] theorem setSessions_fresh (s : State) (t : Tbl Session) : (setSessions s t).fresh = s.fresh := rfl
@[simp] theorem setSessions_now (s : State) (t : Tbl Session) : (setSessions s t).now = s.now := rfl
@[simp] theorem setSessions_pending (s : State) (t : Tbl Session) : (setSessions s t).pending = s.pending := rfl
@[simp] theorem modSession_time (s : State) (id : Nat) (f : Session → Session) : (modSession s id f).time = s.time := rfl
@[simp] theorem modSession_tees (s : State) (id : Nat) (f : Session → Session) : (modSession s id f).tees = s.tees := rfl
@[simp] theorem modSession_huddles (s : State) (id : Nat) (f : Session → Session) : (modSession s id f).huddles = s.huddles := rfl
@[simp] theorem modSession_ledgers (s : State) (id : Nat) (f : Session → Session) : (modSession s id f).ledgers = s.ledgers := rfl
@[simp] theorem modSession_xlat (s : State) (id : Nat) (f : Session → Session) : (modSession s id f).xlat = s.xlat := rfl
@[simp] theorem modSession_q (s : State) (id : Nat) (f : Session → Session) : (modSession s id f).q = s.q := rfl
@[simp] theorem modSession_mem (s : State) (id : Nat) (f : Session → Session) : (modSession s id f).mem = s.mem := rfl
@[simp] theorem modSession_net (s : State) (id : Nat) (f : Session → Session) : (modSession s id f).net = s.net := rfl
@[simp] theorem modSession_core (s : State) (id : Nat) (f : Session → Session) : (modSession s id f).core = s.core := rfl
@[simp] theorem modSession_scrum (s : State) (id : Nat) (f : Session → Session) : (modSession s id f).scrum = s.scrum := rfl
@[simp] theorem modSession_step (s : State) (id : Nat) (f : Session → Session) : (modSession s id f).step = s.step := rfl
@[simp] theorem modSession_pewter (s : State) (id : Nat) (f : Session → Session) : (modSession s id f).pewter = s.pewter := rfl
@[simp] theorem modSession_caddie (s : State) (id : Nat) (f : Session → Session) : (modSession s id f).caddie = s.caddie := rfl
@[simp] theorem modSession_ctx (s : State) (id : Nat) (f : Session → Session) : (modSession s id f).ctx = s.ctx := rfl
@[simp] theorem modSession_recov (s : State) (id : Nat) (f : Session → Session) : (modSession s id f).recov = s.recov := rfl
@[simp] theorem modSession_eth (s : State) (id : Nat) (f : Session → Session) : (modSession s id f).eth = s.eth := rfl
@[simp] theorem modSession_links (s : State) (id : Nat) (f : Session → Session) : (modSession s id f).links = s.links := rfl
@[simp] theorem modSession_fw (s : State) (id : Nat) (f : Session → Session) : (modSession s id f).fw = s.fw := rfl
@[simp] theorem modSession_pwr (s : State) (id : Nat) (f : Session → Session) : (modSession s id f).pwr = s.pwr := rfl
@[simp] theorem modSession_out (s : State) (id : Nat) (f : Session → Session) : (modSession s id f).out = s.out := rfl
@[simp] theorem modSession_fresh (s : State) (id : Nat) (f : Session → Session) : (modSession s id f).fresh = s.fresh := rfl
@[simp] theorem modSession_now (s : State) (id : Nat) (f : Session → Session) : (modSession s id f).now = s.now := rfl
@[simp] theorem modSession_pending (s : State) (id : Nat) (f : Session → Session) : (modSession s id f).pending = s.pending := rfl
@[simp] theorem closeSession_time (s : State) (id : Nat) : (closeSession s id).time = s.time := rfl
@[simp] theorem closeSession_tees (s : State) (id : Nat) : (closeSession s id).tees = s.tees := rfl
@[simp] theorem closeSession_huddles (s : State) (id : Nat) : (closeSession s id).huddles = s.huddles := rfl
@[simp] theorem closeSession_ledgers (s : State) (id : Nat) : (closeSession s id).ledgers = s.ledgers := rfl
@[simp] theorem closeSession_xlat (s : State) (id : Nat) : (closeSession s id).xlat = s.xlat := rfl
@[simp] theorem closeSession_q (s : State) (id : Nat) : (closeSession s id).q = s.q := rfl
@[simp] theorem closeSession_mem (s : State) (id : Nat) : (closeSession s id).mem = s.mem := rfl
@[simp] theorem closeSession_net (s : State) (id : Nat) : (closeSession s id).net = s.net := rfl
@[simp] theorem closeSession_core (s : State) (id : Nat) : (closeSession s id).core = s.core := rfl
@[simp] theorem closeSession_scrum (s : State) (id : Nat) : (closeSession s id).scrum = s.scrum := rfl
@[simp] theorem closeSession_step (s : State) (id : Nat) : (closeSession s id).step = s.step := rfl
@[simp] theorem closeSession_pewter (s : State) (id : Nat) : (closeSession s id).pewter = s.pewter := rfl
@[simp] theorem closeSession_caddie (s : State) (id : Nat) : (closeSession s id).caddie = s.caddie := rfl
@[simp] theorem closeSession_ctx (s : State) (id : Nat) : (closeSession s id).ctx = s.ctx := rfl
@[simp] theorem closeSession_recov (s : State) (id : Nat) : (closeSession s id).recov = s.recov := rfl
@[simp] theorem closeSession_eth (s : State) (id : Nat) : (closeSession s id).eth = s.eth := rfl
@[simp] theorem closeSession_links (s : State) (id : Nat) : (closeSession s id).links = s.links := rfl
@[simp] theorem closeSession_fw (s : State) (id : Nat) : (closeSession s id).fw = s.fw := rfl
@[simp] theorem closeSession_pwr (s : State) (id : Nat) : (closeSession s id).pwr = s.pwr := rfl
@[simp] theorem closeSession_out (s : State) (id : Nat) : (closeSession s id).out = s.out := rfl
@[simp] theorem closeSession_fresh (s : State) (id : Nat) : (closeSession s id).fresh = s.fresh := rfl
@[simp] theorem closeSession_now (s : State) (id : Nat) : (closeSession s id).now = s.now := rfl
@[simp] theorem closeSession_pending (s : State) (id : Nat) : (closeSession s id).pending = s.pending := rfl
@[simp] theorem holdForReset_time (s : State) (idx sub v : Nat) : (holdForReset s idx sub v).time = s.time := rfl
@[simp] theorem holdForReset_tees (s : State) (idx sub v : Nat) : (holdForReset s idx sub v).tees = s.tees := rfl
@[simp] theorem holdForReset_huddles (s : State) (idx sub v : Nat) : (holdForReset s idx sub v).huddles = s.huddles := rfl
@[simp] theorem holdForReset_ledgers (s : State) (idx sub v : Nat) : (holdForReset s idx sub v).ledgers = s.ledgers := rfl
@[simp] theorem holdForReset_xlat (s : State) (idx sub v : Nat) : (holdForReset s idx sub v).xlat = s.xlat := rfl
@[simp] theorem holdForReset_q (s : State) (idx sub v : Nat) : (holdForReset s idx sub v).q = s.q := rfl
@[simp] theorem holdForReset_mem (s : State) (idx sub v : Nat) : (holdForReset s idx sub v).mem = s.mem := rfl
@[simp] theorem holdForReset_net (s : State) (idx sub v : Nat) : (holdForReset s idx sub v).net = s.net := rfl
@[simp] theorem holdForReset_core (s : State) (idx sub v : Nat) : (holdForReset s idx sub v).core = s.core := rfl
@[simp] theorem holdForReset_scrum (s : State) (idx sub v : Nat) : (holdForReset s idx sub v).scrum = s.scrum := rfl
@[simp] theorem holdForReset_step (s : State) (idx sub v : Nat) : (holdForReset s idx sub v).step = s.step := rfl
@[simp] theorem holdForReset_pewter (s : State) (idx sub v : Nat) : (holdForReset s idx sub v).pewter = s.pewter := rfl
@[simp] theorem holdForReset_caddie (s : State) (idx sub v : Nat) : (holdForReset s idx sub v).caddie = s.caddie := rfl
@[simp] theorem holdForReset_ctx (s : State) (idx sub v : Nat) : (holdForReset s idx sub v).ctx = s.ctx := rfl
@[simp] theorem holdForReset_recov (s : State) (idx sub v : Nat) : (holdForReset s idx sub v).recov = s.recov := rfl
@[simp] theorem holdForReset_eth (s : State) (idx sub v : Nat) : (holdForReset s idx sub v).eth = s.eth := rfl
@[simp] theorem holdForReset_links (s : State) (idx sub v : Nat) : (holdForReset s idx sub v).links = s.links := rfl
@[simp] theorem holdForReset_fw (s : State) (idx sub v : Nat) : (holdForReset s idx sub v).fw = s.fw := rfl
@[simp] theorem holdForReset_pwr (s : State) (idx sub v : Nat) : (holdForReset s idx sub v).pwr = s.pwr := rfl
@[simp] theorem holdForReset_out (s : State) (idx sub v : Nat) : (holdForReset s idx sub v).out = s.out := rfl
@[simp] theorem holdForReset_fresh (s : State) (idx sub v : Nat) : (holdForReset s idx sub v).fresh = s.fresh := rfl
@[simp] theorem holdForReset_now (s : State) (idx sub v : Nat) : (holdForReset s idx sub v).now = s.now := rfl
@[simp] theorem holdForReset_pending (s : State) (idx sub v : Nat) : (holdForReset s idx sub v).pending = s.pending := rfl
@[simp] theorem discardDatagram_time (s : State) : (discardDatagram s).time = s.time := rfl
@[simp] theorem discardDatagram_tees (s : State) : (discardDatagram s).tees = s.tees := rfl
@[simp] theorem discardDatagram_huddles (s : State) : (discardDatagram s).huddles = s.huddles := rfl
@[simp] theorem discardDatagram_ledgers (s : State) : (discardDatagram s).ledgers = s.ledgers := rfl
@[simp] theorem discardDatagram_xlat (s : State) : (discardDatagram s).xlat = s.xlat := rfl
@[simp] theorem discardDatagram_q (s : State) : (discardDatagram s).q = s.q := rfl
@[simp] theorem discardDatagram_mem (s : State) : (discardDatagram s).mem = s.mem := rfl
@[simp] theorem discardDatagram_net (s : State) : (discardDatagram s).net = s.net := rfl
@[simp] theorem discardDatagram_core (s : State) : (discardDatagram s).core = s.core := rfl
@[simp] theorem discardDatagram_scrum (s : State) : (discardDatagram s).scrum = s.scrum := rfl
@[simp] theorem discardDatagram_step (s : State) : (discardDatagram s).step = s.step := rfl
@[simp] theorem discardDatagram_pewter (s : State) : (discardDatagram s).pewter = s.pewter := rfl
@[simp] theorem discardDatagram_caddie (s : State) : (discardDatagram s).caddie = s.caddie := rfl
@[simp] theorem discardDatagram_ctx (s : State) : (discardDatagram s).ctx = s.ctx := rfl
@[simp] theorem discardDatagram_recov (s : State) : (discardDatagram s).recov = s.recov := rfl
@[simp] theorem discardDatagram_eth (s : State) : (discardDatagram s).eth = s.eth := rfl
@[simp] theorem discardDatagram_links (s : State) : (discardDatagram s).links = s.links := rfl
@[simp] theorem discardDatagram_fw (s : State) : (discardDatagram s).fw = s.fw := rfl
@[simp] theorem discardDatagram_pwr (s : State) : (discardDatagram s).pwr = s.pwr := rfl
@[simp] theorem discardDatagram_out (s : State) : (discardDatagram s).out = s.out := rfl
@[simp] theorem discardDatagram_fresh (s : State) : (discardDatagram s).fresh = s.fresh := rfl
@[simp] theorem discardDatagram_now (s : State) : (discardDatagram s).now = s.now := rfl
@[simp] theorem discardDatagram_pending (s : State) : (discardDatagram s).pending = s.pending := rfl
@[simp] theorem setFw_time (s : State) (f : FwState) : (setFw s f).time = s.time := rfl
@[simp] theorem setFw_tees (s : State) (f : FwState) : (setFw s f).tees = s.tees := rfl
@[simp] theorem setFw_huddles (s : State) (f : FwState) : (setFw s f).huddles = s.huddles := rfl
@[simp] theorem setFw_ledgers (s : State) (f : FwState) : (setFw s f).ledgers = s.ledgers := rfl
@[simp] theorem setFw_xlat (s : State) (f : FwState) : (setFw s f).xlat = s.xlat := rfl
@[simp] theorem setFw_q (s : State) (f : FwState) : (setFw s f).q = s.q := rfl
@[simp] theorem setFw_mem (s : State) (f : FwState) : (setFw s f).mem = s.mem := rfl
@[simp] theorem setFw_net (s : State) (f : FwState) : (setFw s f).net = s.net := rfl
@[simp] theorem setFw_core (s : State) (f : FwState) : (setFw s f).core = s.core := rfl
@[simp] theorem setFw_scrum (s : State) (f : FwState) : (setFw s f).scrum = s.scrum := rfl
@[simp] theorem setFw_step (s : State) (f : FwState) : (setFw s f).step = s.step := rfl
@[simp] theorem setFw_pewter (s : State) (f : FwState) : (setFw s f).pewter = s.pewter := rfl
@[simp] theorem setFw_caddie (s : State) (f : FwState) : (setFw s f).caddie = s.caddie := rfl
@[simp] theorem setFw_ctx (s : State) (f : FwState) : (setFw s f).ctx = s.ctx := rfl
@[simp] theorem setFw_recov (s : State) (f : FwState) : (setFw s f).recov = s.recov := rfl
@[simp] theorem setFw_eth (s : State) (f : FwState) : (setFw s f).eth = s.eth := rfl
@[simp] theorem setFw_dict (s : State) (f : FwState) : (setFw s f).dict = s.dict := rfl
@[simp] theorem setFw_links (s : State) (f : FwState) : (setFw s f).links = s.links := rfl
@[simp] theorem setFw_pwr (s : State) (f : FwState) : (setFw s f).pwr = s.pwr := rfl
@[simp] theorem setFw_out (s : State) (f : FwState) : (setFw s f).out = s.out := rfl
@[simp] theorem setFw_fresh (s : State) (f : FwState) : (setFw s f).fresh = s.fresh := rfl
@[simp] theorem setFw_now (s : State) (f : FwState) : (setFw s f).now = s.now := rfl
@[simp] theorem setFw_pending (s : State) (f : FwState) : (setFw s f).pending = s.pending := rfl
@[simp] theorem setService_time (s : State) (core : Nat) (on : Bool) : (setService s core on).time = s.time := rfl
@[simp] theorem setService_tees (s : State) (core : Nat) (on : Bool) : (setService s core on).tees = s.tees := rfl
@[simp] theorem setService_huddles (s : State) (core : Nat) (on : Bool) : (setService s core on).huddles = s.huddles := rfl
@[simp] theorem setService_ledgers (s : State) (core : Nat) (on : Bool) : (setService s core on).ledgers = s.ledgers := rfl
@[simp] theorem setService_xlat (s : State) (core : Nat) (on : Bool) : (setService s core on).xlat = s.xlat := rfl
@[simp] theorem setService_q (s : State) (core : Nat) (on : Bool) : (setService s core on).q = s.q := rfl
@[simp] theorem setService_mem (s : State) (core : Nat) (on : Bool) : (setService s core on).mem = s.mem := rfl
@[simp] theorem setService_net (s : State) (core : Nat) (on : Bool) : (setService s core on).net = s.net := rfl
@[simp] theorem setService_core (s : State) (core : Nat) (on : Bool) : (setService s core on).core = s.core := rfl
@[simp] theorem setService_scrum (s : State) (core : Nat) (on : Bool) : (setService s core on).scrum = s.scrum := rfl
@[simp] theorem setService_step (s : State) (core : Nat) (on : Bool) : (setService s core on).step = s.step := rfl
@[simp] theorem setService_pewter (s : State) (core : Nat) (on : Bool) : (setService s core on).pewter = s.pewter := rfl
@[simp] theorem setService_caddie (s : State) (core : Nat) (on : Bool) : (setService s core on).caddie = s.caddie := rfl
@[simp] theorem setService_ctx (s : State) (core : Nat) (on : Bool) : (setService s core on).ctx = s.ctx := rfl
@[simp] theorem setService_recov (s : State) (core : Nat) (on : Bool) : (setService s core on).recov = s.recov := rfl
@[simp] theorem setService_eth (s : State) (core : Nat) (on : Bool) : (setService s core on).eth = s.eth := rfl
@[simp] theorem setService_links (s : State) (core : Nat) (on : Bool) : (setService s core on).links = s.links := rfl
@[simp] theorem setService_fw (s : State) (core : Nat) (on : Bool) : (setService s core on).fw = s.fw := rfl
@[simp] theorem setService_pwr (s : State) (core : Nat) (on : Bool) : (setService s core on).pwr = s.pwr := rfl
@[simp] theorem setService_out (s : State) (core : Nat) (on : Bool) : (setService s core on).out = s.out := rfl
@[simp] theorem setService_fresh (s : State) (core : Nat) (on : Bool) : (setService s core on).fresh = s.fresh := rfl
@[simp] theorem setService_now (s : State) (core : Nat) (on : Bool) : (setService s core on).now = s.now := rfl
@[simp] theorem setService_pending (s : State) (core : Nat) (on : Bool) : (setService s core on).pending = s.pending := rfl
@[simp] theorem setUpd_time (s : State) (n : Nat) : (setUpd s n).time = s.time := rfl
@[simp] theorem setUpd_tees (s : State) (n : Nat) : (setUpd s n).tees = s.tees := rfl
@[simp] theorem setUpd_huddles (s : State) (n : Nat) : (setUpd s n).huddles = s.huddles := rfl
@[simp] theorem setUpd_ledgers (s : State) (n : Nat) : (setUpd s n).ledgers = s.ledgers := rfl
@[simp] theorem setUpd_xlat (s : State) (n : Nat) : (setUpd s n).xlat = s.xlat := rfl
@[simp] theorem setUpd_q (s : State) (n : Nat) : (setUpd s n).q = s.q := rfl
@[simp] theorem setUpd_mem (s : State) (n : Nat) : (setUpd s n).mem = s.mem := rfl
@[simp] theorem setUpd_net (s : State) (n : Nat) : (setUpd s n).net = s.net := rfl
@[simp] theorem setUpd_core (s : State) (n : Nat) : (setUpd s n).core = s.core := rfl
@[simp] theorem setUpd_scrum (s : State) (n : Nat) : (setUpd s n).scrum = s.scrum := rfl
@[simp] theorem setUpd_step (s : State) (n : Nat) : (setUpd s n).step = s.step := rfl
@[simp] theorem setUpd_pewter (s : State) (n : Nat) : (setUpd s n).pewter = s.pewter := rfl
@[simp] theorem setUpd_caddie (s : State) (n : Nat) : (setUpd s n).caddie = s.caddie := rfl
@[simp] theorem setUpd_ctx (s : State) (n : Nat) : (setUpd s n).ctx = s.ctx := rfl
@[simp] theorem setUpd_recov (s : State) (n : Nat) : (setUpd s n).recov = s.recov := rfl
@[simp] theorem setUpd_eth (s : State) (n : Nat) : (setUpd s n).eth = s.eth := rfl
@[simp] theorem setUpd_links (s : State) (n : Nat) : (setUpd s n).links = s.links := rfl
@[simp] theorem setUpd_fw (s : State) (n : Nat) : (setUpd s n).fw = s.fw := rfl
@[simp] theorem setUpd_pwr (s : State) (n : Nat) : (setUpd s n).pwr = s.pwr := rfl
@[simp] theorem setUpd_out (s : State) (n : Nat) : (setUpd s n).out = s.out := rfl
@[simp] theorem setUpd_fresh (s : State) (n : Nat) : (setUpd s n).fresh = s.fresh := rfl
@[simp] theorem setUpd_now (s : State) (n : Nat) : (setUpd s n).now = s.now := rfl
@[simp] theorem setUpd_pending (s : State) (n : Nat) : (setUpd s n).pending = s.pending := rfl
@[simp] theorem setPwr_time (s : State) (p : PowerState) : (setPwr s p).time = s.time := rfl
@[simp] theorem setPwr_tees (s : State) (p : PowerState) : (setPwr s p).tees = s.tees := rfl
@[simp] theorem setPwr_huddles (s : State) (p : PowerState) : (setPwr s p).huddles = s.huddles := rfl
@[simp] theorem setPwr_ledgers (s : State) (p : PowerState) : (setPwr s p).ledgers = s.ledgers := rfl
@[simp] theorem setPwr_xlat (s : State) (p : PowerState) : (setPwr s p).xlat = s.xlat := rfl
@[simp] theorem setPwr_q (s : State) (p : PowerState) : (setPwr s p).q = s.q := rfl
@[simp] theorem setPwr_mem (s : State) (p : PowerState) : (setPwr s p).mem = s.mem := rfl
@[simp] theorem setPwr_net (s : State) (p : PowerState) : (setPwr s p).net = s.net := rfl
@[simp] theorem setPwr_core (s : State) (p : PowerState) : (setPwr s p).core = s.core := rfl
@[simp] theorem setPwr_scrum (s : State) (p : PowerState) : (setPwr s p).scrum = s.scrum := rfl
@[simp] theorem setPwr_step (s : State) (p : PowerState) : (setPwr s p).step = s.step := rfl
@[simp] theorem setPwr_pewter (s : State) (p : PowerState) : (setPwr s p).pewter = s.pewter := rfl
@[simp] theorem setPwr_caddie (s : State) (p : PowerState) : (setPwr s p).caddie = s.caddie := rfl
@[simp] theorem setPwr_ctx (s : State) (p : PowerState) : (setPwr s p).ctx = s.ctx := rfl
@[simp] theorem setPwr_recov (s : State) (p : PowerState) : (setPwr s p).recov = s.recov := rfl
@[simp] theorem setPwr_eth (s : State) (p : PowerState) : (setPwr s p).eth = s.eth := rfl
@[simp] theorem setPwr_dict (s : State) (p : PowerState) : (setPwr s p).dict = s.dict := rfl
@[simp] theorem setPwr_links (s : State) (p : PowerState) : (setPwr s p).links = s.links := rfl
@[simp] theorem setPwr_fw (s : State) (p : PowerState) : (setPwr s p).fw = s.fw := rfl
@[simp] theorem setPwr_out (s : State) (p : PowerState) : (setPwr s p).out = s.out := rfl
@[simp] theorem setPwr_fresh (s : State) (p : PowerState) : (setPwr s p).fresh = s.fresh := rfl
@[simp] theorem setPwr_now (s : State) (p : PowerState) : (setPwr s p).now = s.now := rfl
@[simp] theorem setPwr_pending (s : State) (p : PowerState) : (setPwr s p).pending = s.pending := rfl
@[simp] theorem setRecov_time (s : State) (r : RecState) : (setRecov s r).time = s.time := rfl
@[simp] theorem setRecov_tees (s : State) (r : RecState) : (setRecov s r).tees = s.tees := rfl
@[simp] theorem setRecov_huddles (s : State) (r : RecState) : (setRecov s r).huddles = s.huddles := rfl
@[simp] theorem setRecov_ledgers (s : State) (r : RecState) : (setRecov s r).ledgers = s.ledgers := rfl
@[simp] theorem setRecov_xlat (s : State) (r : RecState) : (setRecov s r).xlat = s.xlat := rfl
@[simp] theorem setRecov_q (s : State) (r : RecState) : (setRecov s r).q = s.q := rfl
@[simp] theorem setRecov_mem (s : State) (r : RecState) : (setRecov s r).mem = s.mem := rfl
@[simp] theorem setRecov_net (s : State) (r : RecState) : (setRecov s r).net = s.net := rfl
@[simp] theorem setRecov_core (s : State) (r : RecState) : (setRecov s r).core = s.core := rfl
@[simp] theorem setRecov_scrum (s : State) (r : RecState) : (setRecov s r).scrum = s.scrum := rfl
@[simp] theorem setRecov_step (s : State) (r : RecState) : (setRecov s r).step = s.step := rfl
@[simp] theorem setRecov_pewter (s : State) (r : RecState) : (setRecov s r).pewter = s.pewter := rfl
@[simp] theorem setRecov_caddie (s : State) (r : RecState) : (setRecov s r).caddie = s.caddie := rfl
@[simp] theorem setRecov_ctx (s : State) (r : RecState) : (setRecov s r).ctx = s.ctx := rfl
@[simp] theorem setRecov_eth (s : State) (r : RecState) : (setRecov s r).eth = s.eth := rfl
@[simp] theorem setRecov_dict (s : State) (r : RecState) : (setRecov s r).dict = s.dict := rfl
@[simp] theorem setRecov_links (s : State) (r : RecState) : (setRecov s r).links = s.links := rfl
@[simp] theorem setRecov_fw (s : State) (r : RecState) : (setRecov s r).fw = s.fw := rfl
@[simp] theorem setRecov_pwr (s : State) (r : RecState) : (setRecov s r).pwr = s.pwr := rfl
@[simp] theorem setRecov_out (s : State) (r : RecState) : (setRecov s r).out = s.out := rfl
@[simp] theorem setRecov_fresh (s : State) (r : RecState) : (setRecov s r).fresh = s.fresh := rfl
@[simp] theorem setRecov_now (s : State) (r : RecState) : (setRecov s r).now = s.now := rfl
@[simp] theorem setRecov_pending (s : State) (r : RecState) : (setRecov s r).pending = s.pending := rfl
@[simp] theorem setCore_time (s : State) (c : CoreState) : (setCore s c).time = s.time := rfl
@[simp] theorem setCore_tees (s : State) (c : CoreState) : (setCore s c).tees = s.tees := rfl
@[simp] theorem setCore_huddles (s : State) (c : CoreState) : (setCore s c).huddles = s.huddles := rfl
@[simp] theorem setCore_ledgers (s : State) (c : CoreState) : (setCore s c).ledgers = s.ledgers := rfl
@[simp] theorem setCore_xlat (s : State) (c : CoreState) : (setCore s c).xlat = s.xlat := rfl
@[simp] theorem setCore_q (s : State) (c : CoreState) : (setCore s c).q = s.q := rfl
@[simp] theorem setCore_mem (s : State) (c : CoreState) : (setCore s c).mem = s.mem := rfl
@[simp] theorem setCore_net (s : State) (c : CoreState) : (setCore s c).net = s.net := rfl
@[simp] theorem setCore_scrum (s : State) (c : CoreState) : (setCore s c).scrum = s.scrum := rfl
@[simp] theorem setCore_step (s : State) (c : CoreState) : (setCore s c).step = s.step := rfl
@[simp] theorem setCore_pewter (s : State) (c : CoreState) : (setCore s c).pewter = s.pewter := rfl
@[simp] theorem setCore_caddie (s : State) (c : CoreState) : (setCore s c).caddie = s.caddie := rfl
@[simp] theorem setCore_ctx (s : State) (c : CoreState) : (setCore s c).ctx = s.ctx := rfl
@[simp] theorem setCore_recov (s : State) (c : CoreState) : (setCore s c).recov = s.recov := rfl
@[simp] theorem setCore_eth (s : State) (c : CoreState) : (setCore s c).eth = s.eth := rfl
@[simp] theorem setCore_dict (s : State) (c : CoreState) : (setCore s c).dict = s.dict := rfl
@[simp] theorem setCore_links (s : State) (c : CoreState) : (setCore s c).links = s.links := rfl
@[simp] theorem setCore_fw (s : State) (c : CoreState) : (setCore s c).fw = s.fw := rfl
@[simp] theorem setCore_pwr (s : State) (c : CoreState) : (setCore s c).pwr = s.pwr := rfl
@[simp] theorem setCore_out (s : State) (c : CoreState) : (setCore s c).out = s.out := rfl
@[simp] theorem setCore_fresh (s : State) (c : CoreState) : (setCore s c).fresh = s.fresh := rfl
@[simp] theorem setCore_now (s : State) (c : CoreState) : (setCore s c).now = s.now := rfl
@[simp] theorem setCore_pending (s : State) (c : CoreState) : (setCore s c).pending = s.pending := rfl
@[simp] theorem setJobs_time (s : State) (t : Tbl Job) : (setJobs s t).time = s.time := rfl
@[simp] theorem setJobs_tees (s : State) (t : Tbl Job) : (setJobs s t).tees = s.tees := rfl
@[simp] theorem setJobs_huddles (s : State) (t : Tbl Job) : (setJobs s t).huddles = s.huddles := rfl
@[simp] theorem setJobs_ledgers (s : State) (t : Tbl Job) : (setJobs s t).ledgers = s.ledgers := rfl
@[simp] theorem setJobs_xlat (s : State) (t : Tbl Job) : (setJobs s t).xlat = s.xlat := rfl
@[simp] theorem setJobs_q (s : State) (t : Tbl Job) : (setJobs s t).q = s.q := rfl
@[simp] theorem setJobs_mem (s : State) (t : Tbl Job) : (setJobs s t).mem = s.mem := rfl
@[simp] theorem setJobs_core (s : State) (t : Tbl Job) : (setJobs s t).core = s.core := rfl
@[simp] theorem setJobs_scrum (s : State) (t : Tbl Job) : (setJobs s t).scrum = s.scrum := rfl
@[simp] theorem setJobs_step (s : State) (t : Tbl Job) : (setJobs s t).step = s.step := rfl
@[simp] theorem setJobs_pewter (s : State) (t : Tbl Job) : (setJobs s t).pewter = s.pewter := rfl
@[simp] theorem setJobs_caddie (s : State) (t : Tbl Job) : (setJobs s t).caddie = s.caddie := rfl
@[simp] theorem setJobs_ctx (s : State) (t : Tbl Job) : (setJobs s t).ctx = s.ctx := rfl
@[simp] theorem setJobs_recov (s : State) (t : Tbl Job) : (setJobs s t).recov = s.recov := rfl
@[simp] theorem setJobs_eth (s : State) (t : Tbl Job) : (setJobs s t).eth = s.eth := rfl
@[simp] theorem setJobs_dict (s : State) (t : Tbl Job) : (setJobs s t).dict = s.dict := rfl
@[simp] theorem setJobs_links (s : State) (t : Tbl Job) : (setJobs s t).links = s.links := rfl
@[simp] theorem setJobs_fw (s : State) (t : Tbl Job) : (setJobs s t).fw = s.fw := rfl
@[simp] theorem setJobs_pwr (s : State) (t : Tbl Job) : (setJobs s t).pwr = s.pwr := rfl
@[simp] theorem setJobs_out (s : State) (t : Tbl Job) : (setJobs s t).out = s.out := rfl
@[simp] theorem setJobs_fresh (s : State) (t : Tbl Job) : (setJobs s t).fresh = s.fresh := rfl
@[simp] theorem setJobs_now (s : State) (t : Tbl Job) : (setJobs s t).now = s.now := rfl
@[simp] theorem setJobs_pending (s : State) (t : Tbl Job) : (setJobs s t).pending = s.pending := rfl
@[simp] theorem modJob_time (s : State) (jk : Nat) (f : Job → Job) : (modJob s jk f).time = s.time := rfl
@[simp] theorem modJob_tees (s : State) (jk : Nat) (f : Job → Job) : (modJob s jk f).tees = s.tees := rfl
@[simp] theorem modJob_huddles (s : State) (jk : Nat) (f : Job → Job) : (modJob s jk f).huddles = s.huddles := rfl
@[simp] theorem modJob_ledgers (s : State) (jk : Nat) (f : Job → Job) : (modJob s jk f).ledgers = s.ledgers := rfl
@[simp] theorem modJob_xlat (s : State) (jk : Nat) (f : Job → Job) : (modJob s jk f).xlat = s.xlat := rfl
@[simp] theorem modJob_q (s : State) (jk : Nat) (f : Job → Job) : (modJob s jk f).q = s.q := rfl
@[simp] theorem modJob_mem (s : State) (jk : Nat) (f : Job → Job) : (modJob s jk f).mem = s.mem := rfl
@[simp] theorem modJob_core (s : State) (jk : Nat) (f : Job → Job) : (modJob s jk f).core = s.core := rfl
@[simp] theorem modJob_scrum (s : State) (jk : Nat) (f : Job → Job) : (modJob s jk f).scrum = s.scrum := rfl
@[simp] theorem modJob_step (s : State) (jk : Nat) (f : Job → Job) : (modJob s jk f).step = s.step := rfl
@[simp] theorem modJob_pewter (s : State) (jk : Nat) (f : Job → Job) : (modJob s jk f).pewter = s.pewter := rfl
@[simp] theorem modJob_caddie (s : State) (jk : Nat) (f : Job → Job) : (modJob s jk f).caddie = s.caddie := rfl
@[simp] theorem modJob_ctx (s : State) (jk : Nat) (f : Job → Job) : (modJob s jk f).ctx = s.ctx := rfl
@[simp] theorem modJob_recov (s : State) (jk : Nat) (f : Job → Job) : (modJob s jk f).recov = s.recov := rfl
@[simp] theorem modJob_eth (s : State) (jk : Nat) (f : Job → Job) : (modJob s jk f).eth = s.eth := rfl
@[simp] theorem modJob_dict (s : State) (jk : Nat) (f : Job → Job) : (modJob s jk f).dict = s.dict := rfl
@[simp] theorem modJob_links (s : State) (jk : Nat) (f : Job → Job) : (modJob s jk f).links = s.links := rfl
@[simp] theorem modJob_fw (s : State) (jk : Nat) (f : Job → Job) : (modJob s jk f).fw = s.fw := rfl
@[simp] theorem modJob_pwr (s : State) (jk : Nat) (f : Job → Job) : (modJob s jk f).pwr = s.pwr := rfl
@[simp] theorem modJob_out (s : State) (jk : Nat) (f : Job → Job) : (modJob s jk f).out = s.out := rfl
@[simp] theorem modJob_fresh (s : State) (jk : Nat) (f : Job → Job) : (modJob s jk f).fresh = s.fresh := rfl
@[simp] theorem modJob_now (s : State) (jk : Nat) (f : Job → Job) : (modJob s jk f).now = s.now := rfl
@[simp] theorem modJob_pending (s : State) (jk : Nat) (f : Job → Job) : (modJob s jk f).pending = s.pending := rfl
@[simp] theorem endJob_time (s : State) (k : JobKind) : (endJob s k).time = s.time := rfl
@[simp] theorem endJob_tees (s : State) (k : JobKind) : (endJob s k).tees = s.tees := rfl
@[simp] theorem endJob_huddles (s : State) (k : JobKind) : (endJob s k).huddles = s.huddles := rfl
@[simp] theorem endJob_ledgers (s : State) (k : JobKind) : (endJob s k).ledgers = s.ledgers := rfl
@[simp] theorem endJob_xlat (s : State) (k : JobKind) : (endJob s k).xlat = s.xlat := rfl
@[simp] theorem endJob_q (s : State) (k : JobKind) : (endJob s k).q = s.q := rfl
@[simp] theorem endJob_mem (s : State) (k : JobKind) : (endJob s k).mem = s.mem := rfl
@[simp] theorem endJob_core (s : State) (k : JobKind) : (endJob s k).core = s.core := rfl
@[simp] theorem endJob_scrum (s : State) (k : JobKind) : (endJob s k).scrum = s.scrum := rfl
@[simp] theorem endJob_step (s : State) (k : JobKind) : (endJob s k).step = s.step := rfl
@[simp] theorem endJob_pewter (s : State) (k : JobKind) : (endJob s k).pewter = s.pewter := rfl
@[simp] theorem endJob_caddie (s : State) (k : JobKind) : (endJob s k).caddie = s.caddie := rfl
@[simp] theorem endJob_ctx (s : State) (k : JobKind) : (endJob s k).ctx = s.ctx := rfl
@[simp] theorem endJob_recov (s : State) (k : JobKind) : (endJob s k).recov = s.recov := rfl
@[simp] theorem endJob_eth (s : State) (k : JobKind) : (endJob s k).eth = s.eth := rfl
@[simp] theorem endJob_dict (s : State) (k : JobKind) : (endJob s k).dict = s.dict := rfl
@[simp] theorem endJob_links (s : State) (k : JobKind) : (endJob s k).links = s.links := rfl
@[simp] theorem endJob_fw (s : State) (k : JobKind) : (endJob s k).fw = s.fw := rfl
@[simp] theorem endJob_pwr (s : State) (k : JobKind) : (endJob s k).pwr = s.pwr := rfl
@[simp] theorem endJob_out (s : State) (k : JobKind) : (endJob s k).out = s.out := rfl
@[simp] theorem endJob_fresh (s : State) (k : JobKind) : (endJob s k).fresh = s.fresh := rfl
@[simp] theorem endJob_now (s : State) (k : JobKind) : (endJob s k).now = s.now := rfl
@[simp] theorem endJob_pending (s : State) (k : JobKind) : (endJob s k).pending = s.pending := rfl
@[simp] theorem setCells_time (s : State) (m : List Host.Cell) : (setCells s m).time = s.time := rfl
@[simp] theorem setCells_tees (s : State) (m : List Host.Cell) : (setCells s m).tees = s.tees := rfl
@[simp] theorem setCells_huddles (s : State) (m : List Host.Cell) : (setCells s m).huddles = s.huddles := rfl
@[simp] theorem setCells_ledgers (s : State) (m : List Host.Cell) : (setCells s m).ledgers = s.ledgers := rfl
@[simp] theorem setCells_xlat (s : State) (m : List Host.Cell) : (setCells s m).xlat = s.xlat := rfl
@[simp] theorem setCells_q (s : State) (m : List Host.Cell) : (setCells s m).q = s.q := rfl
@[simp] theorem setCells_net (s : State) (m : List Host.Cell) : (setCells s m).net = s.net := rfl
@[simp] theorem setCells_core (s : State) (m : List Host.Cell) : (setCells s m).core = s.core := rfl
@[simp] theorem setCells_scrum (s : State) (m : List Host.Cell) : (setCells s m).scrum = s.scrum := rfl
@[simp] theorem setCells_step (s : State) (m : List Host.Cell) : (setCells s m).step = s.step := rfl
@[simp] theorem setCells_pewter (s : State) (m : List Host.Cell) : (setCells s m).pewter = s.pewter := rfl
@[simp] theorem setCells_caddie (s : State) (m : List Host.Cell) : (setCells s m).caddie = s.caddie := rfl
@[simp] theorem setCells_ctx (s : State) (m : List Host.Cell) : (setCells s m).ctx = s.ctx := rfl
@[simp] theorem setCells_recov (s : State) (m : List Host.Cell) : (setCells s m).recov = s.recov := rfl
@[simp] theorem setCells_eth (s : State) (m : List Host.Cell) : (setCells s m).eth = s.eth := rfl
@[simp] theorem setCells_dict (s : State) (m : List Host.Cell) : (setCells s m).dict = s.dict := rfl
@[simp] theorem setCells_links (s : State) (m : List Host.Cell) : (setCells s m).links = s.links := rfl
@[simp] theorem setCells_fw (s : State) (m : List Host.Cell) : (setCells s m).fw = s.fw := rfl
@[simp] theorem setCells_pwr (s : State) (m : List Host.Cell) : (setCells s m).pwr = s.pwr := rfl
@[simp] theorem setCells_out (s : State) (m : List Host.Cell) : (setCells s m).out = s.out := rfl
@[simp] theorem setCells_fresh (s : State) (m : List Host.Cell) : (setCells s m).fresh = s.fresh := rfl
@[simp] theorem setCells_now (s : State) (m : List Host.Cell) : (setCells s m).now = s.now := rfl
@[simp] theorem setCells_pending (s : State) (m : List Host.Cell) : (setCells s m).pending = s.pending := rfl
@[simp] theorem setPages_time (s : State) (ctx : Nat) (es : List Extent) : (setPages s ctx es).time = s.time := rfl
@[simp] theorem setPages_tees (s : State) (ctx : Nat) (es : List Extent) : (setPages s ctx es).tees = s.tees := rfl
@[simp] theorem setPages_huddles (s : State) (ctx : Nat) (es : List Extent) : (setPages s ctx es).huddles = s.huddles := rfl
@[simp] theorem setPages_ledgers (s : State) (ctx : Nat) (es : List Extent) : (setPages s ctx es).ledgers = s.ledgers := rfl
@[simp] theorem setPages_q (s : State) (ctx : Nat) (es : List Extent) : (setPages s ctx es).q = s.q := rfl
@[simp] theorem setPages_mem (s : State) (ctx : Nat) (es : List Extent) : (setPages s ctx es).mem = s.mem := rfl
@[simp] theorem setPages_net (s : State) (ctx : Nat) (es : List Extent) : (setPages s ctx es).net = s.net := rfl
@[simp] theorem setPages_core (s : State) (ctx : Nat) (es : List Extent) : (setPages s ctx es).core = s.core := rfl
@[simp] theorem setPages_scrum (s : State) (ctx : Nat) (es : List Extent) : (setPages s ctx es).scrum = s.scrum := rfl
@[simp] theorem setPages_step (s : State) (ctx : Nat) (es : List Extent) : (setPages s ctx es).step = s.step := rfl
@[simp] theorem setPages_pewter (s : State) (ctx : Nat) (es : List Extent) : (setPages s ctx es).pewter = s.pewter := rfl
@[simp] theorem setPages_caddie (s : State) (ctx : Nat) (es : List Extent) : (setPages s ctx es).caddie = s.caddie := rfl
@[simp] theorem setPages_ctx (s : State) (ctx : Nat) (es : List Extent) : (setPages s ctx es).ctx = s.ctx := rfl
@[simp] theorem setPages_recov (s : State) (ctx : Nat) (es : List Extent) : (setPages s ctx es).recov = s.recov := rfl
@[simp] theorem setPages_eth (s : State) (ctx : Nat) (es : List Extent) : (setPages s ctx es).eth = s.eth := rfl
@[simp] theorem setPages_dict (s : State) (ctx : Nat) (es : List Extent) : (setPages s ctx es).dict = s.dict := rfl
@[simp] theorem setPages_links (s : State) (ctx : Nat) (es : List Extent) : (setPages s ctx es).links = s.links := rfl
@[simp] theorem setPages_fw (s : State) (ctx : Nat) (es : List Extent) : (setPages s ctx es).fw = s.fw := rfl
@[simp] theorem setPages_pwr (s : State) (ctx : Nat) (es : List Extent) : (setPages s ctx es).pwr = s.pwr := rfl
@[simp] theorem setPages_out (s : State) (ctx : Nat) (es : List Extent) : (setPages s ctx es).out = s.out := rfl
@[simp] theorem setPages_fresh (s : State) (ctx : Nat) (es : List Extent) : (setPages s ctx es).fresh = s.fresh := rfl
@[simp] theorem setPages_now (s : State) (ctx : Nat) (es : List Extent) : (setPages s ctx es).now = s.now := rfl
@[simp] theorem setPages_pending (s : State) (ctx : Nat) (es : List Extent) : (setPages s ctx es).pending = s.pending := rfl
@[simp] theorem setQps_time (s : State) (t : Tbl QueuePair) : (setQps s t).time = s.time := rfl
@[simp] theorem setQps_tees (s : State) (t : Tbl QueuePair) : (setQps s t).tees = s.tees := rfl
@[simp] theorem setQps_huddles (s : State) (t : Tbl QueuePair) : (setQps s t).huddles = s.huddles := rfl
@[simp] theorem setQps_ledgers (s : State) (t : Tbl QueuePair) : (setQps s t).ledgers = s.ledgers := rfl
@[simp] theorem setQps_xlat (s : State) (t : Tbl QueuePair) : (setQps s t).xlat = s.xlat := rfl
@[simp] theorem setQps_q (s : State) (t : Tbl QueuePair) : (setQps s t).q = s.q := rfl
@[simp] theorem setQps_mem (s : State) (t : Tbl QueuePair) : (setQps s t).mem = s.mem := rfl
@[simp] theorem setQps_net (s : State) (t : Tbl QueuePair) : (setQps s t).net = s.net := rfl
@[simp] theorem setQps_core (s : State) (t : Tbl QueuePair) : (setQps s t).core = s.core := rfl
@[simp] theorem setQps_scrum (s : State) (t : Tbl QueuePair) : (setQps s t).scrum = s.scrum := rfl
@[simp] theorem setQps_step (s : State) (t : Tbl QueuePair) : (setQps s t).step = s.step := rfl
@[simp] theorem setQps_pewter (s : State) (t : Tbl QueuePair) : (setQps s t).pewter = s.pewter := rfl
@[simp] theorem setQps_caddie (s : State) (t : Tbl QueuePair) : (setQps s t).caddie = s.caddie := rfl
@[simp] theorem setQps_ctx (s : State) (t : Tbl QueuePair) : (setQps s t).ctx = s.ctx := rfl
@[simp] theorem setQps_recov (s : State) (t : Tbl QueuePair) : (setQps s t).recov = s.recov := rfl
@[simp] theorem setQps_links (s : State) (t : Tbl QueuePair) : (setQps s t).links = s.links := rfl
@[simp] theorem setQps_fw (s : State) (t : Tbl QueuePair) : (setQps s t).fw = s.fw := rfl
@[simp] theorem setQps_pwr (s : State) (t : Tbl QueuePair) : (setQps s t).pwr = s.pwr := rfl
@[simp] theorem setQps_out (s : State) (t : Tbl QueuePair) : (setQps s t).out = s.out := rfl
@[simp] theorem setQps_fresh (s : State) (t : Tbl QueuePair) : (setQps s t).fresh = s.fresh := rfl
@[simp] theorem setQps_now (s : State) (t : Tbl QueuePair) : (setQps s t).now = s.now := rfl
@[simp] theorem setQps_pending (s : State) (t : Tbl QueuePair) : (setQps s t).pending = s.pending := rfl
@[simp] theorem modQp_time (s : State) (qpn : Nat) (f : QueuePair → QueuePair) : (modQp s qpn f).time = s.time := rfl
@[simp] theorem modQp_tees (s : State) (qpn : Nat) (f : QueuePair → QueuePair) : (modQp s qpn f).tees = s.tees := rfl
@[simp] theorem modQp_huddles (s : State) (qpn : Nat) (f : QueuePair → QueuePair) : (modQp s qpn f).huddles = s.huddles := rfl
@[simp] theorem modQp_ledgers (s : State) (qpn : Nat) (f : QueuePair → QueuePair) : (modQp s qpn f).ledgers = s.ledgers := rfl
@[simp] theorem modQp_xlat (s : State) (qpn : Nat) (f : QueuePair → QueuePair) : (modQp s qpn f).xlat = s.xlat := rfl
@[simp] theorem modQp_q (s : State) (qpn : Nat) (f : QueuePair → QueuePair) : (modQp s qpn f).q = s.q := rfl
@[simp] theorem modQp_mem (s : State) (qpn : Nat) (f : QueuePair → QueuePair) : (modQp s qpn f).mem = s.mem := rfl
@[simp] theorem modQp_net (s : State) (qpn : Nat) (f : QueuePair → QueuePair) : (modQp s qpn f).net = s.net := rfl
@[simp] theorem modQp_core (s : State) (qpn : Nat) (f : QueuePair → QueuePair) : (modQp s qpn f).core = s.core := rfl
@[simp] theorem modQp_scrum (s : State) (qpn : Nat) (f : QueuePair → QueuePair) : (modQp s qpn f).scrum = s.scrum := rfl
@[simp] theorem modQp_step (s : State) (qpn : Nat) (f : QueuePair → QueuePair) : (modQp s qpn f).step = s.step := rfl
@[simp] theorem modQp_pewter (s : State) (qpn : Nat) (f : QueuePair → QueuePair) : (modQp s qpn f).pewter = s.pewter := rfl
@[simp] theorem modQp_caddie (s : State) (qpn : Nat) (f : QueuePair → QueuePair) : (modQp s qpn f).caddie = s.caddie := rfl
@[simp] theorem modQp_ctx (s : State) (qpn : Nat) (f : QueuePair → QueuePair) : (modQp s qpn f).ctx = s.ctx := rfl
@[simp] theorem modQp_recov (s : State) (qpn : Nat) (f : QueuePair → QueuePair) : (modQp s qpn f).recov = s.recov := rfl
@[simp] theorem modQp_dict (s : State) (qpn : Nat) (f : QueuePair → QueuePair) : (modQp s qpn f).dict = s.dict := rfl
@[simp] theorem modQp_links (s : State) (qpn : Nat) (f : QueuePair → QueuePair) : (modQp s qpn f).links = s.links := rfl
@[simp] theorem modQp_fw (s : State) (qpn : Nat) (f : QueuePair → QueuePair) : (modQp s qpn f).fw = s.fw := rfl
@[simp] theorem modQp_pwr (s : State) (qpn : Nat) (f : QueuePair → QueuePair) : (modQp s qpn f).pwr = s.pwr := rfl
@[simp] theorem modQp_out (s : State) (qpn : Nat) (f : QueuePair → QueuePair) : (modQp s qpn f).out = s.out := rfl
@[simp] theorem modQp_fresh (s : State) (qpn : Nat) (f : QueuePair → QueuePair) : (modQp s qpn f).fresh = s.fresh := rfl
@[simp] theorem modQp_now (s : State) (qpn : Nat) (f : QueuePair → QueuePair) : (modQp s qpn f).now = s.now := rfl
@[simp] theorem modQp_pending (s : State) (qpn : Nat) (f : QueuePair → QueuePair) : (modQp s qpn f).pending = s.pending := rfl
@[simp] theorem setEthPort_time (s : State) (e : Nat) (p : EthPort) : (setEthPort s e p).time = s.time := rfl
@[simp] theorem setEthPort_tees (s : State) (e : Nat) (p : EthPort) : (setEthPort s e p).tees = s.tees := rfl
@[simp] theorem setEthPort_huddles (s : State) (e : Nat) (p : EthPort) : (setEthPort s e p).huddles = s.huddles := rfl
@[simp] theorem setEthPort_ledgers (s : State) (e : Nat) (p : EthPort) : (setEthPort s e p).ledgers = s.ledgers := rfl
@[simp] theorem setEthPort_xlat (s : State) (e : Nat) (p : EthPort) : (setEthPort s e p).xlat = s.xlat := rfl
@[simp] theorem setEthPort_q (s : State) (e : Nat) (p : EthPort) : (setEthPort s e p).q = s.q := rfl
@[simp] theorem setEthPort_mem (s : State) (e : Nat) (p : EthPort) : (setEthPort s e p).mem = s.mem := rfl
@[simp] theorem setEthPort_net (s : State) (e : Nat) (p : EthPort) : (setEthPort s e p).net = s.net := rfl
@[simp] theorem setEthPort_core (s : State) (e : Nat) (p : EthPort) : (setEthPort s e p).core = s.core := rfl
@[simp] theorem setEthPort_scrum (s : State) (e : Nat) (p : EthPort) : (setEthPort s e p).scrum = s.scrum := rfl
@[simp] theorem setEthPort_step (s : State) (e : Nat) (p : EthPort) : (setEthPort s e p).step = s.step := rfl
@[simp] theorem setEthPort_pewter (s : State) (e : Nat) (p : EthPort) : (setEthPort s e p).pewter = s.pewter := rfl
@[simp] theorem setEthPort_caddie (s : State) (e : Nat) (p : EthPort) : (setEthPort s e p).caddie = s.caddie := rfl
@[simp] theorem setEthPort_ctx (s : State) (e : Nat) (p : EthPort) : (setEthPort s e p).ctx = s.ctx := rfl
@[simp] theorem setEthPort_recov (s : State) (e : Nat) (p : EthPort) : (setEthPort s e p).recov = s.recov := rfl
@[simp] theorem setEthPort_dict (s : State) (e : Nat) (p : EthPort) : (setEthPort s e p).dict = s.dict := rfl
@[simp] theorem setEthPort_links (s : State) (e : Nat) (p : EthPort) : (setEthPort s e p).links = s.links := rfl
@[simp] theorem setEthPort_fw (s : State) (e : Nat) (p : EthPort) : (setEthPort s e p).fw = s.fw := rfl
@[simp] theorem setEthPort_pwr (s : State) (e : Nat) (p : EthPort) : (setEthPort s e p).pwr = s.pwr := rfl
@[simp] theorem setEthPort_out (s : State) (e : Nat) (p : EthPort) : (setEthPort s e p).out = s.out := rfl
@[simp] theorem setEthPort_fresh (s : State) (e : Nat) (p : EthPort) : (setEthPort s e p).fresh = s.fresh := rfl
@[simp] theorem setEthPort_now (s : State) (e : Nat) (p : EthPort) : (setEthPort s e p).now = s.now := rfl
@[simp] theorem setEthPort_pending (s : State) (e : Nat) (p : EthPort) : (setEthPort s e p).pending = s.pending := rfl
@[simp] theorem modFlight_time (s : State) (key : Nat) (f : Flight → Flight) : (modFlight s key f).time = s.time := rfl
@[simp] theorem modFlight_tees (s : State) (key : Nat) (f : Flight → Flight) : (modFlight s key f).tees = s.tees := rfl
@[simp] theorem modFlight_huddles (s : State) (key : Nat) (f : Flight → Flight) : (modFlight s key f).huddles = s.huddles := rfl
@[simp] theorem modFlight_ledgers (s : State) (key : Nat) (f : Flight → Flight) : (modFlight s key f).ledgers = s.ledgers := rfl
@[simp] theorem modFlight_xlat (s : State) (key : Nat) (f : Flight → Flight) : (modFlight s key f).xlat = s.xlat := rfl
@[simp] theorem modFlight_mem (s : State) (key : Nat) (f : Flight → Flight) : (modFlight s key f).mem = s.mem := rfl
@[simp] theorem modFlight_net (s : State) (key : Nat) (f : Flight → Flight) : (modFlight s key f).net = s.net := rfl
@[simp] theorem modFlight_core (s : State) (key : Nat) (f : Flight → Flight) : (modFlight s key f).core = s.core := rfl
@[simp] theorem modFlight_scrum (s : State) (key : Nat) (f : Flight → Flight) : (modFlight s key f).scrum = s.scrum := rfl
@[simp] theorem modFlight_step (s : State) (key : Nat) (f : Flight → Flight) : (modFlight s key f).step = s.step := rfl
@[simp] theorem modFlight_pewter (s : State) (key : Nat) (f : Flight → Flight) : (modFlight s key f).pewter = s.pewter := rfl
@[simp] theorem modFlight_caddie (s : State) (key : Nat) (f : Flight → Flight) : (modFlight s key f).caddie = s.caddie := rfl
@[simp] theorem modFlight_ctx (s : State) (key : Nat) (f : Flight → Flight) : (modFlight s key f).ctx = s.ctx := rfl
@[simp] theorem modFlight_recov (s : State) (key : Nat) (f : Flight → Flight) : (modFlight s key f).recov = s.recov := rfl
@[simp] theorem modFlight_eth (s : State) (key : Nat) (f : Flight → Flight) : (modFlight s key f).eth = s.eth := rfl
@[simp] theorem modFlight_dict (s : State) (key : Nat) (f : Flight → Flight) : (modFlight s key f).dict = s.dict := rfl
@[simp] theorem modFlight_links (s : State) (key : Nat) (f : Flight → Flight) : (modFlight s key f).links = s.links := rfl
@[simp] theorem modFlight_fw (s : State) (key : Nat) (f : Flight → Flight) : (modFlight s key f).fw = s.fw := rfl
@[simp] theorem modFlight_pwr (s : State) (key : Nat) (f : Flight → Flight) : (modFlight s key f).pwr = s.pwr := rfl
@[simp] theorem modFlight_out (s : State) (key : Nat) (f : Flight → Flight) : (modFlight s key f).out = s.out := rfl
@[simp] theorem modFlight_fresh (s : State) (key : Nat) (f : Flight → Flight) : (modFlight s key f).fresh = s.fresh := rfl
@[simp] theorem modFlight_now (s : State) (key : Nat) (f : Flight → Flight) : (modFlight s key f).now = s.now := rfl
@[simp] theorem modFlight_pending (s : State) (key : Nat) (f : Flight → Flight) : (modFlight s key f).pending = s.pending := rfl
@[simp] theorem modQueue_time (s : State) (ctx queue : Nat) (f : Queue → Queue) : (modQueue s ctx queue f).time = s.time := rfl
@[simp] theorem modQueue_tees (s : State) (ctx queue : Nat) (f : Queue → Queue) : (modQueue s ctx queue f).tees = s.tees := rfl
@[simp] theorem modQueue_huddles (s : State) (ctx queue : Nat) (f : Queue → Queue) : (modQueue s ctx queue f).huddles = s.huddles := rfl
@[simp] theorem modQueue_ledgers (s : State) (ctx queue : Nat) (f : Queue → Queue) : (modQueue s ctx queue f).ledgers = s.ledgers := rfl
@[simp] theorem modQueue_xlat (s : State) (ctx queue : Nat) (f : Queue → Queue) : (modQueue s ctx queue f).xlat = s.xlat := rfl
@[simp] theorem modQueue_mem (s : State) (ctx queue : Nat) (f : Queue → Queue) : (modQueue s ctx queue f).mem = s.mem := rfl
@[simp] theorem modQueue_net (s : State) (ctx queue : Nat) (f : Queue → Queue) : (modQueue s ctx queue f).net = s.net := rfl
@[simp] theorem modQueue_core (s : State) (ctx queue : Nat) (f : Queue → Queue) : (modQueue s ctx queue f).core = s.core := rfl
@[simp] theorem modQueue_scrum (s : State) (ctx queue : Nat) (f : Queue → Queue) : (modQueue s ctx queue f).scrum = s.scrum := rfl
@[simp] theorem modQueue_step (s : State) (ctx queue : Nat) (f : Queue → Queue) : (modQueue s ctx queue f).step = s.step := rfl
@[simp] theorem modQueue_pewter (s : State) (ctx queue : Nat) (f : Queue → Queue) : (modQueue s ctx queue f).pewter = s.pewter := rfl
@[simp] theorem modQueue_caddie (s : State) (ctx queue : Nat) (f : Queue → Queue) : (modQueue s ctx queue f).caddie = s.caddie := rfl
@[simp] theorem modQueue_ctx (s : State) (ctx queue : Nat) (f : Queue → Queue) : (modQueue s ctx queue f).ctx = s.ctx := rfl
@[simp] theorem modQueue_recov (s : State) (ctx queue : Nat) (f : Queue → Queue) : (modQueue s ctx queue f).recov = s.recov := rfl
@[simp] theorem modQueue_eth (s : State) (ctx queue : Nat) (f : Queue → Queue) : (modQueue s ctx queue f).eth = s.eth := rfl
@[simp] theorem modQueue_dict (s : State) (ctx queue : Nat) (f : Queue → Queue) : (modQueue s ctx queue f).dict = s.dict := rfl
@[simp] theorem modQueue_links (s : State) (ctx queue : Nat) (f : Queue → Queue) : (modQueue s ctx queue f).links = s.links := rfl
@[simp] theorem modQueue_fw (s : State) (ctx queue : Nat) (f : Queue → Queue) : (modQueue s ctx queue f).fw = s.fw := rfl
@[simp] theorem modQueue_pwr (s : State) (ctx queue : Nat) (f : Queue → Queue) : (modQueue s ctx queue f).pwr = s.pwr := rfl
@[simp] theorem modQueue_out (s : State) (ctx queue : Nat) (f : Queue → Queue) : (modQueue s ctx queue f).out = s.out := rfl
@[simp] theorem modQueue_fresh (s : State) (ctx queue : Nat) (f : Queue → Queue) : (modQueue s ctx queue f).fresh = s.fresh := rfl
@[simp] theorem modQueue_now (s : State) (ctx queue : Nat) (f : Queue → Queue) : (modQueue s ctx queue f).now = s.now := rfl
@[simp] theorem modQueue_pending (s : State) (ctx queue : Nat) (f : Queue → Queue) : (modQueue s ctx queue f).pending = s.pending := rfl
@[simp] theorem modRing_time (s : State) (key : Nat) (f : Ring → Ring) : (modRing s key f).time = s.time := rfl
@[simp] theorem modRing_tees (s : State) (key : Nat) (f : Ring → Ring) : (modRing s key f).tees = s.tees := rfl
@[simp] theorem modRing_huddles (s : State) (key : Nat) (f : Ring → Ring) : (modRing s key f).huddles = s.huddles := rfl
@[simp] theorem modRing_ledgers (s : State) (key : Nat) (f : Ring → Ring) : (modRing s key f).ledgers = s.ledgers := rfl
@[simp] theorem modRing_xlat (s : State) (key : Nat) (f : Ring → Ring) : (modRing s key f).xlat = s.xlat := rfl
@[simp] theorem modRing_mem (s : State) (key : Nat) (f : Ring → Ring) : (modRing s key f).mem = s.mem := rfl
@[simp] theorem modRing_net (s : State) (key : Nat) (f : Ring → Ring) : (modRing s key f).net = s.net := rfl
@[simp] theorem modRing_core (s : State) (key : Nat) (f : Ring → Ring) : (modRing s key f).core = s.core := rfl
@[simp] theorem modRing_scrum (s : State) (key : Nat) (f : Ring → Ring) : (modRing s key f).scrum = s.scrum := rfl
@[simp] theorem modRing_step (s : State) (key : Nat) (f : Ring → Ring) : (modRing s key f).step = s.step := rfl
@[simp] theorem modRing_pewter (s : State) (key : Nat) (f : Ring → Ring) : (modRing s key f).pewter = s.pewter := rfl
@[simp] theorem modRing_caddie (s : State) (key : Nat) (f : Ring → Ring) : (modRing s key f).caddie = s.caddie := rfl
@[simp] theorem modRing_ctx (s : State) (key : Nat) (f : Ring → Ring) : (modRing s key f).ctx = s.ctx := rfl
@[simp] theorem modRing_recov (s : State) (key : Nat) (f : Ring → Ring) : (modRing s key f).recov = s.recov := rfl
@[simp] theorem modRing_eth (s : State) (key : Nat) (f : Ring → Ring) : (modRing s key f).eth = s.eth := rfl
@[simp] theorem modRing_dict (s : State) (key : Nat) (f : Ring → Ring) : (modRing s key f).dict = s.dict := rfl
@[simp] theorem modRing_links (s : State) (key : Nat) (f : Ring → Ring) : (modRing s key f).links = s.links := rfl
@[simp] theorem modRing_fw (s : State) (key : Nat) (f : Ring → Ring) : (modRing s key f).fw = s.fw := rfl
@[simp] theorem modRing_pwr (s : State) (key : Nat) (f : Ring → Ring) : (modRing s key f).pwr = s.pwr := rfl
@[simp] theorem modRing_out (s : State) (key : Nat) (f : Ring → Ring) : (modRing s key f).out = s.out := rfl
@[simp] theorem modRing_fresh (s : State) (key : Nat) (f : Ring → Ring) : (modRing s key f).fresh = s.fresh := rfl
@[simp] theorem modRing_now (s : State) (key : Nat) (f : Ring → Ring) : (modRing s key f).now = s.now := rfl
@[simp] theorem modRing_pending (s : State) (key : Nat) (f : Ring → Ring) : (modRing s key f).pending = s.pending := rfl
@[simp] theorem modHuddle_time (s : State) (key : Nat) (f : Huddle → Huddle) : (modHuddle s key f).time = s.time := rfl
@[simp] theorem modHuddle_tees (s : State) (key : Nat) (f : Huddle → Huddle) : (modHuddle s key f).tees = s.tees := rfl
@[simp] theorem modHuddle_ledgers (s : State) (key : Nat) (f : Huddle → Huddle) : (modHuddle s key f).ledgers = s.ledgers := rfl
@[simp] theorem modHuddle_xlat (s : State) (key : Nat) (f : Huddle → Huddle) : (modHuddle s key f).xlat = s.xlat := rfl
@[simp] theorem modHuddle_q (s : State) (key : Nat) (f : Huddle → Huddle) : (modHuddle s key f).q = s.q := rfl
@[simp] theorem modHuddle_mem (s : State) (key : Nat) (f : Huddle → Huddle) : (modHuddle s key f).mem = s.mem := rfl
@[simp] theorem modHuddle_net (s : State) (key : Nat) (f : Huddle → Huddle) : (modHuddle s key f).net = s.net := rfl
@[simp] theorem modHuddle_core (s : State) (key : Nat) (f : Huddle → Huddle) : (modHuddle s key f).core = s.core := rfl
@[simp] theorem modHuddle_scrum (s : State) (key : Nat) (f : Huddle → Huddle) : (modHuddle s key f).scrum = s.scrum := rfl
@[simp] theorem modHuddle_step (s : State) (key : Nat) (f : Huddle → Huddle) : (modHuddle s key f).step = s.step := rfl
@[simp] theorem modHuddle_pewter (s : State) (key : Nat) (f : Huddle → Huddle) : (modHuddle s key f).pewter = s.pewter := rfl
@[simp] theorem modHuddle_caddie (s : State) (key : Nat) (f : Huddle → Huddle) : (modHuddle s key f).caddie = s.caddie := rfl
@[simp] theorem modHuddle_ctx (s : State) (key : Nat) (f : Huddle → Huddle) : (modHuddle s key f).ctx = s.ctx := rfl
@[simp] theorem modHuddle_recov (s : State) (key : Nat) (f : Huddle → Huddle) : (modHuddle s key f).recov = s.recov := rfl
@[simp] theorem modHuddle_eth (s : State) (key : Nat) (f : Huddle → Huddle) : (modHuddle s key f).eth = s.eth := rfl
@[simp] theorem modHuddle_dict (s : State) (key : Nat) (f : Huddle → Huddle) : (modHuddle s key f).dict = s.dict := rfl
@[simp] theorem modHuddle_links (s : State) (key : Nat) (f : Huddle → Huddle) : (modHuddle s key f).links = s.links := rfl
@[simp] theorem modHuddle_fw (s : State) (key : Nat) (f : Huddle → Huddle) : (modHuddle s key f).fw = s.fw := rfl
@[simp] theorem modHuddle_pwr (s : State) (key : Nat) (f : Huddle → Huddle) : (modHuddle s key f).pwr = s.pwr := rfl
@[simp] theorem modHuddle_out (s : State) (key : Nat) (f : Huddle → Huddle) : (modHuddle s key f).out = s.out := rfl
@[simp] theorem modHuddle_fresh (s : State) (key : Nat) (f : Huddle → Huddle) : (modHuddle s key f).fresh = s.fresh := rfl
@[simp] theorem modHuddle_now (s : State) (key : Nat) (f : Huddle → Huddle) : (modHuddle s key f).now = s.now := rfl
@[simp] theorem modHuddle_pending (s : State) (key : Nat) (f : Huddle → Huddle) : (modHuddle s key f).pending = s.pending := rfl
@[simp] theorem modLedger_time (s : State) (ctx : Nat) (f : Ledger → Ledger) : (modLedger s ctx f).time = s.time := rfl
@[simp] theorem modLedger_tees (s : State) (ctx : Nat) (f : Ledger → Ledger) : (modLedger s ctx f).tees = s.tees := rfl
@[simp] theorem modLedger_huddles (s : State) (ctx : Nat) (f : Ledger → Ledger) : (modLedger s ctx f).huddles = s.huddles := rfl
@[simp] theorem modLedger_xlat (s : State) (ctx : Nat) (f : Ledger → Ledger) : (modLedger s ctx f).xlat = s.xlat := rfl
@[simp] theorem modLedger_q (s : State) (ctx : Nat) (f : Ledger → Ledger) : (modLedger s ctx f).q = s.q := rfl
@[simp] theorem modLedger_mem (s : State) (ctx : Nat) (f : Ledger → Ledger) : (modLedger s ctx f).mem = s.mem := rfl
@[simp] theorem modLedger_net (s : State) (ctx : Nat) (f : Ledger → Ledger) : (modLedger s ctx f).net = s.net := rfl
@[simp] theorem modLedger_core (s : State) (ctx : Nat) (f : Ledger → Ledger) : (modLedger s ctx f).core = s.core := rfl
@[simp] theorem modLedger_scrum (s : State) (ctx : Nat) (f : Ledger → Ledger) : (modLedger s ctx f).scrum = s.scrum := rfl
@[simp] theorem modLedger_step (s : State) (ctx : Nat) (f : Ledger → Ledger) : (modLedger s ctx f).step = s.step := rfl
@[simp] theorem modLedger_pewter (s : State) (ctx : Nat) (f : Ledger → Ledger) : (modLedger s ctx f).pewter = s.pewter := rfl
@[simp] theorem modLedger_caddie (s : State) (ctx : Nat) (f : Ledger → Ledger) : (modLedger s ctx f).caddie = s.caddie := rfl
@[simp] theorem modLedger_ctx (s : State) (ctx : Nat) (f : Ledger → Ledger) : (modLedger s ctx f).ctx = s.ctx := rfl
@[simp] theorem modLedger_recov (s : State) (ctx : Nat) (f : Ledger → Ledger) : (modLedger s ctx f).recov = s.recov := rfl
@[simp] theorem modLedger_eth (s : State) (ctx : Nat) (f : Ledger → Ledger) : (modLedger s ctx f).eth = s.eth := rfl
@[simp] theorem modLedger_dict (s : State) (ctx : Nat) (f : Ledger → Ledger) : (modLedger s ctx f).dict = s.dict := rfl
@[simp] theorem modLedger_links (s : State) (ctx : Nat) (f : Ledger → Ledger) : (modLedger s ctx f).links = s.links := rfl
@[simp] theorem modLedger_fw (s : State) (ctx : Nat) (f : Ledger → Ledger) : (modLedger s ctx f).fw = s.fw := rfl
@[simp] theorem modLedger_pwr (s : State) (ctx : Nat) (f : Ledger → Ledger) : (modLedger s ctx f).pwr = s.pwr := rfl
@[simp] theorem modLedger_out (s : State) (ctx : Nat) (f : Ledger → Ledger) : (modLedger s ctx f).out = s.out := rfl
@[simp] theorem modLedger_fresh (s : State) (ctx : Nat) (f : Ledger → Ledger) : (modLedger s ctx f).fresh = s.fresh := rfl
@[simp] theorem modLedger_now (s : State) (ctx : Nat) (f : Ledger → Ledger) : (modLedger s ctx f).now = s.now := rfl
@[simp] theorem modLedger_pending (s : State) (ctx : Nat) (f : Ledger → Ledger) : (modLedger s ctx f).pending = s.pending := rfl
@[simp] theorem modStream_time (s : State) (key : Nat) (f : Stream → Stream) : (modStream s key f).time = s.time := rfl
@[simp] theorem modStream_tees (s : State) (key : Nat) (f : Stream → Stream) : (modStream s key f).tees = s.tees := rfl
@[simp] theorem modStream_huddles (s : State) (key : Nat) (f : Stream → Stream) : (modStream s key f).huddles = s.huddles := rfl
@[simp] theorem modStream_ledgers (s : State) (key : Nat) (f : Stream → Stream) : (modStream s key f).ledgers = s.ledgers := rfl
@[simp] theorem modStream_xlat (s : State) (key : Nat) (f : Stream → Stream) : (modStream s key f).xlat = s.xlat := rfl
@[simp] theorem modStream_q (s : State) (key : Nat) (f : Stream → Stream) : (modStream s key f).q = s.q := rfl
@[simp] theorem modStream_mem (s : State) (key : Nat) (f : Stream → Stream) : (modStream s key f).mem = s.mem := rfl
@[simp] theorem modStream_net (s : State) (key : Nat) (f : Stream → Stream) : (modStream s key f).net = s.net := rfl
@[simp] theorem modStream_core (s : State) (key : Nat) (f : Stream → Stream) : (modStream s key f).core = s.core := rfl
@[simp] theorem modStream_scrum (s : State) (key : Nat) (f : Stream → Stream) : (modStream s key f).scrum = s.scrum := rfl
@[simp] theorem modStream_pewter (s : State) (key : Nat) (f : Stream → Stream) : (modStream s key f).pewter = s.pewter := rfl
@[simp] theorem modStream_caddie (s : State) (key : Nat) (f : Stream → Stream) : (modStream s key f).caddie = s.caddie := rfl
@[simp] theorem modStream_ctx (s : State) (key : Nat) (f : Stream → Stream) : (modStream s key f).ctx = s.ctx := rfl
@[simp] theorem modStream_recov (s : State) (key : Nat) (f : Stream → Stream) : (modStream s key f).recov = s.recov := rfl
@[simp] theorem modStream_eth (s : State) (key : Nat) (f : Stream → Stream) : (modStream s key f).eth = s.eth := rfl
@[simp] theorem modStream_dict (s : State) (key : Nat) (f : Stream → Stream) : (modStream s key f).dict = s.dict := rfl
@[simp] theorem modStream_links (s : State) (key : Nat) (f : Stream → Stream) : (modStream s key f).links = s.links := rfl
@[simp] theorem modStream_fw (s : State) (key : Nat) (f : Stream → Stream) : (modStream s key f).fw = s.fw := rfl
@[simp] theorem modStream_pwr (s : State) (key : Nat) (f : Stream → Stream) : (modStream s key f).pwr = s.pwr := rfl
@[simp] theorem modStream_out (s : State) (key : Nat) (f : Stream → Stream) : (modStream s key f).out = s.out := rfl
@[simp] theorem modStream_fresh (s : State) (key : Nat) (f : Stream → Stream) : (modStream s key f).fresh = s.fresh := rfl
@[simp] theorem modStream_now (s : State) (key : Nat) (f : Stream → Stream) : (modStream s key f).now = s.now := rfl
@[simp] theorem modStream_pending (s : State) (key : Nat) (f : Stream → Stream) : (modStream s key f).pending = s.pending := rfl
@[simp] theorem modGroup_time (s : State) (key : Nat) (f : Group → Group) : (modGroup s key f).time = s.time := rfl
@[simp] theorem modGroup_tees (s : State) (key : Nat) (f : Group → Group) : (modGroup s key f).tees = s.tees := rfl
@[simp] theorem modGroup_huddles (s : State) (key : Nat) (f : Group → Group) : (modGroup s key f).huddles = s.huddles := rfl
@[simp] theorem modGroup_ledgers (s : State) (key : Nat) (f : Group → Group) : (modGroup s key f).ledgers = s.ledgers := rfl
@[simp] theorem modGroup_xlat (s : State) (key : Nat) (f : Group → Group) : (modGroup s key f).xlat = s.xlat := rfl
@[simp] theorem modGroup_q (s : State) (key : Nat) (f : Group → Group) : (modGroup s key f).q = s.q := rfl
@[simp] theorem modGroup_mem (s : State) (key : Nat) (f : Group → Group) : (modGroup s key f).mem = s.mem := rfl
@[simp] theorem modGroup_net (s : State) (key : Nat) (f : Group → Group) : (modGroup s key f).net = s.net := rfl
@[simp] theorem modGroup_core (s : State) (key : Nat) (f : Group → Group) : (modGroup s key f).core = s.core := rfl
@[simp] theorem modGroup_step (s : State) (key : Nat) (f : Group → Group) : (modGroup s key f).step = s.step := rfl
@[simp] theorem modGroup_pewter (s : State) (key : Nat) (f : Group → Group) : (modGroup s key f).pewter = s.pewter := rfl
@[simp] theorem modGroup_caddie (s : State) (key : Nat) (f : Group → Group) : (modGroup s key f).caddie = s.caddie := rfl
@[simp] theorem modGroup_ctx (s : State) (key : Nat) (f : Group → Group) : (modGroup s key f).ctx = s.ctx := rfl
@[simp] theorem modGroup_recov (s : State) (key : Nat) (f : Group → Group) : (modGroup s key f).recov = s.recov := rfl
@[simp] theorem modGroup_eth (s : State) (key : Nat) (f : Group → Group) : (modGroup s key f).eth = s.eth := rfl
@[simp] theorem modGroup_dict (s : State) (key : Nat) (f : Group → Group) : (modGroup s key f).dict = s.dict := rfl
@[simp] theorem modGroup_links (s : State) (key : Nat) (f : Group → Group) : (modGroup s key f).links = s.links := rfl
@[simp] theorem modGroup_fw (s : State) (key : Nat) (f : Group → Group) : (modGroup s key f).fw = s.fw := rfl
@[simp] theorem modGroup_pwr (s : State) (key : Nat) (f : Group → Group) : (modGroup s key f).pwr = s.pwr := rfl
@[simp] theorem modGroup_out (s : State) (key : Nat) (f : Group → Group) : (modGroup s key f).out = s.out := rfl
@[simp] theorem modGroup_fresh (s : State) (key : Nat) (f : Group → Group) : (modGroup s key f).fresh = s.fresh := rfl
@[simp] theorem modGroup_now (s : State) (key : Nat) (f : Group → Group) : (modGroup s key f).now = s.now := rfl
@[simp] theorem modGroup_pending (s : State) (key : Nat) (f : Group → Group) : (modGroup s key f).pending = s.pending := rfl
@[simp] theorem modSeg_time (s : State) (key i : Nat) (f : GroupSeg → GroupSeg) : (modSeg s key i f).time = s.time := rfl
@[simp] theorem modSeg_tees (s : State) (key i : Nat) (f : GroupSeg → GroupSeg) : (modSeg s key i f).tees = s.tees := rfl
@[simp] theorem modSeg_huddles (s : State) (key i : Nat) (f : GroupSeg → GroupSeg) : (modSeg s key i f).huddles = s.huddles := rfl
@[simp] theorem modSeg_ledgers (s : State) (key i : Nat) (f : GroupSeg → GroupSeg) : (modSeg s key i f).ledgers = s.ledgers := rfl
@[simp] theorem modSeg_xlat (s : State) (key i : Nat) (f : GroupSeg → GroupSeg) : (modSeg s key i f).xlat = s.xlat := rfl
@[simp] theorem modSeg_q (s : State) (key i : Nat) (f : GroupSeg → GroupSeg) : (modSeg s key i f).q = s.q := rfl
@[simp] theorem modSeg_mem (s : State) (key i : Nat) (f : GroupSeg → GroupSeg) : (modSeg s key i f).mem = s.mem := rfl
@[simp] theorem modSeg_net (s : State) (key i : Nat) (f : GroupSeg → GroupSeg) : (modSeg s key i f).net = s.net := rfl
@[simp] theorem modSeg_core (s : State) (key i : Nat) (f : GroupSeg → GroupSeg) : (modSeg s key i f).core = s.core := rfl
@[simp] theorem modSeg_step (s : State) (key i : Nat) (f : GroupSeg → GroupSeg) : (modSeg s key i f).step = s.step := rfl
@[simp] theorem modSeg_pewter (s : State) (key i : Nat) (f : GroupSeg → GroupSeg) : (modSeg s key i f).pewter = s.pewter := rfl
@[simp] theorem modSeg_caddie (s : State) (key i : Nat) (f : GroupSeg → GroupSeg) : (modSeg s key i f).caddie = s.caddie := rfl
@[simp] theorem modSeg_ctx (s : State) (key i : Nat) (f : GroupSeg → GroupSeg) : (modSeg s key i f).ctx = s.ctx := rfl
@[simp] theorem modSeg_recov (s : State) (key i : Nat) (f : GroupSeg → GroupSeg) : (modSeg s key i f).recov = s.recov := rfl
@[simp] theorem modSeg_eth (s : State) (key i : Nat) (f : GroupSeg → GroupSeg) : (modSeg s key i f).eth = s.eth := rfl
@[simp] theorem modSeg_dict (s : State) (key i : Nat) (f : GroupSeg → GroupSeg) : (modSeg s key i f).dict = s.dict := rfl
@[simp] theorem modSeg_links (s : State) (key i : Nat) (f : GroupSeg → GroupSeg) : (modSeg s key i f).links = s.links := rfl
@[simp] theorem modSeg_fw (s : State) (key i : Nat) (f : GroupSeg → GroupSeg) : (modSeg s key i f).fw = s.fw := rfl
@[simp] theorem modSeg_pwr (s : State) (key i : Nat) (f : GroupSeg → GroupSeg) : (modSeg s key i f).pwr = s.pwr := rfl
@[simp] theorem modSeg_out (s : State) (key i : Nat) (f : GroupSeg → GroupSeg) : (modSeg s key i f).out = s.out := rfl
@[simp] theorem modSeg_fresh (s : State) (key i : Nat) (f : GroupSeg → GroupSeg) : (modSeg s key i f).fresh = s.fresh := rfl
@[simp] theorem modSeg_now (s : State) (key i : Nat) (f : GroupSeg → GroupSeg) : (modSeg s key i f).now = s.now := rfl
@[simp] theorem modSeg_pending (s : State) (key i : Nat) (f : GroupSeg → GroupSeg) : (modSeg s key i f).pending = s.pending := rfl
@[simp] theorem modArena_time (s : State) (key : Nat) (f : Arena → Arena) : (modArena s key f).time = s.time := rfl
@[simp] theorem modArena_tees (s : State) (key : Nat) (f : Arena → Arena) : (modArena s key f).tees = s.tees := rfl
@[simp] theorem modArena_huddles (s : State) (key : Nat) (f : Arena → Arena) : (modArena s key f).huddles = s.huddles := rfl
@[simp] theorem modArena_ledgers (s : State) (key : Nat) (f : Arena → Arena) : (modArena s key f).ledgers = s.ledgers := rfl
@[simp] theorem modArena_xlat (s : State) (key : Nat) (f : Arena → Arena) : (modArena s key f).xlat = s.xlat := rfl
@[simp] theorem modArena_q (s : State) (key : Nat) (f : Arena → Arena) : (modArena s key f).q = s.q := rfl
@[simp] theorem modArena_mem (s : State) (key : Nat) (f : Arena → Arena) : (modArena s key f).mem = s.mem := rfl
@[simp] theorem modArena_net (s : State) (key : Nat) (f : Arena → Arena) : (modArena s key f).net = s.net := rfl
@[simp] theorem modArena_core (s : State) (key : Nat) (f : Arena → Arena) : (modArena s key f).core = s.core := rfl
@[simp] theorem modArena_scrum (s : State) (key : Nat) (f : Arena → Arena) : (modArena s key f).scrum = s.scrum := rfl
@[simp] theorem modArena_step (s : State) (key : Nat) (f : Arena → Arena) : (modArena s key f).step = s.step := rfl
@[simp] theorem modArena_caddie (s : State) (key : Nat) (f : Arena → Arena) : (modArena s key f).caddie = s.caddie := rfl
@[simp] theorem modArena_ctx (s : State) (key : Nat) (f : Arena → Arena) : (modArena s key f).ctx = s.ctx := rfl
@[simp] theorem modArena_recov (s : State) (key : Nat) (f : Arena → Arena) : (modArena s key f).recov = s.recov := rfl
@[simp] theorem modArena_eth (s : State) (key : Nat) (f : Arena → Arena) : (modArena s key f).eth = s.eth := rfl
@[simp] theorem modArena_dict (s : State) (key : Nat) (f : Arena → Arena) : (modArena s key f).dict = s.dict := rfl
@[simp] theorem modArena_links (s : State) (key : Nat) (f : Arena → Arena) : (modArena s key f).links = s.links := rfl
@[simp] theorem modArena_fw (s : State) (key : Nat) (f : Arena → Arena) : (modArena s key f).fw = s.fw := rfl
@[simp] theorem modArena_pwr (s : State) (key : Nat) (f : Arena → Arena) : (modArena s key f).pwr = s.pwr := rfl
@[simp] theorem modArena_out (s : State) (key : Nat) (f : Arena → Arena) : (modArena s key f).out = s.out := rfl
@[simp] theorem modArena_fresh (s : State) (key : Nat) (f : Arena → Arena) : (modArena s key f).fresh = s.fresh := rfl
@[simp] theorem modArena_now (s : State) (key : Nat) (f : Arena → Arena) : (modArena s key f).now = s.now := rfl
@[simp] theorem modArena_pending (s : State) (key : Nat) (f : Arena → Arena) : (modArena s key f).pending = s.pending := rfl
@[simp] theorem modCaddie_time (s : State) (key : Nat) (f : CaddieStream → CaddieStream) : (modCaddie s key f).time = s.time := rfl
@[simp] theorem modCaddie_tees (s : State) (key : Nat) (f : CaddieStream → CaddieStream) : (modCaddie s key f).tees = s.tees := rfl
@[simp] theorem modCaddie_huddles (s : State) (key : Nat) (f : CaddieStream → CaddieStream) : (modCaddie s key f).huddles = s.huddles := rfl
@[simp] theorem modCaddie_ledgers (s : State) (key : Nat) (f : CaddieStream → CaddieStream) : (modCaddie s key f).ledgers = s.ledgers := rfl
@[simp] theorem modCaddie_xlat (s : State) (key : Nat) (f : CaddieStream → CaddieStream) : (modCaddie s key f).xlat = s.xlat := rfl
@[simp] theorem modCaddie_q (s : State) (key : Nat) (f : CaddieStream → CaddieStream) : (modCaddie s key f).q = s.q := rfl
@[simp] theorem modCaddie_mem (s : State) (key : Nat) (f : CaddieStream → CaddieStream) : (modCaddie s key f).mem = s.mem := rfl
@[simp] theorem modCaddie_net (s : State) (key : Nat) (f : CaddieStream → CaddieStream) : (modCaddie s key f).net = s.net := rfl
@[simp] theorem modCaddie_core (s : State) (key : Nat) (f : CaddieStream → CaddieStream) : (modCaddie s key f).core = s.core := rfl
@[simp] theorem modCaddie_scrum (s : State) (key : Nat) (f : CaddieStream → CaddieStream) : (modCaddie s key f).scrum = s.scrum := rfl
@[simp] theorem modCaddie_step (s : State) (key : Nat) (f : CaddieStream → CaddieStream) : (modCaddie s key f).step = s.step := rfl
@[simp] theorem modCaddie_pewter (s : State) (key : Nat) (f : CaddieStream → CaddieStream) : (modCaddie s key f).pewter = s.pewter := rfl
@[simp] theorem modCaddie_ctx (s : State) (key : Nat) (f : CaddieStream → CaddieStream) : (modCaddie s key f).ctx = s.ctx := rfl
@[simp] theorem modCaddie_recov (s : State) (key : Nat) (f : CaddieStream → CaddieStream) : (modCaddie s key f).recov = s.recov := rfl
@[simp] theorem modCaddie_eth (s : State) (key : Nat) (f : CaddieStream → CaddieStream) : (modCaddie s key f).eth = s.eth := rfl
@[simp] theorem modCaddie_dict (s : State) (key : Nat) (f : CaddieStream → CaddieStream) : (modCaddie s key f).dict = s.dict := rfl
@[simp] theorem modCaddie_links (s : State) (key : Nat) (f : CaddieStream → CaddieStream) : (modCaddie s key f).links = s.links := rfl
@[simp] theorem modCaddie_fw (s : State) (key : Nat) (f : CaddieStream → CaddieStream) : (modCaddie s key f).fw = s.fw := rfl
@[simp] theorem modCaddie_pwr (s : State) (key : Nat) (f : CaddieStream → CaddieStream) : (modCaddie s key f).pwr = s.pwr := rfl
@[simp] theorem modCaddie_out (s : State) (key : Nat) (f : CaddieStream → CaddieStream) : (modCaddie s key f).out = s.out := rfl
@[simp] theorem modCaddie_fresh (s : State) (key : Nat) (f : CaddieStream → CaddieStream) : (modCaddie s key f).fresh = s.fresh := rfl
@[simp] theorem modCaddie_now (s : State) (key : Nat) (f : CaddieStream → CaddieStream) : (modCaddie s key f).now = s.now := rfl
@[simp] theorem modCaddie_pending (s : State) (key : Nat) (f : CaddieStream → CaddieStream) : (modCaddie s key f).pending = s.pending := rfl
@[simp] theorem modWindow_time (s : State) (n : Nat) (f : Window → Window) : (modWindow s n f).time = s.time := rfl
@[simp] theorem modWindow_tees (s : State) (n : Nat) (f : Window → Window) : (modWindow s n f).tees = s.tees := rfl
@[simp] theorem modWindow_huddles (s : State) (n : Nat) (f : Window → Window) : (modWindow s n f).huddles = s.huddles := rfl
@[simp] theorem modWindow_ledgers (s : State) (n : Nat) (f : Window → Window) : (modWindow s n f).ledgers = s.ledgers := rfl
@[simp] theorem modWindow_q (s : State) (n : Nat) (f : Window → Window) : (modWindow s n f).q = s.q := rfl
@[simp] theorem modWindow_mem (s : State) (n : Nat) (f : Window → Window) : (modWindow s n f).mem = s.mem := rfl
@[simp] theorem modWindow_net (s : State) (n : Nat) (f : Window → Window) : (modWindow s n f).net = s.net := rfl
@[simp] theorem modWindow_core (s : State) (n : Nat) (f : Window → Window) : (modWindow s n f).core = s.core := rfl
@[simp] theorem modWindow_scrum (s : State) (n : Nat) (f : Window → Window) : (modWindow s n f).scrum = s.scrum := rfl
@[simp] theorem modWindow_step (s : State) (n : Nat) (f : Window → Window) : (modWindow s n f).step = s.step := rfl
@[simp] theorem modWindow_pewter (s : State) (n : Nat) (f : Window → Window) : (modWindow s n f).pewter = s.pewter := rfl
@[simp] theorem modWindow_caddie (s : State) (n : Nat) (f : Window → Window) : (modWindow s n f).caddie = s.caddie := rfl
@[simp] theorem modWindow_ctx (s : State) (n : Nat) (f : Window → Window) : (modWindow s n f).ctx = s.ctx := rfl
@[simp] theorem modWindow_recov (s : State) (n : Nat) (f : Window → Window) : (modWindow s n f).recov = s.recov := rfl
@[simp] theorem modWindow_eth (s : State) (n : Nat) (f : Window → Window) : (modWindow s n f).eth = s.eth := rfl
@[simp] theorem modWindow_dict (s : State) (n : Nat) (f : Window → Window) : (modWindow s n f).dict = s.dict := rfl
@[simp] theorem modWindow_links (s : State) (n : Nat) (f : Window → Window) : (modWindow s n f).links = s.links := rfl
@[simp] theorem modWindow_fw (s : State) (n : Nat) (f : Window → Window) : (modWindow s n f).fw = s.fw := rfl
@[simp] theorem modWindow_pwr (s : State) (n : Nat) (f : Window → Window) : (modWindow s n f).pwr = s.pwr := rfl
@[simp] theorem modWindow_out (s : State) (n : Nat) (f : Window → Window) : (modWindow s n f).out = s.out := rfl
@[simp] theorem modWindow_fresh (s : State) (n : Nat) (f : Window → Window) : (modWindow s n f).fresh = s.fresh := rfl
@[simp] theorem modWindow_now (s : State) (n : Nat) (f : Window → Window) : (modWindow s n f).now = s.now := rfl
@[simp] theorem modWindow_pending (s : State) (n : Nat) (f : Window → Window) : (modWindow s n f).pending = s.pending := rfl
@[simp] theorem modLink_time (s : State) (n : Nat) (f : Link → Link) : (modLink s n f).time = s.time := rfl
@[simp] theorem modLink_tees (s : State) (n : Nat) (f : Link → Link) : (modLink s n f).tees = s.tees := rfl
@[simp] theorem modLink_huddles (s : State) (n : Nat) (f : Link → Link) : (modLink s n f).huddles = s.huddles := rfl
@[simp] theorem modLink_ledgers (s : State) (n : Nat) (f : Link → Link) : (modLink s n f).ledgers = s.ledgers := rfl
@[simp] theorem modLink_xlat (s : State) (n : Nat) (f : Link → Link) : (modLink s n f).xlat = s.xlat := rfl
@[simp] theorem modLink_q (s : State) (n : Nat) (f : Link → Link) : (modLink s n f).q = s.q := rfl
@[simp] theorem modLink_mem (s : State) (n : Nat) (f : Link → Link) : (modLink s n f).mem = s.mem := rfl
@[simp] theorem modLink_net (s : State) (n : Nat) (f : Link → Link) : (modLink s n f).net = s.net := rfl
@[simp] theorem modLink_core (s : State) (n : Nat) (f : Link → Link) : (modLink s n f).core = s.core := rfl
@[simp] theorem modLink_scrum (s : State) (n : Nat) (f : Link → Link) : (modLink s n f).scrum = s.scrum := rfl
@[simp] theorem modLink_step (s : State) (n : Nat) (f : Link → Link) : (modLink s n f).step = s.step := rfl
@[simp] theorem modLink_pewter (s : State) (n : Nat) (f : Link → Link) : (modLink s n f).pewter = s.pewter := rfl
@[simp] theorem modLink_caddie (s : State) (n : Nat) (f : Link → Link) : (modLink s n f).caddie = s.caddie := rfl
@[simp] theorem modLink_ctx (s : State) (n : Nat) (f : Link → Link) : (modLink s n f).ctx = s.ctx := rfl
@[simp] theorem modLink_recov (s : State) (n : Nat) (f : Link → Link) : (modLink s n f).recov = s.recov := rfl
@[simp] theorem modLink_eth (s : State) (n : Nat) (f : Link → Link) : (modLink s n f).eth = s.eth := rfl
@[simp] theorem modLink_dict (s : State) (n : Nat) (f : Link → Link) : (modLink s n f).dict = s.dict := rfl
@[simp] theorem modLink_fw (s : State) (n : Nat) (f : Link → Link) : (modLink s n f).fw = s.fw := rfl
@[simp] theorem modLink_pwr (s : State) (n : Nat) (f : Link → Link) : (modLink s n f).pwr = s.pwr := rfl
@[simp] theorem modLink_out (s : State) (n : Nat) (f : Link → Link) : (modLink s n f).out = s.out := rfl
@[simp] theorem modLink_fresh (s : State) (n : Nat) (f : Link → Link) : (modLink s n f).fresh = s.fresh := rfl
@[simp] theorem modLink_now (s : State) (n : Nat) (f : Link → Link) : (modLink s n f).now = s.now := rfl
@[simp] theorem modLink_pending (s : State) (n : Nat) (f : Link → Link) : (modLink s n f).pending = s.pending := rfl
@[simp] theorem modLane_time (s : State) (n i : Nat) (f : Lane → Lane) : (modLane s n i f).time = s.time := rfl
@[simp] theorem modLane_tees (s : State) (n i : Nat) (f : Lane → Lane) : (modLane s n i f).tees = s.tees := rfl
@[simp] theorem modLane_huddles (s : State) (n i : Nat) (f : Lane → Lane) : (modLane s n i f).huddles = s.huddles := rfl
@[simp] theorem modLane_ledgers (s : State) (n i : Nat) (f : Lane → Lane) : (modLane s n i f).ledgers = s.ledgers := rfl
@[simp] theorem modLane_xlat (s : State) (n i : Nat) (f : Lane → Lane) : (modLane s n i f).xlat = s.xlat := rfl
@[simp] theorem modLane_q (s : State) (n i : Nat) (f : Lane → Lane) : (modLane s n i f).q = s.q := rfl
@[simp] theorem modLane_mem (s : State) (n i : Nat) (f : Lane → Lane) : (modLane s n i f).mem = s.mem := rfl
@[simp] theorem modLane_net (s : State) (n i : Nat) (f : Lane → Lane) : (modLane s n i f).net = s.net := rfl
@[simp] theorem modLane_core (s : State) (n i : Nat) (f : Lane → Lane) : (modLane s n i f).core = s.core := rfl
@[simp] theorem modLane_scrum (s : State) (n i : Nat) (f : Lane → Lane) : (modLane s n i f).scrum = s.scrum := rfl
@[simp] theorem modLane_step (s : State) (n i : Nat) (f : Lane → Lane) : (modLane s n i f).step = s.step := rfl
@[simp] theorem modLane_pewter (s : State) (n i : Nat) (f : Lane → Lane) : (modLane s n i f).pewter = s.pewter := rfl
@[simp] theorem modLane_caddie (s : State) (n i : Nat) (f : Lane → Lane) : (modLane s n i f).caddie = s.caddie := rfl
@[simp] theorem modLane_ctx (s : State) (n i : Nat) (f : Lane → Lane) : (modLane s n i f).ctx = s.ctx := rfl
@[simp] theorem modLane_recov (s : State) (n i : Nat) (f : Lane → Lane) : (modLane s n i f).recov = s.recov := rfl
@[simp] theorem modLane_eth (s : State) (n i : Nat) (f : Lane → Lane) : (modLane s n i f).eth = s.eth := rfl
@[simp] theorem modLane_dict (s : State) (n i : Nat) (f : Lane → Lane) : (modLane s n i f).dict = s.dict := rfl
@[simp] theorem modLane_fw (s : State) (n i : Nat) (f : Lane → Lane) : (modLane s n i f).fw = s.fw := rfl
@[simp] theorem modLane_pwr (s : State) (n i : Nat) (f : Lane → Lane) : (modLane s n i f).pwr = s.pwr := rfl
@[simp] theorem modLane_out (s : State) (n i : Nat) (f : Lane → Lane) : (modLane s n i f).out = s.out := rfl
@[simp] theorem modLane_fresh (s : State) (n i : Nat) (f : Lane → Lane) : (modLane s n i f).fresh = s.fresh := rfl
@[simp] theorem modLane_now (s : State) (n i : Nat) (f : Lane → Lane) : (modLane s n i f).now = s.now := rfl
@[simp] theorem modLane_pending (s : State) (n i : Nat) (f : Lane → Lane) : (modLane s n i f).pending = s.pending := rfl
@[simp] theorem modTee_time (s : State) (q slot : Nat) (f : TeeSlot → TeeSlot) : (modTee s q slot f).time = s.time := rfl
@[simp] theorem modTee_huddles (s : State) (q slot : Nat) (f : TeeSlot → TeeSlot) : (modTee s q slot f).huddles = s.huddles := rfl
@[simp] theorem modTee_ledgers (s : State) (q slot : Nat) (f : TeeSlot → TeeSlot) : (modTee s q slot f).ledgers = s.ledgers := rfl
@[simp] theorem modTee_xlat (s : State) (q slot : Nat) (f : TeeSlot → TeeSlot) : (modTee s q slot f).xlat = s.xlat := rfl
@[simp] theorem modTee_q (s : State) (q slot : Nat) (f : TeeSlot → TeeSlot) : (modTee s q slot f).q = s.q := rfl
@[simp] theorem modTee_mem (s : State) (q slot : Nat) (f : TeeSlot → TeeSlot) : (modTee s q slot f).mem = s.mem := rfl
@[simp] theorem modTee_net (s : State) (q slot : Nat) (f : TeeSlot → TeeSlot) : (modTee s q slot f).net = s.net := rfl
@[simp] theorem modTee_core (s : State) (q slot : Nat) (f : TeeSlot → TeeSlot) : (modTee s q slot f).core = s.core := rfl
@[simp] theorem modTee_scrum (s : State) (q slot : Nat) (f : TeeSlot → TeeSlot) : (modTee s q slot f).scrum = s.scrum := rfl
@[simp] theorem modTee_step (s : State) (q slot : Nat) (f : TeeSlot → TeeSlot) : (modTee s q slot f).step = s.step := rfl
@[simp] theorem modTee_pewter (s : State) (q slot : Nat) (f : TeeSlot → TeeSlot) : (modTee s q slot f).pewter = s.pewter := rfl
@[simp] theorem modTee_caddie (s : State) (q slot : Nat) (f : TeeSlot → TeeSlot) : (modTee s q slot f).caddie = s.caddie := rfl
@[simp] theorem modTee_ctx (s : State) (q slot : Nat) (f : TeeSlot → TeeSlot) : (modTee s q slot f).ctx = s.ctx := rfl
@[simp] theorem modTee_recov (s : State) (q slot : Nat) (f : TeeSlot → TeeSlot) : (modTee s q slot f).recov = s.recov := rfl
@[simp] theorem modTee_eth (s : State) (q slot : Nat) (f : TeeSlot → TeeSlot) : (modTee s q slot f).eth = s.eth := rfl
@[simp] theorem modTee_dict (s : State) (q slot : Nat) (f : TeeSlot → TeeSlot) : (modTee s q slot f).dict = s.dict := rfl
@[simp] theorem modTee_links (s : State) (q slot : Nat) (f : TeeSlot → TeeSlot) : (modTee s q slot f).links = s.links := rfl
@[simp] theorem modTee_fw (s : State) (q slot : Nat) (f : TeeSlot → TeeSlot) : (modTee s q slot f).fw = s.fw := rfl
@[simp] theorem modTee_pwr (s : State) (q slot : Nat) (f : TeeSlot → TeeSlot) : (modTee s q slot f).pwr = s.pwr := rfl
@[simp] theorem modTee_out (s : State) (q slot : Nat) (f : TeeSlot → TeeSlot) : (modTee s q slot f).out = s.out := rfl
@[simp] theorem modTee_fresh (s : State) (q slot : Nat) (f : TeeSlot → TeeSlot) : (modTee s q slot f).fresh = s.fresh := rfl
@[simp] theorem modTee_now (s : State) (q slot : Nat) (f : TeeSlot → TeeSlot) : (modTee s q slot f).now = s.now := rfl
@[simp] theorem modTee_pending (s : State) (q slot : Nat) (f : TeeSlot → TeeSlot) : (modTee s q slot f).pending = s.pending := rfl
@[simp] theorem modPkt_time (s : State) (id : Nat) (f : CorePkt → CorePkt) : (modPkt s id f).time = s.time := rfl
@[simp] theorem modPkt_tees (s : State) (id : Nat) (f : CorePkt → CorePkt) : (modPkt s id f).tees = s.tees := rfl
@[simp] theorem modPkt_huddles (s : State) (id : Nat) (f : CorePkt → CorePkt) : (modPkt s id f).huddles = s.huddles := rfl
@[simp] theorem modPkt_ledgers (s : State) (id : Nat) (f : CorePkt → CorePkt) : (modPkt s id f).ledgers = s.ledgers := rfl
@[simp] theorem modPkt_xlat (s : State) (id : Nat) (f : CorePkt → CorePkt) : (modPkt s id f).xlat = s.xlat := rfl
@[simp] theorem modPkt_q (s : State) (id : Nat) (f : CorePkt → CorePkt) : (modPkt s id f).q = s.q := rfl
@[simp] theorem modPkt_mem (s : State) (id : Nat) (f : CorePkt → CorePkt) : (modPkt s id f).mem = s.mem := rfl
@[simp] theorem modPkt_net (s : State) (id : Nat) (f : CorePkt → CorePkt) : (modPkt s id f).net = s.net := rfl
@[simp] theorem modPkt_scrum (s : State) (id : Nat) (f : CorePkt → CorePkt) : (modPkt s id f).scrum = s.scrum := rfl
@[simp] theorem modPkt_step (s : State) (id : Nat) (f : CorePkt → CorePkt) : (modPkt s id f).step = s.step := rfl
@[simp] theorem modPkt_pewter (s : State) (id : Nat) (f : CorePkt → CorePkt) : (modPkt s id f).pewter = s.pewter := rfl
@[simp] theorem modPkt_caddie (s : State) (id : Nat) (f : CorePkt → CorePkt) : (modPkt s id f).caddie = s.caddie := rfl
@[simp] theorem modPkt_ctx (s : State) (id : Nat) (f : CorePkt → CorePkt) : (modPkt s id f).ctx = s.ctx := rfl
@[simp] theorem modPkt_recov (s : State) (id : Nat) (f : CorePkt → CorePkt) : (modPkt s id f).recov = s.recov := rfl
@[simp] theorem modPkt_eth (s : State) (id : Nat) (f : CorePkt → CorePkt) : (modPkt s id f).eth = s.eth := rfl
@[simp] theorem modPkt_dict (s : State) (id : Nat) (f : CorePkt → CorePkt) : (modPkt s id f).dict = s.dict := rfl
@[simp] theorem modPkt_links (s : State) (id : Nat) (f : CorePkt → CorePkt) : (modPkt s id f).links = s.links := rfl
@[simp] theorem modPkt_fw (s : State) (id : Nat) (f : CorePkt → CorePkt) : (modPkt s id f).fw = s.fw := rfl
@[simp] theorem modPkt_pwr (s : State) (id : Nat) (f : CorePkt → CorePkt) : (modPkt s id f).pwr = s.pwr := rfl
@[simp] theorem modPkt_out (s : State) (id : Nat) (f : CorePkt → CorePkt) : (modPkt s id f).out = s.out := rfl
@[simp] theorem modPkt_fresh (s : State) (id : Nat) (f : CorePkt → CorePkt) : (modPkt s id f).fresh = s.fresh := rfl
@[simp] theorem modPkt_now (s : State) (id : Nat) (f : CorePkt → CorePkt) : (modPkt s id f).now = s.now := rfl
@[simp] theorem modPkt_pending (s : State) (id : Nat) (f : CorePkt → CorePkt) : (modPkt s id f).pending = s.pending := rfl
@[simp] theorem dropPkt_time (s : State) (id : Nat) : (dropPkt s id).time = s.time := rfl
@[simp] theorem dropPkt_tees (s : State) (id : Nat) : (dropPkt s id).tees = s.tees := rfl
@[simp] theorem dropPkt_huddles (s : State) (id : Nat) : (dropPkt s id).huddles = s.huddles := rfl
@[simp] theorem dropPkt_ledgers (s : State) (id : Nat) : (dropPkt s id).ledgers = s.ledgers := rfl
@[simp] theorem dropPkt_xlat (s : State) (id : Nat) : (dropPkt s id).xlat = s.xlat := rfl
@[simp] theorem dropPkt_q (s : State) (id : Nat) : (dropPkt s id).q = s.q := rfl
@[simp] theorem dropPkt_mem (s : State) (id : Nat) : (dropPkt s id).mem = s.mem := rfl
@[simp] theorem dropPkt_net (s : State) (id : Nat) : (dropPkt s id).net = s.net := rfl
@[simp] theorem dropPkt_scrum (s : State) (id : Nat) : (dropPkt s id).scrum = s.scrum := rfl
@[simp] theorem dropPkt_step (s : State) (id : Nat) : (dropPkt s id).step = s.step := rfl
@[simp] theorem dropPkt_pewter (s : State) (id : Nat) : (dropPkt s id).pewter = s.pewter := rfl
@[simp] theorem dropPkt_caddie (s : State) (id : Nat) : (dropPkt s id).caddie = s.caddie := rfl
@[simp] theorem dropPkt_ctx (s : State) (id : Nat) : (dropPkt s id).ctx = s.ctx := rfl
@[simp] theorem dropPkt_recov (s : State) (id : Nat) : (dropPkt s id).recov = s.recov := rfl
@[simp] theorem dropPkt_eth (s : State) (id : Nat) : (dropPkt s id).eth = s.eth := rfl
@[simp] theorem dropPkt_dict (s : State) (id : Nat) : (dropPkt s id).dict = s.dict := rfl
@[simp] theorem dropPkt_links (s : State) (id : Nat) : (dropPkt s id).links = s.links := rfl
@[simp] theorem dropPkt_fw (s : State) (id : Nat) : (dropPkt s id).fw = s.fw := rfl
@[simp] theorem dropPkt_pwr (s : State) (id : Nat) : (dropPkt s id).pwr = s.pwr := rfl
@[simp] theorem dropPkt_out (s : State) (id : Nat) : (dropPkt s id).out = s.out := rfl
@[simp] theorem dropPkt_fresh (s : State) (id : Nat) : (dropPkt s id).fresh = s.fresh := rfl
@[simp] theorem dropPkt_now (s : State) (id : Nat) : (dropPkt s id).now = s.now := rfl
@[simp] theorem dropPkt_pending (s : State) (id : Nat) : (dropPkt s id).pending = s.pending := rfl
@[simp] theorem modPlay_time (s : State) (key : Nat) (f : Play → Play) : (modPlay s key f).time = s.time := rfl
@[simp] theorem modPlay_tees (s : State) (key : Nat) (f : Play → Play) : (modPlay s key f).tees = s.tees := rfl
@[simp] theorem modPlay_huddles (s : State) (key : Nat) (f : Play → Play) : (modPlay s key f).huddles = s.huddles := rfl
@[simp] theorem modPlay_ledgers (s : State) (key : Nat) (f : Play → Play) : (modPlay s key f).ledgers = s.ledgers := rfl
@[simp] theorem modPlay_xlat (s : State) (key : Nat) (f : Play → Play) : (modPlay s key f).xlat = s.xlat := rfl
@[simp] theorem modPlay_mem (s : State) (key : Nat) (f : Play → Play) : (modPlay s key f).mem = s.mem := rfl
@[simp] theorem modPlay_net (s : State) (key : Nat) (f : Play → Play) : (modPlay s key f).net = s.net := rfl
@[simp] theorem modPlay_core (s : State) (key : Nat) (f : Play → Play) : (modPlay s key f).core = s.core := rfl
@[simp] theorem modPlay_scrum (s : State) (key : Nat) (f : Play → Play) : (modPlay s key f).scrum = s.scrum := rfl
@[simp] theorem modPlay_step (s : State) (key : Nat) (f : Play → Play) : (modPlay s key f).step = s.step := rfl
@[simp] theorem modPlay_pewter (s : State) (key : Nat) (f : Play → Play) : (modPlay s key f).pewter = s.pewter := rfl
@[simp] theorem modPlay_caddie (s : State) (key : Nat) (f : Play → Play) : (modPlay s key f).caddie = s.caddie := rfl
@[simp] theorem modPlay_ctx (s : State) (key : Nat) (f : Play → Play) : (modPlay s key f).ctx = s.ctx := rfl
@[simp] theorem modPlay_recov (s : State) (key : Nat) (f : Play → Play) : (modPlay s key f).recov = s.recov := rfl
@[simp] theorem modPlay_eth (s : State) (key : Nat) (f : Play → Play) : (modPlay s key f).eth = s.eth := rfl
@[simp] theorem modPlay_dict (s : State) (key : Nat) (f : Play → Play) : (modPlay s key f).dict = s.dict := rfl
@[simp] theorem modPlay_links (s : State) (key : Nat) (f : Play → Play) : (modPlay s key f).links = s.links := rfl
@[simp] theorem modPlay_fw (s : State) (key : Nat) (f : Play → Play) : (modPlay s key f).fw = s.fw := rfl
@[simp] theorem modPlay_pwr (s : State) (key : Nat) (f : Play → Play) : (modPlay s key f).pwr = s.pwr := rfl
@[simp] theorem modPlay_out (s : State) (key : Nat) (f : Play → Play) : (modPlay s key f).out = s.out := rfl
@[simp] theorem modPlay_fresh (s : State) (key : Nat) (f : Play → Play) : (modPlay s key f).fresh = s.fresh := rfl
@[simp] theorem modPlay_now (s : State) (key : Nat) (f : Play → Play) : (modPlay s key f).now = s.now := rfl
@[simp] theorem modPlay_pending (s : State) (key : Nat) (f : Play → Play) : (modPlay s key f).pending = s.pending := rfl
@[simp] theorem modUnmap_time (s : State) (fk : Nat) (f : UnmapJob → UnmapJob) : (modUnmap s fk f).time = s.time := rfl
@[simp] theorem modUnmap_tees (s : State) (fk : Nat) (f : UnmapJob → UnmapJob) : (modUnmap s fk f).tees = s.tees := rfl
@[simp] theorem modUnmap_huddles (s : State) (fk : Nat) (f : UnmapJob → UnmapJob) : (modUnmap s fk f).huddles = s.huddles := rfl
@[simp] theorem modUnmap_ledgers (s : State) (fk : Nat) (f : UnmapJob → UnmapJob) : (modUnmap s fk f).ledgers = s.ledgers := rfl
@[simp] theorem modUnmap_q (s : State) (fk : Nat) (f : UnmapJob → UnmapJob) : (modUnmap s fk f).q = s.q := rfl
@[simp] theorem modUnmap_mem (s : State) (fk : Nat) (f : UnmapJob → UnmapJob) : (modUnmap s fk f).mem = s.mem := rfl
@[simp] theorem modUnmap_net (s : State) (fk : Nat) (f : UnmapJob → UnmapJob) : (modUnmap s fk f).net = s.net := rfl
@[simp] theorem modUnmap_core (s : State) (fk : Nat) (f : UnmapJob → UnmapJob) : (modUnmap s fk f).core = s.core := rfl
@[simp] theorem modUnmap_scrum (s : State) (fk : Nat) (f : UnmapJob → UnmapJob) : (modUnmap s fk f).scrum = s.scrum := rfl
@[simp] theorem modUnmap_step (s : State) (fk : Nat) (f : UnmapJob → UnmapJob) : (modUnmap s fk f).step = s.step := rfl
@[simp] theorem modUnmap_pewter (s : State) (fk : Nat) (f : UnmapJob → UnmapJob) : (modUnmap s fk f).pewter = s.pewter := rfl
@[simp] theorem modUnmap_caddie (s : State) (fk : Nat) (f : UnmapJob → UnmapJob) : (modUnmap s fk f).caddie = s.caddie := rfl
@[simp] theorem modUnmap_ctx (s : State) (fk : Nat) (f : UnmapJob → UnmapJob) : (modUnmap s fk f).ctx = s.ctx := rfl
@[simp] theorem modUnmap_recov (s : State) (fk : Nat) (f : UnmapJob → UnmapJob) : (modUnmap s fk f).recov = s.recov := rfl
@[simp] theorem modUnmap_eth (s : State) (fk : Nat) (f : UnmapJob → UnmapJob) : (modUnmap s fk f).eth = s.eth := rfl
@[simp] theorem modUnmap_dict (s : State) (fk : Nat) (f : UnmapJob → UnmapJob) : (modUnmap s fk f).dict = s.dict := rfl
@[simp] theorem modUnmap_links (s : State) (fk : Nat) (f : UnmapJob → UnmapJob) : (modUnmap s fk f).links = s.links := rfl
@[simp] theorem modUnmap_fw (s : State) (fk : Nat) (f : UnmapJob → UnmapJob) : (modUnmap s fk f).fw = s.fw := rfl
@[simp] theorem modUnmap_pwr (s : State) (fk : Nat) (f : UnmapJob → UnmapJob) : (modUnmap s fk f).pwr = s.pwr := rfl
@[simp] theorem modUnmap_out (s : State) (fk : Nat) (f : UnmapJob → UnmapJob) : (modUnmap s fk f).out = s.out := rfl
@[simp] theorem modUnmap_fresh (s : State) (fk : Nat) (f : UnmapJob → UnmapJob) : (modUnmap s fk f).fresh = s.fresh := rfl
@[simp] theorem modUnmap_now (s : State) (fk : Nat) (f : UnmapJob → UnmapJob) : (modUnmap s fk f).now = s.now := rfl
@[simp] theorem modUnmap_pending (s : State) (fk : Nat) (f : UnmapJob → UnmapJob) : (modUnmap s fk f).pending = s.pending := rfl
@[simp] theorem setHeld_time (s : State) (q : Nat) (l : List HeldWrite) : (setHeld s q l).time = s.time := rfl
@[simp] theorem setHeld_tees (s : State) (q : Nat) (l : List HeldWrite) : (setHeld s q l).tees = s.tees := rfl
@[simp] theorem setHeld_huddles (s : State) (q : Nat) (l : List HeldWrite) : (setHeld s q l).huddles = s.huddles := rfl
@[simp] theorem setHeld_ledgers (s : State) (q : Nat) (l : List HeldWrite) : (setHeld s q l).ledgers = s.ledgers := rfl
@[simp] theorem setHeld_xlat (s : State) (q : Nat) (l : List HeldWrite) : (setHeld s q l).xlat = s.xlat := rfl
@[simp] theorem setHeld_q (s : State) (q : Nat) (l : List HeldWrite) : (setHeld s q l).q = s.q := rfl
@[simp] theorem setHeld_mem (s : State) (q : Nat) (l : List HeldWrite) : (setHeld s q l).mem = s.mem := rfl
@[simp] theorem setHeld_core (s : State) (q : Nat) (l : List HeldWrite) : (setHeld s q l).core = s.core := rfl
@[simp] theorem setHeld_scrum (s : State) (q : Nat) (l : List HeldWrite) : (setHeld s q l).scrum = s.scrum := rfl
@[simp] theorem setHeld_step (s : State) (q : Nat) (l : List HeldWrite) : (setHeld s q l).step = s.step := rfl
@[simp] theorem setHeld_pewter (s : State) (q : Nat) (l : List HeldWrite) : (setHeld s q l).pewter = s.pewter := rfl
@[simp] theorem setHeld_caddie (s : State) (q : Nat) (l : List HeldWrite) : (setHeld s q l).caddie = s.caddie := rfl
@[simp] theorem setHeld_ctx (s : State) (q : Nat) (l : List HeldWrite) : (setHeld s q l).ctx = s.ctx := rfl
@[simp] theorem setHeld_recov (s : State) (q : Nat) (l : List HeldWrite) : (setHeld s q l).recov = s.recov := rfl
@[simp] theorem setHeld_eth (s : State) (q : Nat) (l : List HeldWrite) : (setHeld s q l).eth = s.eth := rfl
@[simp] theorem setHeld_dict (s : State) (q : Nat) (l : List HeldWrite) : (setHeld s q l).dict = s.dict := rfl
@[simp] theorem setHeld_links (s : State) (q : Nat) (l : List HeldWrite) : (setHeld s q l).links = s.links := rfl
@[simp] theorem setHeld_fw (s : State) (q : Nat) (l : List HeldWrite) : (setHeld s q l).fw = s.fw := rfl
@[simp] theorem setHeld_pwr (s : State) (q : Nat) (l : List HeldWrite) : (setHeld s q l).pwr = s.pwr := rfl
@[simp] theorem setHeld_out (s : State) (q : Nat) (l : List HeldWrite) : (setHeld s q l).out = s.out := rfl
@[simp] theorem setHeld_fresh (s : State) (q : Nat) (l : List HeldWrite) : (setHeld s q l).fresh = s.fresh := rfl
@[simp] theorem setHeld_now (s : State) (q : Nat) (l : List HeldWrite) : (setHeld s q l).now = s.now := rfl
@[simp] theorem setHeld_pending (s : State) (q : Nat) (l : List HeldWrite) : (setHeld s q l).pending = s.pending := rfl
@[simp] theorem setResv_time (s : State) (q : Nat) (t : Tbl Reservation) : (setResv s q t).time = s.time := rfl
@[simp] theorem setResv_tees (s : State) (q : Nat) (t : Tbl Reservation) : (setResv s q t).tees = s.tees := rfl
@[simp] theorem setResv_huddles (s : State) (q : Nat) (t : Tbl Reservation) : (setResv s q t).huddles = s.huddles := rfl
@[simp] theorem setResv_ledgers (s : State) (q : Nat) (t : Tbl Reservation) : (setResv s q t).ledgers = s.ledgers := rfl
@[simp] theorem setResv_q (s : State) (q : Nat) (t : Tbl Reservation) : (setResv s q t).q = s.q := rfl
@[simp] theorem setResv_mem (s : State) (q : Nat) (t : Tbl Reservation) : (setResv s q t).mem = s.mem := rfl
@[simp] theorem setResv_net (s : State) (q : Nat) (t : Tbl Reservation) : (setResv s q t).net = s.net := rfl
@[simp] theorem setResv_core (s : State) (q : Nat) (t : Tbl Reservation) : (setResv s q t).core = s.core := rfl
@[simp] theorem setResv_scrum (s : State) (q : Nat) (t : Tbl Reservation) : (setResv s q t).scrum = s.scrum := rfl
@[simp] theorem setResv_step (s : State) (q : Nat) (t : Tbl Reservation) : (setResv s q t).step = s.step := rfl
@[simp] theorem setResv_pewter (s : State) (q : Nat) (t : Tbl Reservation) : (setResv s q t).pewter = s.pewter := rfl
@[simp] theorem setResv_caddie (s : State) (q : Nat) (t : Tbl Reservation) : (setResv s q t).caddie = s.caddie := rfl
@[simp] theorem setResv_ctx (s : State) (q : Nat) (t : Tbl Reservation) : (setResv s q t).ctx = s.ctx := rfl
@[simp] theorem setResv_recov (s : State) (q : Nat) (t : Tbl Reservation) : (setResv s q t).recov = s.recov := rfl
@[simp] theorem setResv_eth (s : State) (q : Nat) (t : Tbl Reservation) : (setResv s q t).eth = s.eth := rfl
@[simp] theorem setResv_dict (s : State) (q : Nat) (t : Tbl Reservation) : (setResv s q t).dict = s.dict := rfl
@[simp] theorem setResv_links (s : State) (q : Nat) (t : Tbl Reservation) : (setResv s q t).links = s.links := rfl
@[simp] theorem setResv_fw (s : State) (q : Nat) (t : Tbl Reservation) : (setResv s q t).fw = s.fw := rfl
@[simp] theorem setResv_pwr (s : State) (q : Nat) (t : Tbl Reservation) : (setResv s q t).pwr = s.pwr := rfl
@[simp] theorem setResv_out (s : State) (q : Nat) (t : Tbl Reservation) : (setResv s q t).out = s.out := rfl
@[simp] theorem setResv_fresh (s : State) (q : Nat) (t : Tbl Reservation) : (setResv s q t).fresh = s.fresh := rfl
@[simp] theorem setResv_now (s : State) (q : Nat) (t : Tbl Reservation) : (setResv s q t).now = s.now := rfl
@[simp] theorem setResv_pending (s : State) (q : Nat) (t : Tbl Reservation) : (setResv s q t).pending = s.pending := rfl
@[simp] theorem setLimiters_time (s : State) (q : Nat) (t : Tbl Limiter) : (setLimiters s q t).time = s.time := rfl
@[simp] theorem setLimiters_tees (s : State) (q : Nat) (t : Tbl Limiter) : (setLimiters s q t).tees = s.tees := rfl
@[simp] theorem setLimiters_huddles (s : State) (q : Nat) (t : Tbl Limiter) : (setLimiters s q t).huddles = s.huddles := rfl
@[simp] theorem setLimiters_ledgers (s : State) (q : Nat) (t : Tbl Limiter) : (setLimiters s q t).ledgers = s.ledgers := rfl
@[simp] theorem setLimiters_xlat (s : State) (q : Nat) (t : Tbl Limiter) : (setLimiters s q t).xlat = s.xlat := rfl
@[simp] theorem setLimiters_q (s : State) (q : Nat) (t : Tbl Limiter) : (setLimiters s q t).q = s.q := rfl
@[simp] theorem setLimiters_mem (s : State) (q : Nat) (t : Tbl Limiter) : (setLimiters s q t).mem = s.mem := rfl
@[simp] theorem setLimiters_net (s : State) (q : Nat) (t : Tbl Limiter) : (setLimiters s q t).net = s.net := rfl
@[simp] theorem setLimiters_scrum (s : State) (q : Nat) (t : Tbl Limiter) : (setLimiters s q t).scrum = s.scrum := rfl
@[simp] theorem setLimiters_step (s : State) (q : Nat) (t : Tbl Limiter) : (setLimiters s q t).step = s.step := rfl
@[simp] theorem setLimiters_pewter (s : State) (q : Nat) (t : Tbl Limiter) : (setLimiters s q t).pewter = s.pewter := rfl
@[simp] theorem setLimiters_caddie (s : State) (q : Nat) (t : Tbl Limiter) : (setLimiters s q t).caddie = s.caddie := rfl
@[simp] theorem setLimiters_ctx (s : State) (q : Nat) (t : Tbl Limiter) : (setLimiters s q t).ctx = s.ctx := rfl
@[simp] theorem setLimiters_recov (s : State) (q : Nat) (t : Tbl Limiter) : (setLimiters s q t).recov = s.recov := rfl
@[simp] theorem setLimiters_eth (s : State) (q : Nat) (t : Tbl Limiter) : (setLimiters s q t).eth = s.eth := rfl
@[simp] theorem setLimiters_dict (s : State) (q : Nat) (t : Tbl Limiter) : (setLimiters s q t).dict = s.dict := rfl
@[simp] theorem setLimiters_links (s : State) (q : Nat) (t : Tbl Limiter) : (setLimiters s q t).links = s.links := rfl
@[simp] theorem setLimiters_fw (s : State) (q : Nat) (t : Tbl Limiter) : (setLimiters s q t).fw = s.fw := rfl
@[simp] theorem setLimiters_pwr (s : State) (q : Nat) (t : Tbl Limiter) : (setLimiters s q t).pwr = s.pwr := rfl
@[simp] theorem setLimiters_out (s : State) (q : Nat) (t : Tbl Limiter) : (setLimiters s q t).out = s.out := rfl
@[simp] theorem setLimiters_fresh (s : State) (q : Nat) (t : Tbl Limiter) : (setLimiters s q t).fresh = s.fresh := rfl
@[simp] theorem setLimiters_now (s : State) (q : Nat) (t : Tbl Limiter) : (setLimiters s q t).now = s.now := rfl
@[simp] theorem setLimiters_pending (s : State) (q : Nat) (t : Tbl Limiter) : (setLimiters s q t).pending = s.pending := rfl
@[simp] theorem setFifo_time (s : State) (port fifo : Nat) (l : List Nat) : (setFifo s port fifo l).time = s.time := rfl
@[simp] theorem setFifo_tees (s : State) (port fifo : Nat) (l : List Nat) : (setFifo s port fifo l).tees = s.tees := rfl
@[simp] theorem setFifo_huddles (s : State) (port fifo : Nat) (l : List Nat) : (setFifo s port fifo l).huddles = s.huddles := rfl
@[simp] theorem setFifo_ledgers (s : State) (port fifo : Nat) (l : List Nat) : (setFifo s port fifo l).ledgers = s.ledgers := rfl
@[simp] theorem setFifo_xlat (s : State) (port fifo : Nat) (l : List Nat) : (setFifo s port fifo l).xlat = s.xlat := rfl
@[simp] theorem setFifo_q (s : State) (port fifo : Nat) (l : List Nat) : (setFifo s port fifo l).q = s.q := rfl
@[simp] theorem setFifo_mem (s : State) (port fifo : Nat) (l : List Nat) : (setFifo s port fifo l).mem = s.mem := rfl
@[simp] theorem setFifo_net (s : State) (port fifo : Nat) (l : List Nat) : (setFifo s port fifo l).net = s.net := rfl
@[simp] theorem setFifo_scrum (s : State) (port fifo : Nat) (l : List Nat) : (setFifo s port fifo l).scrum = s.scrum := rfl
@[simp] theorem setFifo_step (s : State) (port fifo : Nat) (l : List Nat) : (setFifo s port fifo l).step = s.step := rfl
@[simp] theorem setFifo_pewter (s : State) (port fifo : Nat) (l : List Nat) : (setFifo s port fifo l).pewter = s.pewter := rfl
@[simp] theorem setFifo_caddie (s : State) (port fifo : Nat) (l : List Nat) : (setFifo s port fifo l).caddie = s.caddie := rfl
@[simp] theorem setFifo_ctx (s : State) (port fifo : Nat) (l : List Nat) : (setFifo s port fifo l).ctx = s.ctx := rfl
@[simp] theorem setFifo_recov (s : State) (port fifo : Nat) (l : List Nat) : (setFifo s port fifo l).recov = s.recov := rfl
@[simp] theorem setFifo_eth (s : State) (port fifo : Nat) (l : List Nat) : (setFifo s port fifo l).eth = s.eth := rfl
@[simp] theorem setFifo_dict (s : State) (port fifo : Nat) (l : List Nat) : (setFifo s port fifo l).dict = s.dict := rfl
@[simp] theorem setFifo_links (s : State) (port fifo : Nat) (l : List Nat) : (setFifo s port fifo l).links = s.links := rfl
@[simp] theorem setFifo_fw (s : State) (port fifo : Nat) (l : List Nat) : (setFifo s port fifo l).fw = s.fw := rfl
@[simp] theorem setFifo_pwr (s : State) (port fifo : Nat) (l : List Nat) : (setFifo s port fifo l).pwr = s.pwr := rfl
@[simp] theorem setFifo_out (s : State) (port fifo : Nat) (l : List Nat) : (setFifo s port fifo l).out = s.out := rfl
@[simp] theorem setFifo_fresh (s : State) (port fifo : Nat) (l : List Nat) : (setFifo s port fifo l).fresh = s.fresh := rfl
@[simp] theorem setFifo_now (s : State) (port fifo : Nat) (l : List Nat) : (setFifo s port fifo l).now = s.now := rfl
@[simp] theorem setFifo_pending (s : State) (port fifo : Nat) (l : List Nat) : (setFifo s port fifo l).pending = s.pending := rfl
@[simp] theorem modFlow_time (s : State) (key : Nat) (f : Flow → Flow) : (modFlow s key f).time = s.time := rfl
@[simp] theorem modFlow_tees (s : State) (key : Nat) (f : Flow → Flow) : (modFlow s key f).tees = s.tees := rfl
@[simp] theorem modFlow_huddles (s : State) (key : Nat) (f : Flow → Flow) : (modFlow s key f).huddles = s.huddles := rfl
@[simp] theorem modFlow_ledgers (s : State) (key : Nat) (f : Flow → Flow) : (modFlow s key f).ledgers = s.ledgers := rfl
@[simp] theorem modFlow_xlat (s : State) (key : Nat) (f : Flow → Flow) : (modFlow s key f).xlat = s.xlat := rfl
@[simp] theorem modFlow_q (s : State) (key : Nat) (f : Flow → Flow) : (modFlow s key f).q = s.q := rfl
@[simp] theorem modFlow_mem (s : State) (key : Nat) (f : Flow → Flow) : (modFlow s key f).mem = s.mem := rfl
@[simp] theorem modFlow_core (s : State) (key : Nat) (f : Flow → Flow) : (modFlow s key f).core = s.core := rfl
@[simp] theorem modFlow_scrum (s : State) (key : Nat) (f : Flow → Flow) : (modFlow s key f).scrum = s.scrum := rfl
@[simp] theorem modFlow_step (s : State) (key : Nat) (f : Flow → Flow) : (modFlow s key f).step = s.step := rfl
@[simp] theorem modFlow_pewter (s : State) (key : Nat) (f : Flow → Flow) : (modFlow s key f).pewter = s.pewter := rfl
@[simp] theorem modFlow_caddie (s : State) (key : Nat) (f : Flow → Flow) : (modFlow s key f).caddie = s.caddie := rfl
@[simp] theorem modFlow_ctx (s : State) (key : Nat) (f : Flow → Flow) : (modFlow s key f).ctx = s.ctx := rfl
@[simp] theorem modFlow_recov (s : State) (key : Nat) (f : Flow → Flow) : (modFlow s key f).recov = s.recov := rfl
@[simp] theorem modFlow_eth (s : State) (key : Nat) (f : Flow → Flow) : (modFlow s key f).eth = s.eth := rfl
@[simp] theorem modFlow_dict (s : State) (key : Nat) (f : Flow → Flow) : (modFlow s key f).dict = s.dict := rfl
@[simp] theorem modFlow_links (s : State) (key : Nat) (f : Flow → Flow) : (modFlow s key f).links = s.links := rfl
@[simp] theorem modFlow_fw (s : State) (key : Nat) (f : Flow → Flow) : (modFlow s key f).fw = s.fw := rfl
@[simp] theorem modFlow_pwr (s : State) (key : Nat) (f : Flow → Flow) : (modFlow s key f).pwr = s.pwr := rfl
@[simp] theorem modFlow_out (s : State) (key : Nat) (f : Flow → Flow) : (modFlow s key f).out = s.out := rfl
@[simp] theorem modFlow_fresh (s : State) (key : Nat) (f : Flow → Flow) : (modFlow s key f).fresh = s.fresh := rfl
@[simp] theorem modFlow_now (s : State) (key : Nat) (f : Flow → Flow) : (modFlow s key f).now = s.now := rfl
@[simp] theorem modFlow_pending (s : State) (key : Nat) (f : Flow → Flow) : (modFlow s key f).pending = s.pending := rfl
@[simp] theorem setRoutes_time (s : State) (b : Bytes) : (setRoutes s b).time = s.time := rfl
@[simp] theorem setRoutes_tees (s : State) (b : Bytes) : (setRoutes s b).tees = s.tees := rfl
@[simp] theorem setRoutes_huddles (s : State) (b : Bytes) : (setRoutes s b).huddles = s.huddles := rfl
@[simp] theorem setRoutes_ledgers (s : State) (b : Bytes) : (setRoutes s b).ledgers = s.ledgers := rfl
@[simp] theorem setRoutes_xlat (s : State) (b : Bytes) : (setRoutes s b).xlat = s.xlat := rfl
@[simp] theorem setRoutes_q (s : State) (b : Bytes) : (setRoutes s b).q = s.q := rfl
@[simp] theorem setRoutes_mem (s : State) (b : Bytes) : (setRoutes s b).mem = s.mem := rfl
@[simp] theorem setRoutes_net (s : State) (b : Bytes) : (setRoutes s b).net = s.net := rfl
@[simp] theorem setRoutes_scrum (s : State) (b : Bytes) : (setRoutes s b).scrum = s.scrum := rfl
@[simp] theorem setRoutes_step (s : State) (b : Bytes) : (setRoutes s b).step = s.step := rfl
@[simp] theorem setRoutes_pewter (s : State) (b : Bytes) : (setRoutes s b).pewter = s.pewter := rfl
@[simp] theorem setRoutes_caddie (s : State) (b : Bytes) : (setRoutes s b).caddie = s.caddie := rfl
@[simp] theorem setRoutes_ctx (s : State) (b : Bytes) : (setRoutes s b).ctx = s.ctx := rfl
@[simp] theorem setRoutes_recov (s : State) (b : Bytes) : (setRoutes s b).recov = s.recov := rfl
@[simp] theorem setRoutes_eth (s : State) (b : Bytes) : (setRoutes s b).eth = s.eth := rfl
@[simp] theorem setRoutes_dict (s : State) (b : Bytes) : (setRoutes s b).dict = s.dict := rfl
@[simp] theorem setRoutes_links (s : State) (b : Bytes) : (setRoutes s b).links = s.links := rfl
@[simp] theorem setRoutes_fw (s : State) (b : Bytes) : (setRoutes s b).fw = s.fw := rfl
@[simp] theorem setRoutes_pwr (s : State) (b : Bytes) : (setRoutes s b).pwr = s.pwr := rfl
@[simp] theorem setRoutes_out (s : State) (b : Bytes) : (setRoutes s b).out = s.out := rfl
@[simp] theorem setRoutes_fresh (s : State) (b : Bytes) : (setRoutes s b).fresh = s.fresh := rfl
@[simp] theorem setRoutes_now (s : State) (b : Bytes) : (setRoutes s b).now = s.now := rfl
@[simp] theorem setRoutes_pending (s : State) (b : Bytes) : (setRoutes s b).pending = s.pending := rfl
@[simp] theorem setDomains_time (s : State) (b : Bytes) : (setDomains s b).time = s.time := rfl
@[simp] theorem setDomains_tees (s : State) (b : Bytes) : (setDomains s b).tees = s.tees := rfl
@[simp] theorem setDomains_huddles (s : State) (b : Bytes) : (setDomains s b).huddles = s.huddles := rfl
@[simp] theorem setDomains_ledgers (s : State) (b : Bytes) : (setDomains s b).ledgers = s.ledgers := rfl
@[simp] theorem setDomains_xlat (s : State) (b : Bytes) : (setDomains s b).xlat = s.xlat := rfl
@[simp] theorem setDomains_q (s : State) (b : Bytes) : (setDomains s b).q = s.q := rfl
@[simp] theorem setDomains_mem (s : State) (b : Bytes) : (setDomains s b).mem = s.mem := rfl
@[simp] theorem setDomains_net (s : State) (b : Bytes) : (setDomains s b).net = s.net := rfl
@[simp] theorem setDomains_core (s : State) (b : Bytes) : (setDomains s b).core = s.core := rfl
@[simp] theorem setDomains_scrum (s : State) (b : Bytes) : (setDomains s b).scrum = s.scrum := rfl
@[simp] theorem setDomains_step (s : State) (b : Bytes) : (setDomains s b).step = s.step := rfl
@[simp] theorem setDomains_pewter (s : State) (b : Bytes) : (setDomains s b).pewter = s.pewter := rfl
@[simp] theorem setDomains_caddie (s : State) (b : Bytes) : (setDomains s b).caddie = s.caddie := rfl
@[simp] theorem setDomains_ctx (s : State) (b : Bytes) : (setDomains s b).ctx = s.ctx := rfl
@[simp] theorem setDomains_eth (s : State) (b : Bytes) : (setDomains s b).eth = s.eth := rfl
@[simp] theorem setDomains_dict (s : State) (b : Bytes) : (setDomains s b).dict = s.dict := rfl
@[simp] theorem setDomains_links (s : State) (b : Bytes) : (setDomains s b).links = s.links := rfl
@[simp] theorem setDomains_fw (s : State) (b : Bytes) : (setDomains s b).fw = s.fw := rfl
@[simp] theorem setDomains_pwr (s : State) (b : Bytes) : (setDomains s b).pwr = s.pwr := rfl
@[simp] theorem setDomains_out (s : State) (b : Bytes) : (setDomains s b).out = s.out := rfl
@[simp] theorem setDomains_fresh (s : State) (b : Bytes) : (setDomains s b).fresh = s.fresh := rfl
@[simp] theorem setDomains_now (s : State) (b : Bytes) : (setDomains s b).now = s.now := rfl
@[simp] theorem setDomains_pending (s : State) (b : Bytes) : (setDomains s b).pending = s.pending := rfl
@[simp] theorem setCtxState_time (s : State) (c st : Nat) : (setCtxState s c st).time = s.time := rfl
@[simp] theorem setCtxState_tees (s : State) (c st : Nat) : (setCtxState s c st).tees = s.tees := rfl
@[simp] theorem setCtxState_huddles (s : State) (c st : Nat) : (setCtxState s c st).huddles = s.huddles := rfl
@[simp] theorem setCtxState_ledgers (s : State) (c st : Nat) : (setCtxState s c st).ledgers = s.ledgers := rfl
@[simp] theorem setCtxState_xlat (s : State) (c st : Nat) : (setCtxState s c st).xlat = s.xlat := rfl
@[simp] theorem setCtxState_q (s : State) (c st : Nat) : (setCtxState s c st).q = s.q := rfl
@[simp] theorem setCtxState_mem (s : State) (c st : Nat) : (setCtxState s c st).mem = s.mem := rfl
@[simp] theorem setCtxState_net (s : State) (c st : Nat) : (setCtxState s c st).net = s.net := rfl
@[simp] theorem setCtxState_core (s : State) (c st : Nat) : (setCtxState s c st).core = s.core := rfl
@[simp] theorem setCtxState_scrum (s : State) (c st : Nat) : (setCtxState s c st).scrum = s.scrum := rfl
@[simp] theorem setCtxState_step (s : State) (c st : Nat) : (setCtxState s c st).step = s.step := rfl
@[simp] theorem setCtxState_pewter (s : State) (c st : Nat) : (setCtxState s c st).pewter = s.pewter := rfl
@[simp] theorem setCtxState_caddie (s : State) (c st : Nat) : (setCtxState s c st).caddie = s.caddie := rfl
@[simp] theorem setCtxState_ctx (s : State) (c st : Nat) : (setCtxState s c st).ctx = s.ctx := rfl
@[simp] theorem setCtxState_recov (s : State) (c st : Nat) : (setCtxState s c st).recov = s.recov := rfl
@[simp] theorem setCtxState_eth (s : State) (c st : Nat) : (setCtxState s c st).eth = s.eth := rfl
@[simp] theorem setCtxState_links (s : State) (c st : Nat) : (setCtxState s c st).links = s.links := rfl
@[simp] theorem setCtxState_fw (s : State) (c st : Nat) : (setCtxState s c st).fw = s.fw := rfl
@[simp] theorem setCtxState_pwr (s : State) (c st : Nat) : (setCtxState s c st).pwr = s.pwr := rfl
@[simp] theorem setCtxState_out (s : State) (c st : Nat) : (setCtxState s c st).out = s.out := rfl
@[simp] theorem setCtxState_fresh (s : State) (c st : Nat) : (setCtxState s c st).fresh = s.fresh := rfl
@[simp] theorem setCtxState_now (s : State) (c st : Nat) : (setCtxState s c st).now = s.now := rfl
@[simp] theorem setCtxState_pending (s : State) (c st : Nat) : (setCtxState s c st).pending = s.pending := rfl
@[simp] theorem setPortState_time (s : State) (n st : Nat) : (setPortState s n st).time = s.time := rfl
@[simp] theorem setPortState_tees (s : State) (n st : Nat) : (setPortState s n st).tees = s.tees := rfl
@[simp] theorem setPortState_huddles (s : State) (n st : Nat) : (setPortState s n st).huddles = s.huddles := rfl
@[simp] theorem setPortState_ledgers (s : State) (n st : Nat) : (setPortState s n st).ledgers = s.ledgers := rfl
@[simp] theorem setPortState_xlat (s : State) (n st : Nat) : (setPortState s n st).xlat = s.xlat := rfl
@[simp] theorem setPortState_q (s : State) (n st : Nat) : (setPortState s n st).q = s.q := rfl
@[simp] theorem setPortState_mem (s : State) (n st : Nat) : (setPortState s n st).mem = s.mem := rfl
@[simp] theorem setPortState_net (s : State) (n st : Nat) : (setPortState s n st).net = s.net := rfl
@[simp] theorem setPortState_core (s : State) (n st : Nat) : (setPortState s n st).core = s.core := rfl
@[simp] theorem setPortState_scrum (s : State) (n st : Nat) : (setPortState s n st).scrum = s.scrum := rfl
@[simp] theorem setPortState_step (s : State) (n st : Nat) : (setPortState s n st).step = s.step := rfl
@[simp] theorem setPortState_pewter (s : State) (n st : Nat) : (setPortState s n st).pewter = s.pewter := rfl
@[simp] theorem setPortState_caddie (s : State) (n st : Nat) : (setPortState s n st).caddie = s.caddie := rfl
@[simp] theorem setPortState_ctx (s : State) (n st : Nat) : (setPortState s n st).ctx = s.ctx := rfl
@[simp] theorem setPortState_recov (s : State) (n st : Nat) : (setPortState s n st).recov = s.recov := rfl
@[simp] theorem setPortState_eth (s : State) (n st : Nat) : (setPortState s n st).eth = s.eth := rfl
@[simp] theorem setPortState_fw (s : State) (n st : Nat) : (setPortState s n st).fw = s.fw := rfl
@[simp] theorem setPortState_pwr (s : State) (n st : Nat) : (setPortState s n st).pwr = s.pwr := rfl
@[simp] theorem setPortState_out (s : State) (n st : Nat) : (setPortState s n st).out = s.out := rfl
@[simp] theorem setPortState_fresh (s : State) (n st : Nat) : (setPortState s n st).fresh = s.fresh := rfl
@[simp] theorem setPortState_now (s : State) (n st : Nat) : (setPortState s n st).now = s.now := rfl
@[simp] theorem setPortState_pending (s : State) (n st : Nat) : (setPortState s n st).pending = s.pending := rfl
@[simp] theorem setCache_time (s : State) (k : Nat) (ls : List CacheLine) : (setCache s k ls).time = s.time := rfl
@[simp] theorem setCache_tees (s : State) (k : Nat) (ls : List CacheLine) : (setCache s k ls).tees = s.tees := rfl
@[simp] theorem setCache_huddles (s : State) (k : Nat) (ls : List CacheLine) : (setCache s k ls).huddles = s.huddles := rfl
@[simp] theorem setCache_ledgers (s : State) (k : Nat) (ls : List CacheLine) : (setCache s k ls).ledgers = s.ledgers := rfl
@[simp] theorem setCache_xlat (s : State) (k : Nat) (ls : List CacheLine) : (setCache s k ls).xlat = s.xlat := rfl
@[simp] theorem setCache_q (s : State) (k : Nat) (ls : List CacheLine) : (setCache s k ls).q = s.q := rfl
@[simp] theorem setCache_net (s : State) (k : Nat) (ls : List CacheLine) : (setCache s k ls).net = s.net := rfl
@[simp] theorem setCache_core (s : State) (k : Nat) (ls : List CacheLine) : (setCache s k ls).core = s.core := rfl
@[simp] theorem setCache_scrum (s : State) (k : Nat) (ls : List CacheLine) : (setCache s k ls).scrum = s.scrum := rfl
@[simp] theorem setCache_step (s : State) (k : Nat) (ls : List CacheLine) : (setCache s k ls).step = s.step := rfl
@[simp] theorem setCache_pewter (s : State) (k : Nat) (ls : List CacheLine) : (setCache s k ls).pewter = s.pewter := rfl
@[simp] theorem setCache_caddie (s : State) (k : Nat) (ls : List CacheLine) : (setCache s k ls).caddie = s.caddie := rfl
@[simp] theorem setCache_ctx (s : State) (k : Nat) (ls : List CacheLine) : (setCache s k ls).ctx = s.ctx := rfl
@[simp] theorem setCache_recov (s : State) (k : Nat) (ls : List CacheLine) : (setCache s k ls).recov = s.recov := rfl
@[simp] theorem setCache_eth (s : State) (k : Nat) (ls : List CacheLine) : (setCache s k ls).eth = s.eth := rfl
@[simp] theorem setCache_dict (s : State) (k : Nat) (ls : List CacheLine) : (setCache s k ls).dict = s.dict := rfl
@[simp] theorem setCache_links (s : State) (k : Nat) (ls : List CacheLine) : (setCache s k ls).links = s.links := rfl
@[simp] theorem setCache_fw (s : State) (k : Nat) (ls : List CacheLine) : (setCache s k ls).fw = s.fw := rfl
@[simp] theorem setCache_pwr (s : State) (k : Nat) (ls : List CacheLine) : (setCache s k ls).pwr = s.pwr := rfl
@[simp] theorem setCache_out (s : State) (k : Nat) (ls : List CacheLine) : (setCache s k ls).out = s.out := rfl
@[simp] theorem setCache_fresh (s : State) (k : Nat) (ls : List CacheLine) : (setCache s k ls).fresh = s.fresh := rfl
@[simp] theorem setCache_now (s : State) (k : Nat) (ls : List CacheLine) : (setCache s k ls).now = s.now := rfl
@[simp] theorem setCache_pending (s : State) (k : Nat) (ls : List CacheLine) : (setCache s k ls).pending = s.pending := rfl
@[simp] theorem setRow_time (s : State) (key n : Nat) : (setRow s key n).time = s.time := rfl
@[simp] theorem setRow_tees (s : State) (key n : Nat) : (setRow s key n).tees = s.tees := rfl
@[simp] theorem setRow_huddles (s : State) (key n : Nat) : (setRow s key n).huddles = s.huddles := rfl
@[simp] theorem setRow_ledgers (s : State) (key n : Nat) : (setRow s key n).ledgers = s.ledgers := rfl
@[simp] theorem setRow_xlat (s : State) (key n : Nat) : (setRow s key n).xlat = s.xlat := rfl
@[simp] theorem setRow_q (s : State) (key n : Nat) : (setRow s key n).q = s.q := rfl
@[simp] theorem setRow_mem (s : State) (key n : Nat) : (setRow s key n).mem = s.mem := rfl
@[simp] theorem setRow_net (s : State) (key n : Nat) : (setRow s key n).net = s.net := rfl
@[simp] theorem setRow_core (s : State) (key n : Nat) : (setRow s key n).core = s.core := rfl
@[simp] theorem setRow_scrum (s : State) (key n : Nat) : (setRow s key n).scrum = s.scrum := rfl
@[simp] theorem setRow_pewter (s : State) (key n : Nat) : (setRow s key n).pewter = s.pewter := rfl
@[simp] theorem setRow_caddie (s : State) (key n : Nat) : (setRow s key n).caddie = s.caddie := rfl
@[simp] theorem setRow_ctx (s : State) (key n : Nat) : (setRow s key n).ctx = s.ctx := rfl
@[simp] theorem setRow_recov (s : State) (key n : Nat) : (setRow s key n).recov = s.recov := rfl
@[simp] theorem setRow_eth (s : State) (key n : Nat) : (setRow s key n).eth = s.eth := rfl
@[simp] theorem setRow_dict (s : State) (key n : Nat) : (setRow s key n).dict = s.dict := rfl
@[simp] theorem setRow_links (s : State) (key n : Nat) : (setRow s key n).links = s.links := rfl
@[simp] theorem setRow_fw (s : State) (key n : Nat) : (setRow s key n).fw = s.fw := rfl
@[simp] theorem setRow_pwr (s : State) (key n : Nat) : (setRow s key n).pwr = s.pwr := rfl
@[simp] theorem setRow_out (s : State) (key n : Nat) : (setRow s key n).out = s.out := rfl
@[simp] theorem setRow_fresh (s : State) (key n : Nat) : (setRow s key n).fresh = s.fresh := rfl
@[simp] theorem setRow_now (s : State) (key n : Nat) : (setRow s key n).now = s.now := rfl
@[simp] theorem setRow_pending (s : State) (key n : Nat) : (setRow s key n).pending = s.pending := rfl
@[simp] theorem setTileWork_time (s : State) (fk : Nat) (w : TileWork) : (setTileWork s fk w).time = s.time := rfl
@[simp] theorem setTileWork_tees (s : State) (fk : Nat) (w : TileWork) : (setTileWork s fk w).tees = s.tees := rfl
@[simp] theorem setTileWork_huddles (s : State) (fk : Nat) (w : TileWork) : (setTileWork s fk w).huddles = s.huddles := rfl
@[simp] theorem setTileWork_ledgers (s : State) (fk : Nat) (w : TileWork) : (setTileWork s fk w).ledgers = s.ledgers := rfl
@[simp] theorem setTileWork_xlat (s : State) (fk : Nat) (w : TileWork) : (setTileWork s fk w).xlat = s.xlat := rfl
@[simp] theorem setTileWork_q (s : State) (fk : Nat) (w : TileWork) : (setTileWork s fk w).q = s.q := rfl
@[simp] theorem setTileWork_mem (s : State) (fk : Nat) (w : TileWork) : (setTileWork s fk w).mem = s.mem := rfl
@[simp] theorem setTileWork_net (s : State) (fk : Nat) (w : TileWork) : (setTileWork s fk w).net = s.net := rfl
@[simp] theorem setTileWork_core (s : State) (fk : Nat) (w : TileWork) : (setTileWork s fk w).core = s.core := rfl
@[simp] theorem setTileWork_scrum (s : State) (fk : Nat) (w : TileWork) : (setTileWork s fk w).scrum = s.scrum := rfl
@[simp] theorem setTileWork_step (s : State) (fk : Nat) (w : TileWork) : (setTileWork s fk w).step = s.step := rfl
@[simp] theorem setTileWork_caddie (s : State) (fk : Nat) (w : TileWork) : (setTileWork s fk w).caddie = s.caddie := rfl
@[simp] theorem setTileWork_ctx (s : State) (fk : Nat) (w : TileWork) : (setTileWork s fk w).ctx = s.ctx := rfl
@[simp] theorem setTileWork_recov (s : State) (fk : Nat) (w : TileWork) : (setTileWork s fk w).recov = s.recov := rfl
@[simp] theorem setTileWork_eth (s : State) (fk : Nat) (w : TileWork) : (setTileWork s fk w).eth = s.eth := rfl
@[simp] theorem setTileWork_dict (s : State) (fk : Nat) (w : TileWork) : (setTileWork s fk w).dict = s.dict := rfl
@[simp] theorem setTileWork_links (s : State) (fk : Nat) (w : TileWork) : (setTileWork s fk w).links = s.links := rfl
@[simp] theorem setTileWork_fw (s : State) (fk : Nat) (w : TileWork) : (setTileWork s fk w).fw = s.fw := rfl
@[simp] theorem setTileWork_pwr (s : State) (fk : Nat) (w : TileWork) : (setTileWork s fk w).pwr = s.pwr := rfl
@[simp] theorem setTileWork_out (s : State) (fk : Nat) (w : TileWork) : (setTileWork s fk w).out = s.out := rfl
@[simp] theorem setTileWork_fresh (s : State) (fk : Nat) (w : TileWork) : (setTileWork s fk w).fresh = s.fresh := rfl
@[simp] theorem setTileWork_now (s : State) (fk : Nat) (w : TileWork) : (setTileWork s fk w).now = s.now := rfl
@[simp] theorem setTileWork_pending (s : State) (fk : Nat) (w : TileWork) : (setTileWork s fk w).pending = s.pending := rfl
@[simp] theorem modLinkTime_tees (s : State) (n : Nat) (f : LinkTime → LinkTime) : (modLinkTime s n f).tees = s.tees := rfl
@[simp] theorem modLinkTime_huddles (s : State) (n : Nat) (f : LinkTime → LinkTime) : (modLinkTime s n f).huddles = s.huddles := rfl
@[simp] theorem modLinkTime_ledgers (s : State) (n : Nat) (f : LinkTime → LinkTime) : (modLinkTime s n f).ledgers = s.ledgers := rfl
@[simp] theorem modLinkTime_xlat (s : State) (n : Nat) (f : LinkTime → LinkTime) : (modLinkTime s n f).xlat = s.xlat := rfl
@[simp] theorem modLinkTime_q (s : State) (n : Nat) (f : LinkTime → LinkTime) : (modLinkTime s n f).q = s.q := rfl
@[simp] theorem modLinkTime_mem (s : State) (n : Nat) (f : LinkTime → LinkTime) : (modLinkTime s n f).mem = s.mem := rfl
@[simp] theorem modLinkTime_net (s : State) (n : Nat) (f : LinkTime → LinkTime) : (modLinkTime s n f).net = s.net := rfl
@[simp] theorem modLinkTime_core (s : State) (n : Nat) (f : LinkTime → LinkTime) : (modLinkTime s n f).core = s.core := rfl
@[simp] theorem modLinkTime_scrum (s : State) (n : Nat) (f : LinkTime → LinkTime) : (modLinkTime s n f).scrum = s.scrum := rfl
@[simp] theorem modLinkTime_step (s : State) (n : Nat) (f : LinkTime → LinkTime) : (modLinkTime s n f).step = s.step := rfl
@[simp] theorem modLinkTime_pewter (s : State) (n : Nat) (f : LinkTime → LinkTime) : (modLinkTime s n f).pewter = s.pewter := rfl
@[simp] theorem modLinkTime_caddie (s : State) (n : Nat) (f : LinkTime → LinkTime) : (modLinkTime s n f).caddie = s.caddie := rfl
@[simp] theorem modLinkTime_ctx (s : State) (n : Nat) (f : LinkTime → LinkTime) : (modLinkTime s n f).ctx = s.ctx := rfl
@[simp] theorem modLinkTime_recov (s : State) (n : Nat) (f : LinkTime → LinkTime) : (modLinkTime s n f).recov = s.recov := rfl
@[simp] theorem modLinkTime_eth (s : State) (n : Nat) (f : LinkTime → LinkTime) : (modLinkTime s n f).eth = s.eth := rfl
@[simp] theorem modLinkTime_dict (s : State) (n : Nat) (f : LinkTime → LinkTime) : (modLinkTime s n f).dict = s.dict := rfl
@[simp] theorem modLinkTime_links (s : State) (n : Nat) (f : LinkTime → LinkTime) : (modLinkTime s n f).links = s.links := rfl
@[simp] theorem modLinkTime_fw (s : State) (n : Nat) (f : LinkTime → LinkTime) : (modLinkTime s n f).fw = s.fw := rfl
@[simp] theorem modLinkTime_pwr (s : State) (n : Nat) (f : LinkTime → LinkTime) : (modLinkTime s n f).pwr = s.pwr := rfl
@[simp] theorem modLinkTime_out (s : State) (n : Nat) (f : LinkTime → LinkTime) : (modLinkTime s n f).out = s.out := rfl
@[simp] theorem modLinkTime_fresh (s : State) (n : Nat) (f : LinkTime → LinkTime) : (modLinkTime s n f).fresh = s.fresh := rfl
@[simp] theorem modLinkTime_now (s : State) (n : Nat) (f : LinkTime → LinkTime) : (modLinkTime s n f).now = s.now := rfl
@[simp] theorem modLinkTime_pending (s : State) (n : Nat) (f : LinkTime → LinkTime) : (modLinkTime s n f).pending = s.pending := rfl
@[simp] theorem setFtState_tees (s : State) (st : FtState) : (setFtState s st).tees = s.tees := rfl
@[simp] theorem setFtState_huddles (s : State) (st : FtState) : (setFtState s st).huddles = s.huddles := rfl
@[simp] theorem setFtState_ledgers (s : State) (st : FtState) : (setFtState s st).ledgers = s.ledgers := rfl
@[simp] theorem setFtState_xlat (s : State) (st : FtState) : (setFtState s st).xlat = s.xlat := rfl
@[simp] theorem setFtState_q (s : State) (st : FtState) : (setFtState s st).q = s.q := rfl
@[simp] theorem setFtState_mem (s : State) (st : FtState) : (setFtState s st).mem = s.mem := rfl
@[simp] theorem setFtState_net (s : State) (st : FtState) : (setFtState s st).net = s.net := rfl
@[simp] theorem setFtState_core (s : State) (st : FtState) : (setFtState s st).core = s.core := rfl
@[simp] theorem setFtState_scrum (s : State) (st : FtState) : (setFtState s st).scrum = s.scrum := rfl
@[simp] theorem setFtState_step (s : State) (st : FtState) : (setFtState s st).step = s.step := rfl
@[simp] theorem setFtState_pewter (s : State) (st : FtState) : (setFtState s st).pewter = s.pewter := rfl
@[simp] theorem setFtState_caddie (s : State) (st : FtState) : (setFtState s st).caddie = s.caddie := rfl
@[simp] theorem setFtState_ctx (s : State) (st : FtState) : (setFtState s st).ctx = s.ctx := rfl
@[simp] theorem setFtState_recov (s : State) (st : FtState) : (setFtState s st).recov = s.recov := rfl
@[simp] theorem setFtState_eth (s : State) (st : FtState) : (setFtState s st).eth = s.eth := rfl
@[simp] theorem setFtState_links (s : State) (st : FtState) : (setFtState s st).links = s.links := rfl
@[simp] theorem setFtState_fw (s : State) (st : FtState) : (setFtState s st).fw = s.fw := rfl
@[simp] theorem setFtState_pwr (s : State) (st : FtState) : (setFtState s st).pwr = s.pwr := rfl
@[simp] theorem setFtState_out (s : State) (st : FtState) : (setFtState s st).out = s.out := rfl
@[simp] theorem setFtState_fresh (s : State) (st : FtState) : (setFtState s st).fresh = s.fresh := rfl
@[simp] theorem setFtState_now (s : State) (st : FtState) : (setFtState s st).now = s.now := rfl
@[simp] theorem setFtState_pending (s : State) (st : FtState) : (setFtState s st).pending = s.pending := rfl
@[simp] theorem State.withQueue_time (s : State) (q : List Instr) : (State.withQueue s q).time = s.time := rfl
@[simp] theorem State.withQueue_tees (s : State) (q : List Instr) : (State.withQueue s q).tees = s.tees := rfl
@[simp] theorem State.withQueue_huddles (s : State) (q : List Instr) : (State.withQueue s q).huddles = s.huddles := rfl
@[simp] theorem State.withQueue_ledgers (s : State) (q : List Instr) : (State.withQueue s q).ledgers = s.ledgers := rfl
@[simp] theorem State.withQueue_xlat (s : State) (q : List Instr) : (State.withQueue s q).xlat = s.xlat := rfl
@[simp] theorem State.withQueue_q (s : State) (q : List Instr) : (State.withQueue s q).q = s.q := rfl
@[simp] theorem State.withQueue_mem (s : State) (q : List Instr) : (State.withQueue s q).mem = s.mem := rfl
@[simp] theorem State.withQueue_net (s : State) (q : List Instr) : (State.withQueue s q).net = s.net := rfl
@[simp] theorem State.withQueue_core (s : State) (q : List Instr) : (State.withQueue s q).core = s.core := rfl
@[simp] theorem State.withQueue_scrum (s : State) (q : List Instr) : (State.withQueue s q).scrum = s.scrum := rfl
@[simp] theorem State.withQueue_step (s : State) (q : List Instr) : (State.withQueue s q).step = s.step := rfl
@[simp] theorem State.withQueue_pewter (s : State) (q : List Instr) : (State.withQueue s q).pewter = s.pewter := rfl
@[simp] theorem State.withQueue_caddie (s : State) (q : List Instr) : (State.withQueue s q).caddie = s.caddie := rfl
@[simp] theorem State.withQueue_ctx (s : State) (q : List Instr) : (State.withQueue s q).ctx = s.ctx := rfl
@[simp] theorem State.withQueue_recov (s : State) (q : List Instr) : (State.withQueue s q).recov = s.recov := rfl
@[simp] theorem State.withQueue_eth (s : State) (q : List Instr) : (State.withQueue s q).eth = s.eth := rfl
@[simp] theorem State.withQueue_dict (s : State) (q : List Instr) : (State.withQueue s q).dict = s.dict := rfl
@[simp] theorem State.withQueue_links (s : State) (q : List Instr) : (State.withQueue s q).links = s.links := rfl
@[simp] theorem State.withQueue_fw (s : State) (q : List Instr) : (State.withQueue s q).fw = s.fw := rfl
@[simp] theorem State.withQueue_pwr (s : State) (q : List Instr) : (State.withQueue s q).pwr = s.pwr := rfl
@[simp] theorem State.withQueue_out (s : State) (q : List Instr) : (State.withQueue s q).out = s.out := rfl
@[simp] theorem State.withQueue_fresh (s : State) (q : List Instr) : (State.withQueue s q).fresh = s.fresh := rfl
@[simp] theorem State.withQueue_now (s : State) (q : List Instr) : (State.withQueue s q).now = s.now := rfl

end Sys2Proof.Machine
end

