-- ==== Sys2Proof/Laws/Tables.lean ====
section
/-! SUPPORT. Laws of the finite maps and of the values held per quarter: reading after writing. -/

namespace Sys2Proof.Machine

variable {α : Type}

theorem tget_tset (t : Tbl α) (i j : Nat) (v : α) :
    tget (tset t i v) j = if i = j then some v else tget t j := by
  induction t with
  | nil => simp [tset, tget]
  | cons p t ih =>
    obtain ⟨k, w⟩ := p
    simp only [tset]
    split
    · simp only [tget]
    · split
      · subst_vars; simp only [tget]; split <;> simp_all
      · simp only [tget]
        split
        · subst_vars; rw [if_neg (by omega)]
        · exact ih

@[simp] theorem tget_tset_self (t : Tbl α) (i : Nat) (v : α) : tget (tset t i v) i = some v := by
  simp [tget_tset]

theorem tget_tset_ne {i j : Nat} (h : i ≠ j) (t : Tbl α) (v : α) : tget (tset t i v) j = tget t j := by
  simp [tget_tset, h]

theorem tget_tdel (t : Tbl α) (i j : Nat) : tget (tdel t i) j = if i = j then none else tget t j := by
  induction t with
  | nil => simp [tdel, tget]
  | cons p t ih =>
    obtain ⟨k, w⟩ := p
    simp only [tdel]
    split
    · subst_vars; rw [ih]; simp only [tget]; split <;> simp_all
    · simp only [tget]; split
      · subst_vars; rw [if_neg (by omega)]
      · exact ih

@[simp] theorem tget_tdel_self (t : Tbl α) (i : Nat) : tget (tdel t i) i = none := by
  simp [tget_tdel]

theorem tget_tmod (t : Tbl α) (i j : Nat) (f : α → α) :
    tget (tmod t i f) j = if i = j then (tget t j).map f else tget t j := by
  induction t with
  | nil => simp [tmod, tget]
  | cons p t ih =>
    obtain ⟨k, v⟩ := p
    simp only [tmod]
    split
    · subst_vars; simp only [tget]; split <;> simp_all
    · simp only [tget]; split
      · subst_vars; rw [if_neg (by omega)]
      · exact ih

theorem Quad.get_set (v : Quad α) (q q' : Nat) (a : α) :
    (v.set q a).get q' = if q % 4 = q' % 4 then a else v.get q' := by
  unfold Quad.set Quad.get
  have := Nat.mod_lt q (show 4 > 0 by omega)
  have := Nat.mod_lt q' (show 4 > 0 by omega)
  generalize q % 4 = a at *; generalize q' % 4 = b at *
  interval_cases a <;> interval_cases b <;> simp

theorem Quad.get_mod_self (v : Quad α) (q : Nat) (f : α → α) : (v.mod q f).get q = f (v.get q) := by
  simp [Quad.mod, Quad.get_set]

theorem Quad.get_congr (v : Quad α) {q q' : Nat} (h : q % 4 = q' % 4) : v.get q = v.get q' := by
  unfold Quad.get; rw [h]

/-- An entry reads as what was last set. -/
@[simp] theorem reg_setReg_self (s : State) (i j v : Nat) : reg (setReg s i j v) i j = v := by
  unfold reg setReg
  simp only
  split
  · rename_i h; simp [h]
  · simp

/-- Setting an entry leaves every other entry as it was. -/
theorem reg_setReg_ne {i j a b : Nat} (h : i * 256 + j ≠ a * 256 + b) (s : State) (v : Nat) :
    reg (setReg s i j v) a b = reg s a b := by
  unfold reg setReg
  simp only
  split
  · simp [tget_tdel, h]
  · simp [tget_tset, h]

/-! ## Choices among free numbers -/

theorem leastBelow_isSome (p : Nat → Bool) (fuel i : Nat) :
    (leastBelow p fuel i).isSome = true ↔ ∃ k, i ≤ k ∧ k < i + fuel ∧ p k = true := by
  induction fuel generalizing i with
  | zero => simp only [leastBelow]; constructor
            · intro h; cases h
            · rintro ⟨k, h1, h2, _⟩; omega
  | succ n ih =>
    simp only [leastBelow]
    split
    · exact ⟨fun _ => ⟨i, by omega, by omega, by assumption⟩, fun _ => rfl⟩
    · rename_i h
      rw [ih]
      constructor
      · rintro ⟨k, h1, h2, h3⟩; exact ⟨k, by omega, by omega, h3⟩
      · rintro ⟨k, h1, h2, h3⟩
        have : k ≠ i := by rintro rfl; exact h h3
        exact ⟨k, by omega, by omega, h3⟩

theorem leastBelow_accepts {p : Nat → Bool} {fuel i k : Nat} (h : leastBelow p fuel i = some k) : p k = true := by
  induction fuel generalizing i with
  | zero => cases h
  | succ n ih =>
    simp only [leastBelow] at h
    split at h
    · cases h; assumption
    · exact ih h

/-- Where some number below the limit is accepted, the choice is one that is. -/
theorem pickBelow_accepts {p : Nat → Bool} {limit k : Nat} (n : Nat) (hk : k < limit) (hp : p k = true) :
    p ((pickBelow p limit n).getD 0) = true ∧ (pickBelow p limit n).getD 0 < limit := by
  unfold pickBelow
  simp only
  generalize (Config.freeWord n).toNat = a
  have hs : (leastBelow (fun i => p ((a + i) % limit)) limit 0).isSome = true := by
    refine (leastBelow_isSome _ _ _).2 ⟨(k + (limit - a % limit)) % limit, Nat.zero_le _, ?_, ?_⟩
    · have := Nat.mod_lt (k + (limit - a % limit)) (show 0 < limit by omega); omega
    · have e : (a + (k + (limit - a % limit)) % limit) % limit = k := by
        have hm := Nat.mod_lt a (show 0 < limit by omega)
        rw [Nat.add_mod_mod, ← Nat.mod_add_mod a limit,
          show a % limit + (k + (limit - a % limit)) = k + limit by omega, Nat.add_mod_right, Nat.mod_eq_of_lt hk]
      simp only [e, hp]
  obtain ⟨m, hm⟩ := Option.isSome_iff_exists.1 hs
  rw [hm]
  have hq := leastBelow_accepts hm
  exact ⟨hq, Nat.mod_lt _ (by omega)⟩

end Sys2Proof.Machine
end

