-- ==== Sys2Proof/Laws/Faults.lean ====
section
/-! SUPPORT. What raising a fault record and writing to a whistle ring do, said once. -/

namespace Sys2Proof.Machine

/-! ## A record that enters a ring -/

theorem reg_bump_ne {i j a b : Nat} (h : i * 256 + j ≠ a * 256 + b) (s : State) : reg (bump s i j) a b = reg s a b :=
  reg_setReg_ne h s _

/-- An entry advanced within its width shows one more. -/
theorem reg_bump_self {s : State} {i j : Nat} (h : reg s i j + 1 < 2 ^ entryBits i j) :
    reg (bump s i j) i j = reg s i j + 1 := by
  unfold bump bumpBy
  simp only [reg_setReg_self]
  rw [if_pos h]

theorem reg_of_dict {s t : State} (h : s.dict = t.dict) (i j : Nat) : reg s i j = reg t i j := by
  unfold reg; rw [h]

/-- What a record that enters a ring can be: the lost count of the rings advances, or rings alone change. -/
theorem ringPut_cases (s : State) (w : Whistle) (ring : Nat) :
    ∃ t : State, (∃ r, t = { s with q := { s.q with rings := r } }) ∧
      (ringPut s w ring = t ∨ ringPut s w ring = bump t 0x6000 0x08) := by
  unfold ringPut
  split
  · exact ⟨s, ⟨s.q.rings, rfl⟩, .inr rfl⟩
  · split
    · exact ⟨_, ⟨_, rfl⟩, .inr rfl⟩
    · split
      · exact ⟨_, ⟨_, rfl⟩, .inr rfl⟩
      · exact ⟨_, ⟨_, rfl⟩, .inl rfl⟩

@[simp] theorem ringPut_mem (s : State) (w : Whistle) (ring : Nat) : (ringPut s w ring).mem = s.mem := by
  obtain ⟨t, ⟨r, rfl⟩, h | h⟩ := ringPut_cases s w ring <;> rw [h]
  exact bump_mem _ _ _

@[simp] theorem ringPut_recov (s : State) (w : Whistle) (ring : Nat) : (ringPut s w ring).recov = s.recov := by
  obtain ⟨t, ⟨r, rfl⟩, h | h⟩ := ringPut_cases s w ring <;> rw [h]
  exact bump_recov _ _ _

@[simp] theorem ringPut_pending (s : State) (w : Whistle) (ring : Nat) : (ringPut s w ring).pending = s.pending := by
  obtain ⟨t, ⟨r, rfl⟩, h | h⟩ := ringPut_cases s w ring <;> rw [h]
  exact bump_pending _ _ _

/-- Every entry but the count of lost records stays. -/
theorem reg_ringPut {i j : Nat} (h : 0x6000 * 256 + 0x08 ≠ i * 256 + j) (s : State) (w : Whistle) (ring : Nat) :
    reg (ringPut s w ring) i j = reg s i j := by
  obtain ⟨t, ⟨r, rfl⟩, e | e⟩ := ringPut_cases s w ring <;> rw [e]
  · exact reg_of_dict (by simp only) i j
  · rw [reg_bump_ne h]; exact reg_of_dict (by simp only) i j

/-! ## A record raised -/

/-- A record raised is the record noted, or that with a record in the context's ring 0. -/
theorem raise_cases (s : State) (f : FaultInfo) :
    raise s f = noteFault s f ∨ ∃ w, raise s f = ringPut (noteFault s f) w 0 := by
  unfold raise
  simp only
  split
  · exact .inl rfl
  · split
    · exact .inr ⟨_, rfl⟩
    · exact .inl rfl

theorem reg_raise {i j : Nat} (h : 0x6000 * 256 + 0x08 ≠ i * 256 + j) (s : State) (f : FaultInfo) :
    reg (raise s f) i j = reg (noteFault s f) i j := by
  obtain e | ⟨w, e⟩ := raise_cases s f <;> rw [e]
  exact reg_ringPut h _ _ _

/-- A record that the queue has room for joins it. -/
theorem noteFault_held {s : State} {f : FaultInfo} (h : s.recov.faults.length < (if f.critical then 4096 else 4032)) :
    noteFault s f = (let t := setReg (draw s) 0x8000 0x06 ((reg s 0x8000 0x06 + 1) % 2 ^ 32)
      setReg { t with recov := { t.recov with faults := t.recov.faults ++ [faultRecord s f] } } 0x8000 0x02
        (s.recov.faults.length + 1)) := by
  unfold noteFault; simp only; rw [if_pos h]

/-- One it has no room for is counted as lost. -/
theorem noteFault_lost {s : State} {f : FaultInfo} (h : (if f.critical then 4096 else 4032) ≤ s.recov.faults.length) :
    noteFault s f = (let t := bump (setReg (draw s) 0x8000 0x06 ((reg s 0x8000 0x06 + 1) % 2 ^ 32)) 0x8010 f.cls
      setReg t 0x8000 0x03 (reg t 0x8000 0x03 ||| (if f.critical then 2 else 1))) := by
  unfold noteFault; simp only; rw [if_neg (by omega)]

@[simp] theorem noteFault_mem (s : State) (f : FaultInfo) : (noteFault s f).mem = s.mem := by
  by_cases h : s.recov.faults.length < (if f.critical then 4096 else 4032)
  · rw [noteFault_held h]; simp only [setReg_mem, draw_mem]
  · rw [noteFault_lost (by omega)]; simp only [setReg_mem, bump_mem, draw_mem]

@[simp] theorem noteFault_pending (s : State) (f : FaultInfo) : (noteFault s f).pending = s.pending := by
  by_cases h : s.recov.faults.length < (if f.critical then 4096 else 4032)
  · rw [noteFault_held h]; simp only [setReg_pending, draw_pending]
  · rw [noteFault_lost (by omega)]; simp only [setReg_pending, bump_pending, draw_pending]

@[simp] theorem raise_mem (s : State) (f : FaultInfo) : (raise s f).mem = s.mem := by
  obtain e | ⟨w, e⟩ := raise_cases s f <;> rw [e]
  · exact noteFault_mem s f
  · rw [ringPut_mem]; exact noteFault_mem s f

@[simp] theorem raise_pending (s : State) (f : FaultInfo) : (raise s f).pending = s.pending := by
  obtain e | ⟨w, e⟩ := raise_cases s f <;> rw [e]
  · exact noteFault_pending s f
  · rw [ringPut_pending]; exact noteFault_pending s f

theorem raise_recov (s : State) (f : FaultInfo) : (raise s f).recov = (noteFault s f).recov := by
  obtain e | ⟨w, e⟩ := raise_cases s f <;> rw [e]
  exact ringPut_recov _ _ _

end Sys2Proof.Machine
end

