-- ==== Sys2Proof/Laws/Memory.lean ====
section
/-! SUPPORT. Laws of the bytes of the tiers: reading after writing, what a write leaves as it was, and that
every memory operation keeps the canonical form. -/

namespace Sys2Proof.Machine

/-! ## One byte -/

/-- Below the bound of canonical cells nothing is listed. -/
theorem readCell_below {m : List Host.Cell} {lo a : Nat} (h : cellsWf lo m = true) (ha : a < lo) :
    readCell m a = 0 := by
  induction m generalizing lo with
  | nil => rfl
  | cons c m ih =>
    obtain ⟨k, b⟩ := c
    simp only [cellsWf, Bool.and_eq_true, decide_eq_true_eq] at h
    simp only [readCell]
    rw [if_neg (by omega)]
    exact ih h.2 (by omega)

theorem cellsWf_mono {m : List Host.Cell} {lo lo' : Nat} (h : cellsWf lo m = true) (hl : lo' ≤ lo) :
    cellsWf lo' m = true := by
  cases m with
  | nil => rfl
  | cons c m =>
    obtain ⟨k, b⟩ := c
    simp only [cellsWf, Bool.and_eq_true, decide_eq_true_eq] at h ⊢
    exact ⟨⟨by omega, h.1.2⟩, h.2⟩

/-- A byte reads as what was last written to it, and every other byte as before. -/
theorem readCell_writeCell {m : List Host.Cell} {lo : Nat} (h : cellsWf lo m = true) (a : Nat) (b : Byte) (x : Nat) :
    readCell (writeCell m a b) x = if a = x then b else readCell m x := by
  induction m generalizing lo with
  | nil =>
    simp only [writeCell]
    split
    · simp_all [readCell]
    · simp [readCell]
  | cons c m ih =>
    obtain ⟨k, d⟩ := c
    simp only [cellsWf, Bool.and_eq_true, decide_eq_true_eq] at h
    simp only [writeCell]
    split
    · rename_i hk
      split
      · rename_i hb
        by_cases hx : a = x
        · subst hx; simp only [readCell, if_true]
          rw [if_neg (by omega), readCell_below h.2 (by omega), hb]
        · simp [hx]
      · simp only [readCell]
    · split
      · rename_i _ hk
        subst hk
        split
        · rename_i hb
          by_cases hx : a = x
          · subst hx; simp only [if_true]; rw [readCell_below h.2 (by omega), hb]
          · simp [hx, readCell]
        · by_cases hx : a = x <;> simp [hx, readCell]
      · rename_i h1 h2
        simp only [readCell]
        by_cases hx : k = x
        · subst hx; rw [if_pos rfl, if_pos rfl, if_neg (by omega)]
        · rw [if_neg hx, if_neg hx, ih h.2]

/-- Writing a byte keeps the canonical form. -/
theorem cellsWf_writeCell {m : List Host.Cell} {lo : Nat} (h : cellsWf lo m = true) {a : Nat} (ha : lo ≤ a)
    (b : Byte) : cellsWf lo (writeCell m a b) = true := by
  induction m generalizing lo with
  | nil =>
    simp only [writeCell]
    split
    · rfl
    · rename_i hb
      simp only [cellsWf, Bool.and_eq_true, decide_eq_true_eq]; exact ⟨⟨ha, hb⟩, trivial⟩
  | cons c m ih =>
    obtain ⟨k, d⟩ := c
    simp only [cellsWf, Bool.and_eq_true, decide_eq_true_eq] at h
    simp only [writeCell]
    split
    · split
      · simp only [cellsWf, Bool.and_eq_true, decide_eq_true_eq]; exact h
      · rename_i hk hb
        simp only [cellsWf, Bool.and_eq_true, decide_eq_true_eq]
        exact ⟨⟨ha, hb⟩, ⟨by omega, h.1.2⟩, h.2⟩
    · split
      · split
        · exact cellsWf_mono h.2 (by omega)
        · rename_i hb
          simp only [cellsWf, Bool.and_eq_true, decide_eq_true_eq]
          refine ⟨⟨ha, hb⟩, cellsWf_mono h.2 (by omega)⟩
      · simp only [cellsWf, Bool.and_eq_true, decide_eq_true_eq]
        exact ⟨h.1, ih h.2 (by omega)⟩

/-! ## Runs -/

/-- Writing a run keeps the canonical form. -/
theorem cellsWf_writeRun {m : List Host.Cell} (h : cellsWf 0 m = true) (a : Nat) (bs : Bytes) :
    cellsWf 0 (writeRun m a bs) = true := by
  induction bs generalizing m a with
  | nil => exact h
  | cons b bs ih => exact ih (cellsWf_writeCell h (Nat.zero_le _) b) _

/-- A byte after a run is written: that of the run, or as before outside it. -/
theorem readCell_writeRun {m : List Host.Cell} (h : cellsWf 0 m = true) (a : Nat) (bs : Bytes) (x : Nat) :
    readCell (writeRun m a bs) x = if a ≤ x ∧ x < a + bs.length then bs.getD (x - a) 0 else readCell m x := by
  induction bs generalizing m a with
  | nil => simp only [writeRun, List.length_nil]; rw [if_neg (by omega)]
  | cons b bs ih =>
    simp only [writeRun, List.length_cons]
    rw [ih (cellsWf_writeCell h (Nat.zero_le _) b), readCell_writeCell h]
    by_cases h1 : a = x
    · subst h1
      rw [if_neg (by omega), if_pos rfl, if_pos (by omega)]; simp
    · rw [if_neg h1]
      by_cases h2 : a + 1 ≤ x ∧ x < a + 1 + bs.length
      · rw [if_pos h2, if_pos (by omega)]
        obtain ⟨n, rfl⟩ : ∃ n, x = a + 1 + n := ⟨x - (a + 1), by omega⟩
        rw [show a + 1 + n - (a + 1) = n by omega, show a + 1 + n - a = n + 1 by omega]; simp
      · rw [if_neg h2, if_neg (by omega)]

theorem readRun_congr {m m' : List Host.Cell} {a n : Nat} (h : ∀ x, a ≤ x → x < a + n → readCell m x = readCell m' x) :
    readRun m a n = readRun m' a n := by
  induction n generalizing a with
  | zero => rfl
  | succ n ih =>
    simp only [readRun]
    rw [h a (by omega) (by omega), ih fun x h1 h2 => h x (by omega) (by omega)]

/-- A run reads as what was last written to it. -/
theorem readRun_writeRun {m : List Host.Cell} (h : cellsWf 0 m = true) (a : Nat) (bs : Bytes) :
    readRun (writeRun m a bs) a bs.length = bs := by
  induction bs generalizing m a with
  | nil => rfl
  | cons b bs ih =>
    simp only [List.length_cons, readRun]
    rw [readCell_writeRun h]
    simp only [List.length_cons]
    rw [if_pos (by omega)]
    simp only [writeRun, Nat.sub_self, List.getD_cons_zero]
    rw [ih (cellsWf_writeCell h (Nat.zero_le _) b)]

theorem cellsWf_filter {m : List Host.Cell} {lo : Nat} (h : cellsWf lo m = true) (p : Host.Cell → Bool) :
    cellsWf lo (m.filter p) = true := by
  induction m generalizing lo with
  | nil => rfl
  | cons c m ih =>
    obtain ⟨k, b⟩ := c
    simp only [cellsWf, Bool.and_eq_true, decide_eq_true_eq] at h
    simp only [List.filter]
    split
    · simp only [cellsWf, Bool.and_eq_true, decide_eq_true_eq]; exact ⟨h.1, ih h.2⟩
    · exact cellsWf_mono (ih h.2) (by omega)

/-- Zeroing a run keeps the canonical form. -/
theorem cellsWf_zeroRun {m : List Host.Cell} (h : cellsWf 0 m = true) (a n : Nat) : cellsWf 0 (zeroRun m a n) = true :=
  cellsWf_filter h _

/-- A byte after a run is zeroed. -/
theorem readCell_zeroRun (m : List Host.Cell) (a n x : Nat) :
    readCell (zeroRun m a n) x = if a ≤ x ∧ x < a + n then 0 else readCell m x := by
  unfold zeroRun
  induction m with
  | nil => simp [readCell]
  | cons c m ih =>
    obtain ⟨k, b⟩ := c
    simp only [List.filter]
    split
    · rename_i hk
      simp only [readCell]
      by_cases hx : k = x
      · subst hx
        rw [if_pos rfl, if_pos rfl, if_neg]
        intro hc; simp [hc] at hk
      · rw [if_neg hx, if_neg hx, ih]
    · rename_i hk
      rw [ih]
      by_cases hx : k = x
      · subst hx
        rw [if_pos, if_pos]
        · simpa using hk
        · simpa using hk
      · simp only [readCell, if_neg hx]

/-! ## The operations keep the canonical form -/

theorem setCells_wf {s : State} {m : List Host.Cell} (h : cellsWf 0 m = true) : Memory.wf (setCells s m) = true := h

theorem wf_of_mem {s t : State} (h : Memory.wf s = true) (e : t.mem.bytes = s.mem.bytes) : Memory.wf t = true := by
  unfold Memory.wf at *; rw [e]; exact h

theorem setReg_wf {s : State} (h : Memory.wf s = true) (i j v : Nat) : Memory.wf (setReg s i j v) = true := h

theorem bump_wf {s : State} (h : Memory.wf s = true) (i j : Nat) : Memory.wf (bump s i j) = true := h

theorem modRing_wf {s : State} (h : Memory.wf s = true) (k : Nat) (f : Ring → Ring) : Memory.wf (modRing s k f) = true := h

theorem ite_mem {c : Prop} [Decidable c] {a b s : State} (ha : a.mem = s.mem) (hb : b.mem = s.mem) :
    (if c then a else b).mem = s.mem := by
  split
  · exact ha
  · exact hb

theorem charge_mem (s : State) (k u q w : Nat) : (charge s k u q w).mem = s.mem := by
  unfold charge
  simp only [drawn]
  refine ite_mem ?_ ?_
  · rw [raise_mem]; simp only [draw]
  · simp only [draw]

theorem uncorrectable_mem (s : State) (g : Nat) (c : Option Nat) : (uncorrectable s g c).mem = s.mem := by
  unfold uncorrectable
  simp only
  rw [charge_mem, raise_mem]; simp

theorem meetSoft_bytes (s : State) (g c : Nat) : (meetSoft s g c).mem.bytes = s.mem.bytes := by
  unfold meetSoft corrected
  simp only
  split
  · rw [charge_mem, raise_mem]; simp
  · rfl

theorem ite_wf {s : State} (h : Memory.wf s = true) (b : Bool) (g c : Nat) :
    Memory.wf (if b = true then s else meetSoft s g c) = true := by
  split
  · exact h
  · exact wf_of_mem h (meetSoft_bytes _ _ _)

theorem fillRegion_wf {s : State} (h : Memory.wf s = true) (r : Nat) (k : Nat × Nat) :
    Memory.wf (fillRegion s r k) = true := cellsWf_zeroRun h _ _

theorem keyGranule_wf {s : State} (h : Memory.wf s = true) (g : Nat) (k : Nat × Nat) :
    Memory.wf (keyGranule s g k) = true := h

theorem clearRegion_wf {s : State} (h : Memory.wf s = true) (r : Nat) : Memory.wf (clearRegion s r) = true := h

theorem readPiece_wf {s : State} (h : Memory.wf s = true) (k : Nat × Nat) (pa n : Nat) :
    Memory.wf (readPiece s k pa n).st = true := by
  unfold readPiece
  simp only
  split
  · exact h
  · split
    · exact h
    · have hs := ite_wf h (lineHeld s pa n) (pa / granuleSize pa * granuleSize pa) k.1
      generalize (if lineHeld s pa n = true then s else
        meetSoft s (pa / granuleSize pa * granuleSize pa) k.1) = t at hs ⊢
      split
      · exact wf_of_mem hs (by rw [uncorrectable_mem])
      · split
        · exact hs
        · split <;> exact hs

theorem writePiece_wf {s : State} (h : Memory.wf s = true) (k : Nat × Nat) (pa : Nat) (d : Bytes) :
    Memory.wf (writePiece s k pa d).st = true := by
  have put {t : State} (ht : Memory.wf t = true) (a : Nat) (x : Bytes) :
      Memory.wf (setCells t (writeRun t.mem.bytes a x)) = true := cellsWf_writeRun ht a x
  unfold writePiece
  simp only
  split
  · exact put h _ _
  · split
    · exact put h _ _
    · have hf : Memory.wf (if (keyAt s (pa / granuleSize pa * granuleSize pa)).isNone = true then
          fillRegion s (pa / granuleSize pa * granuleSize pa / 65536) k else s) = true := by
        split
        · exact fillRegion_wf h _ _
        · exact h
      generalize (if (keyAt s (pa / granuleSize pa * granuleSize pa)).isNone = true then
          fillRegion s (pa / granuleSize pa * granuleSize pa / 65536) k else s) = t at *
      have hs := ite_wf hf (lineHeld t pa d.length) (pa / granuleSize pa * granuleSize pa) k.1
      generalize (if lineHeld t pa d.length = true then t else
        meetSoft t (pa / granuleSize pa * granuleSize pa) k.1) = u at hs ⊢
      split
      · exact cellsWf_writeRun hf _ _
      · split
        · exact wf_of_mem hs (by rw [uncorrectable_mem])
        · split
          · exact put hs _ _
          · split
            · refine put (keyGranule_wf ?_ _ _) _ _
              exact put hs _ _
            · exact hs

theorem readPieces_wf (fuel : Nat) {s : State} (h : Memory.wf s = true) (k : Nat × Nat) (pa n : Nat) :
    Memory.wf (readPieces fuel s k pa n).st = true := by
  induction fuel generalizing s pa n with
  | zero => exact h
  | succ f ih =>
    unfold readPieces
    simp only
    split
    · exact h
    · split <;> exact ih (readPiece_wf h _ _ _) _ _

theorem writePieces_wf (fuel : Nat) {s : State} (h : Memory.wf s = true) (k : Nat × Nat) (pa : Nat) (d : Bytes) :
    Memory.wf (writePieces fuel s k pa d).st = true := by
  induction fuel generalizing s pa d with
  | zero => exact h
  | succ f ih =>
    unfold writePieces
    simp only
    split
    · exact h
    · exact ih (writePiece_wf h _ _ _) _ _

/-- A read of physical bytes keeps the canonical form. -/
theorem readPhys_wf {s : State} (h : Memory.wf s = true) (ctx pa n : Nat) : Memory.wf (readPhys s ctx pa n).st = true :=
  readPieces_wf _ h _ _ _

/-- A write of physical bytes keeps the canonical form. -/
theorem writePhys_wf {s : State} (h : Memory.wf s = true) (ctx pa : Nat) (d : Bytes) :
    Memory.wf (writePhys s ctx pa d).st = true := writePieces_wf _ h _ _ _

/-! ## The scratchpad: no key, no poison -/

theorem writeRun_append (m : List Host.Cell) (a : Nat) (x y : Bytes) :
    writeRun m a (x ++ y) = writeRun (writeRun m a x) (a + x.length) y := by
  induction x generalizing m a with
  | nil => rfl
  | cons b x ih =>
    simp only [List.cons_append, writeRun, List.length_cons]
    rw [ih, show a + 1 + x.length = a + (x.length + 1) by omega]

theorem readRun_append (m : List Host.Cell) (a n k : Nat) : readRun m a (n + k) = readRun m a n ++ readRun m (a + n) k := by
  induction n generalizing a with
  | zero => simp [readRun]
  | succ n ih =>
    rw [show n + 1 + k = (n + k) + 1 by omega]
    simp only [readRun, List.cons_append]
    rw [ih, show a + 1 + n = a + (n + 1) by omega]

theorem paTier_mid {pa n m : Nat} (h1 : paTier pa = 3) (h2 : paTier (pa + n) = 3) (h : m ≤ n) :
    paTier (pa + m) = 3 := by
  unfold paTier at *; omega

theorem granuleSize_pad {pa : Nat} (h : paTier pa = 3) : granuleSize pa = 64 := by
  unfold granuleSize; rw [if_neg (by omega)]

/-- A write of a run of the scratchpad stores exactly it. -/
theorem writePieces_pad (fuel : Nat) {s : State} (k : Nat × Nat) (pa : Nat) (b : Bytes) (h1 : paTier pa = 3)
    (h2 : paTier (pa + b.length) = 3) (hf : b.length = 0 ∨ b.length + pa % 64 ≤ 64 * fuel) :
    writePieces fuel s k pa b = ⟨setCells s (writeRun s.mem.bytes pa b), Code.ok, []⟩ := by
  induction fuel generalizing s pa b with
  | zero =>
    have : b = [] := List.eq_nil_of_length_eq_zero (by omega)
    subst this; rfl
  | succ f ih =>
    unfold writePieces
    split
    · rename_i hb; simp only [List.isEmpty_iff] at hb; subst hb; rfl
    · have hn : firstPiece pa b.length = min b.length (64 - pa % 64) := by
        unfold firstPiece; rw [granuleSize_pad h1]
      have hw : writePiece s k pa (b.take (firstPiece pa b.length)) =
          ⟨setCells s (writeRun s.mem.bytes pa (b.take (firstPiece pa b.length))), Code.ok, []⟩ := by
        unfold writePiece; simp only; rw [if_pos h1]
      simp only
      rw [hw, if_pos rfl, ih]
      · have e := writeRun_append s.mem.bytes pa (b.take (firstPiece pa b.length)) (b.drop (firstPiece pa b.length))
        rw [List.take_append_drop, List.length_take, Nat.min_eq_left (by omega)] at e
        rw [e]; rfl
      · exact paTier_mid h1 h2 (by omega)
      · rw [List.length_drop,
          show pa + firstPiece pa b.length + (b.length - firstPiece pa b.length) = pa + b.length by omega]
        exact h2
      · rw [List.length_drop]
        rcases Nat.le_total b.length (64 - pa % 64) with hl | hl
        · rw [Nat.min_eq_left hl] at hn; left; omega
        · rw [Nat.min_eq_right hl] at hn; right; omega

/-- A read of a run of the scratchpad gives its bytes and changes nothing. -/
theorem readPieces_pad (fuel : Nat) {s : State} (k : Nat × Nat) (pa n : Nat) (h1 : paTier pa = 3)
    (h2 : paTier (pa + n) = 3) (hf : n = 0 ∨ n + pa % 64 ≤ 64 * fuel) :
    readPieces fuel s k pa n = ⟨s, Code.ok, readRun s.mem.bytes pa n⟩ := by
  induction fuel generalizing pa n with
  | zero =>
    have : n = 0 := by omega
    subst this; rfl
  | succ f ih =>
    unfold readPieces
    split
    · rename_i hb; subst hb; rfl
    · have hn : firstPiece pa n = min n (64 - pa % 64) := by
        unfold firstPiece; rw [granuleSize_pad h1]
      have hw : readPiece s k pa (firstPiece pa n) = ⟨s, Code.ok, readRun s.mem.bytes pa (firstPiece pa n)⟩ := by
        unfold readPiece; simp only; rw [if_pos h1]
      simp only
      rw [hw, if_pos rfl, ih]
      · have e := readRun_append s.mem.bytes pa (firstPiece pa n) (n - firstPiece pa n)
        rw [show firstPiece pa n + (n - firstPiece pa n) = n by omega] at e
        rw [e]
      · exact paTier_mid h1 h2 (by omega)
      · rw [show pa + firstPiece pa n + (n - firstPiece pa n) = pa + n by omega]
        exact h2
      · rcases Nat.le_total n (64 - pa % 64) with hl | hl
        · rw [Nat.min_eq_left hl] at hn; left; omega
        · rw [Nat.min_eq_right hl] at hn; right; omega

end Sys2Proof.Machine
end

