-- ==== Sys2Proof/Laws/Packets.lean ====
section
/-! SUPPORT. Packets and their check, and what the arrival checks make of a packet that passes it. -/

namespace Sys2Proof.Machine

/-- A sealed packet passes the end-to-end check. -/
theorem crcOk_sealed (p : Packet) : p.sealed.crcOk = true := by
  unfold Packet.sealed
  split
  · rename_i h
    unfold Packet.crcOk Packet.crc
    simp
  · rename_i h
    unfold Packet.crcOk
    simp [h]

/-- A control packet carries no check. -/
theorem crcOk_control {p : Packet} (h : p.isData = false) : p.crcOk = true := by
  unfold Packet.crcOk; simp [h]

/-- A packet that passes the end-to-end check, and whose reply has room, takes the other checks of
Table 9a. -/
theorem arrival_crcOk {p : Packet} {s : State} (h : p.crcOk = true)
    (room : ingressFull s (64 + 4 * pktHome p) (replySize p) = false) (i : Option Nat) :
    arrival s i p = checksAfterCrc s p := by
  unfold arrival; simp [h, room]

end Sys2Proof.Machine
end

