-- ==== Sys2Proof/Laws/Reset.lean ====
section
/-! SUPPORT. What the parts of a reset and of a start-up do to the numeric entries. -/

namespace Sys2Proof.Machine

theorem reg_fold {α : Type} {i j : Nat} (f : State → α → State) (l : List α) (s : State)
    (h : ∀ s x, x ∈ l → reg (f s x) i j = reg s i j) : reg (l.foldl f s) i j = reg s i j := by
  induction l generalizing s with
  | nil => rfl
  | cons x l ih =>
    simp only [List.foldl_cons]
    rw [ih _ fun s y hy => h s y (List.mem_cons_of_mem _ hy), h s x (List.mem_cons_self ..)]

theorem reg_noteDeferral (s : State) (t i j : Nat) : reg (noteDeferral s t) i j = reg s i j := by
  unfold noteDeferral
  split
  · rfl
  · split <;> rfl

/-- The default directions, port by port. -/
theorem reg_defaultPorts_dir (s : State) (n : Nat) (h : n < 64) :
    reg (defaultPorts s) 0x3C00 (n + 1) = defaultDir (role s) (s.pwr.straps.taper % 4) n ∧
    reg (defaultPorts s) (0x3000 + n) 0x02 = (if role s = 3 then 16 else 0) := by
  have key : ∀ (l : List Nat) (s : State), l.Nodup → (∀ x ∈ l, x < 64) →
      let t := l.foldl (fun s n =>
        let s := setReg s 0x3C00 (n + 1) (defaultDir (role s) (s.pwr.straps.taper % 4) n)
        setReg s (0x3000 + n) 0x02 (if role s = 3 then 16 else 0)) s
      ∀ n, n < 64 →
      reg t 0x3C00 (n + 1) = (if n ∈ l then defaultDir (role s) (s.pwr.straps.taper % 4) n else reg s 0x3C00 (n + 1)) ∧
      reg t (0x3000 + n) 0x02 = (if n ∈ l then (if role s = 3 then 16 else 0) else reg s (0x3000 + n) 0x02) := by
    intro l
    induction l with
    | nil => intro s _ _; simp
    | cons x l ih =>
      intro s hn hl
      have hx := hl x (List.mem_cons_self ..)
      rw [List.nodup_cons] at hn
      simp only [List.foldl_cons]
      intro n hn64
      have := ih (setReg (setReg s 0x3C00 (x + 1) (defaultDir (role s) (s.pwr.straps.taper % 4) x)) (0x3000 + x) 0x02
        (if role (setReg s 0x3C00 (x + 1) (defaultDir (role s) (s.pwr.straps.taper % 4) x)) = 3 then 16 else 0)) hn.2
        (fun y hy => hl y (List.mem_cons_of_mem _ hy)) n hn64
      have r1 : role (setReg s 0x3C00 (x + 1) (defaultDir (role s) (s.pwr.straps.taper % 4) x)) = role s :=
        reg_setReg_ne (by omega) _ _
      have r2 : ∀ v w, role (setReg (setReg s 0x3C00 (x + 1) v) (0x3000 + x) 0x02 w) = role s := by
        intro v w; unfold role; rw [reg_setReg_ne (by omega), reg_setReg_ne (by omega)]
      simp only [r2, setReg_pwr] at this
      simp only [List.mem_cons]
      refine ⟨this.1.trans ?_, this.2.trans ?_⟩
      · by_cases h1 : n = x
        · subst h1
          rw [if_neg hn.1, if_pos (Or.inl rfl), reg_setReg_ne (by omega), reg_setReg_self]
        · rw [reg_setReg_ne (by omega), reg_setReg_ne (by omega)]
          simp only [h1, false_or]
      · by_cases h1 : n = x
        · subst h1
          rw [if_neg hn.1, if_pos (Or.inl rfl), reg_setReg_self, r1]
        · rw [reg_setReg_ne (by omega), reg_setReg_ne (by omega)]
          simp only [h1, false_or]
  have := key (List.range 64) s (List.nodup_range) (fun x hx => List.mem_range.mp hx) n h
  rw [if_pos (List.mem_range.mpr h), if_pos (List.mem_range.mpr h)] at this
  exact this

theorem reg_loadBank {i j : Nat} (h : i ≠ 0xA000) (hj : j < 256) (s : State) : reg (loadBank s) i j = reg s i j := by
  unfold loadBank
  simp only
  split
  · rw [reg_setReg_ne (by omega)]; exact reg_of_dict rfl i j
  · split
    · rw [reg_setReg_ne (by omega), reg_setReg_ne (by omega)]; exact reg_of_dict rfl i j
    · rw [reg_setReg_ne (by omega)]; exact reg_of_dict rfl i j

theorem reg_bootFirmware {i j : Nat} (h : i ≠ 0xA000) (hj : j < 256) (s : State) : reg (bootFirmware s) i j = reg s i j := by
  unfold bootFirmware
  rw [reg_loadBank h hj, reg_setReg_ne (by omega)]; exact reg_of_dict rfl i j

theorem reg_beginStart {i j : Nat} (hj : j < 256) (h1 : i = 0x3C00 ∨ i = 0x1000 ∨ (0x3000 ≤ i ∧ i < 0x3040 ∧ j = 2)) (s : State) :
    reg (beginStart s) i j = reg s i j := by
  unfold beginStart startPorts
  simp only
  rw [reg_setReg_ne (by omega), reg_fold, reg_fold, reg_setReg_ne (by omega)]
  · exact reg_of_dict rfl i j
  · intro s x hx
    have := List.mem_range.mp hx
    rw [reg_setReg_ne (by omega)]
  · intro s x hx
    have := List.mem_range.mp hx
    rw [reg_setReg_ne (by omega)]

theorem reg_releaseReset {i j : Nat} (hj : j < 256) (h1 : i = 0x3C00 ∨ i = 0x1000 ∨ (0x3000 ≤ i ∧ i < 0x3040 ∧ j = 2))
    {s : State} {x : Straps} {hot : Bool} (h : heldReset s = false) :
    reg (releaseReset s x hot) i j = reg (sampleStraps s x) i j := by
  unfold releaseReset
  rw [if_neg (by simp [h])]
  simp only
  split
  · rw [reg_setReg_ne (by omega)]
    exact (reg_of_dict (by simp only) i j).trans (reg_bootFirmware (by omega) hj _)
  · split
    · rw [reg_setReg_ne (by omega)]; exact reg_bootFirmware (by omega) hj _
    · rw [reg_beginStart hj h1]; exact reg_bootFirmware (by omega) hj _

theorem role_defaultPorts (s : State) : role (defaultPorts s) = role s := by
  unfold defaultPorts role
  apply reg_fold
  intro s x hx
  have := List.mem_range.mp hx
  simp only
  rw [reg_setReg_ne (by omega), reg_setReg_ne (by omega)]

theorem tget_tfilter {α : Type} (t : Tbl α) (p : Nat → Bool) (i : Nat) :
    tget (tfilter t fun k _ => p k) i = if p i then tget t i else none := by
  unfold tfilter
  induction t with
  | nil => simp [tget]
  | cons e t ih =>
    obtain ⟨k, v⟩ := e
    simp only [List.filter]
    by_cases hp : p k = true
    · simp only [hp, tget]
      by_cases hk : k = i
      · subst hk; simp [hp]
      · simp only [hk, if_false]; exact ih
    · simp only [hp, tget]
      rw [ih]
      by_cases hk : k = i
      · subst hk; simp [hp]
      · simp [hk]

/-- An entry that the reset keeps reads as before. -/
theorem reg_resetBase {s : State} {warm : Bool} {inc idx sub : Nat} (hs : sub < 256)
    (hk : (keptAlways idx sub || (warm && keptWarm idx sub)) = true) :
    reg (resetBase s warm inc) idx sub = reg s idx sub := by
  unfold reg resetBase resetDict
  simp only
  rw [tget_tfilter]
  have e1 : (idx * 256 + sub) / 256 = idx := by omega
  have e2 : (idx * 256 + sub) % 256 = sub := by omega
  rw [e1, e2, if_pos hk]

/-- An entry with no pending value stays. -/
theorem reg_takePending_ne {i j : Nat} (l : Tbl Nat) (s : State) (h : ∀ p ∈ l, p.1 ≠ i * 256 + j) :
    reg (takePending s l) i j = reg s i j := by
  unfold takePending
  apply reg_fold
  intro s x hx
  have := h x hx
  exact reg_setReg_ne (by omega) _ _

/-- An entry with a pending value takes it. -/
theorem reg_takePending_eq {i j v : Nat} (hj : j < 256) (l : Tbl Nat) (s : State) (hm : (i * 256 + j, v) ∈ l)
    (h : ∀ p ∈ l, p.1 = i * 256 + j → p.2 = v) : reg (takePending s l) i j = v := by
  induction l generalizing s with
  | nil => simp at hm
  | cons x l ih =>
    by_cases hx : (i * 256 + j, v) ∈ l
    · exact ih _ hx fun p hp => h p (List.mem_cons_of_mem _ hp)
    · have he : (i * 256 + j, v) = x := by
        rcases List.mem_cons.mp hm with e | e
        · exact e
        · exact absurd e hx
      subst he
      unfold takePending
      simp only [List.foldl_cons]
      refine (reg_takePending_ne l _ ?_).trans ?_
      · intro p hp hc
        have := h p (List.mem_cons_of_mem _ hp) hc
        apply hx
        obtain ⟨a, b⟩ := p
        simp only at hc this
        subst hc this; exact hp
      · rw [show (i * 256 + j) / 256 = i by omega, show (i * 256 + j) % 256 = j by omega, reg_setReg_self]

/-- Taking pending values changes the dictionary's entries alone. -/
theorem takePending_od (l : Tbl Nat) (s : State) :
    ∃ od, takePending s l = { s with dict := { s.dict with od := od } } := by
  induction l generalizing s with
  | nil => exact ⟨s.dict.od, rfl⟩
  | cons x l ih =>
    obtain ⟨od, h⟩ := ih (setReg s (x.1 / 256) (x.1 % 256) x.2)
    exact ⟨od, h⟩

theorem noteReset_od (t : State) (inc code upd : Nat) (count : Bool) :
    ∃ od, noteReset t inc code upd count = { t with dict := { t.dict with od := od } } := by
  unfold noteReset
  cases count <;> exact ⟨_, rfl⟩

/-- What recording a reset leaves in the entries. -/
theorem reg_noteReset {i j : Nat} (hj : j < 256) (h : i ≠ 0xA000) (t : State) (inc code upd : Nat) (count : Bool) :
    reg (noteReset t inc code upd count) i j =
      if i = 0x9000 ∧ j = 0x13 then (if count then (reg t 0x9000 0x13 + 1) % 2 ^ 32 else reg t 0x9000 0x13)
      else if i = 0x9000 ∧ j = 0x12 then code
      else if i = 0x8100 ∧ j = 0x09 then inc
      else reg t i j := by
  unfold noteReset
  simp only
  rw [reg_setReg_ne (by omega)]
  by_cases h1 : i = 0x9000 ∧ j = 0x13
  · rw [if_pos h1]
    obtain ⟨rfl, rfl⟩ := h1
    cases count
    · simp only [Bool.false_eq_true, if_false]
      rw [reg_setReg_ne (by omega), reg_setReg_ne (by omega)]
    · simp only [if_true]
      rw [reg_setReg_self, reg_setReg_ne (by omega), reg_setReg_ne (by omega)]
  · rw [if_neg h1]
    have e : ∀ v, reg (if count = true then setReg (setReg (setReg t 0x8100 0x09 inc) 0x9000 0x12 code) 0x9000 0x13 v
        else setReg (setReg t 0x8100 0x09 inc) 0x9000 0x12 code) i j =
        reg (setReg (setReg t 0x8100 0x09 inc) 0x9000 0x12 code) i j := by
      intro v
      cases count
      · rfl
      · simp only [if_true]; exact reg_setReg_ne (by omega) _ _
    rw [e]
    by_cases h2 : i = 0x9000 ∧ j = 0x12
    · rw [if_pos h2]
      obtain ⟨rfl, rfl⟩ := h2
      exact reg_setReg_self _ _ _ _
    · rw [if_neg h2, reg_setReg_ne (by omega)]
      by_cases h3 : i = 0x8100 ∧ j = 0x09
      · rw [if_pos h3]
        obtain ⟨rfl, rfl⟩ := h3
        exact reg_setReg_self _ _ _ _
      · rw [if_neg h3]
        exact reg_setReg_ne (by omega) _ _

theorem reg_layOut {i j : Nat} (hj : j < 256) (h : ¬(i = 0x5000 ∧ j = 0x01)) (t : State) : reg (layOut t) i j = reg t i j := by
  unfold layOut
  rw [reg_setReg_ne (by omega)]
  exact reg_of_dict (by simp only) i j

/-- A reset that no other meets on its cycle. -/
theorem resetPart_alone {s : State} (h : s.pwr.resetAt ≠ some s.now) (warm : Bool) (code : Nat) :
    resetPart s warm code =
      (let inc := if warm then (s.recov.incarnation + 1) % 2 ^ 32 else 0
       let t := noteReset (takePending (resetBase s warm inc) (if warm then s.dict.atReset else [])) inc code
         (if s.fw.trial then 4 else 0) warm
       noteDeferral (layOut t) t.now) := by
  have e : (s.pwr.resetAt == some s.now) = false := by simpa using h
  unfold resetPart
  simp only [e, Bool.not_false, Bool.true_or, Bool.and_true, Bool.false_eq_true, if_false, b2n, if_true]

theorem noteDeferral_fw (s : State) (t : Nat) :
    ∃ c, noteDeferral s t = { s with fw := { s.fw with clearSince := c } } := by
  unfold noteDeferral
  split
  · exact ⟨_, rfl⟩
  · split
    · exact ⟨s.fw.clearSince, rfl⟩
    · exact ⟨_, rfl⟩

/-- A kept entry after a warm reset: what it is once pending values have taken effect. -/
theorem reg_resetPart_warm {s : State} (h : s.pwr.resetAt ≠ some s.now) (code : Nat) {i j : Nat} (hj : j < 256)
    (hk : keptWarm i j = true) (hn : ¬(i = 0x9000 ∧ (j = 0x12 ∨ j = 0x13))) :
    reg (resetPart s true code) i j =
      reg (takePending (resetBase s true ((s.recov.incarnation + 1) % 2 ^ 32)) s.dict.atReset) i j := by
  have hh : i ≠ 0xA000 ∧ ¬(i = 0x5000 ∧ j = 0x01) ∧ ¬(i = 0x8100 ∧ j = 0x09) := by
    unfold keptWarm at hk; simp at hk; omega
  rw [resetPart_alone h]
  simp only [if_true]
  rw [reg_noteDeferral, reg_layOut hj hh.2.1, reg_noteReset hj hh.1, if_neg (by omega), if_neg (by omega),
    if_neg hh.2.2]

end Sys2Proof.Machine
end

