-- ==== Sys2Proof/Laws/Tees.lean ====
section
/-! SUPPORT. What the action of a tee leaves alone: the slots of every quarter. -/

namespace Sys2Proof.Machine

@[simp] theorem tees_bump (s : State) (i j : Nat) : (bump s i j).tees = s.tees := rfl
@[simp] theorem tees_modRing (s : State) (k : Nat) (f : Ring → Ring) : (modRing s k f).tees = s.tees := rfl

@[simp] theorem tees_ringPut (s : State) (w : Whistle) (r : Nat) : (ringPut s w r).tees = s.tees := by
  unfold ringPut; (repeat' split) <;> rfl

@[simp] theorem tees_flushHeld (s : State) (a b c : Nat) : (flushHeld s a b c).tees = s.tees := by
  unfold flushHeld; split
  · rfl
  · rw [tees_ringPut]; rfl

theorem tees_flushRings (c q : Nat) (l : List (Nat × Ring)) (s : State) :
    (l.foldl (fun s p => if p.2.ctx = c then flushHeld s c p.2.no q else s) s).tees = s.tees := by
  induction l generalizing s with
  | nil => rfl
  | cons a l ih =>
    simp only [List.foldl_cons, ih]
    split
    · exact tees_flushHeld _ _ _ _
    · rfl

@[simp] theorem tees_flushQueue (s : State) (c q : Nat) : (flushQueue s c q).tees = s.tees :=
  tees_flushRings c q _ s

@[simp] theorem tees_whistleNow (s : State) (w : Whistle) (r : Nat) : (whistleNow s w r).tees = s.tees := by
  unfold whistleNow; rw [tees_ringPut]; split
  · exact tees_flushQueue _ _ _
  · rfl

@[simp] theorem tees_trigger (s : State) (k : Nat) (b : Bool) : (trigger s k b).tees = s.tees := by
  unfold trigger startPlayNow playWhistle
  split
  · rfl
  · (repeat' split) <;> first | rfl | (rw [tees_whistleNow]; rfl)

@[simp] theorem tees_takeShadow (s : State) (x : Nat × Shadow) : (takeShadow s x).tees = s.tees := by
  unfold takeShadow; simp only; split
  · rfl
  · split <;> rfl

@[simp] theorem tees_takeShadows (l : List (Nat × Shadow)) (s : State) :
    (l.foldl takeShadow s).tees = s.tees := by
  induction l generalizing s with
  | nil => rfl
  | cons a l ih => simp only [List.foldl_cons, ih, tees_takeShadow]

@[simp] theorem tees_applyShadows (s : State) (a b : Nat) : (applyShadows s a b).1.tees = s.tees := by
  unfold applyShadows; simp only [bumpBy]; exact tees_takeShadows _ _

@[simp] theorem tees_teeAction (s : State) (q slot : Nat) (t : TeeSlot) :
    (teeAction s q slot t).tees = s.tees := by
  unfold teeAction teeCaddie
  simp only
  split <;> (repeat' split) <;> (try simp only [tees_trigger, tees_applyShadows, tees_whistleNow]) <;>
    (try rfl)
  all_goals exact tees_whistleNow _ _ _

end Sys2Proof.Machine
end

