-- ==== Sys2Proof/Laws/Tiles.lean ====
section
/-! SUPPORT. What a tile command does once its tile has been read, said once. -/

namespace Sys2Proof.Machine

/-- A tile command past its first two checks, whose directory entry is VALID, goes on with it. -/
theorem withTile_reads {s u : State} {fk : Nat} {f : Flight} {a : Arena} {e : DirEntry}
    (h1 : tileBehind s fk f.desc = false) (h2 : tileMisaligned (opcodeOf f.desc) f.desc = false)
    (h3 : arenaFor s f.ctx (opnd f.desc 160 8) (opnd f.desc 168 24) = some a)
    (h4 : opcodeOf f.desc = 0x84 → (arenaFor s f.ctx (opnd f.desc 224 8) (opnd f.desc 232 24)).isNone = false)
    (h5 : readDir s (arenaKey f.ctx (opnd f.desc 160 8)) a (opnd f.desc 168 24) = (u, .ok e)) (h6 : e.valid = true)
    (k : State → Nat → Arena → DirEntry → Out) :
    withTile s fk f k = k u (arenaKey f.ctx (opnd f.desc 160 8)) a e := by
  have h7 : ¬(opcodeOf f.desc = 0x84 ∧ (arenaFor s f.ctx (opnd f.desc 224 8) (opnd f.desc 232 24)).isNone = true) := by
    rintro ⟨x, y⟩; rw [h4 x] at y; simp at y
  simp only [withTile, h1, h2, h3, h5, h6]
  rw [if_neg (by simp), if_neg (by simp), if_neg h7]
  rfl

/-- A tile command whose directory entry is not VALID fails with the tile number. -/
theorem withTile_invalid {s u : State} {fk : Nat} {f : Flight} {a : Arena} {e : DirEntry}
    (h1 : tileBehind s fk f.desc = false) (h2 : tileMisaligned (opcodeOf f.desc) f.desc = false)
    (h3 : arenaFor s f.ctx (opnd f.desc 160 8) (opnd f.desc 168 24) = some a)
    (h4 : opcodeOf f.desc = 0x84 → (arenaFor s f.ctx (opnd f.desc 224 8) (opnd f.desc 232 24)).isNone = false)
    (h5 : readDir s (arenaKey f.ctx (opnd f.desc 160 8)) a (opnd f.desc 168 24) = (u, .ok e)) (h6 : e.valid = false)
    (k : State → Nat → Arena → DirEntry → Out) :
    withTile s fk f k = doneWith u fk Code.translationFault (BitVec.ofNat 64 (opnd f.desc 168 24)) := by
  have h7 : ¬(opcodeOf f.desc = 0x84 ∧ (arenaFor s f.ctx (opnd f.desc 224 8) (opnd f.desc 232 24)).isNone = true) := by
    rintro ⟨x, y⟩; rw [h4 x] at y; simp at y
  simp only [withTile, h1, h2, h3, h5, h6]
  rw [if_neg (by simp), if_neg (by simp), if_neg h7]
  rfl

end Sys2Proof.Machine
end

