-- ==== Sys2Proof/Laws/Translation.lean ====
section
/-! SUPPORT. What the translation units keep: the TLB through misses and walks, and an entry's place in it
(R60 to R63). -/

namespace Sys2Proof.Machine

/-- Whether a TLB holds a page of a context. -/
def tlbHolds (ts : List TlbEntry) (ctx va size : Nat) : Bool :=
  ts.any fun t => t.ctx == ctx && t.va == va && t.size == size

/-- Starting walks leaves the TLB alone. -/
@[simp] theorem startWalks_tlb (limit : Nat) (fuel : Nat) (u : TransUnit) : (startWalks limit fuel u).tlb = u.tlb := by
  induction fuel generalizing u with
  | zero => rfl
  | succ n ih =>
    unfold startWalks
    split
    · rfl
    · split
      · rfl
      · rw [ih]

/-- Finding a slot for a stream leaves the TLB alone. -/
theorem slotFor_tlb {s : State} {u u' : TransUnit} {stream ctx : Nat} (h : slotFor s u stream ctx = some u') :
    u'.tlb = u.tlb := by
  unfold slotFor at h
  simp only at h
  split at h
  · simp at h; rw [← h]
  · split at h
    · simp at h; rw [← h]
    · rw [Option.map_eq_some_iff] at h
      obtain ⟨y, -, h⟩ := h
      rw [← h]

/-- Queueing a miss leaves the TLB alone. -/
@[simp] theorem queueMiss_tlb (s : State) (u : TransUnit) (m : XlatMiss) : (queueMiss s u m).tlb = u.tlb := by
  unfold queueMiss
  simp only
  split
  · rfl
  · rename_i h
    split
    · rfl
    · have e := slotFor_tlb h
      exact e

/-- A lookup drops no page from the TLB. -/
theorem lookupPage_holds (s : State) (u : TransUnit) (m : XlatMiss) (c v z : Nat) :
    tlbHolds (lookupPage s u m).tlb c v z = tlbHolds u.tlb c v z := by
  unfold lookupPage
  split
  · unfold tlbHolds
    simp only [List.any_map]
    congr 1
    funext t
    simp only [Function.comp]
    split <;> rfl
  · rw [queueMiss_tlb]

/-- Neither do the misses that are offered again. -/
theorem retryMisses_holds (s : State) (u : TransUnit) (c v z : Nat) :
    tlbHolds (retryMisses s u).tlb c v z = tlbHolds u.tlb c v z := by
  unfold retryMisses
  have : ∀ (l : List XlatMiss) (u : TransUnit),
      tlbHolds (l.foldl (lookupPage s) u).tlb c v z = tlbHolds u.tlb c v z := by
    intro l
    induction l with
    | nil => intro u; rfl
    | cons m l ih => intro u; rw [List.foldl_cons, ih, lookupPage_holds]
  rw [this]

/-- The least recently used entry of some is one of them. -/
theorem oldestTlb_mem {ts : List TlbEntry} {v : TlbEntry} (h : oldestTlb ts = some v) : v ∈ ts := by
  unfold oldestTlb at h
  have : ∀ (l : List TlbEntry) (b : Option TlbEntry) (x : TlbEntry),
      l.foldl (fun b t => match b with
        | none => some t
        | some y => if t.used < y.used then some t else some y) b = some x → b = some x ∨ x ∈ l := by
    intro l
    induction l with
    | nil => intro b x h; exact .inl h
    | cons a l ih =>
      intro b x h
      rw [List.foldl_cons] at h
      rcases ih _ _ h with h | h
      · cases b with
        | none => simp at h; subst h; exact .inr (by simp)
        | some y =>
          simp only at h
          split at h
          · simp at h; subst h; exact .inr (by simp)
          · exact .inl h
      · exact .inr (by simp [h])
  simpa using this ts none v h

/-- A context's trimming leaves alone the entries of another context, and those of one within the limit. -/
theorem trimCtx_keeps (limit c ctx fuel : Nat) (ts : List TlbEntry)
    (h : (ts.filter fun t => t.ctx == ctx).length ≤ limit) :
    (trimCtx limit c fuel ts).filter (fun t => t.ctx == ctx) = ts.filter fun t => t.ctx == ctx := by
  induction fuel generalizing ts with
  | zero => rfl
  | succ n ih =>
    unfold trimCtx
    simp only
    split
    · rfl
    · rename_i hn
      split
      · rfl
      · rename_i v hv
        have hm := oldestTlb_mem hv
        simp only [List.mem_filter, beq_iff_eq] at hm
        have hc : c ≠ ctx := by rintro rfl; exact hn (.inl h)
        have he : (ts.filter fun t => !(t.ctx == v.ctx && t.va == v.va && t.size == v.size)).filter
            (fun t => t.ctx == ctx) = ts.filter fun t => t.ctx == ctx := by
          rw [List.filter_filter]
          apply List.filter_congr
          intro t _
          by_cases hx : t.ctx = ctx
          · simp [hx, hm.2, Ne.symm hc]
          · simp [hx]
        rw [ih _ (by rw [he]; exact h), he]

/-- The trimming of a whole TLB leaves alone the entries of a context within the limit. -/
theorem trimTlb_keeps (limit ctx : Nat) (ts : List TlbEntry) (h : (ts.filter fun t => t.ctx == ctx).length ≤ limit) :
    (trimTlb limit ts).filter (fun t => t.ctx == ctx) = ts.filter fun t => t.ctx == ctx := by
  unfold trimTlb
  have : ∀ (l : List Nat) (ts : List TlbEntry), (ts.filter fun t => t.ctx == ctx).length ≤ limit →
      (l.foldl (fun ts c => trimCtx limit c ts.length ts) ts).filter (fun t => t.ctx == ctx) =
        ts.filter fun t => t.ctx == ctx := by
    intro l
    induction l with
    | nil => intro ts _; rfl
    | cons c l ih =>
      intro ts h
      rw [List.foldl_cons, ih _ (by rw [trimCtx_keeps _ _ _ _ _ h]; exact h), trimCtx_keeps _ _ _ _ _ h]
  exact this _ _ h

/-- Whether a TLB holds a page is decided by the context's own entries. -/
theorem tlbHolds_filter (ts : List TlbEntry) (c v z : Nat) :
    tlbHolds ts c v z = tlbHolds (ts.filter fun t => t.ctx == c) c v z := by
  unfold tlbHolds
  rw [List.any_filter]
  congr 1
  funext t
  cases t.ctx == c <;> simp

/-- A page entered is held, where its context is below the limit and the TLB is not full (R60). -/
theorem enterTlb_holds (limit : Nat) (ts : List TlbEntry) (n : TlbEntry)
    (h1 : (ts.filter fun t => t.ctx == n.ctx).length < limit) (h2 : ts.length < 8192) :
    tlbHolds (enterTlb limit ts n) n.ctx n.va n.size = true := by
  unfold enterTlb
  simp only
  rw [if_neg (by omega), if_neg (by omega), tlbHolds_filter, trimTlb_keeps, ← tlbHolds_filter]
  · simp [tlbHolds]
  · rw [List.filter_append, List.length_append]; simp; omega

end Sys2Proof.Machine
end

