-- ==== Sys2Proof/WellFormed.lean ====
section
/-! DEFINITION. Well-formed commands: every operand within the width the manual gives it, and a packet's
opcode that of its command. The meanings are total and do not rest on these checks. -/

namespace Sys2Proof

/-- Opcode of a packet (R145). -/
def Packet.opcode (p : Packet) : Nat := bits p.hdr 0 8

/-- Whether an opcode is listed (R150, R156). -/
def Packet.listed (p : Packet) : Bool :=
  (decide (1 ≤ p.opcode) && decide (p.opcode ≤ 0x0B)) || (decide (0x10 ≤ p.opcode) && decide (p.opcode ≤ 0x23)) ||
    (decide (0x40 ≤ p.opcode) && decide (p.opcode ≤ 0x49)) || p.opcode == 0xE0 || p.opcode == 0xE1

/-- A packet carries at most 8 KiB of payload (R154). -/
def Packet.wf (p : Packet) : Bool := decide (p.payload.length ≤ 8192)

/-- A descriptor's name is within its widths (R76, R83). -/
def DescRef.wf (d : DescRef) : Bool := decide (d.ctx < 4096) && decide (d.queue < 1024) && decide (d.seq < 2 ^ 32)

/-- A request number is 32 bits wide (R441). -/
def Via.wf (v : Via) : Bool :=
  match v with
  | .firmware => true
  | .session id seq => decide (id < 2 ^ 32) && decide (seq < 2 ^ 32)

/-- A RoCEv2 packet's fields are within their widths (R415). -/
def RocePkt.wf (k : RocePkt) : Bool :=
  decide (k.port < 8) && decide (k.qpn < 2 ^ 24) && decide (k.psn < 2 ^ 24) && decide (k.data.length ≤ 8192)

/-- Straps are within their widths (R480). -/
def Straps.wf (x : Straps) : Bool := decide (x.id < 4096) && decide (x.role < 4) && decide (x.taper < 4)

/-- The clock of a quarter is one of four (R497). -/
def RefClock.wf (c : RefClock) : Bool :=
  match c with
  | .serdes q => decide (q < 4)
  | .core => true
  | .eth => true
  | .mgmt => true

/-- Whether a command's operands are within their ranges. -/
def Instr.wf (i : Instr) : Bool :=
  match i with
  | .ftTickFireTee _ => true
  | .beaconSend port => decide (port < 64)
  | .timeBeacon port pkt => decide (port < 64) && pkt.wf && pkt.opcode == 0x0A
  | .ftLockReached => true
  | .ftOffsetLimitExceeded => true
  | .parentLost => true
  | .holdoverHuddleLimit => true
  | .announceSend => true
  | .timeAnnounce port pkt => decide (port < 64) && pkt.wf && pkt.opcode == 0x0B
  | .taiStepMaster => true
  | .externalLockGained => true
  | .ppsEdge => true
  | .ftStepCommand via _ => via.wf
  | .armTee d => d.wf
  | .disarmTee d => d.wf
  | .teeArmDict via quarter _ => via.wf && decide (quarter < 4)
  | .teeDisarmDict via quarter _ => via.wf && decide (quarter < 4)
  | .huddleArm d => d.wf
  | .huddleArrive d => d.wf
  | .huddleArrivePacket pkt => pkt.wf && pkt.opcode == 0x06
  | .huddleRelease pkt => pkt.wf && pkt.opcode == 0x07
  | .huddleRootTimeout ctx no => decide (ctx < 4096) && decide (no < 2 ^ 32)
  | .huddleReleaseTimeout ctx no => decide (ctx < 4096) && decide (no < 2 ^ 32)
  | .map d => d.wf
  | .unmap d => d.wf
  | .unmapDrainEnd d => d.wf
  | .unmapWaitLimit d => d.wf
  | .walkComplete quarter => decide (quarter < 4)
  | .openWindow d => d.wf
  | .closeWindow d => d.wf
  | .reservationExpire quarter _ => decide (quarter < 4)
  | .descriptorDispatch quarter ctx queue => decide (quarter < 4) && decide (ctx < 4096) && decide (queue < 1024)
  | .descriptorComplete d => d.wf
  | .nop d => d.wf
  | .waitFlag d => d.wf
  | .waitFlagTimeout d => d.wf
  | .startPlay d => d.wf
  | .loadPlay d => d.wf
  | .armPlay d => d.wf
  | .disarmPlay d => d.wf
  | .playAppend ctx play => decide (ctx < 4096) && decide (play < 65536)
  | .whistle d => d.wf
  | .openQueue d => d.wf
  | .closeQueue d => d.wf
  | .resumeQueue d => d.wf
  | .openRing d => d.wf
  | .closeRing d => d.wf
  | .coalesceTimeout ctx ring queue => decide (ctx < 4096) && decide (ring < 65536) && decide (queue < 1024)
  | .ringHeadReread ctx ring => decide (ctx < 4096) && decide (ring < 65536)
  | .copy d => d.wf
  | .fill d => d.wf
  | .cacheLineExpire quarter _ ctx _ => decide (quarter < 4) && decide (ctx < 4096)
  | .flagHoldTimeout quarter src srcQueue seq => decide (quarter < 4) && decide (src < 4096) && decide (srcQueue < 65536) && decide (seq < 2 ^ 24)
  | .readReq pkt => pkt.wf && pkt.opcode == 0x01
  | .probe pkt => pkt.wf && pkt.opcode == 0x02
  | .write inPort pkt => decide (inPort < 80) && pkt.wf && pkt.opcode == 0x40
  | .flaggedWrite inPort pkt => decide (inPort < 80) && pkt.wf && pkt.opcode == 0x41
  | .queuePush inPort pkt => decide (inPort < 80) && pkt.wf && pkt.opcode == 0x43
  | .reduceContrib inPort pkt => decide (inPort < 80) && pkt.wf && pkt.opcode == 0x44
  | .atomic pkt => pkt.wf && decide (0x10 ≤ pkt.opcode) && decide (pkt.opcode ≤ 0x23)
  | .cas64 inPort pkt => decide (inPort < 80) && pkt.wf && pkt.opcode == 0x45
  | .cas128 inPort pkt => decide (inPort < 80) && pkt.wf && pkt.opcode == 0x46
  | .relayWrite inPort pkt => decide (inPort < 80) && pkt.wf && pkt.opcode == 0x48
  | .relayFlaggedWrite inPort pkt => decide (inPort < 80) && pkt.wf && pkt.opcode == 0x49
  | .reservedOpcodePacket pkt => pkt.wf && !pkt.listed
  | .ack pkt => pkt.wf && pkt.opcode == 0x03
  | .nack pkt => pkt.wf && pkt.opcode == 0x04
  | .atomicReply pkt => pkt.wf && pkt.opcode == 0x05
  | .readReply pkt => pkt.wf && pkt.opcode == 0x42
  | .cas128Reply pkt => pkt.wf && pkt.opcode == 0x47
  | .resendTimerExpire node srcQueue seq => decide (node < 4096) && decide (srcQueue < 65536) && decide (seq < 2 ^ 24)
  | .nackBackoffExpire node srcQueue seq => decide (node < 4096) && decide (srcQueue < 65536) && decide (seq < 2 ^ 24)
  | .requestGiveUp node srcQueue seq => decide (node < 4096) && decide (srcQueue < 65536) && decide (seq < 2 ^ 24)
  | .ackMergeExpire src srcQueue => decide (src < 4096) && decide (srcQueue < 65536)
  | .flowRecordExpire src srcQueue srcInc => decide (src < 4096) && decide (srcQueue < 65536) && decide (srcInc < 16)
  | .resultEntryExpire src srcQueue srcInc seq => decide (src < 4096) && decide (srcQueue < 65536) && decide (srcInc < 16) && decide (seq < 2 ^ 24)
  | .packetRoute port fifo => decide (port < 80) && decide (fifo < 7)
  | .cellAdmit port fifo middle => decide (port < 80) && decide (fifo < 7) && decide (middle < 80)
  | .cellToOutput middle output => decide (middle < 80) && decide (output < 80)
  | .spillFetch middle output => decide (middle < 80) && decide (output < 80)
  | .packetTransmit port => decide (port < 80)
  | .flowRefresh port => decide (port < 64)
  | .flowWord port _ => decide (port < 64)
  | .portLoadSample => true
  | .congNote pkt => pkt.wf && pkt.opcode == 0x08
  | .limiterIncrease srcQueue => decide (srcQueue < 65536)
  | .groupArm d => d.wf
  | .groupDisarm d => d.wf
  | .contribute d => d.wf
  | .roundWait d => d.wf
  | .roundWaitTimeout d => d.wf
  | .roundEnd ctx group => decide (ctx < 4096) && decide (group < 65536)
  | .segmentFeed ctx group _ => decide (ctx < 4096) && decide (group < 65536)
  | .duplicateCheckDone _ _ => true
  | .streamArm d => d.wf
  | .streamDisarm d => d.wf
  | .stepApply d => d.wf
  | .applyComplete d => d.wf
  | .ledgerArm d => d.wf
  | .parityArm d => d.wf
  | .ledgerAbort d => d.wf
  | .ledgerResolve d => d.wf
  | .emitCommitted d => d.wf
  | .parityComplete ctx => decide (ctx < 4096)
  | .arenaArm d => d.wf
  | .arenaDisarm d => d.wf
  | .tilePack d => d.wf
  | .tileUnpack d => d.wf
  | .tileMove d => d.wf
  | .tileFree d => d.wf
  | .tileStat d => d.wf
  | .compactionMove ctx arena _ => decide (ctx < 4096) && decide (arena < 65536)
  | .backgroundZeroFill _ => true
  | .patrolScrub _ _ => true
  | .caddieArm d => d.wf
  | .caddieDisarm d => d.wf
  | .caddieWait d => d.wf
  | .caddieWaitTimeout d => d.wf
  | .caddieFlush d => d.wf
  | .caddieEntryStart quarter ctx stream => decide (quarter < 4) && decide (ctx < 4096) && decide (stream < 256)
  | .caddieEntryLand quarter ctx stream entry => decide (quarter < 4) && decide (ctx < 4096) && decide (stream < 256) && decide (entry < 4096)
  | .caddieDeadlineMiss quarter ctx stream entry => decide (quarter < 4) && decide (ctx < 4096) && decide (stream < 256) && decide (entry < 4096)
  | .contextCreate via ctx => via.wf && decide (ctx < 4096)
  | .contextTeardown via ctx => via.wf && decide (ctx < 4096)
  | .contextReset via ctx => via.wf && decide (ctx < 4096)
  | .teardownDrainEnd ctx => decide (ctx < 4096)
  | .teardownDrainLimit ctx => decide (ctx < 4096)
  | .clearPhaseEnd ctx => decide (ctx < 4096)
  | .queueResumeDict via ctx queue => via.wf && decide (ctx < 4096) && decide (queue < 1024)
  | .groupEntryWrite via ctx _ => via.wf && decide (ctx < 4096)
  | .nodeLossTimeout node => decide (node < 4096)
  | .fenceNotice port pkt => decide (port < 64) && pkt.wf && pkt.opcode == 0xE1
  | .fenceNoticeRepeat node => decide (node < 4096)
  | .fenceCommand via node => via.wf && decide (node < 4096)
  | .lastGasp port pkt => decide (port < 64) && pkt.wf && pkt.opcode == 0x09
  | .gaspMarkExpire node => decide (node < 4096)
  | .powerWarning => true
  | .powerStopIssue => true
  | .powerStopAbandon => true
  | .powerWarningClear => true
  | .rebuildStart via _ => via.wf
  | .rebuildRecordDone ctx _ => decide (ctx < 4096)
  | .adoptInnings via _ => via.wf
  | .inningsReplay via ctx => via.wf && decide (ctx < 4096)
  | .faultRecordsConsume via _ => via.wf
  | .faultSummaryClear via _ => via.wf
  | .suspectDecay => true
  | .unitRestore via _ => via.wf
  | .commaLock port lane => decide (port < 64) && decide (lane < 4)
  | .serveMessageSend port => decide (port < 64)
  | .serveMessage port lane _ => decide (port < 64) && decide (lane < 4)
  | .serveTimeout port => decide (port < 64)
  | .trainingFrame port lane _ _ _ => decide (port < 64) && decide (lane < 4)
  | .equaliseTimeout port => decide (port < 64)
  | .alignBlock port lane _ _ _ _ => decide (port < 64) && decide (lane < 4)
  | .lockTimeout port => decide (port < 64)
  | .linkFrame port _ _ _ => decide (port < 64)
  | .capFragment port pkt => decide (port < 64) && pkt.wf && pkt.opcode == 0xE0
  | .capFragmentTimeout port message => decide (port < 64) && decide (message < 32)
  | .capMessageRepeat port => decide (port < 64)
  | .hello port => decide (port < 64)
  | .confirm port => decide (port < 64)
  | .resume port => decide (port < 64)
  | .ready port => decide (port < 64)
  | .capabilityTimeout port => decide (port < 64)
  | .heldBackoffEnd port => decide (port < 64)
  | .lossOfSignal port lane => decide (port < 64) && decide (lane < 4)
  | .alignMissing port lane => decide (port < 64) && decide (lane < 4)
  | .uncorrectableLimit port lane _ => decide (port < 64) && decide (lane < 4)
  | .tagFailureLimit port => decide (port < 64)
  | .symbolErrorLimit port lane => decide (port < 64) && decide (lane < 4)
  | .recoveryNotice port => decide (port < 64)
  | .recoverEnd port => decide (port < 64)
  | .rdmaWrite pkt => pkt.wf
  | .rdmaWritePush pkt => pkt.wf
  | .rdmaRead pkt => pkt.wf
  | .sendWithImmediate pkt => pkt.wf
  | .fetchAdd pkt => pkt.wf
  | .compareSwap pkt => pkt.wf
  | .roceUnsupportedOpcode pkt => pkt.wf
  | .roceRequesterResponse qpn psn _ => decide (qpn < 2 ^ 24) && decide (psn < 2 ^ 24)
  | .roceRequesterTimeout qpn => decide (qpn < 2 ^ 24)
  | .congestionNotification qpn => decide (qpn < 2 ^ 24)
  | .queuePairCreate via _ => via.wf
  | .queuePairDestroy via qpn => via.wf && decide (qpn < 2 ^ 24)
  | .udpDoorbell port _ _ => decide (port < 8)
  | .ptpMessage port _ _ => decide (port < 8)
  | .ptpAnnounceTimeout => true
  | .ethernetLinkUp port _ => decide (port < 8)
  | .arpRequest port _ => decide (port < 9)
  | .neighborSolicitation port _ => decide (port < 9)
  | .icmpEcho port _ => decide (port < 9)
  | .ethernetFrameDiscard port => decide (port < 8)
  | .openSession port _ _ => decide (port < 9)
  | .close id seq => decide (id < 2 ^ 32) && decide (seq < 2 ^ 32)
  | .keepalive id seq => decide (id < 2 ^ 32) && decide (seq < 2 ^ 32)
  | .dexolRead via index sub offset length _ => via.wf && decide (index < 65536) && decide (sub < 256) && decide (offset < 2 ^ 20) && decide (length < 2 ^ 11)
  | .dexolWrite via index sub group offset _ _ => via.wf && decide (index < 65536) && decide (sub < 256) && decide (group < 256) && decide (offset < 2 ^ 20)
  | .commit via group _ => via.wf && decide (group < 256)
  | .discard via group _ => via.wf && decide (group < 256)
  | .subscribe id seq subId index sub _ _ => decide (id < 2 ^ 32) && decide (seq < 2 ^ 32) && decide (subId < 256) && decide (index < 65536) && decide (sub < 256)
  | .unsubscribe id seq subId => decide (id < 2 ^ 32) && decide (seq < 2 ^ 32) && decide (subId < 256)
  | .notify id subscription => decide (id < 2 ^ 32) && decide (subscription < 256)
  | .sessionIdleTimeout id => decide (id < 2 ^ 32)
  | .dexolDatagramDiscard => true
  | .c0QueuePush via quarter _ => via.wf && decide (quarter < 4)
  | .fQueueOpen via quarter _ => via.wf && decide (quarter < 4)
  | .imageSegmentWrite via offset _ => via.wf && decide (offset < 2 ^ 25)
  | .updateVerify via => via.wf
  | .updateActivate via => via.wf
  | .updateCancel via => via.wf
  | .updateCommit via => via.wf
  | .firmwareRestart via => via.wf
  | .activationDeferralEnd => true
  | .trialFail => true
  | .watchdogExpire core => decide (core < 8)
  | .operatorKeyWrite via _ => via.wf
  | .trustListLoad via _ => via.wf
  | .topologyMapLoad via _ => via.wf
  | .tenantPolicyLoad via _ => via.wf
  | .attestationQuote via _ => via.wf
  | .powerOkRise straps _ _ => straps.wf
  | .powerOkFall _ => true
  | .resetN => true
  | .resetCommand via _ => via.wf
  | .plateTrainingEnd stack _ => decide (stack < 20)
  | .slabTrainingEnd module _ _ => decide (module < 12)
  | .startupComplete => true
  | .startupTemperatureOk => true
  | .epoAssert => true
  | .epoRelease => true
  | .referenceClockLoss clock => clock.wf
  | .governorLimitWrite via _ => via.wf
  | .powerSample _ => true
  | .governorStep _ => true
  | .governorRelax _ => true
  | .thermalSample quarter _ => decide (quarter < 4)
  | .thermalStepClear quarter => decide (quarter < 4)
  | .commaLockLost port lane => decide (port < 64) && decide (lane < 4)
  | .trainingFrameSend port => decide (port < 64)
  | .ethernetLinkDown port => decide (port < 8)
  | .managementAutonegTimeout => true
  | .resetNRelease straps => straps.wf
  | .referenceClockReturn clock => clock.wf
  | .firmwareCoreRunning core => decide (core < 8)
  | .arenaLargestSample => true
  | .roceRnrTimerExpire qpn => decide (qpn < 2 ^ 24)

end Sys2Proof
end

