-- ==== Sys2Proof/Tests/Slice0.lean ====
section
/-! SUPPORT. Tests: ill-formed commands are refused by the checks; single steps with the results that the manual
states; and for every statement of Certificates a state and operands that meet its hypotheses. -/

section
set_option Elab.async false
open Sys2Proof Sys2Proof.Machine

namespace Sys2Proof.Tests

/-! ## Well-formedness: an operand out of its range for every check -/

/-- Packets past 8 KiB, and each part of the names of descriptors, requests, straps and RoCE packets. -/
theorem test_wf_parts :
    ({ payload := List.replicate 8193 0 } : Packet).wf = false ∧ (⟨0, 1024, 0⟩ : DescRef).wf = false ∧
      (⟨0, 0, 2 ^ 32⟩ : DescRef).wf = false ∧ (Via.session 0 (2 ^ 32)).wf = false ∧
      ({ id := 4096 } : Straps).wf = false ∧ ({ taper := 4 } : Straps).wf = false ∧
      ({ qpn := 2 ^ 24 } : RocePkt).wf = false ∧ ({ psn := 2 ^ 24 } : RocePkt).wf = false ∧
      ({ data := List.replicate 8193 0 } : RocePkt).wf = false := by decide +kernel

theorem test_wf_1 :
    ([
      .beaconSend 64, .timeBeacon 64 { hdr := 0x0A }, .timeBeacon 0 {}, .timeAnnounce 64 { hdr := 0x0B },
      .timeAnnounce 0 {}, .ftStepCommand ((.session (2 ^ 32) 0)) 0, .armTee ⟨4096, 0, 0⟩,
      .disarmTee ⟨4096, 0, 0⟩, .teeArmDict ((.session (2 ^ 32) 0)) 0 [], .teeArmDict .firmware 4 [],
      .teeDisarmDict ((.session (2 ^ 32) 0)) 0 [], .teeDisarmDict .firmware 4 [], .huddleArm ⟨4096, 0, 0⟩,
      .huddleArrive ⟨4096, 0, 0⟩, .huddleArrivePacket {}, .huddleRelease {}, .huddleRootTimeout 4096 0,
      .huddleRootTimeout 0 ((2 ^ 32)), .huddleReleaseTimeout 4096 0, .huddleReleaseTimeout 0 ((2 ^ 32))] : List Instr).all (fun i => !i.wf) = true := by decide +kernel

theorem test_wf_2 :
    ([
      .map ⟨4096, 0, 0⟩, .unmap ⟨4096, 0, 0⟩, .unmapDrainEnd ⟨4096, 0, 0⟩, .unmapWaitLimit ⟨4096, 0, 0⟩,
      .walkComplete 4, .openWindow ⟨4096, 0, 0⟩, .closeWindow ⟨4096, 0, 0⟩, .reservationExpire 4 0,
      .descriptorDispatch 4 0 0, .descriptorDispatch 0 4096 0, .descriptorDispatch 0 0 1024,
      .descriptorComplete ⟨4096, 0, 0⟩, .nop ⟨4096, 0, 0⟩, .waitFlag ⟨4096, 0, 0⟩,
      .waitFlagTimeout ⟨4096, 0, 0⟩, .startPlay ⟨4096, 0, 0⟩, .loadPlay ⟨4096, 0, 0⟩, .armPlay ⟨4096, 0, 0⟩,
      .disarmPlay ⟨4096, 0, 0⟩, .playAppend 4096 0] : List Instr).all (fun i => !i.wf) = true := by decide +kernel

theorem test_wf_3 :
    ([
      .playAppend 0 65536, .whistle ⟨4096, 0, 0⟩, .openQueue ⟨4096, 0, 0⟩, .closeQueue ⟨4096, 0, 0⟩,
      .resumeQueue ⟨4096, 0, 0⟩, .openRing ⟨4096, 0, 0⟩, .closeRing ⟨4096, 0, 0⟩, .coalesceTimeout 4096 0 0,
      .coalesceTimeout 0 65536 0, .coalesceTimeout 0 0 1024, .ringHeadReread 4096 0, .ringHeadReread 0 65536,
      .copy ⟨4096, 0, 0⟩, .fill ⟨4096, 0, 0⟩, .cacheLineExpire 4 0 0 0, .cacheLineExpire 0 0 4096 0,
      .flagHoldTimeout 4 0 0 0, .flagHoldTimeout 0 4096 0 0, .flagHoldTimeout 0 0 65536 0,
      .flagHoldTimeout 0 0 0 ((2 ^ 24))] : List Instr).all (fun i => !i.wf) = true := by decide +kernel

theorem test_wf_4 :
    ([
      .readReq {}, .probe {}, .write 80 { hdr := 0x40 }, .write 0 {}, .flaggedWrite 80 { hdr := 0x41 },
      .flaggedWrite 0 {}, .queuePush 80 { hdr := 0x43 }, .queuePush 0 {}, .reduceContrib 80 { hdr := 0x44 },
      .reduceContrib 0 {}, .atomic { hdr := 0x0F }, .atomic { hdr := 0x24 }, .cas64 80 { hdr := 0x45 },
      .cas64 0 {}, .cas128 80 { hdr := 0x46 }, .cas128 0 {}, .relayWrite 80 { hdr := 0x48 }, .relayWrite 0 {},
      .relayFlaggedWrite 80 { hdr := 0x49 }, .relayFlaggedWrite 0 {}] : List Instr).all (fun i => !i.wf) = true := by decide +kernel

theorem test_wf_5 :
    ([
      .reservedOpcodePacket { hdr := 1 }, .ack {}, .nack {}, .atomicReply {}, .readReply {}, .cas128Reply {},
      .resendTimerExpire 4096 0 0, .resendTimerExpire 0 65536 0, .resendTimerExpire 0 0 ((2 ^ 24)),
      .nackBackoffExpire 4096 0 0, .nackBackoffExpire 0 65536 0, .nackBackoffExpire 0 0 ((2 ^ 24)),
      .requestGiveUp 4096 0 0, .requestGiveUp 0 65536 0, .requestGiveUp 0 0 ((2 ^ 24)), .ackMergeExpire 4096 0,
      .ackMergeExpire 0 65536, .flowRecordExpire 4096 0 0, .flowRecordExpire 0 65536 0, .flowRecordExpire 0 0 16] : List Instr).all (fun i => !i.wf) = true := by decide +kernel

theorem test_wf_6 :
    ([
      .resultEntryExpire 4096 0 0 0, .resultEntryExpire 0 65536 0 0, .resultEntryExpire 0 0 16 0,
      .resultEntryExpire 0 0 0 ((2 ^ 24)), .packetRoute 80 0, .packetRoute 0 7, .cellAdmit 80 0 0,
      .cellAdmit 0 7 0, .cellAdmit 0 0 80, .cellToOutput 80 0, .cellToOutput 0 80, .spillFetch 80 0,
      .spillFetch 0 80, .packetTransmit 80, .flowRefresh 64, .flowWord 64 0, .congNote {},
      .limiterIncrease 65536, .groupArm ⟨4096, 0, 0⟩, .groupDisarm ⟨4096, 0, 0⟩] : List Instr).all (fun i => !i.wf) = true := by decide +kernel

theorem test_wf_7 :
    ([
      .contribute ⟨4096, 0, 0⟩, .roundWait ⟨4096, 0, 0⟩, .roundWaitTimeout ⟨4096, 0, 0⟩, .roundEnd 4096 0,
      .roundEnd 0 65536, .segmentFeed 4096 0 0, .segmentFeed 0 65536 0, .streamArm ⟨4096, 0, 0⟩,
      .streamDisarm ⟨4096, 0, 0⟩, .stepApply ⟨4096, 0, 0⟩, .applyComplete ⟨4096, 0, 0⟩,
      .ledgerArm ⟨4096, 0, 0⟩, .parityArm ⟨4096, 0, 0⟩, .ledgerAbort ⟨4096, 0, 0⟩, .ledgerResolve ⟨4096, 0, 0⟩,
      .emitCommitted ⟨4096, 0, 0⟩, .parityComplete 4096, .arenaArm ⟨4096, 0, 0⟩, .arenaDisarm ⟨4096, 0, 0⟩,
      .tilePack ⟨4096, 0, 0⟩] : List Instr).all (fun i => !i.wf) = true := by decide +kernel

theorem test_wf_8 :
    ([
      .tileUnpack ⟨4096, 0, 0⟩, .tileMove ⟨4096, 0, 0⟩, .tileFree ⟨4096, 0, 0⟩, .tileStat ⟨4096, 0, 0⟩,
      .compactionMove 4096 0 0, .compactionMove 0 65536 0, .caddieArm ⟨4096, 0, 0⟩, .caddieDisarm ⟨4096, 0, 0⟩,
      .caddieWait ⟨4096, 0, 0⟩, .caddieWaitTimeout ⟨4096, 0, 0⟩, .caddieFlush ⟨4096, 0, 0⟩,
      .caddieEntryStart 4 0 0, .caddieEntryStart 0 4096 0, .caddieEntryStart 0 0 256, .caddieEntryLand 4 0 0 0,
      .caddieEntryLand 0 4096 0 0, .caddieEntryLand 0 0 256 0, .caddieEntryLand 0 0 0 4096,
      .caddieDeadlineMiss 4 0 0 0, .caddieDeadlineMiss 0 4096 0 0] : List Instr).all (fun i => !i.wf) = true := by decide +kernel

theorem test_wf_9 :
    ([
      .caddieDeadlineMiss 0 0 256 0, .caddieDeadlineMiss 0 0 0 4096, .contextCreate ((.session (2 ^ 32) 0)) 0,
      .contextCreate .firmware 4096, .contextTeardown ((.session (2 ^ 32) 0)) 0,
      .contextTeardown .firmware 4096, .contextReset ((.session (2 ^ 32) 0)) 0, .contextReset .firmware 4096,
      .teardownDrainEnd 4096, .teardownDrainLimit 4096, .clearPhaseEnd 4096,
      .queueResumeDict ((.session (2 ^ 32) 0)) 0 0, .queueResumeDict .firmware 4096 0,
      .queueResumeDict .firmware 0 1024, .groupEntryWrite ((.session (2 ^ 32) 0)) 0 [],
      .groupEntryWrite .firmware 4096 [], .nodeLossTimeout 4096, .fenceNotice 64 { hdr := 0xE1 },
      .fenceNotice 0 {}, .fenceNoticeRepeat 4096] : List Instr).all (fun i => !i.wf) = true := by decide +kernel

theorem test_wf_10 :
    ([
      .fenceCommand ((.session (2 ^ 32) 0)) 0, .fenceCommand .firmware 4096, .lastGasp 64 { hdr := 0x09 },
      .lastGasp 0 {}, .gaspMarkExpire 4096, .rebuildStart ((.session (2 ^ 32) 0)) [],
      .rebuildRecordDone 4096 0, .adoptInnings ((.session (2 ^ 32) 0)) [],
      .inningsReplay ((.session (2 ^ 32) 0)) 0, .inningsReplay .firmware 4096,
      .faultRecordsConsume ((.session (2 ^ 32) 0)) 0, .faultSummaryClear ((.session (2 ^ 32) 0)) 0,
      .unitRestore ((.session (2 ^ 32) 0)) 0, .commaLock 64 0, .commaLock 0 4, .serveMessageSend 64,
      .serveMessage 64 0 0, .serveMessage 0 4 0, .serveTimeout 64, .trainingFrame 64 0 0 0 false] : List Instr).all (fun i => !i.wf) = true := by decide +kernel

theorem test_wf_11 :
    ([
      .trainingFrame 0 4 0 0 false, .equaliseTimeout 64, .alignBlock 64 0 0 0 0 0, .alignBlock 0 4 0 0 0 0,
      .lockTimeout 64, .linkFrame 64 0 [] [], .capFragment 64 { hdr := 0xE0 }, .capFragment 0 {},
      .capFragmentTimeout 64 0, .capFragmentTimeout 0 32, .capMessageRepeat 64, .hello 64, .confirm 64,
      .resume 64, .ready 64, .capabilityTimeout 64, .heldBackoffEnd 64, .lossOfSignal 64 0, .lossOfSignal 0 4,
      .alignMissing 64 0] : List Instr).all (fun i => !i.wf) = true := by decide +kernel

theorem test_wf_12 :
    ([
      .alignMissing 0 4, .uncorrectableLimit 64 0 0, .uncorrectableLimit 0 4 0, .tagFailureLimit 64,
      .symbolErrorLimit 64 0, .symbolErrorLimit 0 4, .recoveryNotice 64, .recoverEnd 64,
      .rdmaWrite { port := 8 }, .rdmaWritePush { port := 8 }, .rdmaRead { port := 8 },
      .sendWithImmediate { port := 8 }, .fetchAdd { port := 8 }, .compareSwap { port := 8 },
      .roceUnsupportedOpcode { port := 8 }, .roceRequesterResponse ((2 ^ 24)) 0 .ack,
      .roceRequesterResponse 0 ((2 ^ 24)) .ack, .roceRequesterTimeout ((2 ^ 24)),
      .congestionNotification ((2 ^ 24)), .queuePairCreate ((.session (2 ^ 32) 0)) []] : List Instr).all (fun i => !i.wf) = true := by decide +kernel

theorem test_wf_13 :
    ([
      .queuePairDestroy ((.session (2 ^ 32) 0)) 0, .queuePairDestroy .firmware ((2 ^ 24)), .udpDoorbell 8 0 [],
      .ptpMessage 8 0 ((.sync 0 0 0)), .ethernetLinkUp 8 0, .arpRequest 9 0, .neighborSolicitation 9 0,
      .icmpEcho 9 [], .ethernetFrameDiscard 8, .openSession 9 [] [], .close ((2 ^ 32)) 0, .close 0 ((2 ^ 32)),
      .keepalive ((2 ^ 32)) 0, .keepalive 0 ((2 ^ 32)), .dexolRead ((.session (2 ^ 32) 0)) 0 0 0 0 [],
      .dexolRead .firmware 65536 0 0 0 [], .dexolRead .firmware 0 256 0 0 [],
      .dexolRead .firmware 0 0 ((2 ^ 20)) 0 [], .dexolRead .firmware 0 0 0 ((2 ^ 11)) [],
      .dexolWrite ((.session (2 ^ 32) 0)) 0 0 0 0 false []] : List Instr).all (fun i => !i.wf) = true := by decide +kernel

theorem test_wf_14 :
    ([
      .dexolWrite .firmware 65536 0 0 0 false [], .dexolWrite .firmware 0 256 0 0 false [],
      .dexolWrite .firmware 0 0 256 0 false [], .dexolWrite .firmware 0 0 0 ((2 ^ 20)) false [],
      .commit ((.session (2 ^ 32) 0)) 0 none, .commit .firmware 256 none,
      .discard ((.session (2 ^ 32) 0)) 0 none, .discard .firmware 256 none,
      .subscribe ((2 ^ 32)) 0 0 0 0 false 0, .subscribe 0 ((2 ^ 32)) 0 0 0 false 0,
      .subscribe 0 0 256 0 0 false 0, .subscribe 0 0 0 65536 0 false 0, .subscribe 0 0 0 0 256 false 0,
      .unsubscribe ((2 ^ 32)) 0 0, .unsubscribe 0 ((2 ^ 32)) 0, .unsubscribe 0 0 256, .notify ((2 ^ 32)) 0,
      .notify 0 256, .sessionIdleTimeout ((2 ^ 32)), .c0QueuePush ((.session (2 ^ 32) 0)) 0 []] : List Instr).all (fun i => !i.wf) = true := by decide +kernel

theorem test_wf_15 :
    ([
      .c0QueuePush .firmware 4 [], .fQueueOpen ((.session (2 ^ 32) 0)) 0 [], .fQueueOpen .firmware 4 [],
      .imageSegmentWrite ((.session (2 ^ 32) 0)) 0 [], .imageSegmentWrite .firmware ((2 ^ 25)) [],
      .updateVerify ((.session (2 ^ 32) 0)), .updateActivate ((.session (2 ^ 32) 0)),
      .updateCancel ((.session (2 ^ 32) 0)), .updateCommit ((.session (2 ^ 32) 0)),
      .firmwareRestart ((.session (2 ^ 32) 0)), .watchdogExpire 8,
      .operatorKeyWrite ((.session (2 ^ 32) 0)) [], .trustListLoad ((.session (2 ^ 32) 0)) [],
      .topologyMapLoad ((.session (2 ^ 32) 0)) [], .tenantPolicyLoad ((.session (2 ^ 32) 0)) [],
      .attestationQuote ((.session (2 ^ 32) 0)) [], .powerOkRise { role := 4 } false false,
      .resetCommand ((.session (2 ^ 32) 0)) 0, .plateTrainingEnd 20 false, .slabTrainingEnd 12 0 false] : List Instr).all (fun i => !i.wf) = true := by decide +kernel

theorem test_wf_16 :
    ([
      .referenceClockLoss ((.serdes 4)), .governorLimitWrite ((.session (2 ^ 32) 0)) 0, .thermalSample 4 none,
      .thermalStepClear 4, .commaLockLost 64 0, .commaLockLost 0 4, .trainingFrameSend 64, .ethernetLinkDown 8,
      .resetNRelease { role := 4 }, .referenceClockReturn ((.serdes 4)), .firmwareCoreRunning 8,
      .roceRnrTimerExpire ((2 ^ 24))] : List Instr).all (fun i => !i.wf) = true := by decide +kernel

/-! ## Single steps and results that the manual states -/

/-- The state that a step goes on to. -/
def afterStep (s : State) : Option State :=
  match step s with
  | .next t => some t
  | .fault _ => none
  | .refused _ => none

/-- The example of resolving one handle (Spaces, windows and translation). -/
theorem test_handle_example :
    let h : BitVec 64 := 0x10B000C200041100
    handleNode h = 0x10B ∧ handleWindow h = 3 ∧ handleOffset h = 8 * 2 ^ 30 + 0x41100 := by decide

/-- The byte of that example lies in Plate stack 7, which Q1 owns. -/
theorem test_pa_example :
    let pa := 0x27053A001100
    paTier pa = 1 ∧ paUnit pa = 7 ∧ paOffset pa = 0x53A001100 ∧ paQuarter pa = 1 := by decide

/-- The default layout of the hardware region (R278). -/
theorem test_layout_defaults :
    areaEnd ((areaSizes State.reset).take 4) = 2176 ∧
      areaEnd ((areaSizes State.reset).take 5) + (areaSizes State.reset).getD 5 0 = 10368 ∧
      hwEndOf (areaSizes State.reset) = 11 * 1024 := by decide +kernel

/-- Groups 0x0200 to 0x0203 of context 0x2A7 lie on the four quarters (the worked innings); Q0's number is the xor
of its fourteen fields by hand. -/
theorem test_steer_examples :
    ([0x200, 0x201, 0x202, 0x203].map (steer 0x2A7)).Perm [0, 1, 2, 3] ∧ steer 0x2A7 0x202 = 0 := by decide

/-- 134,217,728 parameters take arrays of 512 MiB (the worked innings). -/
theorem test_array_bytes : arrayBytes 134217728 = 512 * 2 ^ 20 := by decide

/-- An output of E4M3 saturates at 448, and one of FP16 becomes an infinity (R221). -/
theorem test_conversion_saturates :
    elemEncode 3 .nearest 0x447A0000 = 0x7E ∧ elemEncode 1 .nearest 0x7F7FFFFF = 0x7C00 := by decide +kernel

/-- A sum of two 32-bit integers wraps, and a signed minimum is signed (R158, Table 8a). -/
theorem test_atomic_wraps : atomicResult 0x10 0xFFFFFFFF 2 = 1 ∧ atomicResult 0x15 1 0xFFFFFFFF = 0xFFFFFFFF := by
  decide

/-- A command for a port without a link, and one for a descriptor not in flight, change nothing. -/
theorem test_nothing_named :
    afterStep { State.reset with pending := [.equaliseTimeout 3] } = some State.reset ∧
      afterStep { State.reset with pending := [.armTee ⟨1, 2, 3⟩] } = some State.reset := by decide +kernel

/-- A discarded datagram is counted in 1010:04. -/
theorem test_discard_counts :
    (afterStep { State.reset with pending := [.dexolDatagramDiscard, .resetN] }).map (fun t => (reg t 0x1010 0x04, t.pending))
      = some (1, [.resetN]) := by decide +kernel

/-- A tier address past the units that exist stops patrol scrub by name. -/
theorem test_scrub_outside :
    exec (.patrolScrub (7 * 2 ^ 45) .clean) State.reset = .fault (.noSuchAddress (7 * 2 ^ 45)) := by rfl

/-- No word spells a command, and withFetchWord leaves the state. -/
theorem test_no_words : decodeTableWord 16 0x1234 = none ∧ State.reset.withFetchWord 16 0x1234 = State.reset :=
  ⟨rfl, rfl⟩


/-! ## States that the witnesses share -/

/-- The state after reset with an active PTP client at an instant. -/
def withPtp (c : PtpClient) (now : Nat) : State :=
  let p : EthPort := { ptp := some c }
  { State.reset with now := now, eth := { State.reset.eth with ptpActive := some 0, ports := [(0, p)] } }

/-- The descriptor that the tests put in flight. -/
def ref1 : DescRef := ⟨0, 0, 1⟩

/-- A descriptor of an opcode in flight in queue 0 of context 0. -/
def flight1 (op : Nat) (operand : Nat) : Flight := { seq := 1, desc := BitVec.ofNat 512 (op + operand * 2 ^ 64) }

/-- A state with that descriptor in flight. -/
def flying (s : State) (op operand : Nat) : State :=
  { s with q := { s.q with flights := [(refKey ref1, flight1 op operand)] } }

/-- The firmware's request in a state, as it is taken up. -/
def byFirmware (s : State) : Option (State × Who) := some (s, { principal := 3 })
/-- A control packet from a node to node 5. -/
def controlPkt (op src ctx ext : Nat) : Packet :=
  { hdr := Hdr.word { opcode := op, src := src, dst := 5, ctx := ctx, gen := 1, seq := 1 }, ext := BitVec.ofNat 128 ext }

/-- A data packet from a node to node 5, its check computed. -/
def dataPkt (op src ctx ext : Nat) (data : Bytes) : Packet :=
  Packet.sealed
    { hdr := Hdr.word { opcode := op, data := true, src := src, dst := 5, ctx := ctx, gen := 1, seq := 1 }
      ext := BitVec.ofNat 128 ext + dataExt 0 data.length 0 0, payload := padTo (roundUp data.length 256) data }

/-- The state that the arrival checks leave of a request to be performed. -/
def freshOf (a : Arrived) : Option State :=
  match a with
  | .fresh t => some t
  | _ => none

theorem fresh_of {a : Arrived} (h : (freshOf a).isSome = true) : a = .fresh ((freshOf a).get h) := by
  cases a with
  | fresh t => rfl
  | _ t => simp [freshOf] at h

/-- The state that the arrival checks leave of a copy of a request already performed. -/
def copyOf (a : Arrived) : Option State :=
  match a with
  | .copy t => some t
  | _ => none

theorem copy_of {a : Arrived} (h : (copyOf a).isSome = true) : a = .copy ((copyOf a).get h) := by
  cases a with
  | copy t => rfl
  | _ t => simp [copyOf] at h

theorem fresh_data {op src ctx ext : Nat} {data : Bytes} {s : State} {i : Option Nat}
    (h : (freshOf (checksAfterCrc s (dataPkt op src ctx ext data))).isSome = true)
    (r : ingressFull s (64 + 4 * pktHome (dataPkt op src ctx ext data)) (replySize (dataPkt op src ctx ext data)) = false) :
    arrival s i (dataPkt op src ctx ext data) =
      .fresh ((freshOf (checksAfterCrc s (dataPkt op src ctx ext data))).get h) := by
  rw [arrival_crcOk (p := dataPkt op src ctx ext data) (crcOk_sealed _) r]; exact fresh_of h

theorem copy_data {op src ctx ext : Nat} {data : Bytes} {s : State} {i : Option Nat}
    (h : (copyOf (checksAfterCrc s (dataPkt op src ctx ext data))).isSome = true)
    (r : ingressFull s (64 + 4 * pktHome (dataPkt op src ctx ext data)) (replySize (dataPkt op src ctx ext data)) = false) :
    arrival s i (dataPkt op src ctx ext data) =
      .copy ((copyOf (checksAfterCrc s (dataPkt op src ctx ext data))).get h) := by
  rw [arrival_crcOk (p := dataPkt op src ctx ext data) (crcOk_sealed _) r]; exact copy_of h

/-- The state after reset as node 5, with context 1 ACTIVE. -/
def node5 : State := setReg (setReg State.reset 0x7001 0x01 1) 0x1000 0x06 5
/-- A readable page at VA 65536 of context 0, in the scratchpad. -/
def paged : State :=
  let e : Extent := { va := 65536, pa := 3 * 2 ^ 45, count := 1, read := true, write := true, atomic := true, reduce := true }
  setPages State.reset 0 [e]

/-- Node 5 with window 7 of context 1 over a page with every right, beyond the hardware region of Foil. -/
def served : State :=
  let w : Window :=
    { valid := true, read := true, write := true, atomic := true, reduce := true, flagged := true, ctx := 1, gen := 1
      baseVa := 65536, length := 1 }
  let e : Extent :=
    { va := 65536, pa := 22 * 2 ^ 30, count := 1, read := true, write := true, atomic := true, reduce := true }
  let s := setPages node5 1 [e]
  { s with xlat := { s.xlat with windows := [(7, w)] } }

/-- The handle of window 7 of node 5 at an offset. -/
def h7 (off : Nat) : Nat := (mkHandle 5 7 off).toNat
/-- A state in which queue 3 of context 1 on quarter 2 holds a NOP. -/
def queueing : State :=
  let w : Waiting := { desc := 0 }
  let r : Queue := { ctx := 1, queue := 3, quarter := 2, state := .opened, slots := [w] }
  { node5 with q := { node5.q with queues := [(queueKey 1 3, r)] } }

/-- What a window check leaves, and the VA. -/
def passed (r : State × Except Fail Nat) : Option (State × Nat) :=
  match r with
  | (u, .ok va) => some (u, va)
  | (_, .error _) => none

theorem passed_of {r : State × Except Fail Nat} (h : (passed r).isSome = true) :
    r = (((passed r).get h).1, .ok ((passed r).get h).2) := by
  obtain ⟨u, x⟩ := r
  cases x with
  | ok va => rfl
  | error e => simp [passed] at h

/-- What a check that may fail leaves. -/
def okOf {ε α : Type} (r : Except ε α) : Option α :=
  match r with
  | .ok a => some a
  | .error _ => none

theorem ok_of {ε α : Type} {r : Except ε α} (h : (okOf r).isSome = true) : r = .ok ((okOf r).get h) := by
  cases r with
  | ok a => rfl
  | error e => simp [okOf] at h
/-- Eight writable pages of context 0 from VA 65536, beyond the hardware region of Foil. -/
def banked : State :=
  let e : Extent :=
    { va := 65536, pa := 22 * 2 ^ 30, count := 8, read := true, write := true, atomic := true, reduce := true }
  setPages State.reset 0 [e]

/-- What finds nothing wrong. -/
theorem none_of {α : Type} {o : Option α} (h : o.isNone = true) : o = none := by
  cases o with
  | none => rfl
  | some a => simp at h
/-- One page at VA 65536 of context 0 for coded tiles, on Foil. -/
def codecPage : State :=
  let e : Extent := { va := 65536, pa := 22 * 2 ^ 30, count := 1, read := true, write := true, codec := true }
  let p : Extent := { va := 2 * 65536, pa := 22 * 2 ^ 30 + 65536, count := 1, read := true, write := true }
  setPages State.reset 0 [e, p]

/-- Arena 3 of context 0 on that page: 16 sectors, 4 tiles, one run allocated. -/
def arena3 : Arena := { no := 3, base := 65536, sectors := 16, tiles := 4, used := [(2, 1)] }

/-- Header of the tile in that run: one row of four FP32 zeros, stored plain. -/
def header0 : TileHdr :=
  { rows := 1, cols := 4, sectors := 1, payload := 16, check := (crc32c (List.replicate 16 0)).toNat }

/-- The arena armed, with tile 0 in its run. -/
def tiled : State :=
  let s := { codecPage with pewter := { codecPage.pewter with arenas := [(arenaKey 0 3, arena3)] } }
  let s := (writeDir s (arenaKey 0 3) arena3 0 { valid := true, first := 2, sectors := 1, version := 1 }).1
  (writeVa s 0 (65536 + 2 * 4096) (header0.bytes ++ List.replicate 16 0)).st

/-- What a read of the directory leaves. -/
def readOf {α : Type} (r : State × Except Status α) : Option (State × α) :=
  match r with
  | (u, .ok a) => some (u, a)
  | (_, .error _) => none

theorem read_of {α : Type} {r : State × Except Status α} (h : (readOf r).isSome = true) :
    r = (((readOf r).get h).1, .ok ((readOf r).get h).2) := by
  obtain ⟨u, x⟩ := r
  cases x with
  | ok a => rfl
  | error e => simp [readOf] at h
/-- Stream 2 of context 0 on quarter 0: one entry of tile 0 of arena 3, to its slot at VA 131072. -/
def caddie2 : CaddieStream :=
  let e : SchedEntry := { trigger := 2, srcArena := 3, tiles := 1 }
  { no := 2, slotVa := 2 * 65536, entries := [e] }

/-- A state with a Caddie stream armed over the tiles of arena 3. -/
def landing (c : CaddieStream) : State :=
  let s := setReg tiled (ctxIdx 0) 0x01 1
  { s with caddie := { s.caddie with streams := [(caddieKey 0 0 2, c)] } }
/-- Operand of a STREAM_ARM of stream 2: rule 0, FP32, 256 parameters, banks of two pages each. -/
def streamOperand : Nat := 2 * 2 ^ 13 + 2 ^ 22 + 256 * 2 ^ 64 + 65536 * 2 ^ 128 + 3 * 65536 * 2 ^ 176 + 5 * 65536 * 2 ^ 224

/-- Stream 2 of context 0. -/
def stream2 : Stream := streamOf (BitVec.ofNat 416 streamOperand) 0 0
/-- The part up, port 4 in a state with a link. -/
def inState (st : Nat) (l : Link) : State :=
  let s := setReg node5 0x3004 0x01 st
  { s with links := [(4, l)], pwr := { s.pwr with up := true } }
/-- Node 5 with Ethernet port 1 running, window 7 of context 1, and queue pair 2 of that context there. -/
def pairing (p : QueuePair) : State :=
  let e : EthPort := { up := true, rate := 100 }
  let s := setReg served 0x4101 0x01 1
  { s with eth := { s.eth with ports := [(1, e)], qps := [(2, { p with port := 1, ctx := 1 })] } }

end Sys2Proof.Tests

open Sys2Proof.Tests

namespace Sys2Proof.Tests

/-! ## Witnesses -/

theorem witness_StepTakesTheFrontCommand :
    let s := { State.reset with pending := [.resetN] }
    s.pending = .resetN :: [] ∧ State.reset.pending = [] := by decide

theorem witness_HandlesAndHeadersKeepEveryField_header :
    let h : Hdr :=
      { opcode := 255, vl := 7, colour := 3, src := 4095, dst := 4095, ctx := 4095, gen := 65535, srcQueue := 65535, seq := 2 ^ 24 - 1, floor := 1023, srcInc := 15, dstInc := 15, dstKnown := true }
    h.opcode < 2 ^ 8 ∧ h.vl < 2 ^ 3 ∧ h.seq < 2 ^ 24 ∧ h.floor < 2 ^ 10 ∧ hdrOf h.word = h ∧
      bit (h.word) 127 = false := by decide +kernel

theorem witness_HandlesAndHeadersKeepEveryField_handle :
    (4095 : Nat) < 2 ^ 12 ∧ 16383 < 2 ^ 14 ∧ 2 ^ 38 - 1 < 2 ^ 38 := by decide

theorem witness_MemoryStaysCanonical :
    let s := { State.reset with pending := [.dexolDatagramDiscard] }
    s.Inv ∧ step s = .next (bump State.reset 0x1010 0x04) := by
  refine ⟨?_, rfl⟩
  show Memory.wf _ = true
  decide

theorem witness_MemoryReadsWhatWasWritten :
    State.reset.Inv ∧ paTier (3 * 2 ^ 45) = 3 ∧ paTier (3 * 2 ^ 45 + 300) = 3 := by
  refine ⟨?_, by decide, by decide⟩
  show Memory.wf _ = true
  decide

theorem witness_FaultRecordsAreNeverOverwritten :
    let s := { State.reset with recov := { State.reset.recov with faults := List.replicate 4032 {} } }
    let f : FaultInfo := { cls := 1 }
    f.cls < 256 ∧ State.reset.recov.faults.length < 4032 ∧ 4032 ≤ s.recov.faults.length ∧
      reg s 0x8010 f.cls + 1 < 2 ^ entryBits 0x8010 f.cls := by decide +kernel

theorem witness_AWarmResetKeepsTheAlwaysOnBank :
    let s := { State.reset with dict := { State.reset.dict with atReset := [(0x1000 * 256 + 0x08, 2)] } }
    s.pwr.resetAt ≠ some s.now ∧ keptWarm 0x1000 0x08 = true ∧ keptWarm 0x8000 0x06 = true ∧
      (∀ p ∈ s.dict.atReset, p.1 ≠ 0x8000 * 256 + 0x06) ∧ (0x1000 * 256 + 0x08, 2) ∈ s.dict.atReset ∧
      (∀ p ∈ s.dict.atReset, p.1 = 0x1000 * 256 + 0x08 → p.2 = 2) ∧
      (∀ p ∈ s.dict.atReset, p.1 ≠ 0x9000 * 256 + 0x13) := by decide +kernel

theorem witness_PortsTakeTheirDefaultDirections :
    let s := setPwr State.reset { State.reset.pwr with pwrOk := true }
    let x := fun r => ({ role := r, taper := r } : Straps)
    heldReset s = false ∧ (63 : Nat) < 64 ∧ [0, 1, 2, 3].map (fun r => role (releaseReset s (x r) false)) = [0, 1, 2, 3] := by
  decide +kernel

theorem witness_FabricTimeAdvancesEveryCycle : State.reset.tees = ⟨[], [], [], []⟩ := by decide +kernel

theorem witness_BeaconsMeasureAndSteerTheClock_send :
    portActive (setReg State.reset 0x3000 1 6) 0 = true ∧
      (linkTime (setReg State.reset 0x3000 1 6) 0).lastSent = 0 := by decide +kernel

theorem witness_BeaconsMeasureAndSteerTheClock_measure :
    let s := modLinkTime (setReg State.reset 0x3000 1 6) 0 fun l => { l with sent := [(0, 5)], delays := [7] }
    let p : Packet := { hdr := 0x0A, ext := 1#128 <<< 112 }
    portActive s 0 = true ∧ p.op = 0x0A ∧ unsequencedBad p = false ∧ bits p.ext 116 12 = 0 ∧ bits p.ext 113 3 ≤ 3 ∧
      ¬(s.time.parent = some 0 ∧ quarantined s 0 = true) ∧ bit p.ext 112 = true ∧
      tget (linkTime s 0).sent (bits p.ext 104 8) = some 5 := by decide +kernel

theorem witness_TheClockChangesStateByItsRules_lock :
    let s := { State.reset with time := { State.reset.time with parent := some 3, state := .free, inLimit := 64 } }
    s.time.parent = some 3 ∧ (s.time.state = .free ∨ s.time.state = .holdover) ∧ 64 ≤ s.time.inLimit := by decide +kernel

theorem witness_TheClockChangesStateByItsRules_limit :
    let s := { State.reset with time := { State.reset.time with state := .locked, outLimit := 8 } }
    s.time.state = .locked ∧ 8 ≤ s.time.outLimit := by decide +kernel

theorem witness_TheClockChangesStateByItsRules_lost :
    let s := modLinkTime { State.reset with now := 90000, time := { State.reset.time with parent := some 3 } } 3
      fun l => { l with lastBeacon := some 0 }
    s.time.parent = some 3 ∧ (linkTime s 3).lastBeacon = some 0 ∧
      passedNs s 0 (3 * reg s 0x3F00 0x06) = true := by decide +kernel

theorem witness_TheClockChangesStateByItsRules_holdover :
    let s := { State.reset with now := 180000000, time := { State.reset.time with state := .holdover } }
    s.time.state = .holdover ∧ passedMs s s.time.holdoverSince 100 = true := by decide +kernel

theorem witness_TheClockChangesStateByItsRules_announce :
    passedUs { State.reset with now := 1800000 } State.reset.time.lastAnnounce 1000 = true := by decide +kernel

theorem witness_TheClockChangesStateByItsRules_heard :
    let p : Packet := { hdr := 0x0B, ext := 0 }
    portActive (setReg State.reset 0x3000 1 6) 0 = true ∧ p.op = 0x0B ∧ unsequencedBad p = false ∧ bits p.ext 57 71 = 0 ∧
      bit p.ext 15 = false := by decide +kernel

theorem witness_TheClockChangesStateByItsRules_external :
    let s := withPtp { within := some 0 } 18000000000
    (activeClient s).bind (·.within) = some 0 ∧ s.time.externalLock = false ∧
      passedMs s 0 10000 = true := by decide +kernel

theorem witness_TheClockChangesStateByItsRules_step :
    let s := { withPtp {} 0 with time := { State.reset.time with state := .master, externalLock := true } }
    (activeClient s).map (fun c => ptpNow s c % second) = some 0 ∧ s.time.state = .master ∧
      s.time.taiValid = false ∧ s.time.externalLock = true := by decide +kernel

theorem witness_TheClockChangesStateByItsRules_pulse :
    let s := setReg (withPtp { time := 1000000400 } 0) 0x3F00 0x0B 1
    (activeClient s).map (ptpNow s) = some 1000000400 ∧ reg s 0x3F00 0x0B ≠ 0 ∧
      ((1000000400 : Int) - regInt s 0x3F00 0x0C / 1000) % (second : Int) ≤ 500 := by decide +kernel

theorem witness_TheClockChangesStateByItsRules_ignored :
    let s := setReg (withPtp { time := 1000000501 } 0) 0x3F00 0x0B 1
    (activeClient s).map (ptpNow s) = some 1000000501 ∧ reg s 0x3F00 0x0B ≠ 0 ∧
      500 < ((1000000501 : Int) - regInt s 0x3F00 0x0C / 1000) % (second : Int) := by decide +kernel

theorem witness_TheClockChangesStateByItsRules_command :
    askedBy State.reset .firmware = some (State.reset, { principal := 3 }) ∧
      writeStatus State.reset { principal := 3 } 0x3F00 0x0D 5 = Code.ok ∧
      State.reset.time.state ≠ .locked ∧ State.reset.time.state ≠ .master := by decide +kernel

theorem witness_TimesCompareSerially_arm :
    let s := flying State.reset 0x03 (2 ^ 62 + 1 + 2 ^ 152)
    let f := flight1 0x03 (2 ^ 62 + 1 + 2 ^ 152)
    let x : BitVec 256 := f.desc.extractLsb' 64 256
    MayAct s ref1 0x03 f ∧ (x.extractLsb' 0 64 - ftOf (actsOn s f) f.quarter).toNat = 2 ^ 46 * 65536 + 1 := by decide +kernel

theorem witness_TimesCompareSerially_dict :
    let s := State.reset
    let b : Bytes := leBytes 2 4095 ++ leBytes 32 (2 ^ 63 - 1 + 2 ^ 152)
    let x : BitVec 256 := BitVec.ofNat 256 (ofLe (b.drop 2))
    askedBy s .firmware = byFirmware s ∧ otherTransfer s .firmware 0x2000 0x20 = false ∧
      writeStatus s { principal := 3 } 0x2000 0x20 0 = Code.ok ∧ b.length = 34 ∧ ofLe (b.take 2) = 4095 ∧
      bit x 152 = true ∧ (x.extractLsb' 0 64 - ftOf s 0).toNat = 2 ^ 63 - 1 := by decide +kernel

theorem witness_TeesAreArmedAndDisarmed_arm :
    let s := flying State.reset 0x03 (5 * 65536 + 2 ^ 152)
    let f := flight1 0x03 (5 * 65536 + 2 ^ 152)
    let x : BitVec 256 := f.desc.extractLsb' 64 256
    let t := actsOn s f
    MayAct s ref1 0x03 f ∧ teeMisaligned t f.quarter x = false ∧ bit x 152 = true ∧ clean f.desc 256 192 = true ∧
      ctxFieldStatus t f (bits x 120 12) = Code.ok ∧
      underQuota t (namedCtx f (bits x 120 12)) 0x14 (teesHeld t (namedCtx f (bits x 120 12))) = true ∧
      thas (teesOf t f.quarter) 0 = false ∧
      (ftLater (ftOf t f.quarter) (x.extractLsb' 0 64) = true → bit x 153 = true) := by decide +kernel

theorem witness_TeesAreArmedAndDisarmed_disarm :
    let s := flying { State.reset with tees := ⟨[(0, {})], [], [], []⟩ } 0x04 0
    let f := flight1 0x04 0
    MayAct s ref1 0x04 f ∧ clean f.desc 14 434 = true ∧
      tget (teesOf (actsOn s f) (opnd f.desc 12 2)) (opnd f.desc 0 12) = some {} ∧ f.ctx = 0 := by decide +kernel

theorem witness_TeesAreArmedAndDisarmed_dictArm :
    let s := State.reset
    let b : Bytes := leBytes 2 4095 ++ leBytes 32 (5 * 65536 + 2 ^ 152 + 2 ^ 120)
    let x : BitVec 256 := BitVec.ofNat 256 (5 * 65536 + 2 ^ 152 + 2 ^ 120)
    let t := setReg (setReg s 0x7001 0x01 1) 0x7001 0x14 4
    askedBy t .firmware = byFirmware t ∧ otherTransfer t .firmware 0x2000 0x20 = false ∧
      writeStatus t { principal := 3 } 0x2000 0x20 0 = Code.ok ∧ b.length = 34 ∧ ofLe (b.take 2) = 4095 ∧
      BitVec.ofNat 256 (ofLe (b.drop 2)) = x ∧ bit x 152 = true ∧ teeDictStatus t 0 4095 x = Code.ok := by decide +kernel

theorem witness_TeesAreArmedAndDisarmed_dictDisarm :
    let s := setReg State.reset 0x7001 0x01 1
    let b : Bytes := leBytes 2 7 ++ leBytes 32 (2 ^ 120)
    askedBy s .firmware = byFirmware s ∧ otherTransfer s .firmware 0x2003 0x20 = false ∧
      writeStatus s { principal := 3 } 0x2003 0x20 0 = Code.ok ∧ b.length = 34 ∧ ofLe (b.take 2) = 7 ∧
      bit (BitVec.ofNat 256 (ofLe (b.drop 2))) 152 = false ∧
      namedCtxStatus s (bits (BitVec.ofNat 256 (ofLe (b.drop 2))) 120 12) = Code.ok := by decide +kernel

theorem witness_AFiringIsCountedAndOrdersTheNext :
    let s := { State.reset with tees := ⟨[(3, { period := 5, left := none })], [], [], []⟩ }
    tget (teesOf s 0) 3 = some { period := 5, left := none } := by decide +kernel

theorem witness_HuddleEntriesAreArmedAndMembersArrive_arm :
    let s := flying State.reset 0x05 (7 * 2 ^ 12 + 2 * 2 ^ 28 + 2 ^ 60)
    let f := flight1 0x05 (7 * 2 ^ 12 + 2 * 2 ^ 28 + 2 ^ 60)
    let x : BitVec 256 := f.desc.extractLsb' 64 256
    let t := actsOn s f
    let h := huddleOf x 0
    MayAct s ref1 0x05 f ∧ namedCtx f (bits x 0 12) = 0 ∧ bit x 127 = false ∧ bits x 128 96 = 0 ∧ bits x 240 16 = 0 ∧
      clean f.desc 256 192 = true ∧ h.localMembers = 2 ∧ h.childParts = 0 ∧ h.combine = 0 ∧
      ctxFieldStatus t f (bits x 0 12) = Code.ok ∧ underQuota t 0 0x15 (huddlesHeld t 0) = true ∧
      t.huddles.length < 1024 := by decide +kernel

theorem witness_HuddleEntriesAreArmedAndMembersArrive_arrive :
    let s := { flying State.reset 0x06 7 with
      huddles := [(huddleKey 0 7, { no := 7, localMembers := 2, root := true })]
      time := { State.reset.time with state := .locked } }
    let f := flight1 0x06 7
    let t := waitOn (actsOn s f) (refKey ref1)
    issuedOp s ref1 0x06 = some f ∧ flightsBefore s (refKey ref1) = [] ∧ clean f.desc 32 32 = true ∧
      clean f.desc 128 320 = true ∧ opnd f.desc 0 16 = 7 ∧ opnd f.desc 16 16 = 0 ∧ ftUsable t = true ∧
      (tget t.huddles (huddleKey 0 7)).map (fun h => (h.round, h.localMembers, h.arrivals)) = some (0, 2, []) := by
  decide +kernel

/-- The entry, state and packet of the release and of a child part's arrival. -/
def leafEntry : Huddle := { ctx := 1, no := 7, parent := 9, state := .sentUp, sentUpAt := some 0 }
def rootEntry : Huddle :=
  { ctx := 1, no := 7, root := true, childParts := 1, state := .gathering, firstAt := some 0, round := 256 }
def huddling (h : Huddle) : State :=
  let g : GroupEntry := { ctx := 1, gen := 1, members := [9#32] }
  { node5 with huddles := [(huddleKey 1 7, h)], net := { node5.net with groups := [(0, g)] }, now := 100000000 }

theorem witness_HuddleEntriesAreArmedAndMembersArrive_release :
    let s := huddling leafEntry
    let p := controlPkt 0x07 9 1 (7 * 2 ^ 64)
    ∃ t, arrival s none p = .fresh t ∧ liveCtx t p = true ∧
      huddleKey p.ctx (bits p.ext 64 16) = huddleKey 1 7 ∧ tget t.huddles (huddleKey 1 7) = some leafEntry ∧
      leafEntry.root = false ∧ leafEntry.parent = p.src ∧ bits p.ext 80 8 = leafEntry.round % 256 ∧
      bit p.ext 88 = false ∧ leafEntry.state = .sentUp :=
  ⟨_, fresh_of (by decide +kernel), by decide +kernel⟩

theorem witness_HuddleEntriesAreArmedAndMembersArrive_failed :
    let s := huddling leafEntry
    let p := controlPkt 0x07 9 1 (7 * 2 ^ 64 + 2 ^ 88 + 0x0A * 2 ^ 89)
    ∃ t, arrival s none p = .fresh t ∧ liveCtx t p = true ∧
      huddleKey p.ctx (bits p.ext 64 16) = huddleKey 1 7 ∧ tget t.huddles (huddleKey 1 7) = some leafEntry ∧
      leafEntry.root = false ∧ leafEntry.parent = p.src ∧ bits p.ext 80 8 = leafEntry.round % 256 ∧
      bit p.ext 88 = true ∧ p.ext.extractLsb' 89 8 ≠ Code.ok :=
  ⟨_, fresh_of (by decide +kernel), by decide +kernel⟩

theorem witness_HuddleEntriesAreArmedAndMembersArrive_child :
    let s := huddling rootEntry
    let p := controlPkt 0x06 9 1 (7 * 2 ^ 64 + 2 ^ 88)
    ∃ t, arrival s none p = .fresh t ∧ liveCtx t p = true ∧
      huddleKey p.ctx (bits p.ext 64 16) = huddleKey 1 7 ∧ tget t.huddles (huddleKey 1 7) = some rootEntry ∧
      isChildNode t rootEntry p.src = true ∧ bits p.ext 80 8 = rootEntry.round % 256 ∧
      rootEntry.state ≠ .failed ∧ rootEntry.state ≠ .sentUp ∧
      (rootEntry.arrivals.any fun x => x.who == 65536 + p.src) = false :=
  ⟨_, fresh_of (by decide +kernel), by decide +kernel⟩

theorem witness_HuddleEntriesAreArmedAndMembersArrive_timeouts :
    passedUs (huddling rootEntry) 0 (huddleTimeout (huddling rootEntry) rootEntry) = true ∧
      passedUs (huddling leafEntry) 0 (huddleTimeout (huddling leafEntry) leafEntry + 1000) = true := by
  decide +kernel

/-- Operand of a MAP or UNMAP of one 64 KiB page at VA 65536, for MAP to the start of a scratchpad. -/
def pageOperand (pa : Nat) : Nat := 65536 * 2 ^ 16 + pa * 2 ^ 64 + 2 ^ 112 + (if pa = 0 then 0 else 2 ^ 136)

theorem witness_PagesAreMappedAndUnmapped_map :
    let o := pageOperand (3 * 2 ^ 45)
    let s := flying State.reset 0x10 o
    let f := flight1 0x10 o
    let t := actsOn s f
    MayAct s ref1 0x10 f ∧ opnd f.desc 0 12 = 0 ∧ opnd f.desc 12 2 = 0 ∧ opnd f.desc 16 48 = 65536 ∧
      opnd f.desc 64 48 = 3 * 2 ^ 45 ∧ opnd f.desc 112 24 = 1 ∧ opBit f.desc 138 = false ∧ clean f.desc 14 2 = true ∧
      clean f.desc 141 307 = true ∧ ctxFieldStatus t f 0 = Code.ok ∧ mapWaits t 0 = false ∧
      65536 + pageBytes 0 ≤ spaceEnd t 0 ∧ 0 + pageBytes 0 ≤ unitBound t 3 0 ∧ inHardware t (3 * 2 ^ 45) = false ∧
      paMapped t (3 * 2 ^ 45) 65536 = false ∧ ((queueOf t f.ctx f.queue).map (·.fQueue)).getD false = false ∧
      (extentsOf t 0).any (fun x => x.touches 65536 65536) = false := by decide +kernel

theorem witness_PagesAreMappedAndUnmapped_unmap :
    let o := pageOperand 0
    let e : Extent := { va := 65536, pa := 3 * 2 ^ 45, count := 2, read := true }
    let s := setPages (flying State.reset 0x11 o) 0 [e]
    let f := flight1 0x11 o
    let t := actsOn s f
    MayAct s ref1 0x11 f ∧ opnd f.desc 0 12 = 0 ∧ opnd f.desc 12 2 = 0 ∧ opnd f.desc 16 48 = 65536 ∧
      opnd f.desc 112 24 = 1 ∧ opBit f.desc 15 = false ∧ clean f.desc 64 48 = true ∧ clean f.desc 136 24 = true ∧
      clean f.desc 192 256 = true ∧ ctxFieldStatus t f 0 = Code.ok ∧ mapWaits t 0 = false ∧
      65536 + 65536 ≤ spaceEnd t 0 ∧ (extentsOf t 0).any (fun e => cutsThrough e 65536 65536) = false ∧
      (extentsOf t 0).any (fun e => e.touches 65536 65536) = true := by decide +kernel

theorem witness_PagesAreMappedAndUnmapped_waiting :
    let s := { flying State.reset 0x11 (pageOperand 0) with
      xlat := { State.reset.xlat with unmaps := [{ owner := 9 }] } }
    let f := flight1 0x11 (pageOperand 0)
    let o := pageOperand (3 * 2 ^ 45)
    let s' := { flying State.reset 0x10 o with xlat := { State.reset.xlat with mapQueue := [{ owner := 9 }] } }
    let f' := flight1 0x10 o
    MayAct s ref1 0x11 f ∧ unmapForm (actsOn s f) f = Code.ok ∧ mapWaits (actsOn s f) (opnd f.desc 0 12) = true ∧
      MayAct s' ref1 0x10 f' ∧ mapForm (actsOn s' f') f' = Code.ok ∧
      mapWaits (actsOn s' f') (opnd f'.desc 0 12) = true := by decide +kernel

/-- A state with an UNMAP in progress that nothing holds. -/
def cutting : State :=
  let u : UnmapJob := { owner := refKey ref1, va := 65536, length := 65536, limit := some 0 }
  { State.reset with xlat := { State.reset.xlat with unmaps := [u] } }

theorem witness_PagesAreMappedAndUnmapped_drain :
    let u : UnmapJob := { owner := refKey ref1, va := 65536, length := 65536, limit := some 0 }
    (cutting.xlat.unmaps.find? fun u => u.owner == refKey ref1) = some u ∧
      holdersOf cutting u.ctx u.va u.length = [] ∧ resvCount cutting u.ctx u.va u.length = 0 ∧
      requestHeld cutting u.ctx u.va u.length = false ∧
      u.limit = some 0 ∧ passedUs cutting u.cutAt 0 = true := by decide +kernel

theorem witness_PagesAreMappedAndUnmapped_walk :
    let w : Walk := { va := 65536 }
    let u : TransUnit := { walks := [w] }
    let s := { State.reset with xlat := { State.reset.xlat with units := State.reset.xlat.units.set 3 u } }
    let e : Extent := { va := 65536, pa := 3 * 2 ^ 45, count := 2, read := true }
    (s.xlat.units.get 3).walks = w :: [] ∧ extentAt s w.ctx w.va = none ∧
      ((setPages s 0 [e]).xlat.units.get 3).walks = w :: [] ∧ extentAt (setPages s 0 [e]) w.ctx w.va = some e ∧
      ((setPages s 0 [e]).xlat.units.get 3).tlb.length < 8192 ∧
      ((setPages s 0 [e]).xlat.units.get 3).tlb.length < reg (setPages s 0 [e]) 0x2800 0x01 := by
  decide +kernel

theorem witness_WindowsAreOpenedAndClosed_openAt :
    let o := 7 + 3 * 2 ^ 14 + 65536 * 2 ^ 64 + 2 ^ 112
    let s := flying State.reset 0x07 o
    let x := (flight1 0x07 o).desc
    let t := actsOn s (flight1 0x07 o)
    MayAct s ref1 0x07 (flight1 0x07 o) ∧ opnd x 0 14 = 7 ∧ opnd x 136 12 = 0 ∧ opnd x 64 48 % 65536 = 0 ∧
      opnd x 112 23 = 1 ∧ opBit x 18 = false ∧ clean x 19 13 = true ∧ clean x 56 8 = true ∧ opBit x 135 = false ∧
      clean x 148 300 = true ∧ ctxFieldStatus t (flight1 0x07 o) 0 = Code.ok ∧ windowValid t 7 = false ∧
      65536 + 65536 ≤ spaceEnd t 0 := by decide +kernel

theorem witness_WindowsAreOpenedAndClosed_closeAt :
    let w : Window := { valid := true, gen := 1, length := 1 }
    let s := flying State.reset 0x08 7
    let s := { s with xlat := { s.xlat with windows := [(7, w)] } }
    let f := flight1 0x08 7
    let t := actsOn s f
    MayAct s ref1 0x08 f ∧ opnd f.desc 0 14 = 7 ∧ namedCtx f (opnd f.desc 136 12) = w.ctx ∧ clean f.desc 14 122 = true ∧
      clean f.desc 148 300 = true ∧ ctxFieldStatus t f (opnd f.desc 136 12) = Code.ok ∧ windowValid t 7 = true ∧
      tget t.xlat.windows 7 = some w ∧ f.ctx = 0 := by decide +kernel

theorem witness_WindowsAreOpenedAndClosed_lapse :
    let t : Tbl Reservation := [(4, {})]
    let s := { State.reset with xlat := { State.reset.xlat with resv := ⟨[], t, [], []⟩ }, now := 18000000 }
    tget (s.xlat.resv.get 1) 4 = some {} ∧ passedUs s 0 (reg s 0x2800 0x06) = true := by decide +kernel

theorem witness_DescriptorsAreDispatchedAndComplete_dispatch :
    ∃ r, queueOf queueing 1 3 = some r ∧ r.slots = [{ desc := 0 }] ∧ r.quarter = 2 ∧ running queueing = true ∧
      queueing.core.stopped = false ∧ ctxActive queueing 1 = true ∧ queueReady queueing r = true ∧
      turnOf queueing 2 1 = true ∧ r.dispatched < 2 ^ 32 - 1 :=
  ⟨_, rfl, by decide +kernel⟩

theorem witness_DescriptorsAreDispatchedAndComplete_complete :
    let f : Flight := { seq := 1, progress := .final Code.ok 0 }
    let s := { State.reset with q := { State.reset.q with flights := [(refKey ref1, f)] } }
    flightOf s ref1 = some f ∧ f.progress = .final Code.ok 0 := by decide +kernel

theorem witness_DescriptorsAreDispatchedAndComplete_nop :
    issuedOp (flying State.reset 0 0) ref1 0x00 = some (flight1 0 0) ∧ bits (flight1 0 0).desc 64 448 = 0 := by
  decide +kernel

theorem witness_DescriptorsAreDispatchedAndComplete_wait :
    let s := flying paged 0x01 65536
    let f := flight1 0x01 65536
    let t := actsOn s f
    MayAct s ref1 0x01 f ∧ clean f.desc 50 14 = true ∧ clean f.desc 160 288 = true ∧
      flagCheck t f.ctx (opnd f.desc 0 48) (opnd f.desc 48 2) = none ∧ watchesOn t f.quarter < 1024 ∧
      heldBy t (.command (refKey ref1)) f.ctx [(opnd f.desc 0 48, 8)] = none := by
  decide +kernel

theorem witness_DescriptorsAreDispatchedAndComplete_timeout :
    let f : Flight := { flight1 0x01 (65536 + 2 ^ 128) with progress := .working }
    let s := { paged with q := { paged.q with flights := [(refKey ref1, f)] }, now := 1800 }
    waitingOp s ref1 0x01 = some f ∧ opnd f.desc 128 32 = 1 ∧ passedUs s f.since 1 = true := by decide +kernel

/-- A state with play 5 of context 0, bound to an open queue 4 of quarter 1. -/
def withPlay (s : State) (p : Play) : State :=
  let r : Queue := { queue := 4, quarter := 1, state := .opened }
  { s with q := { s.q with plays := [(playKey 0 5, p)], queues := [(queueKey 0 4, r)] } }

theorem witness_PlaysAreLoadedArmedAndStarted_start :
    let p : Play := { no := 5, queue := 4 }
    let s := flying (withPlay State.reset p) 0x02 5
    let f := flight1 0x02 5
    MayAct s ref1 0x02 f ∧ playKey f.ctx (opnd f.desc 0 16) = playKey 0 5 ∧ clean f.desc 16 432 = true ∧
      tget (actsOn s f).q.plays (playKey 0 5) = some p := by decide +kernel

theorem witness_PlaysAreLoadedArmedAndStarted_load :
    let o := 6 + 65536 * 2 ^ 16 + 2 * 2 ^ 64
    let s := flying paged 0x0B o
    let f := flight1 0x0B o
    let t := actsOn s f
    MayAct s ref1 0x0B f ∧ f.ctx = 0 ∧ opnd f.desc 0 16 = 6 ∧ opnd f.desc 16 48 = 65536 ∧ opnd f.desc 64 9 = 2 ∧
      clean f.desc 73 375 = true ∧ tget t.q.plays (playKey 0 6) = none ∧
      sideCheck t 0 [(65536, 128)] .read = none ∧ (readVa t 0 65536 128).status = Code.ok ∧
      earlierMeets t (refKey ref1) [(.va 65536, 128)] = false ∧
      heldBy t (.command (refKey ref1)) 0 [(65536, 128)] = none ∧
      queueOf t 0 0 = none ∧ underQuota t 0 0x16 (tcount t.q.plays fun _ p => p.ctx == 0) = true ∧
      t.q.plays.length < 16384 ∧ storeRun t 0 2 = some 0 := by decide +kernel

theorem witness_PlaysAreLoadedArmedAndStarted_arm :
    let p : Play := { no := 5, queue := 4, store := 1, descs := [0] }
    let o := 2 + 4 * 2 ^ 15 + 5 * 2 ^ 32 + 65536 * 2 ^ 64
    let s := flying (withPlay paged p) 0x0C o
    let f := flight1 0x0C o
    let x := f.desc
    let t := actsOn s f
    MayAct s ref1 0x0C f ∧ namedCtx f (opnd x 3 12) = 0 ∧ opnd x 32 16 = 5 ∧ opBit x 0 = false ∧ clean x 30 2 = true ∧
      clean x 48 16 = true ∧ clean x 192 256 = true ∧ opnd x 25 2 = 0 ∧ opnd x 1 2 = 1 ∧ opnd x 64 48 = 65536 ∧
      ctxFieldStatus t f (opnd x 3 12) = Code.ok ∧ tget t.q.plays (playKey 0 5) = some p ∧ p.busy = false ∧
      (queueOf t 0 (opnd x 15 10)).map (fun b => (b.quarter, b.state)) = some (1, .opened) ∧
      flagCheck t 0 65536 0 = none ∧ heldBy t (.command (refKey ref1)) 0 [(65536, 8)] = none ∧ watchesOn (dropPlayWatch t (playKey 0 5)) 1 < 1024 := by decide +kernel

theorem witness_PlaysAreLoadedArmedAndStarted_disarm :
    let p : Play := { no := 5, queue := 4, armed := true, state := .armed }
    let s := flying (withPlay State.reset p) 0x0D 5
    let f := flight1 0x0D 5
    MayAct s ref1 0x0D f ∧ playKey f.ctx (opnd f.desc 0 16) = playKey 0 5 ∧ clean f.desc 16 432 = true ∧
      tget (actsOn s f).q.plays (playKey 0 5) = some p := by decide +kernel

theorem witness_PlaysAreLoadedArmedAndStarted_append :
    let p : Play := { no := 5, queue := 4, state := .pending, descs := [0] }
    let s := withPlay State.reset p
    tget s.q.plays (playKey 0 5) = some p ∧
      (queueOf s 0 p.queue).map (fun r => (r.state, ringFree r)) = some (.opened, 256) ∧ running s = true ∧
      (queueOf s 0 p.queue).map (fun r => sourcePasses (nodeId s) r.srcBase r.srcMask) = some true := by
  decide +kernel

/-- A state with ring 2 of context 0. -/
def withRing (s : State) (r : Ring) : State := { s with q := { s.q with rings := [(ringKey 0 2, r)] } }

theorem witness_RingsAreOpenedWrittenAndClosed_whistle :
    let s := flying (withRing State.reset { no := 2 }) 0x0E 2
    let f := flight1 0x0E 2
    MayAct s ref1 0x0E f ∧ clean f.desc 16 48 = true ∧ clean f.desc 128 320 = true ∧
      tget (actsOn s f).q.rings (ringKey f.ctx (opnd f.desc 0 16)) = some { no := 2 } := by decide +kernel

theorem witness_RingsAreOpenedWrittenAndClosed_openAt :
    let o := 2 + 4 * 2 ^ 32
    let s := flying State.reset 0x12 o
    let x := (flight1 0x12 o).desc
    let t := actsOn s (flight1 0x12 o)
    MayAct s ref1 0x12 (flight1 0x12 o) ∧ opBit x 28 = false ∧ opBit x 31 = false ∧ clean x 37 3 = true ∧
      clean x 52 12 = true ∧ clean x 96 32 = true ∧ clean x 256 192 = true ∧ (ringOf x 0).sizeLog2 = 4 ∧
      handleOffset (ringOf x 0).base % (32 * 2 ^ 4) = 0 ∧
      ctxFieldStatus t (flight1 0x12 o) (opnd x 16 12) = Code.ok ∧ thas t.q.rings (ringKey 0 2) = false ∧
      ringTargetOk t (ringOf x 0) = true ∧ underQuota t 0 0x13 (tcount t.q.rings fun _ r => r.ctx == 0) = true := by
  decide +kernel

theorem witness_RingsAreOpenedWrittenAndClosed_closeAt :
    let s := flying (withRing State.reset { no := 2 }) 0x13 2
    let f := flight1 0x13 2
    MayAct s ref1 0x13 f ∧ ringKey f.ctx (opnd f.desc 0 16) = ringKey 0 2 ∧ clean f.desc 16 432 = true ∧
      tget (actsOn s f).q.rings (ringKey 0 2) = some { no := 2 } := by decide +kernel

theorem witness_RingsAreOpenedWrittenAndClosed_held :
    let h : Held := { record := {}, since := 0 }
    let r : Ring := { no := 2, sizeLog2 := 4, held := [(0, h)] }
    let s := { withRing State.reset r with now := 1800 }
    tget s.q.rings (ringKey 0 2) = some r ∧ tget r.held 0 = some h ∧
      passedNs s h.since (if r.coalTime = 0 then 1000 else r.coalTime) = true ∧ ringFull r = false := by decide +kernel

theorem witness_RingsAreOpenedWrittenAndClosed_reread :
    let r : Ring := { no := 2, sizeLog2 := 4, written := 16 }
    let s := withRing State.reset r
    tget s.q.rings (ringKey 0 2) = some r ∧ ringFull r = true ∧ r.headAsked = false ∧ r.lost = none ∧
      headDue s r = true ∧ ringFlowOpen s r r.head = true := by decide +kernel

theorem witness_QueuesAreOpenedClosedAndResumed_openAt :
    let o := 3 * 2 ^ 12 + 2 * 2 ^ 22 + 6 * 2 ^ 32
    let s := flying State.reset 0x09 o
    let f := flight1 0x09 o
    let x : BitVec 96 := f.desc.extractLsb' 64 96
    let t := actsOn s f
    let r := queueRecord x 0
    MayAct s ref1 0x09 f ∧ namedCtx f (bits x 0 12) = 0 ∧ queueMisaligned x = false ∧ clean f.desc 96 352 = true ∧
      ctxFieldStatus t f (bits x 0 12) = Code.ok ∧ queueOf t r.ctx r.queue = none ∧ queueFits t r = true := by
  decide +kernel

/-- A state with queue 3 of context 0 in some state. -/
def withQueue3 (s : State) (r : Queue) : State := { s with q := { s.q with queues := [(queueKey 0 3, r)] } }

theorem witness_QueuesAreOpenedClosedAndResumed_closeAt :
    let r : Queue := { queue := 3, state := .opened }
    let s := flying (withQueue3 State.reset r) 0x0A 3
    let f := flight1 0x0A 3
    let t := actsOn s f
    MayAct s ref1 0x0A f ∧ opnd f.desc 0 10 = 3 ∧ clean f.desc 10 438 = true ∧ queueOf t f.ctx 3 = some r ∧
      r.state ≠ .closed ∧ tany t.q.plays (fun _ p => p.ctx == f.ctx && p.queue == 3 && decide (p.state ≠ .idle)) = false := by
  decide +kernel

theorem witness_QueuesAreOpenedClosedAndResumed_resume :
    let r : Queue := { queue := 3, state := .error }
    let s := flying (withQueue3 State.reset r) 0x0F 3
    let f := flight1 0x0F 3
    let t := actsOn s f
    MayAct s ref1 0x0F f ∧ opnd f.desc 0 10 = 3 ∧ namedCtx f (opnd f.desc 64 12) = 0 ∧ clean f.desc 10 6 = true ∧
      clean f.desc 17 47 = true ∧ clean f.desc 76 372 = true ∧ ctxFieldStatus t f 0 = Code.ok ∧
      queueOf t 0 3 = some r ∧ r.state = .error := by decide +kernel

theorem witness_QueuesAreOpenedClosedAndResumed_held :
    let h : HeldWrite := { pkt := controlPkt 0x41 9 0 0, flow := 0, since := 0 }
    let s := { State.reset with now := 2 ^ 60, net := { State.reset.net with heldFlags := State.reset.net.heldFlags.set 1 [h] } }
    s.net.heldFlags.get 1 = [h] ∧ h.pkt.src = 9 ∧ h.pkt.srcQueue = 0 ∧ h.pkt.seq = 1 ∧
      passedUs s h.since (resendTime s 9) = true := by decide +kernel

theorem witness_MoversStartTheirWork :
    let o := 65536 + (65536 + 256) * 2 ^ 64 + 64 * 2 ^ 128 + 2 ^ 160
    let s := flying paged 0x20 o
    let f := flight1 0x20 o
    let m := moverOp f.desc false
    MayAct s ref1 0x20 f ∧ moverMisaligned f.desc m = false ∧
      ((queueOf (actsOn s f) f.ctx f.queue).map (·.fQueue)).getD false = false ∧
      trackerFull (actsOn s f) f.quarter = false ∧ moverCheck (actsOn s f) f.ctx m = none ∧
      (let s := flying paged 0x21 o
       let f := flight1 0x21 o
       let m := moverOp f.desc true
       MayAct s ref1 0x21 f ∧ moverMisaligned f.desc m = false ∧ moverCheck (actsOn s f) f.ctx m = none) := by
  decide +kernel

theorem witness_MoversStartTheirWork_overlap :
    let o := 65536 + (65536 + 32) * 2 ^ 64 + 64 * 2 ^ 128 + 2 ^ 160
    let s := flying paged 0x20 o
    let f := flight1 0x20 o
    let m := moverOp f.desc false
    MayAct s ref1 0x20 f ∧ moverMisaligned f.desc m = false ∧ moverCheck (actsOn s f) f.ctx m = none ∧
      sidesMeet m = some (65536, 65568) ∧ inSource m 65536 (sideByte 65568 m.dstPitch m.rowBytes 31) = true ∧
      inSource m 65536 (sideByte 65568 m.dstPitch m.rowBytes 32) = false ∧
      dstByteAt m 65568 (sideByte 65536 m.srcPitch m.rowBytes 32) = some 0 ∧
      dstByteAt m 65568 (sideByte 65536 m.srcPitch m.rowBytes 31) = none := by decide +kernel

theorem witness_WindowRequestsArePerformed_read :
    let p := controlPkt 0x01 9 1 (h7 0 + 256 * 2 ^ 64)
    ∃ t u va, arrival served none p = .fresh t ∧ p.op = 0x01 ∧ passWindow t p p.bytes .read = (u, .ok va) ∧
      heldBy u (.request p) p.ctx [(va, p.bytes)] = none ∧ (readVa u p.ctx va p.bytes).status = Code.ok :=
  ⟨_, _, _, fresh_of (by decide +kernel), rfl, passed_of (by decide +kernel), by decide +kernel⟩

theorem witness_WindowRequestsArePerformed_write :
    let p := dataPkt 0x40 9 1 (h7 0) [1, 2, 3]
    ∃ t u va, arrival served (some 0) p = .fresh t ∧ p.op = 0x40 ∧ passWindow t p p.bytes .write = (u, .ok va) ∧
      heldBy u (.request p) p.ctx [(va, p.bytes)] = none ∧ (storeVa u p.ctx va p.data).status = Code.ok :=
  ⟨_, _, _, fresh_data (by decide +kernel) (by decide +kernel), by decide +kernel, passed_of (by decide +kernel), by decide +kernel⟩

theorem witness_WindowRequestsArePerformed_flag :
    let p := dataPkt 0x41 9 1 (h7 0) [1, 2, 3, 4, 5, 6, 7, 8]
    ∃ t u va f, arrival served (some 0) p = .fresh t ∧ p.op = 0x41 ∧ tget t.net.flows (pktFlow p) = some f ∧
      coveredFinal f p.seq = true ∧ spanRefused f p.seq = false ∧
      passWindow t p p.bytes .flagged = (u, .ok va) ∧ heldBy u (.request p) p.ctx [(va, p.bytes)] = none ∧
      (storeVa u p.ctx va p.data).status = Code.ok :=
  ⟨_, _, _, { src := 9, srcInc := 0 }, fresh_data (by decide +kernel) (by decide +kernel), by decide +kernel, by decide +kernel, by decide +kernel,
    by decide +kernel, passed_of (by decide +kernel), by decide +kernel⟩

theorem witness_WindowRequestsArePerformed_atomic :
    let p := controlPkt 0x11 9 1 (h7 8 + 5 * 2 ^ 64)
    ∃ t u va, arrival served none p = .fresh t ∧ isAtomicOp p.op = true ∧
      passWindow t p (atomicBytes p.op) .atomic = (u, .ok va) ∧ heldBy u (.request p) p.ctx [(va, atomicBytes p.op)] = none ∧
      resultsOn u (pktHome p) < 8192 ∧ (atomicQueue u (controllerOf ((paOf u p.ctx va).getD 0))).length < 1024 ∧
      (readVa (queueAtomic u ((paOf u p.ctx va).getD 0) p.op) p.ctx va 8).status = Code.ok ∧
      (storeVa u p.ctx va (leBytes 8 0)).status = Code.ok :=
  ⟨_, _, _, fresh_of (by decide +kernel), by decide +kernel, passed_of (by decide +kernel), by decide +kernel⟩

theorem witness_WindowRequestsArePerformed_cas64 :
    let p := dataPkt 0x45 9 1 (h7 8) (List.replicate 16 0)
    ∃ t u va, arrival served (some 0) p = .fresh t ∧ p.op = 0x45 ∧ passWindow t p 8 .atomic = (u, .ok va) ∧
      heldBy u (.request p) p.ctx [(va, 8)] = none :=
  ⟨_, _, _, fresh_data (by decide +kernel) (by decide +kernel), by decide +kernel, passed_of (by decide +kernel), by decide +kernel⟩

theorem witness_WindowRequestsArePerformed_cas128 :
    let p := dataPkt 0x46 9 1 (h7 16) (List.replicate 32 0)
    ∃ t u va, arrival served (some 0) p = .fresh t ∧ p.op = 0x46 ∧ passWindow t p 16 .atomic = (u, .ok va) ∧
      heldBy u (.request p) p.ctx [(va, 16)] = none :=
  ⟨_, _, _, fresh_data (by decide +kernel) (by decide +kernel), by decide +kernel, passed_of (by decide +kernel), by decide +kernel⟩

theorem witness_ProbesPushesAndRelaysAreTaken_probe :
    let p := controlPkt 0x02 9 1 (h7 0 + 65536 * 2 ^ 64)
    ∃ t va, arrival served none p = .fresh t ∧ probeOp (bits p.ext 102 2) = .read ∧
      inboundCheck t (inboundOf p (bits p.ext 64 38) .read) = .ok va ∧ trackerFull t (pktHome p) = false :=
  ⟨_, _, fresh_of (by decide +kernel), by decide +kernel, ok_of (by decide +kernel), by decide +kernel⟩

theorem witness_ProbesPushesAndRelaysAreTaken_push :
    let p := dataPkt 0x43 9 1 ((mkHandle 5 0 (3 * 2 ^ 16 + 2 ^ 26)).toNat) (List.replicate 256 0)
    ∃ t, arrival queueing (some 0) p = .fresh t ∧ pushTurn t p = true ∧ pushStatus t p = Code.ok :=
  ⟨_, fresh_data (by decide +kernel) (by decide +kernel), by decide +kernel⟩

theorem witness_ProbesPushesAndRelaysAreTaken_pushWaits :
    let p := Packet.sealed
      { hdr := Hdr.word { opcode := 0x43, data := true, src := 9, dst := 5, ctx := 1, gen := 1, seq := 2, floor := 1 }
        ext := BitVec.ofNat 128 ((mkHandle 5 0 (3 * 2 ^ 16 + 2 ^ 26)).toNat) + dataExt 0 256 0 0
        payload := List.replicate 256 0 }
    let s := { queueing with net := { queueing.net with flows := [(pktFlow p, { src := 9 })] } }
    ∃ t, arrival s (some 0) p = .fresh t ∧ pushTurn t p = false :=
  ⟨_, by rw [arrival_crcOk (crcOk_sealed _) (by decide +kernel)]; exact fresh_of (by decide +kernel), by decide +kernel⟩

/-- Node 5 with a relay group of context 1. -/
def relaying : State :=
  let g : GroupEntry := { kind := 1, ctx := 1, gen := 1, members := [11] }
  { node5 with net := { node5.net with groups := [(4, g)] } }

theorem witness_ProbesPushesAndRelaysAreTaken_relay :
    let p := dataPkt 0x48 9 1 ((mkHandle 5 0 0).toNat + 4 * 2 ^ 96) [1, 2, 3]
    ∃ t, arrival relaying (some 0) p = .fresh t ∧ relayStatus t p = Code.ok ∧
      (tget t.net.groups (p.aux % 4096)).map (·.members) = some [11] ∧
      (tget t.net.flows (pktFlow p)).isSome = true ∧ p.op = 0x48 :=
  ⟨_, fresh_data (by decide +kernel) (by decide +kernel), by decide +kernel⟩

theorem witness_ProbesPushesAndRelaysAreTaken_relayFlag :
    let p := dataPkt 0x49 9 1 ((mkHandle 5 0 0).toNat + 4 * 2 ^ 96) [1, 2, 3, 4, 5, 6, 7, 8]
    ∃ t f, arrival relaying (some 0) p = .fresh t ∧ relayStatus t p = Code.ok ∧
      (tget t.net.groups (p.aux % 4096)).map (·.members) = some [11] ∧
      tget t.net.flows (pktFlow p) = some f ∧ coveredFinal f p.seq = true ∧ spanRefused f p.seq = false ∧ p.op = 0x49 :=
  ⟨_, { src := 9 }, fresh_data (by decide +kernel) (by decide +kernel), by decide +kernel⟩

theorem witness_ProbesPushesAndRelaysAreTaken_copy :
    let p := dataPkt 0x40 9 1 (h7 0) [1, 2, 3]
    let f : Flow := { src := 9, done := [1] }
    let s := { served with net := { served.net with flows := [(pktFlow p, f)] } }
    ∃ t, arrival s (some 0) p = .copy t := ⟨_, copy_data (by decide +kernel) (by decide +kernel)⟩

theorem witness_ProbesPushesAndRelaysAreTaken_reserved : isListedOp (controlPkt 0x30 9 1 0).op = false := by
  decide +kernel

/-- Node 5 with one request of an opcode outstanding to node 9. -/
def asked (op : Nat) : State :=
  let r : Req := { pkt := controlPkt op 5 1 0 }
  { node5 with net := { node5.net with reqs := [(reqKey 9 0 1, r)] } }

theorem witness_RepliesAndTimersSettleRequests :
    let p (op ext : Nat) := controlPkt op 9 1 ext
    let ready (p : Packet) (op : Nat) : Prop :=
      p.isData = isDataOp p.op ∧ p.dst = nodeId (asked op) ∧ p.dstInc = ownInc (asked op) ∧ p.crcOk = true ∧ replyMalformed p = false ∧
        (tget (learnInc (asked op) p.src p.srcInc).net.reqs (reqKey p.src p.srcQueue p.seq)).map (fun r => (r.pkt.op, r.resends)) = some (op, 0)
    (ready (p 0x03 0) 0x06 ∧ (p 0x03 0).ext.extractLsb' 0 8 = Code.ok) ∧
      (ready (p 0x03 2) 0x06 ∧ (p 0x03 2).ext.extractLsb' 0 8 ≠ Code.ok) ∧
      (ready (p 0x05 0) 0x11 ∧ isAtomicOp 0x11 = true) ∧
      (ready (p 0x04 (5 * 2 ^ 8)) 0x06 ∧ bits (p 0x04 (5 * 2 ^ 8)).ext 8 8 = 5) ∧
      (ready (p 0x04 (1 * 2 ^ 8)) 0x06 ∧ bits (p 0x04 (1 * 2 ^ 8)).ext 8 8 = 1 ∧
        0 < reg (learnInc (asked 0x06) 9 0) 0x3E00 0x03) := by decide +kernel

theorem witness_RepliesAndTimersSettleRequests_data (op : Nat) (h : op = 0x42 ∨ op = 0x47) :
    let p := dataPkt op 9 1 0 (List.replicate 16 7)
    p.isData = isDataOp p.op ∧ p.dst = nodeId (asked 0x01) ∧ p.dstInc = ownInc (asked 0x01) ∧ p.crcOk = true ∧
      replyMalformed p = false ∧
      (tget (learnInc (asked 0x01) p.src p.srcInc).net.reqs (reqKey p.src p.srcQueue p.seq)).map (·.pkt.op) = some 0x01 ∧
      (tget (learnInc (asked 0x46) p.src p.srcInc).net.reqs (reqKey p.src p.srcQueue p.seq)).map (·.pkt.op) = some 0x46 := by
  rcases h with rfl | rfl <;>
    exact ⟨by decide +kernel, by decide +kernel, by decide +kernel, crcOk_sealed _, by decide +kernel, by decide +kernel, by decide +kernel⟩

theorem witness_RepliesAndTimersSettleRequests_malformed :
    let p := controlPkt 0x03 9 1 (2 ^ 30)
    p.isData = isDataOp p.op ∧ p.dst = nodeId (asked 0x06) ∧ p.dstInc = ownInc (asked 0x06) ∧ p.crcOk = true ∧
      replyMalformed p = true ∧
      (tget (learnInc (asked 0x06) p.src p.srcInc).net.reqs (reqKey p.src p.srcQueue p.seq)).map (·.pkt.op) = some 0x06 := by
  decide +kernel

theorem witness_RepliesAndTimersSettleRequests_timers :
    let r : Req := { pkt := controlPkt 0x06 5 1 0, drewCheck := true }
    let b : Req := { r with backoff := some (0, 1) }
    let m : MergedAck := { last := controlPkt 0x06 9 1 0, run := 1, since := 0 }
    let f : Flow := { src := 9 }
    let e : ResultEntry := {}
    let s := { node5 with
      now := 2 ^ 60
      net := { node5.net with
        reqs := [(reqKey 9 0 1, r), (reqKey 9 0 2, b)], acks := [(3, m)], flows := [(flowKey 9 0 0, f)]
        results := [(resultKey (flowKey 9 0 0) 1, e)] } }
    outstanding s 9 0 1 = some r ∧ passedUs s r.timerFrom (resendTime s 9) = true ∧ r.due = false ∧
      r.resends < reg s 0x3E00 0x03 ∧ outstanding s 9 0 2 = some b ∧ passedUs s 0 1 = true ∧
      passedUs s r.firstSent (8 * resendTime s 9) = true ∧ m.last.src = 9 ∧ m.last.srcQueue = 0 ∧
      passedNs s m.since (reg s 0x3E00 0x05) = true ∧ tget s.net.flows (flowKey 9 0 0) = some f ∧
      passedUs s f.used (reg s 0x3E00 0x04) = true ∧ f.busy = [] ∧
      tget s.net.results (resultKey (flowKey 9 0 0) 1) = some e ∧ passedUs s e.since (reg s 0x3E00 0x04) = true := by
  decide +kernel

/-- A state with one packet in FIFO 1 of port 0, not yet routed or routed to port 3. -/
def crossing (out : Option Nat) (admitted got : Nat) : State :=
  let c : CorePkt := { pkt := controlPkt 0x06 9 1 0, out := out, admitted := admitted, got := got, vlIn := 1, vlOut := 1 }
  { node5 with core := { node5.core with fifo := [(1, [4])], pkts := [(4, c)] } }

theorem witness_PacketsCrossTheCore_route :
    (oldestUnrouted (crossing none 0 0) 0 1).map (·.1) = some 4 ∧ (crossing none 0 0).core.stopped = false := by
  decide +kernel

theorem witness_PacketsCrossTheCore_cell :
    let s := crossing (some 3) 0 0
    s.core.stopped = false ∧ 0 = (0 + s.now) % 80 ∧ tget s.core.fed 0 ≠ some (s.now + 1) ∧
      offered s 0 0 = some 1 := by decide +kernel

theorem witness_PacketsCrossTheCore_middle :
    let c : CoreCell := { pkts := [4], vl := 1 }
    let s := crossing (some 3) 1 0
    let s := { s with core := { s.core with fifo := [], cells := [(cellKey 0 3, [c])] }, now := 3 }
    s.core.stopped = false ∧ 3 = (0 + s.now) % 80 ∧ tget s.core.gave 0 ≠ some (s.now + 1) ∧
      sendable s 0 3 = some c ∧ tget s.core.cells (cellKey 0 3) = some [c] := by decide +kernel

theorem witness_PacketsCrossTheCore_spilled :
    let c : CoreCell := { spilled := true }
    ∃ x ∈ (fetchCells 0 State.reset [c]).2, x.spilled = true :=
  ⟨_, List.mem_singleton.mpr rfl, rfl⟩

theorem witness_PacketsCrossTheCore_transmit :
    let s := setReg (crossing (some 3) 1 1) 0x3003 1 6
    let s := { s with core := { s.core with fifo := [] } }
    s.core.stopped = false ∧ (nextOut s 3).map (fun x => x.1.1) = some 4 := by decide +kernel

theorem witness_FlowControlAndCongestionAct :
    let s := setReg node5 0x3000 1 6
    let l : Limiter := { rate := 100, rmax := 50000 }
    let u := { s with core := { s.core with limiters := ⟨[(0, l)], [], [], []⟩ }, now := 14400 }
    tget s.core.refreshed 0 = none ∧ portActive s 0 = true ∧
      (let w : BitVec 64 := 0x20 + 0x100
       bits w 4 4 = 2 ∧ bits w 0 4 = 0 ∧ bits w 18 46 = 0 ∧ ((List.range 5).any fun v => bits w (8 + 2 * v) 2 == 3) = false) ∧
      u.core.sampledAt + 32 ≤ u.now ∧ unsequencedBad (controlPkt 0x08 9 1 0) = false ∧ extZero (controlPkt 0x08 9 1 0) 23 1 = true ∧
      extZero (controlPkt 0x08 9 1 0) 40 88 = true ∧ (controlPkt 0x08 9 1 0).dst = nodeId s ∧
      tget (u.core.limiters.get (issuerQuarter 0)) 0 = some l ∧ passedUs u l.lastChange 8 = true := by decide +kernel

/-- Operand of a GROUP_ARM of 256 FP32 elements of one contributor to window 7. -/
def armOperand : Nat := 2 ^ 1 + 3 * 2 ^ 13 + 8 * 2 ^ 44 + 256 * 2 ^ 64 + 2 ^ 96 + 2 ^ 109 + 7 * 2 ^ 128

theorem witness_GroupsAreArmedAndTakeContributions_arm :
    let s := flying served 0x40 armOperand
    let f := flight1 0x40 armOperand
    let t := actsOn s f
    let x : BitVec 320 := f.desc.extractLsb' 64 320
    let g := groupOf x 1
    MayAct s ref1 0x40 f ∧ namedCtx f (bits x 1 12) = 1 ∧ groupReserved f.desc = false ∧ groupMisaligned t g = false ∧
      ctxFieldStatus t f (bits x 1 12) = Code.ok ∧ groupProtected t g = false ∧
      thas t.scrum.groups (groupKey 1 g.no) = false ∧
      rangesCheck t 1 [(((groupWindow t g).map (·.baseVa)).getD 0 + g.destOffset, g.destBytes, .reduce)] = none ∧
      trackerFull t (steer 1 g.no) = false := by decide +kernel

theorem witness_GroupsAreArmedAndTakeContributions_quota :
    let s := flying (setReg served 0x7001 0x18 1) 0x40 armOperand
    groupQuota (actsOn s (flight1 0x40 armOperand)) (groupOf ((flight1 0x40 armOperand).desc.extractLsb' 64 320) 1) = false := by
  decide +kernel

/-- A group of one segment of 256 FP32 elements, its destination in window 7. -/
def gathering : State :=
  let g : Group := { ctx := 1, no := 3, elements := 256, destWindow := 7, destVa := 65536 }
  { served with scrum := { served.scrum with groups := [(groupKey 1 3, g)] } }

/-- One segment of zeros. -/
def zeroSegment : Bytes := List.replicate 1024 0

/-- The group that gathers. -/
def group3 : Group := { ctx := 1, no := 3, elements := 256, destWindow := 7, destVa := 65536 }

theorem witness_GroupsAreArmedAndTakeContributions_contrib :
    let p := dataPkt 0x44 9 1 (h7 0 + 3 * 2 ^ 96) zeroSegment
    let g := group3
    let r := passWindow gathering p (contribLen gathering p) .reduce
    (∃ t, arrival gathering (some 0) p = .fresh t) ∧ (passed r).isSome = true ∧
      heldBy r.1 (.request p) p.ctx (contribLoads r.1 p) = none ∧
        tget r.1.scrum.groups (groupKey p.ctx (p.aux % 65536)) = some g ∧
        (∃ segs, groupChecks g p = .ok segs ∧ (initStatus r.1 g segs).2 = Code.ok) :=
  ⟨⟨_, fresh_data (by decide +kernel) (by decide +kernel)⟩, by decide +kernel, by decide +kernel, by decide +kernel,
    _, ok_of (by decide +kernel), by decide +kernel⟩

theorem witness_GroupsAreArmedAndTakeContributions_contribute :
    let o := 65536 + h7 0 * 2 ^ 64 + 3 * 2 ^ 128 + 256 * 2 ^ 152 + 8 * 2 ^ 188
    let s := flying paged 0x42 o
    let f := flight1 0x42 o
    MayAct s ref1 0x42 f ∧ contribMisaligned f.desc = false ∧ trackerFull (actsOn s f) f.quarter = false ∧
      localSide (actsOn s f) f.ctx (placeOf (opBit f.desc 183) (opnd f.desc 0 64)) [0] 1024 .read = none ∧
      opnd f.desc 152 31 / 2 ^ opnd f.desc 188 4 * contribSeg f.desc = 1024 := by decide +kernel

theorem witness_RoundsEndAndAreWaitedFor_wait :
    let o := 3 + 2 ^ 64
    let f := flight1 0x43 o
    let s := flying gathering 0x43 o
    let t := actsOn s f
    MayAct s ref1 0x43 f ∧ clean f.desc 76 372 = true ∧ ctxFieldStatus t f (opnd f.desc 64 12) = Code.ok ∧
      (tget t.scrum.groups (groupKey (namedCtx f (opnd f.desc 64 12)) (opnd f.desc 0 16))).map (fun g => (g.state, g.disarm, g.finalising)) = some (0, false, false) ∧
      MayAct (flying gathering 0x41 o) ref1 0x41 (flight1 0x41 o) ∧ clean (flight1 0x41 o).desc 16 48 = true := by
  decide +kernel

theorem witness_RoundsEndAndAreWaitedFor_timeout :
    let f : Flight := { flight1 0x43 (2 ^ 32) with progress := .working }
    let s := { State.reset with q := { State.reset.q with flights := [(refKey ref1, f)] }, now := 1800 }
    waitingOp s ref1 0x43 = some f ∧ opnd f.desc 32 32 = 1 ∧ passedUs s f.since 1 = true := by decide +kernel

theorem witness_RoundsEndAndAreWaitedFor_endRound :
    let g : Group := { ctx := 1, no := 3, elements := 256, state := 1 }
    let s := { served with scrum := { served.scrum with groups := [(groupKey 1 3, g)] } }
    tget s.scrum.groups (groupKey 1 3) = some g ∧ g.ending = false ∧ gatherOver s (groupKey 1 3) g = true := by decide +kernel

theorem witness_RoundsEndAndAreWaitedFor_stopped :
    let g : Group := { ctx := 1, no := 3, elements := 256, disarm := true, disarmBy := some 9 }
    let c : DupCheck := { group := groupKey 1 3, orphan := true }
    let s := { served with scrum := { served.scrum with groups := [(groupKey 1 3, g)], checks := [(5, c)] } }
    tget s.scrum.groups (groupKey 1 3) = some g ∧ g.finalising = false ∧ tget s.scrum.checks 5 = some c ∧
      (s.scrum.checks.any fun x => x.2.checker == c.checker && decide (x.1 < 5)) = false := by decide +kernel

theorem witness_RoundsEndAndAreWaitedFor_feed :
    let x : GroupSeg := { stage := 1 }
    let g : Group := { ctx := 1, no := 3, elements := 256, feed := 1, segs := [(0, x)] }
    let c : DupCheck := { group := groupKey 1 3, hold := true }
    let s := { served with scrum := { served.scrum with groups := [(groupKey 1 3, g)], checks := [(5, c)] } }
    tget s.scrum.groups (groupKey 1 3) = some g ∧ g.state = 0 ∧ (g.seg 0).stage = 1 ∧ tget s.scrum.checks 5 = some c ∧ c.orphan = false ∧
      (s.scrum.checks.any fun x => x.2.checker == c.checker && decide (x.1 < 5)) = false := by
  decide +kernel

theorem witness_StreamsAreArmedAndApply_arm :
    let s := flying banked 0x60 streamOperand
    let f := flight1 0x60 streamOperand
    let t := actsOn s f
    let x : BitVec 416 := f.desc.extractLsb' 64 416
    let st := streamOf x 0 0
    MayAct s ref1 0x60 f ∧ namedCtx f (bits x 1 12) = 0 ∧ f.quarter = 0 ∧ streamReserved f.desc = false ∧
      streamMisaligned t st = false ∧ ctxFieldStatus t f (bits x 1 12) = Code.ok ∧
      (st.emitEn && (groupFor t st.emitGroup 0 0).isNone) = false ∧
      thas t.step.streams (streamKey f.quarter st.no) = false ∧ (ledgerOf t 0).state = 0 ∧
      bankCheck t 0 st.ranges = none ∧ underQuota t 0 0x19 (tcount t.step.streams fun _ x => x.ctx == 0) = true ∧
      trackerFull t f.quarter = false := by decide +kernel

/-- A state with stream 2 armed. -/
def streaming (st : Stream) : State :=
  { banked with step := { banked.step with streams := [(streamKey 0 2, st)] } }

theorem witness_StreamsAreArmedAndApply_disarm :
    let s := flying (streaming stream2) 0x61 2
    let f := flight1 0x61 2
    let t := actsOn s f
    MayAct s ref1 0x61 f ∧ namedCtx f (opnd f.desc 64 12) = 0 ∧ streamKey f.quarter (opnd f.desc 0 6) = streamKey 0 2 ∧
      clean f.desc 6 58 = true ∧ clean f.desc 76 372 = true ∧ ctxFieldStatus t f 0 = Code.ok ∧
      tget t.step.streams (streamKey 0 2) = some stream2 ∧ stream2.ctx = 0 ∧ (ledgerOf t 0).state = 0 ∧
      rebuilding t 0 = false := by decide +kernel

theorem witness_StreamsAreArmedAndApply_apply :
    let o := 2 + 2 ^ 8
    let s := flying (streaming stream2) 0x62 o
    let f := flight1 0x62 o
    let t := actsOn s f
    let u := waitOn t (refKey ref1)
    MayAct s ref1 0x62 f ∧ applyReserved f.desc = false ∧ clipsFed t f = false ∧
      ctxFieldStatus t f (opnd f.desc 384 12) = Code.ok ∧ rebuilding t (applyCtx f) = false ∧
      tget u.step.streams (streamKey 0 2) = some stream2 ∧ opnd f.desc 8 32 = (ledgerOf u 0).innings ∧
      (ledgerOf u 0).state = 0 ∧ stream2.innings ≠ some 1 ∧ applyCtx f = 0 ∧
      (tget u.q.flights (refKey ref1)).any (fun g => !applyWaiting u (refKey ref1) g && !opBit g.desc 40) = true ∧
      stream2.state ≠ 3 := by decide +kernel

theorem witness_StreamsAreArmedAndApply_done :
    let st : Stream := { stream2 with flight := some (refKey ref1), done := 256, state := 1 }
    let f : Flight := { flight1 0x62 2 with progress := .working }
    let s := { streaming st with q := { State.reset.q with flights := [(refKey ref1, f)] } }
    waitingOp s ref1 0x62 = some f ∧ applyStreamOf s (refKey ref1) = some (streamKey 0 2) ∧
      tget s.step.streams (streamKey 0 2) = some st ∧ st.done = st.params ∧ jobOf s (.emission (streamKey 0 2)) = none := by
  decide +kernel

theorem witness_TheLedgerAndItsParity_arm :
    let h : Huddle := { combine := 2 }
    let s := flying { State.reset with huddles := [(huddleKey 0 1, h), (huddleKey 0 2, h)] } 0x63 (1 + 2 * 2 ^ 16)
    let f := flight1 0x63 (1 + 2 * 2 ^ 16)
    let t := actsOn s f
    MayAct s ref1 0x63 f ∧ namedCtx f (opnd f.desc 64 12) = 0 ∧ clean f.desc 33 31 = true ∧ clean f.desc 76 372 = true ∧
      ctxFieldStatus t f 0 = Code.ok ∧ (ledgerOf t 0).state = 0 ∧ (ledgerOf t 0).innings = (ledgerOf t 0).committed + 1 ∧
      ledgerHuddle t 0 (opnd f.desc 0 16) = some h ∧ ledgerHuddle t 0 (opnd f.desc 16 16) = some h := by decide +kernel

theorem witness_TheLedgerAndItsParity_stop :
    let s := flying State.reset 0x65 0
    let f := flight1 0x65 0
    let t := actsOn s f
    MayAct s ref1 0x65 f ∧ clean f.desc 0 64 = true ∧ clean f.desc 76 372 = true ∧
      ctxFieldStatus t f (opnd f.desc 64 12) = Code.ok ∧ (ledgerOf t 0).state = 0 ∧ committedNow t 0 = false := by decide +kernel

theorem witness_TheLedgerAndItsParity_resolve :
    let l : Ledger := { state := 5 }
    let s := flying { State.reset with ledgers := [(0, l)] } 0x66 1
    let f := flight1 0x66 1
    let t := actsOn s f
    MayAct s ref1 0x66 f ∧ clean f.desc 1 63 = true ∧ clean f.desc 76 372 = true ∧
      ctxFieldStatus t f (opnd f.desc 64 12) = Code.ok ∧ namedCtx f (opnd f.desc 64 12) = 0 ∧ (ledgerOf t 0).state = 5 := by
  decide +kernel

/-- Operand of a PARITY_ARM of stream 2, this node (0) first of the four. -/
def parityOperand : Nat :=
  2 + 2 ^ 20 + 2 * 2 ^ 32 + 3 * 2 ^ 44 + 6 * 65536 * 2 ^ 176 + 7 * 65536 * 2 ^ 224

theorem witness_TheLedgerAndItsParity_parity :
    let s := flying (streaming stream2) 0x64 parityOperand
    let f := flight1 0x64 parityOperand
    let t := actsOn s f
    let x : BitVec 284 := f.desc.extractLsb' 64 284
    let p := parityOf x 0 0
    MayAct s ref1 0x64 f ∧ f.quarter = 0 ∧ namedCtx f (bits x 272 12) = 0 ∧ parityReserved f.desc = false ∧
      parityMisaligned t p = false ∧ streamFor t 0 p.stream 0 = some stream2 ∧ parityOverlaps t p stream2 = false ∧
      ctxFieldStatus t f (bits x 272 12) = Code.ok ∧ (ledgerOf t 0).state = 0 ∧
      thas t.step.parity (streamKey 0 p.stream) = false ∧ rebuilding t 0 = false ∧ bankCheck t 0 (p.banks stream2) = none ∧
      tcount t.step.parity (fun _ r => r.quarter == 0) < 64 ∧ trackerFull t 0 = false := by decide +kernel

theorem witness_TheLedgerAndItsParity_rows :
    let l : Ledger := { state := 3 }
    let p : ParityRec := { stream := 2, row := 3 }
    let s := { State.reset with ledgers := [(0, l)] }
    let s' := { s with step := { s.step with parity := [(streamKey 0 2, p)] } }
    (ledgerOf s 0).state = 3 ∧ s.step.parity.filter (fun x => x.2.ctx == 0) = [] ∧ (ledgerOf s' 0).state = 3 ∧
      (s'.step.parity.any fun x => x.2.row == 3) = true := by decide +kernel

theorem witness_TheLedgerAndItsParity_emit :
    let g : GroupEntry := { ctx := 0, gen := ctxGen State.reset 0, members := [9] }
    let st : Stream := { stream2 with emitEn := true, emitGroup := 4 }
    let s := { streaming st with net := { State.reset.net with groups := [(4, g)] } }
    let r := flying s 0x67 2
    let f := flight1 0x67 2
    let t := actsOn r f
    MayAct r ref1 0x67 f ∧ clean f.desc 6 58 = true ∧ clean f.desc 76 372 = true ∧ namedCtx f (opnd f.desc 64 12) = 0 ∧
      ctxFieldStatus t f 0 = Code.ok ∧ streamFor t f.quarter (opnd f.desc 0 6) 0 = some st ∧ (ledgerOf t 0).state = 0 ∧
      groupFor t st.emitGroup 0 0 = some g ∧ (readVa t 0 (st.bank 0) (st.params * 4)).status = Code.ok ∧
      heldBy t (.command (refKey ref1)) 0 [(st.bank 0, st.params * 4)] = none ∧
      streamFor (streaming stream2) 0 2 0 = some stream2 ∧ stream2.emitEn = false := by decide +kernel

theorem witness_ArenasAreArmedAndKept_arm :
    let o := 3 * 2 ^ 13 + 65536 * 2 ^ 64 + 16 * 2 ^ 112 + 4 * 2 ^ 144
    let s := flying codecPage 0x80 o
    let f := flight1 0x80 o
    let t := actsOn s f
    let x : BitVec 192 := f.desc.extractLsb' 64 192
    let a := arenaOf x 0 0
    MayAct s ref1 0x80 f ∧ namedCtx f (bits x 1 12) = 0 ∧ f.quarter = 0 ∧ arenaReserved f.desc = false ∧
      arenaMisaligned t a = false ∧ ctxFieldStatus t f (bits x 1 12) = Code.ok ∧
      thas t.pewter.arenas (arenaKey 0 a.no) = false ∧
      tany t.pewter.arenas (fun _ o => o.ctx == 0 && rangesMeet o.range a.range) = false ∧
      codecCheck t 0 a.base (a.sectors * 4096) = none ∧ t.pewter.arenas.length < 1024 ∧
      underQuota t 0 0x1A (tcount t.pewter.arenas fun _ o => o.ctx == 0) = true ∧ trackerFull t f.quarter = false := by
  decide +kernel

theorem witness_ArenasAreArmedAndKept_disarm :
    let s := flying tiled 0x81 3
    let f := flight1 0x81 3
    let t := actsOn s f
    MayAct s ref1 0x81 f ∧ arenaKey (namedCtx f (opnd f.desc 64 12)) (opnd f.desc 0 8) = arenaKey 0 3 ∧
      clean f.desc 8 56 = true ∧ clean f.desc 76 372 = true ∧ ctxFieldStatus t f (opnd f.desc 64 12) = Code.ok ∧
      tget t.pewter.arenas (arenaKey 0 3) = some arena3 ∧ arena3.closing = false := by decide +kernel

theorem witness_ArenasAreArmedAndKept_zero :
    let s := codecPage
    let pa := 22 * 2 ^ 30
    paValid s pa = true ∧ background s = true ∧ reg s 0x5000 0x05 = 1 ∧ inHardware s pa = false ∧ paTier pa ≠ 3 ∧
      tget s.mem.region (pa / 65536) = none ∧ mapperOf s (pa / 65536 * 65536) = some 0 ∧
      paValid s (2 ^ 60) = false := by decide +kernel

/-- The arena with its tile one sector above the lowest free one. -/
def sparse : State × Arena :=
  let a : Arena := { no := 3, base := 65536, sectors := 16, tiles := 4, used := [(3, 1)], largest := 12 }
  let s := setReg (setReg codecPage 0x5000 0x07 1) 0x7000 0x01 1
  let s := { s with pewter := { s.pewter with arenas := [(arenaKey 0 3, a)] } }
  let s := (writeDir s (arenaKey 0 3) a 0 { valid := true, first := 3, sectors := 1, version := 1 }).1
  ((writeVa s 0 (65536 + 3 * 4096) (header0.bytes ++ List.replicate 16 0)).st, a)

theorem witness_ArenasAreArmedAndKept_compaction :
    let s := sparse.1
    let a := sparse.2
    let e : DirEntry := { valid := true, first := 3, sectors := 1, version := 1 }
    tget s.pewter.arenas (arenaKey 0 3) = some a ∧ background s = true ∧ compacts s a = true ∧
      (readOf (readDir s (arenaKey 0 3) a 0)).map (·.2) = some e ∧ placeFrom e.sectors 0 a.gaps = some 2 ∧
      (readOf (readRunOf s a e)).map (·.2) = some (header0, List.replicate 16 0) ∧
      (writeVa s a.ctx (a.sectorVa 2) (header0.bytes ++ List.replicate 16 0)).status = Code.ok ∧
      (writeDir s (arenaKey 0 3) a 0 { e with first := 2 }).2 = Code.ok := by decide +kernel

/-- Operand of a tile command on a tile of arena 3, its plain side one row of four FP32 at VA 131072. -/
def tileOperand (tile : Nat) : Nat := 2 * 65536 + 2 ^ 64 + 4 * 2 ^ 88 + 3 * 2 ^ 160 + tile * 2 ^ 168

theorem witness_TilesArePackedReadMovedAndFreed_pack :
    let s := flying tiled 0x82 (tileOperand 1)
    let f := flight1 0x82 (tileOperand 1)
    let t := actsOn s f
    MayAct s ref1 0x82 f ∧ opnd f.desc 194 4 = 0 ∧ tileBehind t (refKey ref1) f.desc = false ∧
      tileMisaligned 0x82 f.desc = false ∧ arenaFor t f.ctx (opnd f.desc 160 8) (opnd f.desc 168 24) = some arena3 ∧
      tileSides t f.ctx f.desc (some (0, .read)) = none ∧ trackerFull t f.quarter = false := by decide +kernel

theorem witness_TilesArePackedReadMovedAndFreed_unpack :
    let s := flying tiled 0x83 (tileOperand 0)
    let f := flight1 0x83 (tileOperand 0)
    let e : DirEntry := { valid := true, first := 2, sectors := 1, version := 1 }
    let t := actsOn s f
    let h := readVa t arena3.ctx (arena3.sectorVa e.first) 64
    MayAct s ref1 0x83 f ∧ opnd f.desc 198 4 = 0 ∧ tileBehind t (refKey ref1) f.desc = false ∧
      tileMisaligned 0x83 f.desc = false ∧ arenaFor t f.ctx (opnd f.desc 160 8) (opnd f.desc 168 24) = some arena3 ∧
      readOf (readDir t (arenaKey 0 3) arena3 0) = some (t, e) ∧ h.status = Code.ok ∧
      unpackBad (tileHdrOf h.data) f.desc = false ∧ tileSides h.st f.ctx f.desc (some (0, .write)) = none ∧
      trackerFull h.st f.quarter = false ∧ (readOf (readTile h.st arena3 e f.quarter (f.engine - 18))).isSome = true ∧
      (tget tiled.pewter.arenas (arenaKey 0 3)).map (·.failed) = some false ∧
      (readOf (readTile tiled arena3 { valid := true, first := 2, sectors := 1, version := 1 } 0 0)).isSome = true := by
  decide +kernel

theorem witness_TilesArePackedReadMovedAndFreed_moveTile :
    let o := 3 * 2 ^ 160 + 3 * 2 ^ 224 + 2 ^ 232
    let s := flying tiled 0x84 o
    let f := flight1 0x84 o
    let e : DirEntry := { valid := true, first := 2, sectors := 1, version := 1 }
    let t := actsOn s f
    let b := joinArena (beginTile t (refKey ref1) f (arenaKey 0 3) none) (arenaKey 0 3) (readerOf (refKey ref1))
    MayAct s ref1 0x84 f ∧ tileBehind t (refKey ref1) f.desc = false ∧ tileMisaligned 0x84 f.desc = false ∧
      arenaFor t f.ctx (opnd f.desc 160 8) (opnd f.desc 168 24) = some arena3 ∧
      (arenaFor t f.ctx (opnd f.desc 224 8) (opnd f.desc 232 24)).isNone = false ∧
      readOf (readDir t (arenaKey 0 3) arena3 0) = some (t, e) ∧ tileSides t f.ctx f.desc none = none ∧
      trackerFull t f.quarter = false ∧ readOf (readRunOf b arena3 e) = some (b, (header0, List.replicate 16 0)) ∧
      (readOf (placeTile b (arenaKey 0 3) (opnd f.desc 232 24) header0 (List.replicate 16 0))).map (·.2) = some 1 := by
  decide +kernel

theorem witness_TilesArePackedReadMovedAndFreed_free :
    let s := flying tiled 0x85 (3 * 2 ^ 160)
    let f := flight1 0x85 (3 * 2 ^ 160)
    let e : DirEntry := { valid := true, first := 2, sectors := 1, version := 1 }
    let t := actsOn s f
    MayAct s ref1 0x85 f ∧ tileBehind t (refKey ref1) f.desc = false ∧ tileMisaligned 0x85 f.desc = false ∧
      arenaFor t f.ctx (opnd f.desc 160 8) (opnd f.desc 168 24) = some arena3 ∧
      readOf (readDir t (arenaKey 0 3) arena3 0) = some (t, e) ∧
      (writeDir t (arenaKey 0 3) arena3 0 { e with valid := false }).2 = Code.ok := by decide +kernel

theorem witness_TilesArePackedReadMovedAndFreed_stat :
    let o := 3 * 2 ^ 160 + 2 ^ 168
    let s := flying tiled 0x86 o
    let f := flight1 0x86 o
    let t := actsOn s f
    MayAct s ref1 0x86 f ∧ tileBehind t (refKey ref1) f.desc = false ∧ tileMisaligned 0x86 f.desc = false ∧
      arenaFor t f.ctx (opnd f.desc 160 8) (opnd f.desc 168 24) = some arena3 ∧
      (readOf (readDir t (arenaKey 0 3) arena3 1)).map (fun x => x.2.valid) = some false ∧
      (readVa t arena3.ctx (arena3.sectorVa 2) 64).status = Code.ok := by decide +kernel

/-- Operand of a CADDIE_ARM of stream 2 of context 0: one slot at VA 65536, one entry at VA 6 · 65536, its
cursor word at VA 7 · 65536. -/
def caddieOperand : Nat :=
  2 * 2 ^ 1 + 7 * 65536 * 2 ^ 32 + 16 * 2 ^ 88 + 65536 * 2 ^ 96 + 2 ^ 144 + 2 ^ 176 + 6 * 65536 * 2 ^ 192

/-- Pages with one schedule entry of one tile written in them. -/
def scheduled : State := (writeVa banked 0 (6 * 65536) (leBytes 64 (2 + 2 ^ 64))).st

theorem witness_CaddieStreamsAreArmedWaitedForAndFlushed_arm :
    let s := flying scheduled 0xA0 caddieOperand
    let f := flight1 0xA0 caddieOperand
    let t := actsOn s f
    let x : BitVec 256 := f.desc.extractLsb' 64 256
    let c := caddieOf x f.quarter 0 t.now
    let r := readVa t 0 (6 * 65536) 64
    MayAct s ref1 0xA0 f ∧ namedCtx f (bits x 9 12) = 0 ∧ c.entryVa = 6 * 65536 ∧ c.count = 1 ∧
      caddieReserved f.desc = false ∧ caddieMisaligned r.st c = false ∧
      heldBy t (.command (refKey ref1)) c.ctx [(c.entryVa, 64)] = none ∧
      ctxFieldStatus t f (bits x 9 12) = Code.ok ∧ sideCheck t c.ctx [(6 * 65536, 64)] .read = none ∧
      r.status = Code.ok ∧ firstBadEntry c 0 (descsOf r.data) = none ∧
      thas r.st.caddie.streams (caddieKey c.quarter c.ctx c.no) = false ∧ caddiePages r.st c = none ∧
      caddieQuota r.st c = false ∧ trackerFull r.st c.quarter = false := by decide +kernel

theorem witness_CaddieStreamsAreArmedWaitedForAndFlushed_disarm :
    let s := flying (landing caddie2) 0xA1 2
    let f := flight1 0xA1 2
    let t := actsOn s f
    MayAct s ref1 0xA1 f ∧ clean f.desc 8 56 = true ∧ clean f.desc 76 372 = true ∧
      ctxFieldStatus t f (opnd f.desc 64 12) = Code.ok ∧
      (caddieFor t f.quarter (namedCtx f (opnd f.desc 64 12)) (opnd f.desc 0 8)).isNone = false := by decide +kernel

theorem witness_CaddieStreamsAreArmedWaitedForAndFlushed_wait :
    let s := flying (landing caddie2) 0xA2 2
    let f := flight1 0xA2 2
    let t := actsOn s f
    MayAct s ref1 0xA2 f ∧ clean f.desc 20 12 = true ∧ clean f.desc 108 340 = true ∧
      ctxFieldStatus t f (opnd f.desc 96 12) = Code.ok ∧
      tget t.caddie.streams (caddieKey f.quarter (namedCtx f (opnd f.desc 96 12)) (opnd f.desc 0 8)) = some caddie2 := by
  decide +kernel

theorem witness_CaddieStreamsAreArmedWaitedForAndFlushed_timeout :
    let f : Flight := { flight1 0xA2 (2 + 2 ^ 64) with progress := .working }
    let s := { State.reset with q := { State.reset.q with flights := [(refKey ref1, f)] }, now := 1800 }
    waitingOp s ref1 0xA2 = some f ∧ opnd f.desc 64 32 = 1 ∧ passedUs s f.since 1 = true := by decide +kernel

theorem witness_CaddieStreamsAreArmedWaitedForAndFlushed_flush :
    let o : Occupant := { dirty := true, rows := 1, cols := 4 }
    let e : SchedEntry := { trigger := 2, srcArena := 3, tiles := 1, writeback := true }
    let c : CaddieStream := { caddie2 with entries := [e], occupants := [(0, o)] }
    let s := flying (landing c) 0xA3 2
    let f := flight1 0xA3 2
    let t := actsOn s f
    MayAct s ref1 0xA3 f ∧ clean f.desc 8 56 = true ∧ clean f.desc 76 372 = true ∧
      ctxFieldStatus t f (opnd f.desc 64 12) = Code.ok ∧
      caddieFor t f.quarter (namedCtx f (opnd f.desc 64 12)) (opnd f.desc 0 8) = some c ∧
      (c.occupants.filter fun x => c.owesBack x.2).length = 1 ∧
      heldBy t (.command (refKey ref1)) 0
        ((c.occupants.filter fun x => c.owesBack x.2).map fun x => (c.slotAt x.1, c.slotBytes)) = none := by decide +kernel

theorem witness_CaddieStreamsAreArmedWaitedForAndFlushed_held :
    let o : Occupant := { dirty := true, rows := 1, cols := 4 }
    let e : SchedEntry := { trigger := 2, srcArena := 3, tiles := 1, writeback := true }
    let x : FlyEntry := { runs := [(2, 1)], tileBytes := 16 }
    let c : CaddieStream := { caddie2 with entries := [e], occupants := [(0, o)], flying := [x], next := 1 }
    let t := actsOn (flying (landing c) 0xA3 2) (flight1 0xA3 2)
    (heldBy t (.command (refKey ref1)) 0
      ((c.occupants.filter fun x => c.owesBack x.2).map fun x => (c.slotAt x.1, c.slotBytes))).isSome = true := by
  decide +kernel

theorem witness_CaddieEntriesStartAndLand_start :
    let s := landing caddie2
    tget s.caddie.streams (caddieKey 0 0 2) = some caddie2 ∧ canStart s caddie2 = true ∧ s.core.stopped = false := by
  decide +kernel

theorem witness_CaddieEntriesStartAndLand_land :
    let x : FlyEntry := { runs := [(2, 1)], tileBytes := 16 }
    let c : CaddieStream := { caddie2 with flying := [x], next := 1 }
    let s := landing c
    tget s.caddie.streams (caddieKey 0 0 2) = some c ∧ c.flying.find? (fun x => x.index == 0) = some x ∧
      s.core.stopped = false ∧ ((landSteps s (caddieKey 0 0 2) c (c.entry x.index) x).map fun r => r.2.1) = some Code.ok := by
  decide +kernel

theorem witness_CaddieEntriesStartAndLand_miss :
    let x : FlyEntry := { runs := [(2, 1)], tileBytes := 16 }
    let e : SchedEntry := { trigger := 2, srcArena := 3, tiles := 1, deadline := 1 }
    let c : CaddieStream := { caddie2 with entries := [e], flying := [x], next := 1 }
    let s := { landing c with now := 1800 }
    tget s.caddie.streams (caddieKey 0 0 2) = some c ∧ c.flying.find? (fun x => x.index == 0 && !x.missed &&
      overdue s (c.entry 0) (c.reference (c.entry 0) x.pass (some x.reference))) = some x := by decide +kernel

theorem witness_CaddieEntriesStartAndLand_waitMiss :
    let e : SchedEntry := { trigger := 2, srcArena := 3, tiles := 1, deadline := 1 }
    let c : CaddieStream := { caddie2 with entries := [e] }
    let s := { landing c with now := 1800 }
    tget s.caddie.streams (caddieKey 0 0 2) = some c ∧ c.flying = [] ∧ c.waitPass 0 = some 0 ∧ c.waitMissed = [] ∧
      overdue s (c.entry 0) (c.reference (c.entry 0) 0 (c.waitFrom (c.entry 0) 0 0)) = true := by
  decide +kernel

theorem witness_ContextsAreMadeAndStopped_create :
    askedBy State.reset .firmware = byFirmware State.reset ∧ ((2 : Nat) < 4096) ∧
      writeStatus State.reset { principal := 3 } (ctxIdx 2) 0x03 1 = Code.ok ∧ createStatus State.reset 2 = Code.ok := by
  decide +kernel

theorem witness_ContextsAreMadeAndStopped_teardown :
    askedBy node5 .firmware = byFirmware node5 ∧
      writeStatus node5 { principal := 3 } (ctxIdx 1) 0x03 2 = Code.ok ∧
      writeStatus node5 { principal := 3 } (ctxIdx 1) 0x03 3 = Code.ok ∧ ctxState node5 1 = 1 := by decide +kernel

theorem witness_ContextsAreMadeAndStopped_queue :
    askedBy queueing .firmware = byFirmware queueing ∧
      writeStatus queueing { principal := 3 } (ctxIdx 1) 0x22 3 = Code.ok ∧ namedCtxStatus queueing 1 = Code.ok ∧
      (queueOf queueing 1 3).isNone = false := by decide +kernel

theorem witness_ContextsAreMadeAndStopped_group :
    let s := setReg node5 0x7001 0x20 8
    let b : Bytes := leBytes 2 3 ++ leBytes 8 (1 + 2 ^ 30) ++ leBytes 4 9
    let e : BitVec 64 := BitVec.ofNat 64 (ofLe ((b.drop 2).take 8))
    askedBy s .firmware = byFirmware s ∧ otherTransfer s .firmware (ctxIdx 1) 0x30 = false ∧
      writeStatus s { principal := 3 } (ctxIdx 1) 0x30 0 = Code.ok ∧ ofLe (b.take 2) = 3 ∧ bits e 30 9 = 1 ∧
      bit e 39 = false ∧ b.length = 14 ∧ bit e 0 = true ∧ (memberWords (b.drop 10)).any (memberBad 0) = false ∧
      namedCtxStatus s 1 = Code.ok ∧ reg s (ctxIdx 1) 0x1F = 0 ∧ reg s (ctxIdx 1) 0x20 = 8 := by decide +kernel

theorem witness_TeardownDrainsStepsAndClears_drain :
    let s := stopContext node5 1 false
    ctxState s 1 = 2 ∧ drained s 1 = true ∧
      (tget s.ctx.teardowns 1).map (fun x => passedUs { s with now := 2 ^ 60 } x.since (reg s 0x7000 0x81)) = some true := by
  decide +kernel

theorem witness_TeardownDrainsStepsAndClears_clear :
    let s := generationStep (stopContext node5 1 true) 1
    let u := generationStep (stopContext node5 1 false) 1
    ctxState s 1 = 3 ∧ (tget s.ctx.teardowns 1).map (fun x => (x.reset, x.exhausted)) = some (true, false) ∧
      ctxState u 1 = 3 ∧ (tget u.ctx.teardowns 1).map (fun x => (x.reset, x.exhausted)) = some (false, false) := by
  decide +kernel

theorem witness_AFenceCommandIsADecision :
    let s := { node5 with net := { node5.net with lastInc := [(9, 3)] } }
    askedBy s .firmware = byFirmware s ∧ nodeId s = 5 ∧ tget s.net.lastInc 9 = some 3 := by decide +kernel

theorem witness_AFenceCommandIsADecision_session :
    let x : Session := { highest := 1 }
    let s := { node5 with
      dict := { node5.dict with sessions := [(3, x)] }, fw := { node5.fw with operatorKey := some [1] } }
    (askedBy s (.session 3 2)).map (fun r => (r.2.principal, r.1.fw.operatorKey.isSome, nodeId r.1)) = some (0, true, 5) := by
  decide +kernel

/-- A part with port 4 ACTIVE. -/
def onPort4 : State := setReg node5 0x3004 1 6

theorem witness_NodesAreFencedAndLost_fenced :
    isFenced { node5 with recov := { node5.recov with fenced := [(7, true)] } } 7 = true := by decide +kernel

theorem witness_NodesAreFencedAndLost_command :
    askedBy node5 .firmware = byFirmware node5 ∧ writeStatus node5 { principal := 3 } 0x8100 0x02 7 = Code.ok ∧
      7 ≠ nodeId node5 := by decide +kernel

theorem witness_NodesAreFencedAndLost_notice :
    let p : Packet := { hdr := Hdr.word { opcode := 0xE1, src := 9 }, ext := noticeExt 7 0 0 2 9 0 }
    let own : Packet := { hdr := Hdr.word { opcode := 0xE1, src := 9 }, ext := noticeExt 5 0 0 2 9 0 }
    let stale : Packet := { hdr := Hdr.word { opcode := 0xE1, src := 9 }, ext := noticeExt 5 1 0 2 9 0 }
    let back : Packet := { hdr := Hdr.word { opcode := 0xE1, src := 9 }, ext := noticeExt 7 0 1 3 9 0 }
    let wrong : Packet := { hdr := Hdr.word { opcode := 0xE1, data := true, src := 9 }, ext := noticeExt 7 0 0 2 9 0 }
    let ok (x : BitVec 128) := ¬(3 < bits x 17 3 ∨ (bits x 17 3 = 3 ∧ bit x 16 = false) ∨ bits x 32 32 ≠ 0)
    portActive onPort4 4 = true ∧ portActive onPort4 5 = false ∧ nodeId onPort4 = 5 ∧ ownInc onPort4 = 0 ∧
      (unsequencedBad p = false ∧ p.op = 0xE1 ∧ ok p.ext ∧ bits p.ext 0 12 = 7 ∧ bit p.ext 16 = false) ∧
      (unsequencedBad own = false ∧ ok own.ext ∧ bits own.ext 0 12 = 5 ∧ bits own.ext 12 4 = 0 ∧ bit own.ext 16 = false) ∧
      (unsequencedBad stale = false ∧ ok stale.ext ∧ bits stale.ext 0 12 = 5 ∧ bits stale.ext 12 4 = 1) ∧
      (unsequencedBad back = false ∧ ok back.ext ∧ bits back.ext 0 12 = 7 ∧ bit back.ext 16 = true) ∧
      unsequencedBad wrong = true := by decide +kernel

theorem witness_NodesAreFencedAndLost_repeat :
    let x : Notice := { operand := noticeExt 7 0 0 2 9 0, repeats := 2 }
    let s := { onPort4 with recov := { onPort4.recov with notices := [x] }, now := 2 ^ 60 }
    (s.recov.notices.any fun x => bits x.operand 0 12 == 7 && (x.repeats == 2 && passedUs s x.since 100)) = true ∧
      (s.recov.notices.any fun x => bits x.operand 0 12 == 8) = false := by decide +kernel

theorem witness_NodesAreFencedAndLost_loss :
    let s := { node5 with recov := { node5.recov with lossFrom := [(7, 0)] }, now := 2 ^ 60 }
    tget s.recov.lossFrom 7 = some 0 ∧ linkedTo s 7 = false ∧ passedUs s 0 (reg s 0x8100 0x01) = true ∧
      tget s.recov.lossFrom 8 = none := by decide +kernel

theorem witness_NodesAreFencedAndLost_gasp :
    let p : Packet := { hdr := Hdr.word { opcode := 0x09, src := 7 }, ext := 1 }
    let q : Packet := { hdr := Hdr.word { opcode := 0x09, src := 7 }, ext := 4 }
    let s := { onPort4 with recov := { onPort4.recov with gasps := [(7, 0)] }, now := 2 ^ 60 }
    portActive onPort4 4 = true ∧ portActive onPort4 5 = false ∧
      ¬(p.op ≠ 0x09 ∨ unsequencedBad p = true ∨ bits p.ext 8 56 ≠ 0 ∨ bits p.ext 0 4 = 0 ∨ 3 < bits p.ext 0 4) ∧
      3 < bits q.ext 0 4 ∧ tget s.recov.gasps 7 = some 0 ∧ passedMs s 0 10 = true ∧
      passedMs { s with now := 0 } 0 10 = false ∧ tget s.recov.gasps 8 = none := by decide +kernel

theorem witness_PowerWarningStopsThePart :
    let s := { node5 with pwr := { node5.pwr with pwrOk := true } }
    let a := { s with recov := { s.recov with warnedAt := some 0 }, now := 2 ^ 60 }
    let b := { a with recov := { a.recov with warnPhase := 1 } }
    s.pwr.pwrOk = true ∧ s.recov.warnedAt = none ∧ a.recov.warnPhase = 0 ∧ passedUs a 0 100 = true ∧
      b.recov.warnedAt = some 0 ∧ passedUs b 0 150 = true ∧ b.pwr.pwrOk = true := by decide +kernel

/-- Node 5 with a parity record of context 1 that names the fenced node 9. -/
def losing : State :=
  let p : ParityRec := { ctx := 1, stream := 2, index := 0, nodes := [5, 9, 6, 7] }
  let st : Stream := { stream2 with ctx := 1 }
  { node5 with
    step := { streams := [(streamKey 0 2, st)], parity := [(streamKey 0 2, p)] }
    recov := { node5.recov with fenced := [(9, true)] } }

theorem witness_RowsAreRebuiltAndInningsReplayed_start :
    askedBy losing .firmware = byFirmware losing ∧ otherTransfer losing .firmware 0x8100 0x03 = false ∧
      writeStatus losing { principal := 3 } 0x8100 0x03 0 = Code.ok ∧ 9 ≠ nodeId losing ∧ 8 ≠ nodeId losing ∧
      namedCtxStatus losing 1 = Code.ok ∧ (recordsNaming losing 1 9).isEmpty = false ∧ isFenced losing 9 = true ∧
      (ledgerOf losing 1).state = 0 ∧ rebuilding losing 1 = false := by decide +kernel

theorem witness_RowsAreRebuiltAndInningsReplayed_record :
    let k := streamKey 0 2
    let j : Job := { kind := .rebuild k, ctx := 1 }
    let r : Rebuild := { lost := 9, spare := 8, records := 1 }
    let s := { losing with
      net := { losing.net with jobs := [(jobKey (.rebuild k), j)] }
      recov := { losing.recov with rebuilds := [(1, r)] } }
    jobOf s (.rebuild k) = some j ∧ (tget s.step.parity k).map (·.ctx) = some 1 ∧ tget s.recov.rebuilds 1 = some r ∧
      (tget s.step.streams k).isSome = true ∧ j.isDone = true := by decide +kernel

theorem witness_RowsAreRebuiltAndInningsReplayed_adopt :
    askedBy node5 .firmware = byFirmware node5 ∧ otherTransfer node5 .firmware 0x8100 0x06 = false ∧
      writeStatus node5 { principal := 3 } 0x8100 0x06 0 = Code.ok ∧ namedCtxStatus node5 1 = Code.ok ∧
      (ledgerOf node5 1).state = 0 ∧ (ledgerOf node5 1).innings = 1 ∧ (ledgerOf node5 1).committed = 0 ∧
      tany node5.step.streams (fun _ x => x.ctx == 1) = false := by decide +kernel

theorem witness_RowsAreRebuiltAndInningsReplayed_replay :
    let l : Ledger := { state := 6 }
    let s := { node5 with ledgers := [(1, l)] }
    askedBy s .firmware = byFirmware s ∧ writeStatus s { principal := 3 } 0x8100 0x07 1 = Code.ok ∧
      namedCtxStatus s 1 = Code.ok ∧ (ledgerOf s 1).state = 6 ∧ (ledgerOf node5 1).state = 0 := by decide +kernel

theorem witness_FaultsAreConsumedAndUnitsRestored :
    let s := State.reset
    let a := { s with now := 2 ^ 60 }
    askedBy s .firmware = byFirmware s ∧ writeStatus s { principal := 3 } 0x8000 0x05 0 = Code.ok ∧
      writeStatus s { principal := 3 } 0x8000 0x03 0 = Code.ok ∧ passedMs a a.recov.decayedAt 1000 = true ∧
      otherTransfer s .firmware 0x8200 0x02 = false ∧ writeStatus s { principal := 3 } 0x8200 0x02 0 = Code.ok ∧
      unitExists 1 3 = true ∧ unitExists 1 4 = false := by decide +kernel

theorem witness_PortsServe_comma :
    let s := inState stDetect {}
    let r := inState stServe {}
    s.pwr.up = true ∧ s.pwr.clocksLost.contains (1 + 4 / 16) = false ∧ portState s 4 = stDetect ∧
      portState r 4 = stServe := by decide +kernel

theorem witness_PortsServe_message :
    let l : Link := { lanes := [(0, { comma := true })] }
    let s := inState stServe l
    let m : BitVec 128 := 1 + 16
    portState s 4 = stServe ∧ ((linkOf s 4).lane 0).comma = true ∧ bits m 4 4 = 1 ∧ bits m 25 7 = 0 ∧
      bits m 112 16 = 0 ∧ passedUs { s with now := 2 ^ 60 } (linkOf s 4).since (reg s 0x3B00 0x01) = true := by
  decide +kernel

theorem witness_LanesEqualiseAndLock_train :
    let s := inState stEqualise {}
    portState s 4 = stEqualise ∧ (linkOf s 4).rxLanes.testBit 0 = true ∧
      passedMs { s with now := 2 ^ 60 } (linkOf s 4).since (reg s 0x3B00 0x03) = true ∧ (linkOf s 4).fast = false := by
  decide +kernel

theorem witness_LanesEqualiseAndLock_align :
    let s := inState stLock { peerStarted := true }
    let r := inState stActive {}
    let w : BitVec 64 := 3 * 16
    (linkOf s 4).rxLanes.testBit 0 = true ∧ (linkOf s 4).peerStarted = true ∧ bits w 4 4 = 3 ∧ bits w 0 4 = 0 ∧ bits w 18 14 = 0 ∧ bits w 48 16 = 0 ∧
      portState s 4 = stLock ∧ portState r 4 = stActive ∧ (linkOf r 4).rxLanes.testBit 0 = true ∧
      passedUs { s with now := 2 ^ 60 } (linkOf s 4).since 100 = true := by decide +kernel

theorem witness_PortsExchangeCapabilities_fragment :
    let c : Collect := { last := 1, since := 0 }
    let l : Link := { collects := [(1, c)] }
    let s := inState stCapability l
    let p : Packet := { hdr := Hdr.word { opcode := 0xE0 }, ext := 1 + 2 ^ 12 }
    let t := { s with now := 2 ^ 60 }
    portState s 4 = stCapability ∧ p.op = 0xE0 ∧ unsequencedBad p = false ∧ bits p.ext 0 8 = 1 ∧ bits p.ext 8 4 = 0 ∧ bits p.ext 12 4 = 1 ∧
      tget (linkOf s 4).collects 1 = some c ∧ passedUs t c.since 10 = true ∧
      passedUs t (linkOf t 4).repeatedAt 20 = true ∧ portState t 4 = stCapability := by decide +kernel

theorem witness_PortsExchangeCapabilities_message :
    let a := inState stCapability { inbox := [(1, [1])] }
    let b := inState stCapability { inbox := [(2, [2])], peerHello := [1] }
    let c := inState stCapability { inbox := [(3, [3])], fast := true }
    let d := inState stCapability { inbox := [(4, [4])], readySent := true }
    portState a 4 = stCapability ∧ (linkOf a 4).fast = false ∧ (linkOf a 4).peerHello = [] ∧
      ((tget (linkOf a 4).inbox 1).map (padTo 160)).isSome = true ∧
      portState b 4 = stCapability ∧ (linkOf b 4).peerHello ≠ [] ∧ (linkOf b 4).confirmed = false ∧
      ((tget (linkOf b 4).inbox 2).map (padTo 72)).isSome = true ∧
      portState c 4 = stCapability ∧ (linkOf c 4).fast = true ∧ (linkOf c 4).confirmed = false ∧
      ((tget (linkOf c 4).inbox 3).map (padTo 40)).isSome = true ∧
      portState d 4 = stCapability ∧ (linkOf d 4).readySent = true ∧ tget (linkOf d 4).inbox 4 = some [4] := by
  decide +kernel

theorem witness_PortsExchangeCapabilities_time :
    let s := { inState stCapability {} with now := 2 ^ 60 }
    let r := { inState stHeld {} with now := 2 ^ 60 }
    portState s 4 = stCapability ∧ passedMs s (linkOf s 4).since 1 = true ∧ portState r 4 = stHeld ∧
      passedMs r (linkOf r 4).since (reg r 0x3B00 0x05) = true := by decide +kernel

theorem witness_FramesArriveAndLinksRecover_frame :
    let s := inState stActive {}
    let r := inState stCapability {}
    let w : BitVec 64 := 16
    portState s 4 = stActive ∧ portState r 4 = stCapability ∧ bits w 4 4 = 1 ∧ bits w 0 4 = 0 ∧ bit w 31 = false ∧
      bits w 48 16 = 0 ∧ bits w 8 11 = 0 := by decide +kernel

theorem witness_FramesArriveAndLinksRecover_cause :
    let s := setReg (inState stActive {}) 0x3B00 0x06 1
    let r := { inState stRecover {} with now := 2 ^ 60 }
    let l : Link := { tagFails := [0] }
    let t := { s with links := [(4, l)] }
    laneInUse s 4 0 = true ∧ portActive t 4 = true ∧
      reg t 0x3B00 0x06 ≤ ((linkOf t 4).tagFails.filter fun i => !passedMs t i 1).length ∧
      portState r 4 = stRecover ∧ passedUs r (linkOf r 4).since 1 = true := by decide +kernel

theorem witness_RoceRequestsArriveAndArePerformed_arrive :
    let k : RocePkt := { port := 1, qpn := 2 }
    let s := pairing {}
    let size := roceSize false (extBytes .write false k.first k.last) 0
    let c := colourPacket s 0 1 size
    (qpOf s k.qpn).map (fun p => (p.state, p.port, p.ctx, p.ud)) = some (1, 1, 1, false) ∧ ethUp s k.port = true ∧
      (ethIn c.2 k.port c.1 size k.ect).2 = some false ∧
      (let size := roceSize false 0 0
       let c := colourPacket s 0 1 size
       (ethIn c.2 k.port c.1 size k.ect).2 = some false) := by decide +kernel

theorem witness_RoceRequestsArriveAndArePerformed_wait :
    let k : RocePkt := { port := 1, qpn := 2 }
    let w : RoceWait := { op := .read, pkt := k }
    let p : QueuePair := { port := 1, ctx := 1, waiting := [w] }
    let s := pairing p
    (qpOf s 2).map (·.waiting) = some [w] ∧ w.refused = none ∧ k.psn = p.expectedPsn ∧
      (qpOf s 2).map (fun p => (heldBy s (.pair 2) p.ctx (roceSpan s p w.op w.pkt)).isNone) = some true := by decide +kernel

/-- The R_Key of window 7 for generation 1. -/
def key7 : BitVec 32 := BitVec.ofNat 32 (7 + 2 ^ 14)

theorem witness_RoceRequestsArriveAndArePerformed_perform :
    let s := pairing {}
    let p : QueuePair := { port := 1, ctx := 1 }
    let w := roceCheck s p false key7 0 8 .write
    let r := roceCheck s p false key7 0 8 .read
    let a := roceCheck s p false key7 0 8 .atomic
    (readOf w).map (·.2) = some 65536 ∧ (storeVa w.1 p.ctx 65536 (List.replicate 8 1)).status = Code.ok ∧
      (readOf r).map (·.2) = some 65536 ∧ (readVa r.1 p.ctx 65536 8).status = Code.ok ∧
      (readOf a).map (·.2) = some 65536 ∧
      (atomicQueue a.1 (controllerOf ((paOf a.1 p.ctx 65536).getD 0))).length < 1024 ∧
      (let pa := (paOf a.1 p.ctx 65536).getD 0
       let b := readVa (queueAtomic a.1 pa 0x11) p.ctx 65536 8
       b.status = Code.ok ∧ (storeVa (touchLine b.st pa) p.ctx 65536 (leBytes 8 5)).status = Code.ok) := by decide +kernel

theorem witness_TheRequesterAndItsTimers :
    let r : RingReq := { psn := 4 }
    let w : RingReq := { psn := 4, rnrFrom := some (0, 1) }
    let s := pairing { port := 1, ctx := 1, sends := [r] }
    let t := { s with now := 2 ^ 60 }
    let v := { pairing { port := 1, ctx := 1, sends := [w] } with now := 2 ^ 60 }
    (qpOf s 2).map (fun p => (p.state, p.port, p.sends, p.ud)) = some (1, 1, [r], false) ∧ ethUp s 1 = true ∧
      (ethIn s 1 0 (roceSize false 4 0) false).2 = some false ∧ (ethIn s 1 0 (roceSize false 16 0) false).2 = some false ∧
      passedNs t r.since (4096 * 2 ^ 0) = true ∧ (qpOf v 2).bind (·.sends.head?) = some w ∧
      passedUs v 0 (10 * rnrTime 1) = true := by decide +kernel

theorem witness_QueuePairsAndDoorbells_create :
    let s := pairing {}
    let data := leBytes 64 (2 ^ 4 + 2 ^ 8 + 2 ^ 91)
    let x : BitVec 512 := BitVec.ofNat 512 (ofLe data)
    askedBy s .firmware = byFirmware s ∧ otherTransfer s .firmware 0x4200 0x01 = false ∧
      writeStatus s { principal := 3 } 0x4200 0x01 0 = Code.ok ∧ data.length = 64 ∧ qpMisaligned s x = false ∧
      (qpOfRecord x).ctx = 1 ∧ namedCtxStatus s 1 = Code.ok ∧ qpRoom s (qpOfRecord x) = true ∧ thas s.eth.qps 3 = false ∧
      writeStatus s { principal := 3 } 0x4200 0x02 2 = Code.ok ∧ thas s.eth.qps 2 = true := by decide +kernel

theorem witness_QueuePairsAndDoorbells_doorbell :
    let b : Doorbell := { ctx := 1 }
    let s := pairing {}
    let s := setEthPort { s with eth := { s.eth with doorbells := [(3, b)] } } 2 { up := true, rate := 100 }
    let data := leBytes 64 (3 * 2 ^ 8)
    let h : BitVec 256 := BitVec.ofNat 256 (ofLe (data.take 32))
    let c := colourPacket s 1 b.ctx (46 + data.length)
    ethUp s 2 = true ∧ bits h 8 8 = 3 ∧ tget s.eth.doorbells 3 = some b ∧
      (ethIn c.2 2 c.1 (46 + data.length) false).2 = some false := by decide +kernel

theorem witness_EthernetPortsAndTheirTime_ptp :
    let c : PtpClient := { interval := 1 }
    let s := setReg (pairing {}) 0x4500 0x03 2
    let u := (ethIn s 1 0 100 false).1
    let v := setEthPort s 1 { ethPort s 1 with ptp := some c }
    let v := { v with eth := { v.eth with ptpActive := some 1 }, now := 2 ^ 60 }
    ethUp s 1 = true ∧ (reg s 0x4500 0x03).testBit 1 = true ∧ (ethIn s 1 0 100 false).2 = some false ∧
      ethUp v 1 = true ∧ (ethPort (ethIn v 1 0 100 false).1 1).ptp = some c ∧ v.eth.ptpActive = some 1 ∧
      activeClient v = some c ∧ passedMs v c.heard (3 * c.interval) = true ∧ (ethPort u 1).ptp = none := by
  decide +kernel

theorem witness_EthernetPortsAndTheirTime_link :
    let s := pairing {}
    let a := { s with pwr := { s.pwr with up := true, pwrOk := true } }
    let b := { setReg a 0x4000 0x06 2 with now := 2 ^ 60 }
    rateIndex 100 = some 0 ∧ lanesMayRun a = true ∧ a.pwr.clocksLost.contains 5 = false ∧ 0 ≤ reg a 0x4101 0x02 ∧
      ethUp a 1 = true ∧ reg b 0x4000 0x06 = 2 ∧ b.eth.mgmtMode = 0 ∧ b.pwr.pwrOk = true ∧
      passedMs b b.eth.mgmtSince 1000 = true ∧ answers a 1 = true ∧ answers a 2 = false := by decide +kernel
theorem witness_EthernetPortsAndTheirTime_egress :
    let a : EthFrame := { rank := 3, ctx := 1, size := 4096, what := .cnp 2 }
    let b : EthFrame := { rank := 2, ctx := 0, size := 78, what := .cnp 3 }
    let c : EthFrame := { rank := 1, ctx := 0, size := 86, what := .cnp 4 }
    (nextFrame (pairing {}) { egress := [a, b, c] }).map (·.1) = some c ∧
      (nextFrame (pairing {}) { egress := [a, b] }).map (·.1) = some b ∧
      (nextFrame (pairing {}) { egress := [a] }).map (·.1) = some a := by decide +kernel

theorem witness_SessionsOpenLiveAndClose_open :
    let key : Bytes := List.replicate 32 7
    let d : Bytes := leBytes 8 0x0101 ++ leBytes 4 5 ++ leBytes 4 148 ++ leBytes 16 0 ++ leBytes 2 17 ++ leBytes 2 0 ++
      List.replicate 48 1 ++ key ++ List.replicate 64 0
    let p : EthPort := { up := true, rate := 100 }
    let s := setReg (setBlock node5 0x7001 0x21 key) 0x1010 0x05 4
    let s := { s with eth := { s.eth with ports := [(2, p)] }, pwr := { s.pwr with pwrOk := true } }
    s.pwr.pwrOk = true ∧ openLayoutOk d = true ∧ carriesDexol s 2 = true ∧ admitsOpen s 2 (openFields d) = true := by
  decide +kernel

theorem witness_SessionsOpenLiveAndClose_session :
    let x : Session := { highest := 100, replies := [(90, [1])] }
    let s := { State.reset with dict := { State.reset.dict with sessions := [(3, x)] } }
    tget s.dict.sessions 3 = some x ∧ x.seqCase 36 = .below ∧ x.seqCase 90 = .answered [1] ∧ x.seqCase 37 = .new := by
  decide +kernel

theorem witness_DictionaryReadsWritesAndCommits_write :
    let s := State.reset
    askedBy s .firmware = byFirmware s ∧ (entryAt 0x3B00 0x05).map (fun e => decide (e.ty ≠ .domain)) = some true ∧
      (entryAt 0x3B00 0x05).map (fun e =>
        decide (writeStatus s { principal := 3 } 0x3B00 0x05 (ofLe (leBytes (e.ty.bytes.getD 0) (reg s 0x3B00 0x05))) = Code.ok))
        = some true := by decide +kernel

theorem witness_DictionaryReadsWritesAndCommits_block :
    let s := State.reset
    (entryAt 0x8300 0x01).map (·.ty) = some .domain ∧ writeStatus s { principal := 3 } 0x8300 0x01 0 = Code.ok := by
  decide +kernel

theorem witness_DictionaryReadsWritesAndCommits_scope :
    okOf (scopeOf { principal := 3 } none) = some 0 ∧ okOf (scopeOf { principal := 3 } (some 5000)) = none ∧
      scopeOf { principal := 3 } (some 5000) = .error Code.misaligned := ⟨by decide, by decide, rfl⟩

theorem witness_SubscriptionsAndFirmwareQueues_subs :
    let y : Subscription := { idx := 0x8000, sub := 0x02, periodic := true, period := 10 }
    let x : Session := { subs := [(1, y)] }
    let s := { State.reset with dict := { State.reset.dict with sessions := [(3, x)] } }
    let t := modSession s 3 (fun x => { x with heard := s.now })
    tget s.dict.sessions 3 = some x ∧ x.seqCase 1 = .new ∧
      subscribeStatus t { principal := x.principal, ctx := x.ctx } x 2 0x8000 0x02 false 0 = Code.ok ∧
      tget x.subs 1 = some y ∧ notifyDue { s with now := 2 ^ 60 } y = true := by decide +kernel

theorem witness_SubscriptionsAndFirmwareQueues_push :
    let r : Queue := { queue := 4, state := .opened, fQueue := true, ringLog2 := 8 }
    let s := setReg State.reset (ctxIdx 0) 0x01 1
    let s := { s with q := { State.reset.q with queues := [(queueKey 0 4, r)] } }
    let b : Bytes := leBytes 2 4 ++ List.replicate 256 0
    askedBy s .firmware = byFirmware s ∧ otherTransfer s .firmware 0x2000 0x22 = false ∧
      writeStatus s { principal := 3 } 0x2000 0x22 0 = Code.ok ∧ ofLe (b.take 2) = 4 ∧ b.length = 2 + 64 * 4 ∧
      namedCtxStatus s 0 = Code.ok ∧ queueOf s 0 4 = some r ∧ r.quarter = 0 ∧ 4 ≤ ringFree r := by decide +kernel

theorem witness_SubscriptionsAndFirmwareQueues_fQueue :
    let b : Bytes := leBytes 12 (3 * 2 ^ 12 + 2 * 2 ^ 22 + 6 * 2 ^ 32)
    let x : BitVec 96 := BitVec.ofNat 96 (ofLe b)
    let r := queueRecord x 0
    let s := setReg State.reset (ctxIdx 0) 0x01 1
    askedBy s .firmware = byFirmware s ∧ otherTransfer s .firmware 0x2002 0x23 = false ∧
      writeStatus s { principal := 3 } 0x2002 0x23 0 = Code.ok ∧ b.length = 12 ∧ queueMisaligned x = false ∧
      bits x 0 12 = 0 ∧ r.quarter = 2 ∧ namedCtxStatus s 0 = Code.ok ∧ queueOf s 0 r.queue = none ∧
      queueFits s r = true := by decide +kernel

/-- The security core in service, the update in a state, the operator key written. -/
def updating (n : Nat) : State :=
  let s := setUpd (setReg State.reset 0xA000 0x0D 1) n
  setFw s { s.fw with operatorKey := some [] }

theorem witness_UpdateCommandsFollowTheTable_segment :
    let s := updating 0
    askedBy s .firmware = byFirmware s ∧ otherTransfer s .firmware 0xA000 0x04 = false ∧
      inService s 0 = true ∧ updState s = 0 ∧ 0 + ([1, 2] : Bytes).length ≤ bankSize := by decide +kernel

theorem witness_UpdateCommandsFollowTheTable_commands :
    let x : Session := { principal := 0, highest := 100 }
    let v := fun n : Nat => let s := updating n
      { s with dict := { s.dict with sessions := [(3, x)] } }
    ([1, 2, 3, 4, 0].map fun n => ((askedBy (v n) (.session 3 101)).map fun r =>
      decide (writeStatus r.1 r.2 0xA000 0x05 (if n = 0 then 5 else n) = Code.ok ∧
        otherTransfer r.1 (.session 3 101) 0xA000 0x04 = false ∧ writeStatus r.1 r.2 0xA000 0x04 0 = Code.ok ∧
        inService r.1 0 = true ∧ updState r.1 = n ∧
        reg r.1 0xA000 0x02 ≤ 64 ∧ r.1.fw.activating = false))) = List.replicate 5 (some true) := by decide +kernel

theorem witness_UpdateCommandsFollowTheTable_deferral :
    let s := updating 3
    let s := { s with now := 2 ^ 60, fw := { s.fw with clearSince := some 0, deferred := 1 } }
    s.fw.deferred ≠ 0 ∧ deferring s = false ∧ passedMs s 0 1000 = true := by decide +kernel

theorem witness_UpdateCommandsFollowTheTable_trial :
    let s := setUpd State.reset 4
    let s := { s with now := 2 ^ 60, fw := { s.fw with trial := true } }
    s.fw.trial = true ∧ inService s 0 = false ∧ passedMs s s.fw.reloadedAt 5000 = true := by decide +kernel

theorem witness_WatchdogsResetCoresThenHandOver_runs :
    let i : Image := {}
    let s := { State.reset with pwr := { State.reset.pwr with pwrOk := true }, fw := { State.reset.fw with images := [i], bench := true } }
    s.pwr.pwrOk = true ∧ s.fw.images ≠ [] ∧ s.fw.bench = true ∧ (tget s.fw.cores 0).bind (·.expired) = none ∧
      ((tget s.fw.cores 0).map (·.stopped)).getD false = false := by decide +kernel

theorem witness_WatchdogsResetCoresThenHandOver_expires :
    let c : Core := { expired := some 0 }
    let s := setReg State.reset 0xA000 0x0D 2
    let s := { s with fw := { s.fw with cores := [(1, c), (7, c)], bench := true } }
    inService s 1 = true ∧ (tget s.fw.cores 1).bind (·.expired) = some 0 ∧ (tget s.fw.cores 7).bind (·.expired) = some 0 ∧
      passedMs s 0 60000 = false ∧ inService (setReg State.reset 0xA000 0x0D 2) 1 = true ∧
      ((tget State.reset.fw.cores 1).bind (·.expired)).all (fun x => passedMs s x 60000) = true := by decide +kernel

theorem witness_HostLoadedItemsAreCheckedAndInstalled_writes :
    let x : Session := { principal := 0, highest := 100 }
    let s := updating 0
    let s := { s with dict := { s.dict with sessions := [(3, x)] } }
    let v : Via := .session 3 101
    ((askedBy s v).map fun r =>
      decide (writeStatus r.1 r.2 0xA000 0x07 0 = Code.ok ∧ mayRead r.2 0xA000 = true ∧ inService r.1 0 = true) &&
        [8, 9, 10].all fun n => otherTransfer r.1 v 0xA000 n == false && writeStatus r.1 r.2 0xA000 n 0 == Code.ok)
      = some true := by decide +kernel

theorem witness_HostLoadedItemsAreCheckedAndInstalled_bodies :
    let i := itemOf (List.replicate 256 0 ++ List.replicate 80 1)
    let j := itemOf (List.replicate 256 0 ++ List.replicate 72 0)
    i.body.length % 40 = 0 ∧ i.body.length ≤ 64 * 40 ∧ i.body ≠ [] ∧
      (∀ e ∈ cutRuns 40 (i.body.length + 1) (i.body.map fun _ => 0), hdrField e 32 1 ≤ 3 ∧ hdrField e 33 7 = 0) ∧
      (∀ e ∈ cutRuns 16 (j.body.length + 1) j.body, ofLe e / 2 ^ 41 = 0) := by decide +kernel

theorem witness_HostLoadedItemsAreCheckedAndInstalled_policy :
    let i := itemOf (List.replicate 256 0 ++ List.replicate 65536 0)
    i.body.length = 65536 := by decide +kernel

/-- The state after reset with PWR_OK high. -/
def powered : State := setPwr State.reset { State.reset.pwr with pwrOk := true }

theorem witness_ResetsHoldAndReleaseThePart_pins :
    let s := setPwr powered { powered.pwr with resetNLow := true }
    State.reset.pwr.pwrOk = false ∧ powered.pwr.pwrOk = true ∧ powered.pwr.resetNLow = false ∧
      s.pwr.resetNLow = true ∧ heldReset s = true := by decide +kernel

theorem witness_ResetsHoldAndReleaseThePart_command :
    let x : Session := { principal := 0, highest := 100 }
    let s := setFw powered { powered.fw with operatorKey := some [] }
    let s := { s with dict := { s.dict with sessions := [(3, x)] } }
    ((askedBy s (.session 3 101)).map fun r => decide (writeStatus r.1 r.2 0x9000 0x10 1 = Code.ok)) = some true := by
  decide +kernel

theorem witness_ResetsHoldAndReleaseThePart_release :
    let s := setPwr powered { powered.pwr with epo := true }
    let t := bootFirmware (sampleStraps powered {})
    heldReset powered = false ∧ heldReset s = false ∧ (bootFirmware (sampleStraps s {})).pwr.epo = true ∧
      t.pwr.epo = false ∧ hotterThan t 760 = false ∧
      hotterThan (bootFirmware (sampleStraps (setReg powered 0x2000 0x02 760) {})) 760 = true := by
  decide +kernel

theorem witness_StartUpTrainsMemoryThenReadiesThePart_trains :
    let s := setPwr powered { powered.pwr with up := true }
    let t := { s with now := 2 ^ 40 }
    s.pwr.up = true ∧ 19 ∉ s.pwr.stacksDone ∧ 11 ∉ s.pwr.modulesDone ∧ passedMs t t.pwr.startedAt 150 = true ∧
      passedMs t t.pwr.startedAt 285 = true := by decide +kernel

theorem witness_StartUpTrainsMemoryThenReadiesThePart_completes :
    let s := setPwr powered { powered.pwr with up := true, stacksDone := List.range 20, modulesDone := List.range 12 }
    s.pwr.up = true ∧ reg s 0x9000 0x11 = 0 ∧ s.pwr.stacksDone.length = 20 ∧ s.pwr.modulesDone.length = 12 := by
  decide +kernel

theorem witness_StartUpTrainsMemoryThenReadiesThePart_cools :
    let s := setReg (setReg powered 0x9000 0x11 2) 0x2003 0x02 720
    reg s 0x9000 0x11 = 2 ∧ heldReset s = false ∧ hotterThan s 721 = false := by decide +kernel

theorem witness_EmergencyOffClocksAndTheThermalLadder_pins :
    let s := setPwr powered { powered.pwr with epo := true }
    powered.pwr.pwrOk = true ∧ powered.pwr.epo = false ∧ s.pwr.epo = true ∧ s.pwr.pwrOk = true := by decide +kernel

theorem witness_EmergencyOffClocksAndTheThermalLadder_clocks :
    let s := setPwr powered { powered.pwr with clocksLost := [0, 2] }
    clockNo .core ∉ powered.pwr.clocksLost ∧ 1 + 6 % 4 ∉ powered.pwr.clocksLost ∧ 5 ∉ powered.pwr.clocksLost ∧
      clockNo .core ∈ s.pwr.clocksLost ∧ clockNo (.serdes 1) ∈ s.pwr.clocksLost ∧ heldReset s = true := by decide +kernel

theorem witness_EmergencyOffClocksAndTheThermalLadder_samples :
    let t := setReg powered 0x9000 0x09 3
    powered.pwr.pwrOk = true ∧ ladderOf powered 3 ≠ 3 ∧ ladderOf powered 3 < stepFor 760 ∧ ladderOf t 1 = 3 := by
  decide +kernel

theorem witness_EmergencyOffClocksAndTheThermalLadder_clears :
    let s := setPwr (setReg powered 0x9000 0x0A 2) { powered.pwr with coolSince := [(2, 5)] }
    let s := { s with now := 2 ^ 40 }
    tget s.pwr.coolSince 2 = some 5 ∧ ladderOf s 2 = 2 ∧ passedMs s 5 100 = true := by decide +kernel

theorem witness_TheGovernorThrottlesInOrder_limit :
    let s := powered
    let t := setPwr powered { powered.pwr with benchLimit := some 1500 }
    askedBy s .firmware = byFirmware s ∧ writeStatus s { principal := 3 } 0x9000 0x01 3000 = Code.ok ∧
      writeStatus s { principal := 3 } 0x9000 0x01 1000 = Code.ok ∧ t.pwr.benchLimit = some 1500 := by decide +kernel

theorem witness_TheGovernorThrottlesInOrder_steps :
    let s := setPwr powered { powered.pwr with up := true }
    let s := { s with now := 2 ^ 40 }
    s.pwr.up = true ∧ passedMs s s.pwr.lastSample 1 = true ∧ passedUs s s.pwr.lastStep 10 = true ∧
      passedUs s s.pwr.lastRelax 100 = true ∧ 1709 * 100 < reg s 0x9000 0x01 * 95 ∧ s.pwr.paused = false ∧
      reg s 0x9000 0x04 + 100 * (11 + 1) ≤ 3600 ∧ 3600 < reg s 0x9000 0x04 + 100 * (12 + 1) := by decide +kernel

end Sys2Proof.Tests

end
end

section
/-! PROOFS. Fences, losses and last gasps of nodes: what each command does, case by case (R353 to R367). -/

namespace Sys2Proof.Machine

/-! ## The commands and their meanings -/

theorem exec_fenceNotice (port : Nat) (p : Packet) (s : State) :
    exec (.fenceNotice port p) s = execFenceNotice port p s := rfl

theorem exec_fenceCommand (via : Via) (n : Nat) (s : State) :
    exec (.fenceCommand via n) s = execFenceCommand via n s := rfl

theorem exec_nodeLossTimeout (n : Nat) (s : State) :
    exec (.nodeLossTimeout n) s = execNodeLossTimeout n s := rfl

theorem exec_lastGasp (port : Nat) (p : Packet) (s : State) :
    exec (.lastGasp port p) s = execLastGasp port p s := rfl

theorem exec_gaspMarkExpire (n : Nat) (s : State) :
    exec (.gaspMarkExpire n) s = execGaspMarkExpire n s := rfl

/-! ## FENCE_NOTICE (R357) -/

/-- A FENCE_NOTICE that is discarded: another opcode, a bad header, a CAUSE that Table 3 does not list or
that an unfence alone may carry, or a reserved bit of the operand. -/
abbrev NoticeMalformed (p : Packet) : Prop :=
  p.op ≠ 0xE1 ∨ unsequencedBad p = true ∨ 3 < bits p.ext 17 3 ∨
    (bits p.ext 17 3 = 3 ∧ bit p.ext 16 = false) ∨ bits p.ext 32 32 ≠ 0

section
variable {s : State} {port : Nat} {p : Packet}

theorem exec_fenceNotice_of_not_active (ha : portActive s port = false) :
    exec (.fenceNotice port p) s = .next s := by
  simp only [exec_fenceNotice, execFenceNotice, ha, Bool.not_false, if_true]

theorem exec_fenceNotice_of_malformed (ha : portActive s port = true) (hb : NoticeMalformed p) :
    exec (.fenceNotice port p) s = .next (bump s 0x3E00 0x0C) := by
  simp only [exec_fenceNotice, execFenceNotice, ha, Bool.not_true, Bool.false_eq_true, if_false]
  exact if_pos hb

/-- A well-formed notice on an ACTIVE port is sorted by the node it names and by its KIND. -/
theorem exec_fenceNotice_of_wellFormed (ha : portActive s port = true) (hb : ¬NoticeMalformed p) :
    exec (.fenceNotice port p) s =
      if bits p.ext 0 12 = nodeId s then
        .next (if bit p.ext 16 = false ∧ bits p.ext 12 4 = ownInc s then settle (selfFence s) else s)
      else if bit p.ext 16 then
        .next (settle (applyUnfence s (bits p.ext 0 12) (bits p.ext 12 4) (bits p.ext 17 3) (bits p.ext 20 12)
          (p.ext.extractLsb' 64 64) (some port)))
      else
        .next (settle (applyFence s (bits p.ext 0 12) (bits p.ext 12 4) (bits p.ext 17 3) (bits p.ext 20 12)
          (p.ext.extractLsb' 64 64) (some port))) := by
  simp only [exec_fenceNotice, execFenceNotice, ha, Bool.not_true, Bool.false_eq_true, if_false]
  exact if_neg hb

/-- A notice that fences this part at its present incarnation (R362). -/
theorem exec_fenceNotice_of_own (ha : portActive s port = true) (hb : ¬NoticeMalformed p)
    (hn : bits p.ext 0 12 = nodeId s) (hk : bit p.ext 16 = false) (hi : bits p.ext 12 4 = ownInc s) :
    exec (.fenceNotice port p) s = .next (settle (selfFence s)) := by
  rw [exec_fenceNotice_of_wellFormed ha hb, if_pos hn, if_pos ⟨hk, hi⟩]

/-- A notice that names this part and is an unfence or of another incarnation. -/
theorem exec_fenceNotice_of_own_other (ha : portActive s port = true) (hb : ¬NoticeMalformed p)
    (hn : bits p.ext 0 12 = nodeId s) (hi : bit p.ext 16 = true ∨ bits p.ext 12 4 ≠ ownInc s) :
    exec (.fenceNotice port p) s = .next s := by
  have hno : ¬(bit p.ext 16 = false ∧ bits p.ext 12 4 = ownInc s) := by
    rintro ⟨hk, he⟩
    rcases hi with hu | hd
    · exact absurd (hk.symm.trans hu) Bool.false_ne_true
    · exact hd he
  rw [exec_fenceNotice_of_wellFormed ha hb, if_pos hn, if_neg hno]

/-- An unfence of another node (R363). -/
theorem exec_fenceNotice_of_unfence (ha : portActive s port = true) (hb : ¬NoticeMalformed p)
    (hn : bits p.ext 0 12 ≠ nodeId s) (hk : bit p.ext 16 = true) :
    exec (.fenceNotice port p) s = .next (settle (applyUnfence s (bits p.ext 0 12) (bits p.ext 12 4)
      (bits p.ext 17 3) (bits p.ext 20 12) (p.ext.extractLsb' 64 64) (some port))) := by
  rw [exec_fenceNotice_of_wellFormed ha hb, if_neg hn, if_pos hk]

/-- A fence of another node (R356). -/
theorem exec_fenceNotice_of_fence (ha : portActive s port = true) (hb : ¬NoticeMalformed p)
    (hn : bits p.ext 0 12 ≠ nodeId s) (hk : bit p.ext 16 = false) :
    exec (.fenceNotice port p) s = .next (settle (applyFence s (bits p.ext 0 12) (bits p.ext 12 4)
      (bits p.ext 17 3) (bits p.ext 20 12) (p.ext.extractLsb' 64 64) (some port))) := by
  rw [exec_fenceNotice_of_wellFormed ha hb, if_neg hn, if_neg (ne_true_of_eq_false hk)]

end

/-- A fence of a node held fenced is not applied again (R356). -/
theorem applyFence_of_isFenced {s : State} {n : Nat} (h : isFenced s n = true) (inc cause origin : Nat) (ft : FT)
    (skip : Option Nat) : applyFence s n inc cause origin ft skip = s := by
  have hno : fenceApplies s n inc = false := by simp only [fenceApplies, h, Bool.not_true, Bool.false_and]
  simp only [applyFence, hno, Bool.not_false, if_true]

/-! ## FENCE_NOTICE_REPEAT (R357) -/

/-- A notice of a node whose next repeat is due: the first after 100 µs, the second after 500 µs. -/
def repeatDue (s : State) (n : Nat) (x : Notice) : Bool :=
  bits x.operand 0 12 == n &&
    ((x.repeats == 2 && passedUs s x.since 100) || (x.repeats == 1 && passedUs s x.since 500))

/-- The notices held once the repeats that are due have been counted down. -/
def noticesAfterRepeat (s : State) (n : Nat) : List Notice :=
  s.recov.notices.map fun x => if repeatDue s n x then { x with repeats := x.repeats - 1 } else x

theorem exec_fenceNoticeRepeat_eq (s : State) (n : Nat) :
    exec (.fenceNoticeRepeat n) s = .next ((s.recov.notices.filter (repeatDue s n)).foldl
      (fun s x => floodLocal s none 0xE1 x.operand)
      (setRecov s { s.recov with notices := noticesAfterRepeat s n })) := rfl

theorem noticesAfterRepeat_of_none_due {s : State} {n : Nat} (h : s.recov.notices.any (repeatDue s n) = false) :
    noticesAfterRepeat s n = s.recov.notices := by
  have hx : ∀ x ∈ s.recov.notices,
      (if repeatDue s n x then { x with repeats := x.repeats - 1 } else x) = id x := fun x hm =>
    if_neg (List.any_eq_false.mp h x hm)
  rw [noticesAfterRepeat, List.map_congr_left hx, List.map_id]

theorem exec_fenceNoticeRepeat_of_none_due {s : State} {n : Nat} (h : s.recov.notices.any (repeatDue s n) = false) :
    exec (.fenceNoticeRepeat n) s = .next s := by
  have hf : s.recov.notices.filter (repeatDue s n) = [] := by simpa using h
  rw [exec_fenceNoticeRepeat_eq, noticesAfterRepeat_of_none_due h, hf]
  rfl

/-! ## NODE_LOSS_TIMEOUT (R354) -/

theorem exec_nodeLossTimeout_of_lost {s : State} {n since : Nat} (hs : tget s.recov.lossFrom n = some since)
    (hl : linkedTo s n = false) (hp : passedUs s since (reg s 0x8100 0x01) = true) :
    exec (.nodeLossTimeout n) s = .next (settle (declareLost s n 0)) := by
  simp only [exec_nodeLossTimeout, execNodeLossTimeout, hs]
  exact if_pos ⟨hl, hp⟩

/-- A node that no loss timeout runs for, or with a link back, is not lost. -/
theorem exec_nodeLossTimeout_of_kept {s : State} {n : Nat}
    (h : tget s.recov.lossFrom n = none ∨ linkedTo s n = true) : exec (.nodeLossTimeout n) s = .next s := by
  rw [exec_nodeLossTimeout, execNodeLossTimeout]
  split
  case h_1 => rfl
  case h_2 since hs =>
    have hl : linkedTo s n = true := h.resolve_left (by simp [hs])
    exact if_neg fun hc => Bool.false_ne_true (hc.1.symm.trans hl)

/-! ## LAST_GASP and its mark (R367) -/

/-- A LAST_GASP that is discarded: another opcode, a bad header, a reserved bit of the operand, or a CAUSE
outside 1 to 3. -/
abbrev GaspMalformed (p : Packet) : Prop :=
  p.op ≠ 0x09 ∨ unsequencedBad p = true ∨ bits p.ext 8 56 ≠ 0 ∨ bits p.ext 0 4 = 0 ∨ 3 < bits p.ext 0 4

section
variable {s : State} {port : Nat} {p : Packet}

theorem exec_lastGasp_of_not_active (ha : portActive s port = false) : exec (.lastGasp port p) s = .next s := by
  simp only [exec_lastGasp, execLastGasp, ha, Bool.not_false, if_true]

theorem exec_lastGasp_of_malformed (ha : portActive s port = true) (hb : GaspMalformed p) :
    exec (.lastGasp port p) s = .next (bump s 0x3E00 0x0C) := by
  simp only [exec_lastGasp, execLastGasp, ha, Bool.not_true, Bool.false_eq_true, if_false]
  exact if_pos hb

theorem exec_lastGasp_of_wellFormed (ha : portActive s port = true) (hb : ¬GaspMalformed p) :
    exec (.lastGasp port p) s = .next (setRecov s { s.recov with gasps := tset s.recov.gasps p.src s.now }) := by
  simp only [exec_lastGasp, execLastGasp, ha, Bool.not_true, Bool.false_eq_true, if_false]
  exact if_neg hb

end

theorem exec_gaspMarkExpire_of_none {s : State} {n : Nat} (h : tget s.recov.gasps n = none) :
    exec (.gaspMarkExpire n) s = .next s := by
  simp only [exec_gaspMarkExpire, execGaspMarkExpire, h]

/-- A mark goes once it is 10 ms old, and stays until then. -/
theorem exec_gaspMarkExpire_of_some {s : State} {n since : Nat} (h : tget s.recov.gasps n = some since) :
    exec (.gaspMarkExpire n) s = .next (if passedMs s since 10 = true
      then setRecov s { s.recov with gasps := tdel s.recov.gasps n } else s) := by
  simp only [exec_gaspMarkExpire, execGaspMarkExpire, h]
  split <;> rfl

/-! ## FENCE_COMMAND (R359) -/

theorem exec_fenceCommand_of_allowed {s t : State} {via : Via} {w : Who} {n : Nat}
    (ha : askedBy s via = some (t, w)) (hw : writeStatus t w 0x8100 0x02 n = Code.ok) :
    exec (.fenceCommand via n) s =
      if n = nodeId t then answersTo s t via (answer Code.protection)
      else answersTo s (decideFence t n 2) via (answer Code.ok) := by
  rw [exec_fenceCommand, execFenceCommand, withVia_asked ha, guarded_ok hw, plainAnswer, fenceByDict]
  split <;> rfl

/-- Settles O39, by the cases of each command in turn. -/
theorem nodesAreFencedAndLost : Obligations.NodesAreFencedAndLost := by
  refine ⟨fun s port p => ?notice, fun s n => ?repeats, fun s n => ?loss, fun s port p => ?gasp, fun s n => ?mark,
    fun s n inc cause origin ft skip h => applyFence_of_isFenced h inc cause origin ft skip,
    fun s t via w n ha hw => exec_fenceCommand_of_allowed ha hw⟩
  case notice =>
    exact ⟨exec_fenceNotice_of_not_active, exec_fenceNotice_of_malformed, exec_fenceNotice_of_own,
      exec_fenceNotice_of_own_other, exec_fenceNotice_of_unfence, exec_fenceNotice_of_fence⟩
  case repeats => exact ⟨exec_fenceNoticeRepeat_eq s n, exec_fenceNoticeRepeat_of_none_due⟩
  case loss => exact ⟨fun _ => exec_nodeLossTimeout_of_lost, exec_nodeLossTimeout_of_kept⟩
  case gasp =>
    exact ⟨exec_lastGasp_of_not_active, exec_lastGasp_of_malformed, exec_lastGasp_of_wellFormed⟩
  case mark =>
    exact ⟨fun _ hs hp => by rw [exec_gaspMarkExpire_of_some hs, if_pos hp],
      fun _ hs hp => by rw [exec_gaspMarkExpire_of_some hs, if_neg (ne_true_of_eq_false hp)],
      exec_gaspMarkExpire_of_none⟩

end Sys2Proof.Machine
end

section
/-! PROOFS. The part after reset, and fabric time as its cycles pass (R6 to R8, R23, R490). -/

namespace Sys2Proof.Machine

/-! ## After reset -/

theorem ftOf_reset (q : Nat) : ftOf State.reset q = 0 := by
  have hq : (State.reset.time.ft.get q : BitVec 96) = 0 := by
    unfold Quad.get
    split <;> rfl
  rw [ftOf, hq]
  rfl

/-- No entry differs from its default, so that every numeric entry reads as the table of entries says (R431). -/
theorem reg_reset (idx sub : Nat) : reg State.reset idx sub = defaultOf idx sub := rfl

/-- Settles O2: each field as it stands in the reset state, and each numeric entry by its default. -/
theorem resetLeavesTheStatedValues : Obligations.ResetLeavesTheStatedValues := by
  have hlimit : defaultOf 0x9000 0x01 = 1800 := by decide
  have hceiling : defaultOf 0x9000 0x02 = 2000 := by decide
  exact ⟨rfl, rfl, rfl, ftOf_reset, rfl, rfl, rfl, rfl, rfl, rfl, rfl, rfl, rfl, reg_reset,
    (reg_reset _ _).trans hlimit, (reg_reset _ _).trans hceiling⟩

/-! ## The counters -/

/-- The state with its counters moved on by a number of cycles and all else as it was (R8). -/
def advanceFt (n : Nat) (s : State) : State :=
  { s with
    now := s.now + n
    time := { s.time with
      ft := s.time.ft.map fun c => c + BitVec.ofNat 96 n * BitVec.ofInt 96 (nominalStep + s.time.adj) } }

theorem advanceFt_zero (s : State) : advanceFt 0 s = s := by
  simp [advanceFt, Quad.map]

/-- One cycle and then n are n + 1 cycles: the increment does not change on the way. -/
theorem advanceFt_tickFt (n : Nat) (s : State) : advanceFt n (tickFt s) = advanceFt (n + 1) s := by
  have hnow : s.now + 1 + n = s.now + (n + 1) := by omega
  have hft : ∀ c i : BitVec 96, c + i + BitVec.ofNat 96 n * i = c + BitVec.ofNat 96 (n + 1) * i := by
    intro c i
    rw [BitVec.ofNat_add, BitVec.add_mul, BitVec.one_mul, BitVec.add_comm (BitVec.ofNat 96 n * i), BitVec.add_assoc]
  simp only [advanceFt, tickFt, Quad.map, hnow, hft]

theorem fireDue_of_no_tees {s : State} {q : Nat} (h : teesOf s q = []) : fireDue s q = s := by
  simp [fireDue, h]

/-- With no tee armed a cycle only moves the counters. -/
theorem cycle_of_no_tees {s : State} (h : s.tees = ⟨[], [], [], []⟩) : cycle s = tickFt s := by
  have ht : ∀ q, teesOf (tickFt s) q = [] := by
    intro q
    rw [show teesOf (tickFt s) q = s.tees.get q from rfl, h]
    unfold Quad.get
    split <;> rfl
  simp only [cycle, fireDue_of_no_tees (ht _), ite_self]

theorem cycles_of_no_tees (n : Nat) {s : State} (h : s.tees = ⟨[], [], [], []⟩) : cycles n s = advanceFt n s := by
  induction n generalizing s with
  | zero => exact (advanceFt_zero s).symm
  | succ n ih => rw [cycles, cycle_of_no_tees h, ih (s := tickFt s) h, advanceFt_tickFt]

/-- Settles O9: by induction on the cycles, of which none fires a tee. -/
theorem fabricTimeAdvancesEveryCycle : Obligations.FabricTimeAdvancesEveryCycle :=
  fun _ n => ⟨rfl, fun h => cycles_of_no_tees n h⟩

/-! ## Serial comparison (R7) -/

theorem ftLater_iff (a b : FT) : ftLater a b = true ↔ 1 ≤ (a - b).toNat ∧ (a - b).toNat ≤ 2 ^ 63 - 1 := by
  rw [ftLater, Bool.and_eq_true, decide_eq_true_iff, decide_eq_true_iff]
  omega

/-- The serial difference of two instants that lie less than 2^63 units apart. -/
theorem toNat_sub_ofNat {x y : Nat} (hlt : y < x) (hnear : x - y < 2 ^ 63) :
    (BitVec.ofNat 64 x - BitVec.ofNat 64 y).toNat = x - y ∧
      (BitVec.ofNat 64 y - BitVec.ofNat 64 x).toNat = 2 ^ 64 - (x - y) := by
  simp only [BitVec.toNat_sub, BitVec.toNat_ofNat]
  omega

theorem ftLater_ofNat {x y : Nat} (hlt : y < x) (hnear : x - y < 2 ^ 63) :
    ftLater (BitVec.ofNat 64 x) (BitVec.ofNat 64 y) = true ∧
      ftLater (BitVec.ofNat 64 y) (BitVec.ofNat 64 x) = false := by
  obtain ⟨hxy, hyx⟩ := toNat_sub_ofNat hlt hnear
  refine ⟨(ftLater_iff _ _).2 ?_, Bool.eq_false_iff.2 fun h => ?_⟩
  · omega
  · have := (ftLater_iff _ _).1 h
    omega

end Sys2Proof.Machine
end

section
/-! PROOFS. Tees: what a firing does to its slot, and how slots are armed and disarmed (R7, R22 to R26,
R505). -/

namespace Sys2Proof.Machine

/-! ## The commands and their meanings -/

theorem exec_armTee (d : DescRef) (s : State) : exec (.armTee d) s = execArmTee d s := rfl

theorem exec_disarmTee (d : DescRef) (s : State) : exec (.disarmTee d) s = execDisarmTee d s := rfl

theorem exec_teeArmDict (via : Via) (q : Nat) (b : Bytes) (s : State) :
    exec (.teeArmDict via q b) s = execTeeArmDict via q b s := rfl

/-- Both commands are writes of one entry, whose ENABLE says what they do. -/
theorem exec_teeDisarmDict (via : Via) (q : Nat) (b : Bytes) (s : State) :
    exec (.teeDisarmDict via q b) s = exec (.teeArmDict via q b) s := rfl

/-! ## The slots after a change -/

@[simp] theorem teesOf_teeAction (s : State) (q slot : Nat) (x : TeeSlot) (q' : Nat) :
    teesOf (teeAction s q slot x) q' = teesOf s q' := by
  rw [teesOf, tees_teeAction, ← teesOf]

/-- A changed slot holds the new value, and every other slot of every quarter the old one. -/
theorem tget_teesOf_modTee (s : State) (q slot : Nat) (f : TeeSlot → TeeSlot) (q' i : Nat) :
    tget (teesOf (modTee s q slot f) q') i =
      if q % 4 = q' % 4 ∧ slot = i then (tget (teesOf s q') i).map f else tget (teesOf s q') i := by
  rw [show teesOf (modTee s q slot f) q' = (s.tees.set q (tmod (teesOf s q) slot f)).get q' from rfl, Quad.get_set]
  by_cases hq : q % 4 = q' % 4
  · rw [if_pos hq, tget_tmod, show teesOf s q = teesOf s q' from Quad.get_congr _ hq]
    simp only [hq, true_and]
  · rw [if_neg hq, if_neg fun h => hq h.1]
    rfl

/-! ## A firing (R22 to R24) -/

/-- What a firing of a slot makes of it: counted in FIRED, done with its last one, and with SKIP_MISSED clear
due again one PERIOD later. -/
def IsFired (x y : TeeSlot) : Prop :=
  y.fired = satInc 16 x.fired ∧ y.ctx = x.ctx ∧ y.action = x.action ∧ y.target = x.target ∧
    y.fireTime = x.fireTime ∧ (x.left = some 1 → y.done = true) ∧ (x.left = none → y.done = false) ∧
    (x.skipMissed = false → x.period ≠ 0 → y.next = ftAddNs x.next x.period)

theorem ftAddNs_zero (a : FT) : ftAddNs a 0 = a := by simp [ftAddNs]

/-- A firing changes its own slot, by what a firing makes of it, before the tee's action, which leaves the slots
alone. -/
theorem fireTee_changes_slot {s : State} {q slot : Nat} {x : TeeSlot} (h : tget (teesOf s q) slot = some x)
    (late : Bool) : ∃ f, IsFired x (f x) ∧
      fireTee s q slot late = teeAction (modTee s q slot f) q slot x := by
  unfold fireTee
  rw [h]
  refine ⟨_, ⟨rfl, rfl, rfl, rfl, rfl, fun hl => ?last, fun hl => ?endless, fun hs hp => ?next⟩, rfl⟩
  case last => simp [hl]
  case endless => simp [hl]
  case next => simp [hs, hp, ftAddNs_zero]

/-- Settles O14: the firing changes its slot, and the tee's action changes no slot. -/
theorem aFiringIsCountedAndOrdersTheNext : Obligations.AFiringIsCountedAndOrdersTheNext := by
  intro s q slot late x hx
  obtain ⟨f, hfired, hfire⟩ := fireTee_changes_slot hx late
  rw [hfire]
  simp only [teesOf_teeAction]
  constructor
  · rw [tget_teesOf_modTee, if_pos ⟨rfl, rfl⟩, hx]
    exact ⟨f x, rfl, hfired⟩
  · intro q' i hother
    rw [tget_teesOf_modTee]
    exact if_neg fun h => hother.elim (fun hq => hq h.1.symm) fun hi => hi h.2.symm

/-! ## ARM_TEE -/

/-- An instant more than 2^46 ns ahead is refused by the first check of an arming (R7, R22). -/
theorem teeMisaligned_of_too_far {s : State} {q : Nat} {x : BitVec 256}
    (hfar : 2 ^ 46 * 65536 < (x.extractLsb' 0 64 - ftOf s q).toNat)
    (hahead : (x.extractLsb' 0 64 - ftOf s q).toNat ≤ 2 ^ 63 - 1) : teeMisaligned s q x = true := by
  have hlater : ftLater (x.extractLsb' 0 64) (ftOf s q) = true := (ftLater_iff _ _).2 ⟨by omega, hahead⟩
  have hlimit : decide (2 ^ 62 < (x.extractLsb' 0 64 - ftOf s q).toNat) = true := decide_eq_true (by omega)
  simp only [teeMisaligned, hlater, hlimit, Bool.and_self, Bool.or_true]

/-- The slot that the part chooses is one of the free ones (R22). -/
theorem freeSlot_is_free {s : State} {q : Nat} (h : ∃ i, i < 4096 ∧ thas (teesOf s q) i = false) :
    thas (teesOf s q) (freeSlot s q) = false ∧ freeSlot s q < 4096 := by
  obtain ⟨i, hi, hfree⟩ := h
  obtain ⟨haccepts, hlt⟩ :=
    pickBelow_accepts (p := fun i => !thas (teesOf s q) i) s.fresh hi (by simp [hfree])
  exact ⟨by simpa [freeSlot] using haccepts, hlt⟩

section
variable {s : State} {d : DescRef} {f : Flight} {x : BitVec 256}

theorem exec_armTee_of_misaligned (hact : MayAct s d 0x03 f) (hx : x = f.desc.extractLsb' 64 256)
    (hm : teeMisaligned (actsOn s f) f.quarter x = true) :
    exec (.armTee d) s = completes (actsOn s f) d Code.misaligned 0 := by
  subst hx
  rw [exec_armTee, execArmTee, withDesc_acts hact]
  simp only [hm, Bool.true_or, firstOf, if_true]
  rfl

/-- An arming that passes the four checks of R22. -/
theorem exec_armTee_of_allowed (hact : MayAct s d 0x03 f) (hx : x = f.desc.extractLsb' 64 256)
    (hm : teeMisaligned (actsOn s f) f.quarter x = false) (hen : bit x 152 = true)
    (hclean : clean f.desc 256 192 = true) (hctx : ctxFieldStatus (actsOn s f) f (bits x 120 12) = Code.ok)
    (hquota : underQuota (actsOn s f) (namedCtx f (bits x 120 12)) 0x14
      (teesHeld (actsOn s f) (namedCtx f (bits x 120 12))) = true)
    (hroom : ∃ i, i < 4096 ∧ thas (teesOf (actsOn s f) f.quarter) i = false)
    (hpast : ftLater (ftOf (actsOn s f) f.quarter) (x.extractLsb' 0 64) = true → bit x 153 = true) :
    exec (.armTee d) s =
      completes (enterTee (draw (actsOn s f)) f.quarter (freeSlot (actsOn s f) f.quarter)
        (teeOf x (namedCtx f (bits x 120 12)))) d Code.ok (teeName f.quarter (freeSlot (actsOn s f) f.quarter)) := by
  subst hx
  have hsome : (leastBelow (fun i => !thas (teesOf (actsOn s f) f.quarter) i) 4096 0).isSome = true := by
    obtain ⟨i, hi, hfree⟩ := hroom
    exact (leastBelow_isSome _ _ _).2 ⟨i, by omega, by omega, by simp [hfree]⟩
  have hlate : ∀ c, (ftLater (ftOf (actsOn s f) f.quarter) (teeOf (f.desc.extractLsb' 64 256) c).fireTime &&
      !(teeOf (f.desc.extractLsb' 64 256) c).lateFire) = false := by
    intro c
    simpa [teeOf] using hpast
  have hena : ∀ c, (teeOf (f.desc.extractLsb' 64 256) c).enable = true := fun _ => hen
  rw [exec_armTee, execArmTee, withDesc_acts hact]
  simp only [firstOf, hm, hena, hclean, hctx, hquota, hsome, hlate]
  rfl

/-- DISARM_TEE of an armed slot that its context may disarm (R26). -/
theorem exec_disarmTee_of_allowed {y : TeeSlot} (hact : MayAct s d 0x04 f) (hclean : clean f.desc 14 434 = true)
    (hy : tget (teesOf (actsOn s f) (opnd f.desc 12 2)) (opnd f.desc 0 12) = some y)
    (hctx : f.ctx = 0 ∨ y.ctx = f.ctx) :
    exec (.disarmTee d) s =
      completes (disarmTee (actsOn s f) (opnd f.desc 12 2) (opnd f.desc 0 12)) d Code.ok
        (BitVec.ofNat 64 (if teeDue (actsOn s f) (opnd f.desc 12 2) y then satInc 16 y.fired else y.fired)) := by
  have hmay : ¬(f.ctx ≠ 0 ∧ y.ctx ≠ f.ctx) := fun h => hctx.elim h.1 h.2
  rw [exec_disarmTee, execDisarmTee, withDesc_acts hact]
  simp only [hclean, hy, if_neg hmay]
  rfl

end

/-! ## Writes of 2000+q:20 (R505) -/

section
variable {s t : State} {via : Via} {w : Who} {q : Nat} {b : Bytes}

/-- A slot record that is taken up is armed or disarmed as its ENABLE says. -/
theorem exec_teeArmDict_of_asked (ha : askedBy s via = some (t, w))
    (ho : otherTransfer t via (0x2000 + q) 0x20 = false)
    (hw : writeStatus t w (0x2000 + q) 0x20 0 = Code.ok) :
    exec (.teeArmDict via q b) s = answersTo s (teeByDict t q b).1 via (answer (teeByDict t q b).2) := by
  rw [exec_teeArmDict, execTeeArmDict, withVia_asked ha,
    guardedBlock_ok ho hw, plainAnswer]

/-- A record of ENABLE 1 arms its slot where the checks of R505 pass, and gives their status. -/
theorem teeByDict_of_enable (hlen : b.length = 34) (hslot : ofLe (b.take 2) ≤ 4095)
    (hen : bit (BitVec.ofNat 256 (ofLe (b.drop 2))) 152 = true) :
    teeByDict t q b =
      (if teeDictStatus t q (ofLe (b.take 2)) (BitVec.ofNat 256 (ofLe (b.drop 2))) = Code.ok then
        enterTee t q (ofLe (b.take 2)) (teeOf (BitVec.ofNat 256 (ofLe (b.drop 2)))
          (bits (BitVec.ofNat 256 (ofLe (b.drop 2))) 120 12))
      else t, teeDictStatus t q (ofLe (b.take 2)) (BitVec.ofNat 256 (ofLe (b.drop 2)))) := by
  have hform : ¬(b.length ≠ 34 ∨ 4095 < ofLe (b.take 2)) := by omega
  have hena : ∀ c, ¬(teeOf (BitVec.ofNat 256 (ofLe (b.drop 2))) c).enable = false := fun _ =>
    ne_false_of_eq_true hen
  rw [teeByDict, if_neg hform, if_neg (hena _)]

/-- A record of ENABLE 0 disarms its slot where its context is ACTIVE. -/
theorem teeByDict_of_disable (hlen : b.length = 34) (hslot : ofLe (b.take 2) ≤ 4095)
    (hen : bit (BitVec.ofNat 256 (ofLe (b.drop 2))) 152 = false) :
    let st := namedCtxStatus t (bits (BitVec.ofNat 256 (ofLe (b.drop 2))) 120 12)
    teeByDict t q b = (if st = Code.ok then disarmTee t q (ofLe (b.take 2)) else t, st) := by
  intro st
  have hform : ¬(b.length ≠ 34 ∨ 4095 < ofLe (b.take 2)) := by omega
  have hdis : ∀ c, (teeOf (BitVec.ofNat 256 (ofLe (b.drop 2))) c).enable = false := fun _ => hen
  have hctx : namedCtxStatus t (teeOf (BitVec.ofNat 256 (ofLe (b.drop 2)))
      (bits (BitVec.ofNat 256 (ofLe (b.drop 2))) 120 12)).ctx = st := rfl
  rw [teeByDict, if_neg hform, if_pos (hdis _), hctx]
  by_cases hok : st = Code.ok
  · rw [if_neg (not_not.2 hok), if_pos hok, hok]
  · rw [if_pos hok, if_neg hok]

theorem teeDictStatus_of_misaligned {slot : Nat} {x : BitVec 256} (h : teeMisaligned t q x = true) :
    teeDictStatus t q slot x = Code.misaligned := by
  simp only [teeDictStatus, firstOf, h, if_true]

end

/-- Settles O12: serial differences as naturals, and the first check of an arming. -/
theorem timesCompareSerially : Obligations.TimesCompareSerially := by
  refine ⟨ftLater_iff, fun x y hlt hnear => ftLater_ofNat hlt (by omega), ?armTee, ?dict⟩
  case armTee =>
    intro s t d f x ahead hact ht hx ha hfar hhalf
    subst ht ha
    exact exec_armTee_of_misaligned hact hx (teeMisaligned_of_too_far hfar hhalf)
  case dict =>
    intro s t via w q slot ahead b x hasked ho hw hlen hslot hle hx hen ha hfar hhalf
    subst hslot hx ha
    have hst : teeDictStatus t q (ofLe (b.take 2)) (BitVec.ofNat 256 (ofLe (b.drop 2))) = Code.misaligned :=
      teeDictStatus_of_misaligned (teeMisaligned_of_too_far hfar hhalf)
    rw [exec_teeArmDict_of_asked hasked ho hw, teeByDict_of_enable hlen hle hen, hst]
    rfl

/-- Settles O13: each command past its checks. -/
theorem teesAreArmedAndDisarmed : Obligations.TeesAreArmedAndDisarmed := by
  refine ⟨?arm, ?disarm, ?dictArm, ?dictDisarm⟩
  case arm =>
    intro s t d f x slot hact ht hx hm hen hclean hctx hquota hroom hslot hpast
    subst ht hslot
    obtain ⟨hfree, hlt⟩ := freeSlot_is_free hroom
    exact ⟨hfree, hlt, exec_armTee_of_allowed hact hx hm hen hclean hctx hquota hroom hpast⟩
  case disarm =>
    intro s t d f q slot x hact ht hclean hslot hq hx hctx
    subst ht hslot hq
    exact exec_disarmTee_of_allowed hact hclean hx hctx
  case dictArm =>
    intro s t via w q slot b x hasked ho hw hlen hslot hle hx hen hst
    subst hslot hx
    rw [exec_teeArmDict_of_asked hasked ho hw, teeByDict_of_enable hlen hle hen, if_pos hst, hst]
  case dictDisarm =>
    intro s t via w q slot b hasked ho hw hlen hslot hle hen
    subst hslot
    rw [exec_teeDisarmDict, exec_teeArmDict_of_asked hasked ho hw, teeByDict_of_disable hlen hle hen]

end Sys2Proof.Machine
end

section
/-! PROOFS. The clock: beacons, announces, lock and holdover, external time, and the step by dictionary (R9
to R21). -/

namespace Sys2Proof.Machine

/-! ## The commands and their meanings -/

theorem exec_beaconSend (port : Nat) (s : State) : exec (.beaconSend port) s = execBeaconSend port s := rfl

theorem exec_timeBeacon (port : Nat) (p : Packet) (s : State) :
    exec (.timeBeacon port p) s = execTimeBeacon port p s := rfl

theorem exec_ftLockReached (s : State) : exec .ftLockReached s = execFtLockReached s := rfl

theorem exec_ftOffsetLimitExceeded (s : State) :
    exec .ftOffsetLimitExceeded s = execFtOffsetLimitExceeded s := rfl

theorem exec_parentLost (s : State) : exec .parentLost s = execParentLost s := rfl

theorem exec_holdoverHuddleLimit (s : State) : exec .holdoverHuddleLimit s = execHoldoverHuddleLimit s := rfl

theorem exec_announceSend (s : State) : exec .announceSend s = execAnnounceSend s := rfl

theorem exec_timeAnnounce (port : Nat) (p : Packet) (s : State) :
    exec (.timeAnnounce port p) s = execTimeAnnounce port p s := rfl

theorem exec_externalLockGained (s : State) : exec .externalLockGained s = execExternalLockGained s := rfl

theorem exec_taiStepMaster (s : State) : exec .taiStepMaster s = execTaiStepMaster s := rfl

theorem exec_ppsEdge (s : State) : exec .ppsEdge s = execPpsEdge s := rfl

theorem exec_ftStepCommand (via : Via) (v : BitVec 64) (s : State) :
    exec (.ftStepCommand via v) s = execFtStepCommand via v s := rfl

/-! ## Beacons (R10 to R12) -/

/-- The link's record once a beacon of send time t3 has gone out. -/
def afterBeaconSent (s : State) (t3 : FT) (l : LinkTime) : LinkTime :=
  { l with nextSeq := (l.nextSeq + 1) % 256, sent := tset l.sent (l.nextSeq % 256) t3, lastSent := s.now }

theorem exec_beaconSend_of_due {s : State} {port : Nat} (ha : portActive s port = true)
    (hd : (linkTime s port).lastSent = 0 ∨ passedNs s (linkTime s port).lastSent (reg s 0x3F00 0x06) = true) :
    let t3 := ftOf s (portQuarter port) + BitVec.ofInt 64 (portLatency s port 1)
    exec (.beaconSend port) s =
      .next (sendLocal (modLinkTime s port (afterBeaconSent s t3)) port 0x0A (beaconExt s (linkTime s port) t3)) := by
  have hdue : (!portActive s port || ((linkTime s port).lastSent != 0 &&
      !passedNs s (linkTime s port).lastSent (reg s 0x3F00 0x06))) = false := by
    rcases hd with h | h <;> simp [ha, h]
  rw [exec_beaconSend, execBeaconSend, hdue]
  rfl

/-- A TIME_BEACON that is discarded: another opcode, a bad header, a reserved bit of the operand, or a state
that Table 1 does not list. -/
abbrev BeaconMalformed (p : Packet) : Prop :=
  p.op ≠ 0x0A ∨ unsequencedBad p = true ∨ bits p.ext 116 12 ≠ 0 ∨ 3 < bits p.ext 113 3

/-- The state once a beacon has arrived at t4: its echo and its instant are noted. -/
def beaconHeard (s : State) (port : Nat) (p : Packet) (t4 : FT) : State :=
  modLinkTime s port fun l => { l with echo := some (bits p.ext 96 8, t4), lastBeacon := some s.now }

/-- A well-formed beacon with an echo that the part knows, and no parent to leave, is measured. -/
theorem exec_timeBeacon_of_echo {s : State} {port : Nat} {p : Packet} {t1 : FT} (ha : portActive s port = true)
    (hb : ¬BeaconMalformed p) (hq : ¬(s.time.parent = some port ∧ quarantined s port = true))
    (he : bit p.ext 112 = true) (ht : tget (linkTime s port).sent (bits p.ext 104 8) = some t1) :
    let t4 := ftOf s (portQuarter port) - BitVec.ofInt 64 (portLatency s port 2)
    let ds := ((ftDiff t4 t1 - bits p.ext 64 32) / 2 :: (linkTime s port).delays).take 16
    let off := ftDiff (p.ext.extractLsb' 0 64) t4 + medianOf ds
    let t := modLinkTime (beaconHeard s port p t4) port fun l => { l with delays := ds, offset := some off }
    let t := if (linkTime s port).delays.isEmpty then elect t else t
    exec (.timeBeacon port p) s = .next (if t.time.parent = some port then parentOffset t port off else t) := by
  rw [exec_timeBeacon, execTimeBeacon]
  simp only [ha, Bool.not_true, Bool.false_eq_true, if_false, if_neg hb, if_neg hq, he, if_true, ht]
  rfl

/-- Settles O10: a beacon sent when it is due, and a beacon measured by its echo. -/
theorem beaconsMeasureAndSteerTheClock : Obligations.BeaconsMeasureAndSteerTheClock := by
  refine ⟨?sent, ?measured⟩
  case sent =>
    intro s port t3 ha hd ht
    subst ht
    exact exec_beaconSend_of_due ha hd
  case measured =>
    intro s port p t1 t4 ds off ha hop hbad hres hstate hq he ht h4 hds hoff
    subst h4 hds hoff
    have hb : ¬BeaconMalformed p := by
      rintro (h | h | h | h)
      · exact h hop
      · exact Bool.false_ne_true (hbad.symm.trans h)
      · exact h hres
      · omega
    rw [exec_timeBeacon_of_echo ha hb hq he ht]
    simp only [List.isEmpty_iff]
    rfl

/-! ## Lock, holdover and the parent (R9, R12, R21) -/

section
variable {s : State}

theorem exec_ftLockReached_of_limit {n : Nat} (hp : s.time.parent = some n)
    (hs : s.time.state = .free ∨ s.time.state = .holdover) (hl : 64 ≤ s.time.inLimit) :
    let t := setFtState s .locked
    let u := { t with time := { t.time with
      taiValid := t.time.taiValid || ((linkTime s n).announce.map (·.taiValid)).getD false } }
    exec .ftLockReached s = .next (if viewOf u = viewOf s then u else announceAll u) := by
  rw [exec_ftLockReached, execFtLockReached]
  simp only [hp, if_pos (And.intro hs hl)]

theorem exec_ftOffsetLimitExceeded_of_limit (hs : s.time.state = .locked) (hl : 8 ≤ s.time.outLimit) :
    exec .ftOffsetLimitExceeded s = .next (setFtState s .holdover) := by
  rw [exec_ftOffsetLimitExceeded, execFtOffsetLimitExceeded, if_pos ⟨hs, hl⟩]

theorem exec_parentLost_of_unheard {n t : Nat} (hp : s.time.parent = some n)
    (hb : (linkTime s n).lastBeacon = some t) (hd : passedNs s t (3 * reg s 0x3F00 0x06) = true) :
    exec .parentLost s = .next (loseParent (modLinkTime s n fun l => { l with announce := none })) := by
  rw [exec_parentLost, execParentLost]
  simp only [hp, hb, hd, if_true]

theorem exec_holdoverHuddleLimit_of_passed (hs : s.time.state = .holdover)
    (hd : passedMs s s.time.holdoverSince 100 = true) :
    exec .holdoverHuddleLimit s = .next { s with time := { s.time with huddleBarred := true } } := by
  rw [exec_holdoverHuddleLimit, execHoldoverHuddleLimit, if_pos ⟨hs, hd⟩]

/-! ## Announces (R15, R16) -/

theorem exec_announceSend_of_due (hd : passedUs s s.time.lastAnnounce 1000 = true) :
    exec .announceSend s = .next (announceAll s) := by
  rw [exec_announceSend, execAnnounceSend, if_pos hd]

/-- A TIME_ANNOUNCE that is discarded: another opcode, a bad header, or a reserved bit of the operand. -/
abbrev AnnounceMalformed (p : Packet) : Prop :=
  p.op ≠ 0x0B ∨ unsequencedBad p = true ∨ bits p.ext 57 71 ≠ 0 ∨ bit p.ext 15 = true

/-- The view that a TIME_ANNOUNCE carries, heard at an instant (Table 3). -/
def announceOf (ext : BitVec 128) (now : Nat) : Announce :=
  { masterId := bits ext 0 12, masterClass := heardClass (bits ext 12 3), steps := bits ext 16 8
    utcOffset := bits ext 24 16, leapPending := bit ext 40
    senderClass := heardClass (bits ext 41 3), senderId := bits ext 44 12
    taiValid := bit ext 56, heardAt := now }

theorem exec_timeAnnounce_of_wellFormed {port : Nat} {p : Packet} (ha : portActive s port = true)
    (hb : ¬AnnounceMalformed p) :
    exec (.timeAnnounce port p) s =
      .next (elect (modLinkTime s port fun l => { l with announce := some (announceOf p.ext s.now) })) := by
  rw [exec_timeAnnounce, execTimeAnnounce]
  simp only [ha, Bool.not_true, Bool.false_eq_true, if_false, if_neg hb]
  rfl

/-! ## External time (R14, R15, R17, R18) -/

variable {c : PtpClient}

theorem exec_externalLockGained_of_passed {t : Nat} (hc : activeClient s = some c) (hw : c.within = some t)
    (hx : s.time.externalLock = false) (hd : passedMs s t 10000 = true) :
    exec .externalLockGained s =
      .next (elect { s with time := { s.time with externalLock := true, externalHeld := true } }) := by
  rw [exec_externalLockGained, execExternalLockGained]
  simp only [hc, Option.bind_some, hw, if_pos (And.intro hx hd)]

theorem exec_taiStepMaster_of_boundary (hc : activeClient s = some c) (hs : s.time.state = .master)
    (ht : s.time.taiValid = false) (hx : s.time.externalLock = true) (hb : ptpNow s c % second = 0) :
    let t := stepFt s (ftDiff (BitVec.ofNat 64 (ptpNow s c * 65536)) (ftOf s 0))
    exec .taiStepMaster s =
      .next (announceAll { t with time := { t.time with taiValid := true, firstStep := true } }) := by
  rw [exec_taiStepMaster, execTaiStepMaster]
  simp only [hc]
  exact if_pos ⟨hs, ht, hx, hb⟩

/-- PTP time at the edge of the 1PPS input, in ns: now less the cable delay (R14). -/
def ppsTime (s : State) (c : PtpClient) : Int := (ptpNow s c : Int) - regInt s 0x3F00 0x0C / 1000

theorem exec_ppsEdge_of_near (hc : activeClient s = some c) (he : reg s 0x3F00 0x0B ≠ 0)
    (hr : ppsTime s c % (second : Int) ≤ 500 ∨ (second : Int) - 500 ≤ ppsTime s c % (second : Int)) :
    let edge := ftOf s 0 - BitVec.ofInt 64 (regInt s 0x3F00 0x0C * 65536 / 1000)
    let t := { s with time := { s.time with ppsPhase := some (edge, s.now) } }
    let whole := (ppsTime s c + second / 2) / second * second
    exec .ppsEdge s =
      .next (if s.time.state = .master ∧ s.time.taiValid = true ∧ s.time.externalLock = true then
        servoRate t (ftDiff (BitVec.ofInt 64 (whole * 65536)) edge) 10 else t) := by
  intro edge t whole
  rw [exec_ppsEdge, execPpsEdge]
  simp only [hc, if_neg he]
  refine (if_pos hr).trans ?_
  split <;> rfl

theorem exec_ppsEdge_of_far (hc : activeClient s = some c) (he : reg s 0x3F00 0x0B ≠ 0)
    (hlo : 500 < ppsTime s c % (second : Int)) (hhi : ppsTime s c % (second : Int) < (second : Int) - 500) :
    exec .ppsEdge s = .next (bump s 0x3F00 0x10) := by
  have hr : ¬(ppsTime s c % (second : Int) ≤ 500 ∨ (second : Int) - 500 ≤ ppsTime s c % (second : Int)) := by
    omega
  rw [exec_ppsEdge, execPpsEdge]
  simp only [hc, if_neg he]
  exact if_neg hr

/-! ## The step by dictionary (R9) -/

theorem exec_ftStepCommand_of_allowed {t : State} {via : Via} {w : Who} {v : BitVec 64}
    (ha : askedBy s via = some (t, w)) (hw : writeStatus t w 0x3F00 0x0D v.toNat = Code.ok)
    (hl : t.time.state ≠ .locked) (hm : t.time.state ≠ .master) :
    exec (.ftStepCommand via v) s = answersTo s (stepFt t (v.toInt * 65536)) via (answer Code.ok) := by
  have hfree : ¬(t.time.state = .locked ∨ t.time.state = .master) := fun h => h.elim hl hm
  rw [exec_ftStepCommand, execFtStepCommand, withVia_asked ha, guarded_ok hw, plainAnswer, ftStepByDict,
    if_neg hfree, BitVec.ofNat_toNat, BitVec.setWidth_eq]

end

/-- Settles O11: each command of the clock in turn. -/
theorem theClockChangesStateByItsRules : Obligations.TheClockChangesStateByItsRules := by
  refine ⟨fun _ _ => exec_ftLockReached_of_limit, fun _ => exec_ftOffsetLimitExceeded_of_limit,
    fun _ _ _ => exec_parentLost_of_unheard, fun _ => exec_holdoverHuddleLimit_of_passed,
    fun _ => exec_announceSend_of_due, ?announce, fun _ _ _ => exec_externalLockGained_of_passed,
    fun _ _ => exec_taiStepMaster_of_boundary, ?near, ?far,
    fun _ _ _ _ _ => exec_ftStepCommand_of_allowed⟩
  case announce =>
    intro s port p ha hop hbad hres hbit
    refine exec_timeAnnounce_of_wellFormed ha ?_
    rintro (h | h | h | h)
    · exact h hop
    · exact Bool.false_ne_true (hbad.symm.trans h)
    · exact h hres
    · exact Bool.false_ne_true (hbit.symm.trans h)
  case near =>
    intro s c r edge hc he hr hnear hedge
    subst hr hedge
    exact exec_ppsEdge_of_near hc he hnear
  case far =>
    intro s c r hc he hr hlo hhi
    subst hr
    exact exec_ppsEdge_of_far hc he hlo hhi

end Sys2Proof.Machine
end

section
/-! PROOFS. Huddle entries: their arming, the arrivals of members and child parts, releases and timeouts (R21,
R27 to R33). -/

namespace Sys2Proof.Machine

/-! ## The commands and their meanings -/

theorem exec_huddleArm (d : DescRef) (s : State) : exec (.huddleArm d) s = execHuddleArm d s := rfl

theorem exec_huddleArrive (d : DescRef) (s : State) : exec (.huddleArrive d) s = execHuddleArrive d s := rfl

theorem exec_huddleArrivePacket (p : Packet) (s : State) :
    exec (.huddleArrivePacket p) s = execHuddleArrivePacket p s := rfl

theorem exec_huddleRelease (p : Packet) (s : State) : exec (.huddleRelease p) s = execHuddleRelease p s := rfl

theorem exec_huddleRootTimeout (ctx no : Nat) (s : State) :
    exec (.huddleRootTimeout ctx no) s = execHuddleRootTimeout ctx no s := rfl

theorem exec_huddleReleaseTimeout (ctx no : Nat) (s : State) :
    exec (.huddleReleaseTimeout ctx no) s = execHuddleReleaseTimeout ctx no s := rfl

/-! ## Arming (R27) -/

/-- What HUDDLE_ARM asks of its record: reserved bits zero, counts and COMBINE in range, a context it may name,
a child group of as many members as child parts, and room for an entry that is not there yet. -/
structure HuddleArmable (t : State) (f : Flight) (x : BitVec 256) (c : Nat) (h : Huddle) : Prop where
  reservedBit : bit x 127 = false
  reservedMiddle : bits x 128 96 = 0
  reservedTop : bits x 240 16 = 0
  reservedRest : clean f.desc 256 192 = true
  members : h.localMembers ≤ 4096
  children : h.childParts ≤ 64
  combine : h.combine ≤ 5
  context : ctxFieldStatus t f (bits x 0 12) = Code.ok
  group : 0 < h.childParts → (groupFor t h.childGroup c 0).map (·.members.length) = some h.childParts
  room : tget t.huddles (huddleKey c h.no) = none →
    underQuota t c 0x15 (huddlesHeld t c) = true ∧ t.huddles.length < 1024

section
variable {t : State} {f : Flight} {x : BitVec 256} {c : Nat} {h : Huddle} (ok : HuddleArmable t f x c h)
include ok

theorem HuddleArmable.fields_ok :
    (bit x 127 || bits x 128 96 != 0 || bits x 240 16 != 0 || !clean f.desc 256 192 ||
      decide (4096 < h.localMembers) || decide (64 < h.childParts) || decide (5 < h.combine)) = false := by
  simp [ok.reservedBit, ok.reservedMiddle, ok.reservedTop, ok.reservedRest, ok.members, ok.children, ok.combine]

theorem HuddleArmable.group_known :
    (decide (0 < h.childParts) && (groupFor t h.childGroup c 0).isNone) = false := by
  cases hg : groupFor t h.childGroup c 0 with
  | some g => simp
  | none =>
    have hno : ¬0 < h.childParts := fun hpos => by simpa [hg] using ok.group hpos
    simp [hno]

theorem HuddleArmable.group_fits :
    (decide (0 < h.childParts) &&
      ((groupFor t h.childGroup c 0).map fun g => g.members.length) != some h.childParts) = false := by
  by_cases hpos : 0 < h.childParts
  · simp [ok.group hpos]
  · simp [hpos]

theorem HuddleArmable.room_left :
    ((tget t.huddles (huddleKey c h.no)).isNone &&
      (!underQuota t c 0x15 (huddlesHeld t c) || decide (1024 ≤ t.huddles.length))) = false := by
  cases hold : tget t.huddles (huddleKey c h.no) with
  | some o => simp
  | none =>
    obtain ⟨hquota, hlen⟩ := ok.room hold
    simp [hquota, hlen]

end

/-- A HUDDLE_ARM that passes its checks; the members of an entry armed again complete ABORTED first. -/
theorem exec_huddleArm_of_armable {s t : State} {d : DescRef} {f : Flight} {x : BitVec 256} {c : Nat} {h : Huddle}
    (hact : MayAct s d 0x05 f) (ht : t = actsOn s f) (hx : x = f.desc.extractLsb' 64 256)
    (hc : c = namedCtx f (bits x 0 12)) (hh : h = huddleOf x c) (ok : HuddleArmable t f x c h) :
    let u := ((tget t.huddles (huddleKey c h.no)).map (abandonHuddle t)).getD t
    exec (.huddleArm d) s = completes { u with huddles := tset u.huddles (huddleKey c h.no) h } d Code.ok 0 := by
  rw [exec_huddleArm, execHuddleArm, withDesc_acts hact, ← ht, ← hx]
  simp only [← hc, ← hh, firstOf, ok.fields_ok, ok.group_known, ok.group_fits, ok.room_left, ok.context,
    bne_self_eq_false, Bool.false_eq_true, if_false, ne_eq, not_true]
  cases tget t.huddles (huddleKey c h.no) <;> rfl

/-! ## Arrivals of members (R21, R27, R30) -/

/-- A local member arrives for the current round of an entry that still gathers and has a place for it. -/
theorem localArrive_of_current {t : State} {key who : Nat} {fk : Option Nat} {value : BitVec 64} {stamp : FT}
    {h : Huddle} (hh : tget t.huddles key = some h) (hft : ftUsable t = true) (hf : h.state ≠ .failed)
    (hu : h.state ≠ .sentUp) (hnew : (h.arrivals.any fun x => x.who == who) = false)
    (hplace : (h.arrivals.filter fun x => !isChild x.who).length < h.localMembers) :
    localArrive t key who fk (some h.round) value stamp =
      (countArrival t key { who := who, seq := fk, value := value, stamp := stamp }, none) := by
  have hround : (h.round + 65536 - h.round) % 65536 = 0 := by omega
  have htaken : ((h.arrivals.any fun x => x.who == who) || decide (h.state = .sentUp) ||
      decide (h.localMembers ≤ (h.arrivals.filter fun x => !isChild x.who).length)) = false := by
    simp [hnew, hu, hplace]
  simp only [localArrive, hh, hft, Option.getD_some, hround, if_neg hf, htaken, Bool.not_true, Bool.false_eq_true,
    if_false, if_true]

/-- A HUDDLE_ARRIVE whose queue has nothing before it arrives, and waits or completes as its arrival says. -/
theorem exec_huddleArrive_of_first {s : State} {d : DescRef} {f : Flight} (hi : issuedOp s d 0x06 = some f)
    (hfirst : flightsBefore s (refKey d) = []) (hlow : clean f.desc 32 32 = true)
    (hhigh : clean f.desc 128 320 = true) {r : Evs}
    (hr : localArrive (waitOn (actsOn s f) (refKey d)) (huddleKey f.ctx (opnd f.desc 0 16)) f.queue
      (some (refKey d)) (some (opnd f.desc 16 16)) (BitVec.ofNat 64 (opnd f.desc 64 64))
      (ftOf (actsOn s f) f.quarter) = (r, none)) :
    exec (.huddleArrive d) s = .next (settle (runAll r)) := by
  rw [actsOn] at hr
  simp only [exec_huddleArrive, execHuddleArrive, hi, hfirst, hlow, hhigh, hr, List.isEmpty_nil, Bool.not_true,
    Bool.false_eq_true, Bool.true_eq_false, or_self, if_false]

/-! ## Arrivals of child parts (R27, R30) -/

section
variable {s t : State} {p : Packet} {h : Huddle}

/-- A child part's combined arrival for the current round of an entry that still gathers. -/
theorem childArrive_of_current (hlive : liveCtx t p = true)
    (hh : tget t.huddles (huddleKey p.ctx (bits p.ext 64 16)) = some h) (hc : isChildNode t h p.src = true)
    (hround : bits p.ext 80 8 = h.round % 256) (hf : h.state ≠ .failed) (hu : h.state ≠ .sentUp)
    (hnew : (h.arrivals.any fun x => x.who == 65536 + p.src) = false) :
    childArrive t p =
      runAll (countArrival (ackDone t p) (huddleKey p.ctx (bits p.ext 64 16))
        { who := 65536 + p.src, count := bits p.ext 88 13, value := p.ext.extractLsb' 0 64
          stamp := fullStamp t (huddleQuarter h) (bits p.ext 101 27) }) := by
  have hdiff : (bits p.ext 80 8 + 256 - h.round % 256) % 256 = 0 := by omega
  simp only [childArrive, hlive, hh, hc, hdiff, hf, hu, hnew, Bool.not_true, Bool.false_eq_true, if_false, if_true,
    and_false, ne_eq, not_false_eq_true, and_self]

theorem exec_huddleArrivePacket_of_fresh (ha : arrival s none p = .fresh t) :
    exec (.huddleArrivePacket p) s = .next (settle (childArrive t p)) := by
  rw [exec_huddleArrivePacket, execHuddleArrivePacket, ha]

/-! ## Releases (R30, R33) -/

theorem exec_huddleRelease_of_fresh (ha : arrival s none p = .fresh t) :
    exec (.huddleRelease p) s = .next (settle (takeRelease t p)) := by
  rw [exec_huddleRelease, execHuddleRelease, ha]

/-- The parent's release of the current round of an entry that has sent up. -/
theorem takeRelease_of_released (hlive : liveCtx t p = true)
    (hh : tget t.huddles (huddleKey p.ctx (bits p.ext 64 16)) = some h) (hr : h.root = false)
    (hp : h.parent = p.src) (hround : bits p.ext 80 8 = h.round % 256) (hfail : bit p.ext 88 = false)
    (hu : h.state = .sentUp) :
    takeRelease t p = runAll (releaseRound (ackDone t p) (huddleKey p.ctx (bits p.ext 64 16)) h
      (p.ext.extractLsb' 0 64)) := by
  simp only [takeRelease, hlive, hh, hr, hp, hround, hfail, hu, Bool.not_true, Bool.not_false, Bool.false_eq_true,
    if_false, if_true, beq_self_eq_true, Bool.and_self, Bool.false_and, decide_true]

/-- The parent's failed release of the current round. -/
theorem takeRelease_of_failed (hlive : liveCtx t p = true)
    (hh : tget t.huddles (huddleKey p.ctx (bits p.ext 64 16)) = some h) (hr : h.root = false)
    (hp : h.parent = p.src) (hround : bits p.ext 80 8 = h.round % 256) (hfail : bit p.ext 88 = true)
    (hst : p.ext.extractLsb' 89 8 ≠ Code.ok) :
    let st : Status := p.ext.extractLsb' 89 8
    let u := releaseChildren (ackDone t p) (huddleKey p.ctx (bits p.ext 64 16)) h st 0
    takeRelease t p =
      if h.state = .failed then u else runAll (failRound u (huddleKey p.ctx (bits p.ext 64 16)) h st) := by
  simp only [takeRelease, hlive, hh, hr, hp, hround, hfail, if_neg hst, Bool.not_true, Bool.not_false,
    Bool.false_eq_true, if_false, if_true, beq_self_eq_true, Bool.and_self]

end

/-! ## Timeouts (R32) -/

section
variable {s : State} {ctx no since : Nat} {h : Huddle}

theorem exec_huddleRootTimeout_of_unfinished (hh : tget s.huddles (huddleKey ctx no) = some h)
    (ha : h.firstAt = some since) (hr : h.root = true) (hg : h.state = .gathering)
    (hd : passedUs s since (huddleTimeout s h) = true) :
    exec (.huddleRootTimeout ctx no) s =
      .next (settle (runAll (failFound s (huddleKey ctx no) h Code.timeout))) := by
  simp only [exec_huddleRootTimeout, execHuddleRootTimeout, hh, ha]
  exact if_pos ⟨hr, hg, hd⟩

theorem exec_huddleReleaseTimeout_of_unfinished (hh : tget s.huddles (huddleKey ctx no) = some h)
    (ha : h.sentUpAt = some since) (hr : h.root = false) (hu : h.state = .sentUp)
    (hd : passedUs s since (huddleTimeout s h + 1000) = true) :
    exec (.huddleReleaseTimeout ctx no) s =
      .next (settle (runAll (failFound s (huddleKey ctx no) h Code.timeout))) := by
  simp only [exec_huddleReleaseTimeout, execHuddleReleaseTimeout, hh, ha]
  exact if_pos ⟨hr, hu, hd⟩

end

/-- Settles O15: each command of an entry's life in turn. -/
theorem huddleEntriesAreArmedAndMembersArrive : Obligations.HuddleEntriesAreArmedAndMembersArrive := by
  refine ⟨?arm, ?arrive, ?child, ?released, ?failed,
    fun _ _ _ _ _ => exec_huddleRootTimeout_of_unfinished,
    fun _ _ _ _ _ => exec_huddleReleaseTimeout_of_unfinished⟩
  case arm =>
    intro s t d f x c h hact ht hx hc hh h127 h128 h240 hclean hmembers hchildren hcombine hctx hgroup hroom
    exact exec_huddleArm_of_armable hact ht hx hc hh
      ⟨h127, h128, h240, hclean, hmembers, hchildren, hcombine, hctx, hgroup, hroom⟩
  case arrive =>
    intro s t d f key h hi hfirst hlow hhigh ht hkey hh hft hround hf hu hnew hplace
    subst ht hkey
    refine exec_huddleArrive_of_first hi hfirst hlow hhigh ?_
    rw [hround]
    exact localArrive_of_current hh hft hf hu hnew hplace
  case child =>
    intro s t p key h ha hlive hkey hh hc hround hf hu hnew
    subst hkey
    rw [exec_huddleArrivePacket_of_fresh ha, childArrive_of_current hlive hh hc hround hf hu hnew]
  case released =>
    intro s t p key h ha hlive hkey hh hr hp hround hfail hu
    subst hkey
    rw [exec_huddleRelease_of_fresh ha, takeRelease_of_released hlive hh hr hp hround hfail hu]
  case failed =>
    intro s t p key h st ha hlive hkey hh hr hp hround hfail hst hne
    subst hkey hst
    rw [exec_huddleRelease_of_fresh ha, takeRelease_of_failed hlive hh hr hp hround hfail hne]

end Sys2Proof.Machine
end

section
/-! PROOFS. The fields of window handles and packet headers (O3): each field read is a quotient and remainder of the
word's number, and the word made is the sum of its fields at their weights. -/

namespace Sys2Proof.Machine

theorem bits_eq {n : Nat} (x : BitVec n) (lo w : Nat) : bits x lo w = x.toNat / 2 ^ lo % 2 ^ w := by
  rw [bits, Nat.shiftRight_eq_div_pow]

theorem bit_eq {n : Nat} (x : BitVec n) (i : Nat) : bit x i = decide (x.toNat / 2 ^ i % 2 = 1) := by
  rw [bit, BitVec.getLsbD, Nat.testBit_eq_decide_div_mod_eq]

/-- A bit's number is what it was read from. -/
theorem b2n_bit {n : Nat} (x : BitVec n) (i : Nat) : b2n (bit x i) = x.toNat / 2 ^ i % 2 := by
  rw [bit_eq, b2n]
  split
  next h => exact (of_decide_eq_true h).symm
  next h => have := mt decide_eq_true h; omega

theorem b2n_lt (b : Bool) : b2n b < 2 := by cases b <;> decide

/-- A bit read is the flag whose number it has. -/
theorem decide_odd {m : Nat} {b : Bool} : decide (m % 2 = 1) = b ↔ m % 2 = b2n b := by
  cases b
  · exact decide_eq_false_iff_not.trans Nat.mod_two_ne_one
  · rw [decide_eq_true_iff]; rfl

/-- The number of a handle is the weighted sum of its fields. -/
theorem toNat_mkHandle {n w o : Nat} (hn : n < 2 ^ 12) (hw : w < 2 ^ 14) (ho : o < 2 ^ 38) :
    (mkHandle n w o).toNat = n * 2 ^ 52 + w * 2 ^ 38 + o := by
  rw [mkHandle, BitVec.toNat_ofNat]
  omega

theorem handleNode_mkHandle {n w o : Nat} (hn : n < 2 ^ 12) (hw : w < 2 ^ 14) (ho : o < 2 ^ 38) :
    handleNode (mkHandle n w o) = n := by
  rw [handleNode, bits_eq, toNat_mkHandle hn hw ho]
  omega

theorem handleWindow_mkHandle {n w o : Nat} (hn : n < 2 ^ 12) (hw : w < 2 ^ 14) (ho : o < 2 ^ 38) :
    handleWindow (mkHandle n w o) = w := by
  rw [handleWindow, bits_eq, toNat_mkHandle hn hw ho]
  omega

theorem handleOffset_mkHandle {n w o : Nat} (hn : n < 2 ^ 12) (hw : w < 2 ^ 14) (ho : o < 2 ^ 38) :
    handleOffset (mkHandle n w o) = o := by
  rw [handleOffset, bits_eq, toNat_mkHandle hn hw ho]
  omega

/-- Every 64-bit handle is the one made of its fields. -/
theorem mkHandle_fields (h : BitVec 64) : mkHandle (handleNode h) (handleWindow h) (handleOffset h) = h := by
  have hlt : h.toNat < 2 ^ 64 := h.isLt
  simp only [handleNode, handleWindow, handleOffset, bits_eq]
  apply BitVec.eq_of_toNat_eq
  rw [toNat_mkHandle (by omega) (by omega) (by omega)]
  omega

/-- The number of a header word is the weighted sum of its fields. -/
theorem toNat_word {h : Hdr} (h1 : h.opcode < 2 ^ 8) (h2 : h.vl < 2 ^ 3) (h3 : h.colour < 2 ^ 2) (h4 : h.src < 2 ^ 12)
    (h5 : h.dst < 2 ^ 12) (h6 : h.ctx < 2 ^ 12) (h7 : h.gen < 2 ^ 16) (h8 : h.srcQueue < 2 ^ 16) (h9 : h.seq < 2 ^ 24)
    (h10 : h.floor < 2 ^ 10) (h11 : h.srcInc < 2 ^ 4) (h12 : h.dstInc < 2 ^ 4) :
    h.word.toNat = h.opcode + h.vl * 2 ^ 8 + h.colour * 2 ^ 11 + b2n h.cn * 2 ^ 13 + b2n h.resend * 2 ^ 14 +
      b2n h.data * 2 ^ 15 + h.src * 2 ^ 16 + h.dst * 2 ^ 28 + h.ctx * 2 ^ 40 + h.gen * 2 ^ 52 + h.srcQueue * 2 ^ 68 +
      h.seq * 2 ^ 84 + h.floor * 2 ^ 108 + h.srcInc * 2 ^ 118 + h.dstInc * 2 ^ 122 + b2n h.dstKnown * 2 ^ 126 := by
  have b1 := b2n_lt h.cn
  have b2 := b2n_lt h.resend
  have b3 := b2n_lt h.data
  have b4 := b2n_lt h.dstKnown
  rw [Hdr.word, BitVec.toNat_ofNat]
  omega

theorem hdrOf_word {h : Hdr} (h1 : h.opcode < 2 ^ 8) (h2 : h.vl < 2 ^ 3) (h3 : h.colour < 2 ^ 2) (h4 : h.src < 2 ^ 12)
    (h5 : h.dst < 2 ^ 12) (h6 : h.ctx < 2 ^ 12) (h7 : h.gen < 2 ^ 16) (h8 : h.srcQueue < 2 ^ 16) (h9 : h.seq < 2 ^ 24)
    (h10 : h.floor < 2 ^ 10) (h11 : h.srcInc < 2 ^ 4) (h12 : h.dstInc < 2 ^ 4) : hdrOf h.word = h := by
  have e := toNat_word h1 h2 h3 h4 h5 h6 h7 h8 h9 h10 h11 h12
  obtain ⟨opcode, vl, colour, cn, resend, data, src, dst, ctx, gen, srcQueue, seq, floor, srcInc, dstInc, dstKnown⟩ := h
  dsimp only at *
  have b1 := b2n_lt cn
  have b2 := b2n_lt resend
  have b3 := b2n_lt data
  have b4 := b2n_lt dstKnown
  simp only [hdrOf, bits_eq, bit_eq, e, Hdr.mk.injEq, decide_odd]
  refine ⟨?_, ?_, ?_, ?_, ?_, ?_, ?_, ?_, ?_, ?_, ?_, ?_, ?_, ?_, ?_, ?_⟩ <;> omega

/-- A header word whose reserved bit is zero is the word of its fields. -/
theorem word_hdrOf {w : BitVec 128} (hr : bit w 127 = false) : (hdrOf w).word = w := by
  have hlt : w.toNat < 2 ^ 128 := w.isLt
  rw [bit_eq, decide_eq_false_iff_not] at hr
  apply BitVec.eq_of_toNat_eq
  rw [toNat_word]
  all_goals simp only [hdrOf, bits_eq, b2n_bit]
  all_goals omega

/-- Settles O3: every field is a quotient and remainder of the number, and the numbers are sums of the fields. -/
theorem handlesAndHeadersKeepEveryField : Obligations.HandlesAndHeadersKeepEveryField := by
  unfold Obligations.HandlesAndHeadersKeepEveryField
  refine ⟨fun h => ?_, fun n w o hn hw ho => ?_, mkHandle_fields, fun h h1 h2 h3 h4 h5 h6 h7 h8 h9 h10 h11 h12 => ?_,
    fun w hr => word_hdrOf hr⟩
  · have hlt : h.toNat < 2 ^ 64 := h.isLt
    simp only [handleNode, handleWindow, handleOffset, bits_eq]
    exact ⟨by omega, trivial, by omega⟩
  · exact ⟨handleNode_mkHandle hn hw ho, handleWindow_mkHandle hn hw ho, handleOffset_mkHandle hn hw ho⟩
  · exact hdrOf_word h1 h2 h3 h4 h5 h6 h7 h8 h9 h10 h11 h12

end Sys2Proof.Machine
end

section
/-! PROOFS. Bytes of memory read as last written (O5). -/

namespace Sys2Proof.Machine

/-- A write of a run of the scratchpad stores exactly it. -/
theorem writePhys_pad {s : State} {ctx pa : Nat} {b : Bytes} (h1 : paTier pa = 3) (h2 : paTier (pa + b.length) = 3) :
    writePhys s ctx pa b = ⟨setCells s (writeRun s.mem.bytes pa b), Code.ok, []⟩ :=
  writePieces_pad _ _ pa b h1 h2 (by omega)

/-- A read of a run of the scratchpad gives its bytes and changes nothing. -/
theorem readPhys_pad {s : State} {ctx pa n : Nat} (h1 : paTier pa = 3) (h2 : paTier (pa + n) = 3) :
    readPhys s ctx pa n = ⟨s, Code.ok, readRun s.mem.bytes pa n⟩ :=
  readPieces_pad _ _ pa n h1 h2 (by omega)

/-- Settles O5: a run reads as last written in canonical memory, and the scratchpad's pieces join to the run. -/
theorem memoryReadsWhatWasWritten : Obligations.MemoryReadsWhatWasWritten := by
  unfold Obligations.MemoryReadsWhatWasWritten
  refine ⟨fun s a x b h => ?_, fun s a n x h => ?_, fun s ctx pa x b h h1 h2 => ?_, fun s ctx pa n h1 h2 => ?_⟩
  · exact ⟨readCell_writeRun h a b x, readRun_writeRun h a b, cellsWf_writeRun h a b⟩
  · exact ⟨readCell_zeroRun s.mem.bytes a n x, cellsWf_zeroRun h a n⟩
  · simp only [writePhys_pad h1 h2, readPhys_pad h1 h2]
    exact ⟨trivial, cellsWf_writeRun h pa b, readRun_writeRun h pa b, readCell_writeRun h pa b x⟩
  · simp only [readPhys_pad h1 h2, and_self]

end Sys2Proof.Machine
end

section
/-! PROOFS. What each operation of the model leaves of memory: most change nothing of it, the others only its
checks, keys, poison and lines, so that its bytes stay. One lemma per operation, in the model's order. -/

namespace Sys2Proof.Machine

@[simp] theorem mem_ite (c : Prop) [Decidable c] (a b : State) :
    (if c then a else b).mem = if c then a.mem else b.mem := apply_ite State.mem c a b

@[simp] theorem bytes_ite (c : Prop) [Decidable c] (a b : MemState) :
    (if c then a else b).bytes = if c then a.bytes else b.bytes := apply_ite MemState.bytes c a b

@[simp] theorem mem_foldl {α : Type} {f : State → α → State} (h : ∀ s x, (f s x).mem = s.mem) (l : List α)
    (s : State) : (l.foldl f s).mem = s.mem := by
  induction l generalizing s with
  | nil => rfl
  | cons x l ih => rw [List.foldl_cons, ih, h]

@[simp] theorem bytes_foldl {α : Type} {f : State → α → State} (h : ∀ s x, (f s x).mem.bytes = s.mem.bytes)
    (l : List α) (s : State) : (l.foldl f s).mem.bytes = s.mem.bytes := by
  induction l generalizing s with
  | nil => rfl
  | cons x l ih => rw [List.foldl_cons, ih, h]

@[simp] theorem mem_charge (s k u q w) : (charge s k u q w).mem = s.mem := charge_mem ..

@[simp] theorem mem_uncorrectable (s g c) : (uncorrectable s g c).mem = s.mem := uncorrectable_mem ..

@[simp] theorem bytes_meetSoft (s g c) : (meetSoft s g c).mem.bytes = s.mem.bytes := meetSoft_bytes ..

/-! ### Ops.lean -/

@[simp] theorem drawn_mem (s) : (drawn s).2.mem = s.mem := by rfl

@[simp] theorem flushHeld_mem (s ctx ring queue) : (flushHeld s ctx ring queue).mem = s.mem := by
  unfold flushHeld; split <;> simp

@[simp] theorem flushQueue_mem (s ctx queue) : (flushQueue s ctx queue).mem = s.mem := by simp [flushQueue]

@[simp] theorem whistleNow_mem (s w ring) : (whistleNow s w ring).mem = s.mem := by simp [whistleNow]

@[simp] theorem flushAll_mem (s rings) : (flushAll s rings).mem = s.mem := by simp [flushAll]

@[simp] theorem finish_mem (s key status detail) : (finish s key status detail).mem = s.mem := by rfl

@[simp] theorem waitOn_mem (s key) : (waitOn s key).mem = s.mem := by rfl

/-! ### Memory.lean -/

@[simp] theorem corrected_bytes (s g ctx) : (corrected s g ctx).mem.bytes = s.mem.bytes := by simp [corrected]

@[simp] theorem strike_bytes (s) : (strike s).mem.bytes = s.mem.bytes := by rfl

@[simp] theorem touchLine_bytes (s pa) : (touchLine s pa).mem.bytes = s.mem.bytes := by simp [touchLine]

@[simp] theorem readPiece_bytes (s k pa len) : (readPiece s k pa len).st.mem.bytes = s.mem.bytes := by
  unfold readPiece
  simp only
  repeat' split
  all_goals simp

@[simp] theorem readPieces_bytes (n s x m k) : (readPieces n s x m k).st.mem.bytes = s.mem.bytes := by
  induction n generalizing s x m k with
  | zero => rfl
  | succ n ih =>
    unfold readPieces
    simp only
    repeat' split
    all_goals simp [ih]

@[simp] theorem readPhys_bytes (s ctx pa len) : (readPhys s ctx pa len).st.mem.bytes = s.mem.bytes := by
  simp [readPhys]

/-! ### Translate.lean -/

@[simp] theorem lookupRange_mem (s q stream ctx va len) : (lookupRange s q stream ctx va len).mem = s.mem := by rfl

@[simp] theorem shootdown_mem (s ctx va len) : (shootdown s ctx va len).mem = s.mem := by rfl

@[simp] theorem readSegs_bytes (s ctx l) : (readSegs s ctx l).st.mem.bytes = s.mem.bytes := by
  induction l generalizing s ctx with
  | nil => rfl
  | cons a l ih =>
    unfold readSegs
    simp only
    repeat' split
    all_goals simp [ih]

@[simp] theorem readVa_bytes (s ctx va len) : (readVa s ctx va len).st.mem.bytes = s.mem.bytes := by
  unfold readVa
  simp only
  repeat' split
  all_goals simp

@[simp] theorem touchWindow_mem (s q n) : (touchWindow s q n).mem = s.mem := by rfl

@[simp] theorem countRetired_mem (s c) : (countRetired s c).mem = s.mem := by rfl

@[simp] theorem countRefusal_mem (s r status) : (countRefusal s r status).mem = s.mem := by simp [countRefusal]

/-! ### Requests.lean -/

@[simp] theorem colourPacket_mem (s q ctx size) : (colourPacket s q ctx size).2.mem = s.mem := by rfl

@[simp] theorem coreEnter_mem (s port age fromUp mark p) : (coreEnter s port age fromUp mark p).mem = s.mem := by
  unfold coreEnter
  simp only
  repeat' split
  all_goals simp

@[simp] theorem limiterCharge_mem (s p) : (limiterCharge s p).mem = s.mem := by simp [limiterCharge]

@[simp] theorem issueReq_mem (s q e owner p) : (issueReq s q e owner p).mem = s.mem := by simp [issueReq]

@[simp] theorem issueInFlow_mem (s d) : (issueInFlow s d).mem = s.mem := by simp [issueInFlow]

@[simp] theorem pumpDeferred_mem (s) : (pumpDeferred s).mem = s.mem := by simp [pumpDeferred]

@[simp] theorem resendNow_mem (s key r) : (resendNow s key r).mem = s.mem := by simp [resendNow]

@[simp] theorem resend_mem (s key r) : (resend s key r).mem = s.mem := by simp [resend]

@[simp] theorem pumpResends_mem (s) : (pumpResends s).mem = s.mem := by simp [pumpResends]

@[simp] theorem dropReq_mem (s key r) : (dropReq s key r).mem = s.mem := by rfl

@[simp] theorem sendReply_mem (s q p) : (sendReply s q p).mem = s.mem := by simp [sendReply]

@[simp] theorem portCut_mem (s n) : (portCut s n).mem = s.mem := by
  unfold portCut
  simp only [setCore_mem]
  rw [mem_foldl fun _ _ => modPkt_mem .., mem_foldl fun _ _ => by rw [bump_mem, dropPkt_mem]]

/-! ### Buffers.lean -/

@[simp] theorem fateOf_mem (s colour b size ect) : (fateOf s colour b size ect).1.mem = s.mem := by
  unfold fateOf
  simp only
  repeat' split
  all_goals simp

@[simp] theorem ethIn_mem (s e colour size ect) : (ethIn s e colour size ect).1.mem = s.mem := by
  unfold ethIn
  simp only
  repeat' split
  all_goals simp

@[simp] theorem serveFrames_mem (fuel s e) : (serveFrames fuel s e).mem = s.mem := by
  induction fuel generalizing s with
  | zero => rfl
  | succ n ih =>
    unfold serveFrames
    split
    · rfl
    · split
      · rfl
      · rw [ih]; simp

@[simp] theorem servePort_bytes (s e) : (servePort s e).mem.bytes = s.mem.bytes := by simp [servePort]

@[simp] theorem serveEth_bytes (s) : (serveEth s).mem.bytes = s.mem.bytes := by simp [serveEth]

@[simp] theorem ethOut_bytes (s e rank ctx size x) : (ethOut s e rank ctx size x).mem.bytes = s.mem.bytes := by
  unfold ethOut
  simp only
  repeat' split
  all_goals simp

/-! ### Deliver.lean -/

@[simp] theorem dropLines_bytes (s p) : (dropLines s p).mem.bytes = s.mem.bytes := by rfl

@[simp] theorem acquire_bytes (s ctx q) : (acquire s ctx q).mem.bytes = s.mem.bytes := by rfl

@[simp] theorem dropWritten_bytes (s q cls ctx h len) :
    (dropWritten s q cls ctx h len).mem.bytes = s.mem.bytes := by
  rfl

@[simp] theorem pushRefused_mem (s ctx queue) : (pushRefused s ctx queue).mem = s.mem := by rfl

@[simp] theorem appendDescs_mem (s ctx queue ds run) : (appendDescs s ctx queue ds run).mem = s.mem := by rfl

@[simp] theorem playWhistle_mem (s p kind status) : (playWhistle s p kind status).mem = s.mem := by
  simp [playWhistle]

@[simp] theorem dropPlayWatch_mem (s key) : (dropPlayWatch s key).mem = s.mem := by rfl

@[simp] theorem startPlayNow_bytes (s key p) : (startPlayNow s key p).mem.bytes = s.mem.bytes := by
  simp [startPlayNow]

@[simp] theorem trigger_bytes (s key armedOnly) : (trigger s key armedOnly).mem.bytes = s.mem.bytes := by
  unfold trigger; split <;> simp

@[simp] theorem cursorWrite_mem (s key word v) : (cursorWrite s key word v).mem = s.mem := by
  unfold cursorWrite
  simp only
  repeat' split
  all_goals simp

@[simp] theorem watchEval_bytes (s w) : (watchEval s w).mem.bytes = s.mem.bytes := by
  unfold watchEval; split <;> simp

@[simp] theorem pruneWatches_mem (s) : (pruneWatches s).mem = s.mem := by rfl

@[simp] theorem dirtySlots_mem (s segs) : (dirtySlots s segs).mem = s.mem := by rfl

@[simp] theorem afterStore_bytes (s ctx va len) : (afterStore s ctx va len).mem.bytes = s.mem.bytes := by
  simp [afterStore]

@[simp] theorem endWhistle_mem (s flight status) : (endWhistle s flight status).mem = s.mem := by
  unfold endWhistle; split <;> simp

@[simp] theorem ringLost_mem (s key status) : (ringLost s key status).mem = s.mem := by
  unfold ringLost; split <;> simp

@[simp] theorem sendRing_bytes (s qpn p r) : (sendRing s qpn p r).mem.bytes = s.mem.bytes := by simp [sendRing]

@[simp] theorem ethRequest_bytes (s ring flight target isHead data) :
    (ethRequest s ring flight target isHead data).mem.bytes = s.mem.bytes := by
  unfold ethRequest
  simp only
  repeat' split
  all_goals simp

@[simp] theorem askHead_bytes (s key r) : (askHead s key r).mem.bytes = s.mem.bytes := by simp [askHead]

/-- A UDP ring's record also goes out as a datagram. -/
theorem udpWhistle_bytes (s : State) (udp : Bool) (ctx : Nat) (x : UdpTarget → Sent) :
    (if udp = true then
      match tget s.eth.targets ctx with
      | none => bump s 0x4300 0x02
      | some t => ethOut s t.port rankControl ctx (if t.ipv6 then 114 else 94) (x t)
    else s).mem.bytes = s.mem.bytes := by
  split
  · split
    · rw [bump_mem]
    · rw [ethOut_bytes]
  · rfl

@[simp] theorem ringWrite_bytes (s key r w) : (ringWrite s key r w).mem.bytes = s.mem.bytes := by
  unfold ringWrite
  refine (udpWhistle_bytes ..).trans ?_
  split
  · rw [ethRequest_bytes, modRing_mem]
  · rw [issueReq_mem, modRing_mem]

@[simp] theorem pumpRing_bytes (n s m) : (pumpRing n s m).mem.bytes = s.mem.bytes := by
  induction n generalizing s m with
  | zero => rfl
  | succ n ih =>
    unfold pumpRing
    simp only
    repeat' split
    all_goals simp [ih]

@[simp] theorem pumpRings_bytes (s) : (pumpRings s).mem.bytes = s.mem.bytes := by simp [pumpRings]

@[simp] theorem ringAnswer_mem (s key flight status) : (ringAnswer s key flight status).mem = s.mem := by
  simp [ringAnswer]

@[simp] theorem headAnswer_mem (s key status data) : (headAnswer s key status data).mem = s.mem := by
  simp [headAnswer]

/-! ### Work.lean -/

@[simp] theorem startJob_mem (s j ws) : (startJob s j ws).mem = s.mem := by rfl

@[simp] theorem moreWork_mem (s j ws) : (moreWork s j ws).mem = s.mem := by unfold moreWork; split <;> simp

@[simp] theorem hold_mem (s q ctx owner ranges) : (hold s q ctx owner ranges).mem = s.mem := by rfl

@[simp] theorem release_mem (s owner) : (release s owner).mem = s.mem := by rfl

/-! ### Guarded.lean -/

@[simp] theorem modFly_mem (s key x f) : (modFly s key x f).mem = s.mem := by rfl

@[simp] theorem countMiss_mem (s key index) : (countMiss s key index).mem = s.mem := by rfl

@[simp] theorem missEntry_mem (s key x) : (missEntry s key x).mem = s.mem := by unfold missEntry; split <;> simp

@[simp] theorem holdAt_mem (s h key x) : (holdAt s h key x).mem = s.mem := by simp [holdAt]

theorem heldBy_mem {s t : State} {w ctx rs} (h : heldBy s w ctx rs = some t) : t.mem = s.mem := by
  unfold heldBy at h
  split at h
  · cases h
  · split at h <;> cases h
    · rfl
    · simp

/-! ### Apply.lean -/

@[simp] theorem emitWords_mem (s key st innings first ws) : (emitWords s key st innings first ws).mem = s.mem := by
  unfold emitWords; split <;> simp

@[simp] theorem probeEmission_mem (s key st innings) : (probeEmission s key st innings).mem = s.mem := by
  unfold probeEmission; split <;> simp

@[simp] theorem emitFlag_mem (s key st add value) : (emitFlag s key st add value).mem = s.mem := by
  unfold emitFlag; split <;> simp

@[simp] theorem readArray_bytes (s st innings k first n) :
    (readArray s st innings k first n).st.mem.bytes = s.mem.bytes := by
  simp [readArray]

@[simp] theorem applyTail_mem (s key) : (applyTail s key).mem = s.mem := by unfold applyTail; split <;> simp

@[simp] theorem failApply_mem (s fk key status) : (failApply s fk key status).mem = s.mem := by rfl

@[simp] theorem stopApply_mem (s key status) : (stopApply s key status).mem = s.mem := by rfl

/-! ### Rounds.lean -/

@[simp] theorem advanceInnings_mem (s ctx commit) : (advanceInnings s ctx commit).mem = s.mem := by
  simp [advanceInnings]

@[simp] theorem stopRows_mem (s ctx) : (stopRows s ctx).mem = s.mem := by rfl

@[simp] theorem ledgerAborts_mem (s ctx) : (ledgerAborts s ctx).mem = s.mem := by
  unfold ledgerAborts
  simp only [bump_mem, modLedger_mem, stopRows_mem]
  exact mem_foldl (fun s fk => by cases tget s.q.flights fk <;> simp) _ _

@[simp] theorem abortOpen_bytes (s ctx) : (abortOpen s ctx).1.mem.bytes = s.mem.bytes := by
  unfold abortOpen
  simp only
  repeat' split
  all_goals simp

@[simp] theorem allApplied_mem (s ctx) : (allApplied s ctx).1.mem = s.mem := by
  unfold allApplied
  simp only
  repeat' split
  all_goals simp

@[simp] theorem goReady_mem (s ctx) : (goReady s ctx).1.mem = s.mem := by rfl

@[simp] theorem abortParity_bytes (s ctx) : (abortParity s ctx).1.mem.bytes = s.mem.bytes := by simp [abortParity]

@[simp] theorem startRow_mem (innings s x) : (startRow innings s x).mem = s.mem := by
  unfold startRow; split <;> simp

@[simp] theorem startParity_bytes (s ctx) : (startParity s ctx).1.mem.bytes = s.mem.bytes := by
  unfold startParity
  simp only
  repeat' split
  all_goals simp

@[simp] theorem commitFlagOf_mem (value s x) : (commitFlagOf value s x).mem = s.mem := by
  unfold commitFlagOf
  simp only
  repeat' split
  all_goals simp

@[simp] theorem ledgerUnheard_bytes (s ctx) : (ledgerUnheard s ctx).mem.bytes = s.mem.bytes := by
  unfold ledgerUnheard; split <;> simp

@[simp] theorem huddleWhistle_mem (s h kind status value) : (huddleWhistle s h kind status value).mem = s.mem := by
  simp [huddleWhistle]

@[simp] theorem sendUp_mem (s key h) : (sendUp s key h).mem = s.mem := by simp [sendUp]

@[simp] theorem releaseChildren_mem (s key h status value) :
    (releaseChildren s key h status value).mem = s.mem := by
  unfold releaseChildren; split <;> simp

/-- Each descriptor among some arrivals becomes final. -/
theorem finishArrivals_mem (l : List Arrival) (s : State) (status : Status) (value : BitVec 64) :
    (l.foldl (fun s a => match a.seq with
      | some fk => finish s fk status value
      | none => s) s).mem = s.mem :=
  mem_foldl (fun s a => by cases a.seq <;> simp) l s

@[simp] theorem completeMembers_mem (s h status value) : (completeMembers s h status value).mem = s.mem :=
  finishArrivals_mem ..

@[simp] theorem scoreMember_mem (key ref latest s a) : (scoreMember key ref latest s a).mem = s.mem := by
  unfold scoreMember; split <;> simp

@[simp] theorem scoreRound_mem (s key h) : (scoreRound s key h).mem = s.mem := by simp [scoreRound]

@[simp] theorem triggerHuddle_bytes (s ctx no kind) : (triggerHuddle s ctx no kind).mem.bytes = s.mem.bytes := by
  simp [triggerHuddle]

@[simp] theorem releaseRound_bytes (s key h value) : (releaseRound s key h value).1.mem.bytes = s.mem.bytes := by
  simp [releaseRound]

@[simp] theorem failRound_bytes (s key h status) : (failRound s key h status).1.mem.bytes = s.mem.bytes := by
  have he : (raise (modHuddle (h.early.foldl (fun s a => match a.seq with
      | some fk => finish s fk status
      | none => s) (completeMembers s h status 0)) key fun h =>
        { h with state := .failed, failStatus := status, arrivals := [], early := [], lastStatus := status })
      { cls := 0x05, quarter := some (huddleQuarter h), status := status, ctx := some h.ctx, d0 := h.no
        d1 := h.round }).mem = s.mem := by
    rw [raise_mem, modHuddle_mem, finishArrivals_mem, completeMembers_mem]
  unfold failRound
  simp only [triggerHuddle_bytes]
  split
  · rw [huddleWhistle_mem]
    exact congrArg _ he
  · exact congrArg _ he

@[simp] theorem failFound_bytes (s key h status) : (failFound s key h status).1.mem.bytes = s.mem.bytes := by
  unfold failFound; split <;> simp

@[simp] theorem checkComplete_bytes (s key) : (checkComplete s key).1.mem.bytes = s.mem.bytes := by
  unfold checkComplete
  repeat' split
  all_goals simp

@[simp] theorem countArrival_bytes (s key a) : (countArrival s key a).1.mem.bytes = s.mem.bytes := by
  simp [countArrival]

@[simp] theorem localArrive_bytes (s key who fk round value stamp) :
    (localArrive s key who fk round value stamp).1.1.mem.bytes = s.mem.bytes := by
  unfold localArrive
  simp only
  repeat' split
  all_goals simp

/-! ### Tiles.lean -/

@[simp] theorem codeTile_mem (s q a plain) : (codeTile s q a plain).1.mem = s.mem := by
  unfold codeTile
  simp only
  repeat' split
  all_goals simp

@[simp] theorem arenaFails_mem (s key status) : (arenaFails s key status).mem = s.mem := by
  unfold arenaFails; split <;> simp

@[simp] theorem readDir_bytes (s key a tile) : (readDir s key a tile).1.mem.bytes = s.mem.bytes := by
  unfold readDir
  simp only
  repeat' split
  all_goals simp

@[simp] theorem closeArena_mem (s key) : (closeArena s key).mem = s.mem := by
  unfold closeArena
  simp only
  repeat' split
  all_goals simp

@[simp] theorem joinArena_mem (s key who) : (joinArena s key who).mem = s.mem := by rfl

@[simp] theorem readRunOf_bytes (s a e) : (readRunOf s a e).1.mem.bytes = s.mem.bytes := by
  unfold readRunOf
  simp only
  repeat' split
  all_goals simp

@[simp] theorem readTile_bytes (s a e q unit) : (readTile s a e q unit).1.mem.bytes = s.mem.bytes := by
  have h := readRunOf_bytes s a e
  unfold readTile
  generalize readRunOf s a e = r at h ⊢
  obtain ⟨t, _ | _⟩ := r
  · exact h
  · dsimp only
    split <;> simpa using h

@[simp] theorem dropTileWork_mem (s fk) : (dropTileWork s fk).mem = s.mem := by rfl

@[simp] theorem tileEnds_mem (s fk status detail) : (tileEnds s fk status detail).mem = s.mem := by rfl

@[simp] theorem tileFlagPhase_mem (s fk f w detail) : (tileFlagPhase s fk f w detail).mem = s.mem := by
  simp [tileFlagPhase]

@[simp] theorem unpackRun_bytes (s fk f w) : (unpackRun s fk f w).mem.bytes = s.mem.bytes := by
  unfold unpackRun
  split
  · simp
  · rename_i a _
    split
    · simp
    · generalize ({ valid := true, first := w.first, sectors := w.sectors, version := w.version } : DirEntry) = e
      have h := readTile_bytes s a e f.quarter (f.engine - 18)
      generalize readTile s a e f.quarter (f.engine - 18) = r at h ⊢
      obtain ⟨t, _ | _⟩ := r <;> simpa using h

/-! ### Flows.lean -/

@[simp] theorem freeResults_mem (s flow base) : (freeResults s flow base).mem = s.mem := by rfl

@[simp] theorem raiseBase_mem (s key base) : (raiseBase s key base).mem = s.mem := by
  unfold raiseBase; split <;> simp

theorem openFlow_mem {s t : State} {p} (h : openFlow s p = some t) : t.mem = s.mem := by
  unfold openFlow at h
  dsimp only at h
  split at h
  · cases h; simp
  · split at h <;> cases h
    rfl

@[simp] theorem learnInc_mem (s node inc) : (learnInc s node inc).mem = s.mem := by simp [learnInc]

@[simp] theorem nackReq_mem (s p reason) : (nackReq s p reason).mem = s.mem := by simp [nackReq]

@[simp] theorem flushAck_mem (s flow) : (flushAck s flow).mem = s.mem := by unfold flushAck; split <;> simp

@[simp] theorem ackMerged_mem (s p) : (ackMerged s p).mem = s.mem := by
  unfold ackMerged
  simp only
  repeat' split
  all_goals simp

@[simp] theorem markDone_mem (s p) : (markDone s p).mem = s.mem := by rfl

@[simp] theorem markRefused_mem (s p) : (markRefused s p).mem = s.mem := by rfl

@[simp] theorem markBusy_mem (s p) : (markBusy s p).mem = s.mem := by rfl

@[simp] theorem ackDone_mem (s p detail) : (ackDone s p detail).mem = s.mem := by simp [ackDone]

@[simp] theorem refuseReq_mem (s p status detail) : (refuseReq s p status detail).mem = s.mem := by simp [refuseReq]

@[simp] theorem refuseArrival_mem (s p status) : (refuseArrival s p status).mem = s.mem := by simp [refuseArrival]

@[simp] theorem chargePort_bytes (s n) : (chargePort s n).mem.bytes = s.mem.bytes := by simp [chargePort]

/-- The state that the arrival checks leave, whatever they make of the request. -/
def Arrived.st : Arrived → State
  | .over s => s
  | .fresh s => s
  | .copy s => s
  | .dead s => s

theorem Arrived.ite_mem {c : Prop} [Decidable c] {a b : Arrived} {m : MemState} (ha : a.st.mem = m)
    (hb : b.st.mem = m) : (if c then a else b).st.mem = m := by
  by_cases h : c
  · rwa [if_pos h]
  · rwa [if_neg h]

/-- Whatever a known SEQ makes of a request, the memory stays. -/
theorem seqChecks_mem {s t : State} (hm : t.mem = s.mem) (f : Flow) (p : Packet) (d : Nat) :
    (if d = 0 ∨ 1024 < d then Arrived.over (bump t 0x3E00 0x0C)
      else if f.busy.contains p.seq then .over (bump t 0x3E00 0x08)
      else if f.aborted.contains p.seq then .dead (bump t 0x3E00 0x08)
      else if f.done.contains p.seq then .copy (bump t 0x3E00 0x08)
      else .fresh t).st.mem = s.mem :=
  Arrived.ite_mem hm (Arrived.ite_mem hm (Arrived.ite_mem hm (Arrived.ite_mem hm hm)))

theorem checksAfterCrc_mem (s p) : (checksAfterCrc s p).st.mem = s.mem := by
  unfold checksAfterCrc
  refine Arrived.ite_mem (by rw [Arrived.st, bump_mem])
    (Arrived.ite_mem (by rw [Arrived.st, sendReply_mem, bump_mem]) ?_)
  extract_lets u
  have hu : u.mem = s.mem := learnInc_mem ..
  clear_value u
  cases ho : openFlow u p with
  | none =>
    exact Arrived.ite_mem (by rw [Arrived.st, sendReply_mem, hu]) (by rw [Arrived.st, nackReq_mem, hu])
  | some t =>
    have hm : t.mem = s.mem := (openFlow_mem ho).trans hu
    exact Arrived.ite_mem (by rw [Arrived.st, refuseArrival_mem, hm]) (seqChecks_mem hm _ p _)

theorem arrival_bytes (s i p) : (arrival s i p).st.mem.bytes = s.mem.bytes := by
  unfold arrival
  by_cases h : ingressFull s (64 + 4 * pktHome p) (replySize p) = true
  · rw [if_pos h, Arrived.st, bump_mem]
  · rw [if_neg h]
    by_cases hc : p.crcOk = true
    · rw [if_pos hc, checksAfterCrc_mem]
    · rw [if_neg hc, Arrived.st, nackReq_mem]
      cases i with
      | none => rw [bump_mem]
      | some n => by_cases hn : n < 64 <;> simp [hn]

@[simp] theorem abortFlagged_mem (s p) : (abortFlagged s p).mem = s.mem := by simp [abortFlagged]

/-! ### Guard.lean -/

@[simp] theorem wakeCaddie_mem (s key status) : (wakeCaddie s key status).mem = s.mem := by simp [wakeCaddie]

@[simp] theorem refuseHeld_mem (s status h) : (refuseHeld s status h).mem = s.mem := by
  unfold refuseHeld; split <;> simp

@[simp] theorem refuseFreed_mem (s status) : (refuseFreed s status).mem = s.mem := by simp [refuseFreed]

@[simp] theorem failCaddie_bytes (s key status) : (failCaddie s key status).mem.bytes = s.mem.bytes := by
  simp [failCaddie]

@[simp] theorem readDirs_bytes (s key a l) : (readDirs s key a l).1.mem.bytes = s.mem.bytes := by
  induction l generalizing s with
  | nil => rfl
  | cons x l ih =>
    have h := readDir_bytes s key a x
    unfold readDirs
    generalize readDir s key a x = r at h ⊢
    obtain ⟨t, _ | e⟩ := r
    · exact h
    · have h' := ih t
      dsimp only
      generalize readDirs t key a l = r at h' ⊢
      obtain ⟨u, _ | _⟩ := r <;> exact h'.trans h

@[simp] theorem readHdrs_bytes (s a l) : (readHdrs s a l).1.mem.bytes = s.mem.bytes := by
  induction l generalizing s with
  | nil => rfl
  | cons x l ih =>
    have h := readVa_bytes s a.ctx (a.sectorVa x.first) 64
    unfold readHdrs
    dsimp only
    split
    · exact h
    · have h' := ih (readVa s a.ctx (a.sectorVa x.first) 64).st
      generalize readHdrs _ a l = r at h' ⊢
      obtain ⟨u, _ | _⟩ := r <;> exact h'.trans h

@[simp] theorem decodeSet_bytes (c e pass a unit s l) :
    (decodeSet c e pass a unit s l).1.mem.bytes = s.mem.bytes := by
  induction l generalizing s with
  | nil => rfl
  | cons x l ih =>
    obtain ⟨tile, d⟩ := x
    have h := readTile_bytes s a d c.quarter ((pewterUnit s c.quarter).getD unit)
    unfold decodeSet
    generalize readTile s a d c.quarter ((pewterUnit s c.quarter).getD unit) = r at h ⊢
    obtain ⟨t, _ | r⟩ := r
    · exact h
    · have h' := ih (bumpBy t 0x5000 0x0D (codecStep t c e pass tile r).length)
      dsimp only
      generalize decodeSet c e pass a unit _ l = r at h' ⊢
      obtain ⟨u, _ | _⟩ := r <;> exact h'.trans h

/-! ### Inbound.lean -/

@[simp] theorem useResv_mem (s q id p len) : (useResv s q id p len).mem = s.mem := by rfl

@[simp] theorem endOver_mem (s) : (endOver s).mem = s.mem := by simp [endOver]

@[simp] theorem passWindow_mem (s p len op again) : (passWindow s p len op again).1.mem = s.mem := by
  unfold passWindow
  simp only
  repeat' split
  all_goals simp

@[simp] theorem replyAtomic_mem (s p status old) : (replyAtomic s p status old).mem = s.mem := by simp [replyAtomic]

@[simp] theorem queueAtomic_bytes (s pa op) : (queueAtomic s pa op).mem.bytes = s.mem.bytes := by rfl

@[simp] theorem performRead_bytes (s p va) : (performRead s p va).mem.bytes = s.mem.bytes := by simp [performRead]

@[simp] theorem refuseCounted_mem (s p ctx status) : (refuseCounted s p ctx status).mem = s.mem := by
  simp [refuseCounted]

@[simp] theorem relayReq_mem (s p) : (relayReq s p).mem = s.mem := by simp [relayReq]

@[simp] theorem performPush_mem (s p) : (performPush s p).mem = s.mem := by simp [performPush]

@[simp] theorem pumpPushes_mem (n s) : (pumpPushes n s).mem = s.mem := by
  induction n generalizing s with
  | zero => rfl
  | succ n ih =>
    unfold pumpPushes
    simp only
    repeat' split
    all_goals simp [ih]

@[simp] theorem takePush_mem (s p) : (takePush s p).mem = s.mem := by simp [takePush]

/-! ### Contribs.lean -/

@[simp] theorem sample_mem (s g) : (sample s g).2.mem = s.mem := by
  unfold sample
  simp only
  repeat' split
  all_goals simp

@[simp] theorem moreWorkAt_mem (s j n ws) : (moreWorkAt s j n ws).mem = s.mem := by
  unfold moreWorkAt; split <;> simp

@[simp] theorem noteWriteFail_mem (s key seg status) : (noteWriteFail s key seg status).mem = s.mem := by rfl

@[simp] theorem gatherSeg_mem (s key seg g out) : (gatherSeg s key seg g out).mem = s.mem := by
  unfold gatherSeg
  repeat' split
  all_goals simp

@[simp] theorem squares_mem (s g accs) : (squares s g accs).1.mem = s.mem := by unfold squares; split <;> simp

@[simp] theorem dropGroup_mem (s key g) : (dropGroup s key g).mem = s.mem := by rfl

@[simp] theorem disarmEnds_mem (s key) : (disarmEnds s key).mem = s.mem := by
  unfold disarmEnds
  simp only
  repeat' split
  all_goals simp

@[simp] theorem stopGroup_mem (s key status fk) : (stopGroup s key status fk).mem = s.mem := by simp [stopGroup]

@[simp] theorem startCheck_mem (s key seg g) : (startCheck s key seg g).1.mem = s.mem := by
  unfold startCheck
  simp only
  repeat' split
  all_goals simp

@[simp] theorem loadInit_bytes (s g seg) : (loadInit s g seg).1.mem.bytes = s.mem.bytes := by
  unfold loadInit
  simp only
  repeat' split
  all_goals simp

/-- A fold whose steps keep the bytes, the state standing first of a pair. -/
theorem bytes_foldl_fst {α β : Type} {f : State × β → α → State × β}
    (h : ∀ r x, (f r x).1.mem.bytes = r.1.mem.bytes) (l : List α) (r : State × β) :
    (l.foldl f r).1.mem.bytes = r.1.mem.bytes := by
  induction l generalizing r with
  | nil => rfl
  | cons x l ih => rw [List.foldl_cons, ih, h]


@[simp] theorem initStatus_bytes (s g segs) : (initStatus s g segs).1.mem.bytes = s.mem.bytes := by
  refine bytes_foldl_fst (fun r x => ?_) segs (s, Code.ok)
  dsimp only
  generalize (if x.2 = true then (g.seg x.1).nxt else (g.seg x.1).cur) = b
  split
  · rfl
  · split
    · rfl
    · have h := loadInit_bytes r.1 g x.1
      generalize loadInit r.1 g x.1 = l at h ⊢
      obtain ⟨t, _ | _⟩ := l <;> exact h

@[simp] theorem countRefused_mem (s key) : (countRefused s key).mem = s.mem := by rfl

/-! ### Roce.lean -/

@[simp] theorem qpError_mem (s qpn st) : (qpError s qpn st).mem = s.mem := by simp [qpError]

@[simp] theorem roceSend_bytes (s qpn psn kind data) : (roceSend s qpn psn kind data).mem.bytes = s.mem.bytes := by
  unfold roceSend; split <;> simp

@[simp] theorem roceFail_bytes (s qpn psn st) : (roceFail s qpn psn st).mem.bytes = s.mem.bytes := by
  simp [roceFail]

@[simp] theorem roceCheck_mem (s p held rkey va len op) : (roceCheck s p held rkey va len op).1.mem = s.mem := by
  unfold roceCheck
  simp only
  repeat' split
  all_goals simp

@[simp] theorem hostPush_mem (s ctx gen queue proxy data) :
    (hostPush s ctx gen queue proxy data).1.mem = s.mem := by
  unfold hostPush
  simp only
  repeat' split
  all_goals simp

@[simp] theorem writePlace_bytes (s qpn p held k) : (writePlace s qpn p held k).1.mem.bytes = s.mem.bytes := by
  unfold writePlace
  simp only
  split
  · split
    · rfl
    · have h := congrArg MemState.bytes (roceCheck_mem s p held k.rkey k.va k.len .write)
      generalize roceCheck s p held k.rkey k.va k.len .write = r at h ⊢
      obtain ⟨t, _ | va⟩ := r
      · exact h
      · dsimp only
        split
        · exact h
        · split <;> exact h
  · split
    · rfl
    · split
      · rfl
      · split
        · simp
        · split
          · rfl
          · simp

@[simp] theorem performRocePush_bytes (s qpn p op k) : (performRocePush s qpn p op k).mem.bytes = s.mem.bytes := by
  simp [performRocePush]

@[simp] theorem performRoceRead_bytes (s qpn p held k) :
    (performRoceRead s qpn p held k).mem.bytes = s.mem.bytes := by
  have h := congrArg MemState.bytes (roceCheck_mem s p held k.rkey k.va k.len .read)
  unfold performRoceRead
  generalize roceCheck s p held k.rkey k.va k.len .read = r at h ⊢
  obtain ⟨t, _ | va⟩ := r
  · simpa using h
  · dsimp only
    split <;> simpa using h

@[simp] theorem udRequest_mem (s p op k) : (udRequest s p op k).mem = s.mem := by simp [udRequest]

@[simp] theorem sendCnp_bytes (s qpn p) : (sendCnp s qpn p).mem.bytes = s.mem.bytes := by simp [sendCnp]

/-! ### Jobs.lean -/

@[simp] theorem touchLines_bytes (s k ctx names) : (touchLines s k ctx names).mem.bytes = s.mem.bytes := by rfl

@[simp] theorem expectLines_bytes (s k ctx jk n names) :
    (expectLines s k ctx jk n names).mem.bytes = s.mem.bytes := by
  rfl

@[simp] theorem fillLines_bytes (s jk n base data) : (fillLines s jk n base data).mem.bytes = s.mem.bytes := by rfl

@[simp] theorem dropLive_mem (s jk n) : (dropLive s jk n).mem = s.mem := by rfl

@[simp] theorem failPiece_mem (s jk n status detail) : (failPiece s jk n status detail).mem = s.mem := by
  unfold failPiece
  simp only
  repeat' split
  all_goals simp

@[simp] theorem endPiece_mem (s jk n status detail) : (endPiece s jk n status detail).mem = s.mem := by
  simp [endPiece]

@[simp] theorem requeue_mem (s jk n w) : (requeue s jk n w).mem = s.mem := by rfl

@[simp] theorem popWork_mem (s jk n) : (popWork s jk n).mem = s.mem := by rfl

theorem sendPiece_bytes {s t : State} {jk j n w p} (h : sendPiece s jk j n w p = some t) :
    t.mem.bytes = s.mem.bytes := by
  unfold sendPiece at h
  split at h
  · cases h; simp
  · split at h <;> cases h
    simp

theorem sendFill_bytes {s t : State} {jk j n p} (h : sendFill s jk j n p = some t) : t.mem.bytes = s.mem.bytes := by
  unfold sendFill at h
  split at h
  · cases h; rfl
  · split at h <;> cases h
    simp

theorem pieceHeld_mem {s t : State} {jk j n w} (h : pieceHeld s jk j n w = some t) : t.mem = s.mem :=
  heldBy_mem h

@[simp] theorem countParity_mem (s jk j len) : (countParity s jk j len).mem = s.mem := by simp [countParity]

@[simp] theorem relayEnds_mem (s p j) : (relayEnds s p j).mem = s.mem := by unfold relayEnds; split <;> simp

@[simp] theorem gatherEnds_mem (s key b) : (gatherEnds s key b).mem = s.mem := by simp [gatherEnds]

@[simp] theorem caddieFlagEnds_bytes (s key j) : (caddieFlagEnds s key j).mem.bytes = s.mem.bytes := by
  simp [caddieFlagEnds]

@[simp] theorem closeRing_mem (s x) : (closeRing s x).mem = s.mem := by unfold closeRing; split <;> simp

@[simp] theorem closeCaddie_mem (s key) : (closeCaddie s key).mem = s.mem := by
  unfold closeCaddie
  simp only
  repeat' split
  all_goals simp

@[simp] theorem drainCaddie_bytes (s key) : (drainCaddie s key).mem.bytes = s.mem.bytes := by
  unfold drainCaddie; split <;> simp

@[simp] theorem pruneGuarded_mem (s) : (pruneGuarded s).mem = s.mem := by simp [pruneGuarded]

@[simp] theorem closeWindows_mem (s) : (closeWindows s).mem = s.mem := by simp [closeWindows]

@[simp] theorem dropProbed_mem (s jk h len) : (dropProbed s jk h len).mem = s.mem := by rfl

@[simp] theorem dropAnswered_bytes (s j w) : (dropAnswered s j w).mem.bytes = s.mem.bytes := by
  unfold dropAnswered; split <;> simp

/-! ### Staged.lean -/

@[simp] theorem takeShadow_mem (s x) : (takeShadow s x).mem = s.mem := by
  unfold takeShadow
  simp only
  repeat' split
  all_goals simp

@[simp] theorem applyShadows_mem (s ctx group) : (applyShadows s ctx group).1.mem = s.mem := by simp [applyShadows]

@[simp] theorem dropShadows_mem (s ctx group) : (dropShadows s ctx group).mem = s.mem := by rfl

/-! ### Clock.lean -/

@[simp] theorem tickFt_mem (s) : (tickFt s).mem = s.mem := by rfl

@[simp] theorem stepFt_mem (s d) : (stepFt s d).mem = s.mem := by rfl

@[simp] theorem servoRate_mem (s offset ppm) : (servoRate s offset ppm).mem = s.mem := by rfl

@[simp] theorem countFrame_mem (s port) : (countFrame s port).mem = s.mem := by rfl

@[simp] theorem sendHeld_mem (port s x) : (sendHeld port s x).mem = s.mem := by simp [sendHeld]

@[simp] theorem sendLocal_mem (s port op ext) : (sendLocal s port op ext).mem = s.mem := by simp [sendLocal]

@[simp] theorem sendAllHeld_mem (s port) : (sendAllHeld s port).mem = s.mem := by unfold sendAllHeld; split <;> simp

@[simp] theorem feedUtc_mem (s) : (feedUtc s).mem = s.mem := by unfold feedUtc; split <;> simp

@[simp] theorem announceAll_mem (s) : (announceAll s).mem = s.mem := by simp [announceAll]

@[simp] theorem becomeMaster_mem (s) : (becomeMaster s).mem = s.mem := by simp [becomeMaster]

@[simp] theorem followParent_mem (s n a) : (followParent s n a).mem = s.mem := by simp [followParent]

@[simp] theorem followNone_mem (s) : (followNone s).mem = s.mem := by simp [followNone]

@[simp] theorem elect_mem (s) : (elect s).mem = s.mem := by unfold elect; split <;> simp

@[simp] theorem loseParent_mem (s) : (loseParent s).mem = s.mem := by simp [loseParent]

@[simp] theorem timeLinkDown_mem (s n) : (timeLinkDown s n).mem = s.mem := by simp [timeLinkDown]

@[simp] theorem parentOffset_mem (s n off) : (parentOffset s n off).mem = s.mem := by simp [parentOffset]

@[simp] theorem teeCaddie_mem (s q ctx target) : (teeCaddie s q ctx target).mem = s.mem := by simp [teeCaddie]

@[simp] theorem teeAction_bytes (s q slot t) : (teeAction s q slot t).mem.bytes = s.mem.bytes := by
  unfold teeAction
  simp only
  repeat' split
  all_goals simp

@[simp] theorem fireTee_bytes (s q slot late) : (fireTee s q slot late).mem.bytes = s.mem.bytes := by
  unfold fireTee; split <;> simp

@[simp] theorem fireDue_bytes (s q) : (fireDue s q).mem.bytes = s.mem.bytes := by simp [fireDue]

@[simp] theorem cycle_bytes (s) : (cycle s).mem.bytes = s.mem.bytes := by simp [cycle]

@[simp] theorem cycles_bytes (n s) : (cycles n s).mem.bytes = s.mem.bytes := by
  induction n generalizing s with
  | zero => rfl
  | succ n ih => simp [cycles, ih]

@[simp] theorem enterTee_bytes (s q slot t) : (enterTee s q slot t).mem.bytes = s.mem.bytes := by simp [enterTee]

@[simp] theorem disarmTee_bytes (s q slot) : (disarmTee s q slot).mem.bytes = s.mem.bytes := by
  unfold disarmTee; split <;> simp

/-! ### Huddles.lean -/

@[simp] theorem abandonHuddle_mem (s h) : (abandonHuddle s h).mem = s.mem :=
  finishArrivals_mem ..

@[simp] theorem refuseRetired_mem (s p) : (refuseRetired s p).mem = s.mem := by simp [refuseRetired]

@[simp] theorem refuseHuddle_mem (s p status) : (refuseHuddle s p status).mem = s.mem := by simp [refuseHuddle]

/-! ### Aborts.lean -/

@[simp] theorem stopFlight_mem (s fk status) : (stopFlight s fk status).mem = s.mem := by
  unfold stopFlight
  simp only
  repeat' split
  all_goals simp

@[simp] theorem failGroup_mem (s key status) : (failGroup s key status).mem = s.mem := by simp [failGroup]

@[simp] theorem failStream_mem (s key status) : (failStream s key status).mem = s.mem := by rfl

@[simp] theorem abortRecord_mem (s key) : (abortRecord s key).mem = s.mem := by rfl

@[simp] theorem abortArena_mem (s key) : (abortArena s key).mem = s.mem := by simp [abortArena]

/-! ### Spaces.lean -/

@[simp] theorem queueMap_mem (s fk ctx) : (queueMap s fk ctx).mem = s.mem := by rfl

@[simp] theorem applyMap_mem (s fk f) : (applyMap s fk f).mem = s.mem := by simp [applyMap]

@[simp] theorem endWatch_mem (s w) : (endWatch s w).mem = s.mem := by
  unfold endWatch
  simp only
  repeat' split
  all_goals simp

@[simp] theorem cutWatches_mem (s ctx va len) : (cutWatches s ctx va len).mem = s.mem := by simp [cutWatches]

@[simp] theorem limitTlb_mem (s) : (limitTlb s).mem = s.mem := by rfl

@[simp] theorem closeWindow_mem (s n) : (closeWindow s n).mem = s.mem := by rfl

/-! ### Queues.lean -/

@[simp] theorem mergeCompletion_mem (s w ring urgent) : (mergeCompletion s w ring urgent).mem = s.mem := by
  unfold mergeCompletion; split <;> simp

@[simp] theorem completionWhistle_mem (s f ring status detail) :
    (completionWhistle s f ring status detail).mem = s.mem := by
  simp [completionWhistle]

@[simp] theorem endRun_bytes (s key) : (endRun s key).mem.bytes = s.mem.bytes := by unfold endRun; split <;> simp

@[simp] theorem closeQueueIfEmpty_mem (s ctx queue) : (closeQueueIfEmpty s ctx queue).mem = s.mem := by
  unfold closeQueueIfEmpty
  simp only
  repeat' split
  all_goals simp

@[simp] theorem takeTurn_mem (s q ctx) : (takeTurn s q ctx).mem = s.mem := by rfl

@[simp] theorem launch_mem (s r w e p) : (launch s r w e p).mem = s.mem := by rfl

@[simp] theorem dispatchAs_bytes (s r w) : (dispatchAs s r w).1.mem.bytes = s.mem.bytes := by
  unfold dispatchAs
  simp only
  repeat' split
  all_goals simp

@[simp] theorem addWatch_bytes (s q w) : (addWatch s q w).mem.bytes = s.mem.bytes := by simp [addWatch]

@[simp] theorem enterQueue_mem (s r) : (enterQueue s r).mem = s.mem := by rfl

@[simp] theorem abortSlots_mem (fuel s ctx queue st) : (abortSlots fuel s ctx queue st).mem = s.mem := by
  induction fuel generalizing s with
  | zero => rfl
  | succ n ih =>
    unfold abortSlots
    split
    · rfl
    · split
      · rfl
      · rw [ih]; simp

@[simp] theorem abortQueue_bytes (s ctx queue status) :
    (abortQueue s ctx queue status).mem.bytes = s.mem.bytes := by
  simp [abortQueue]

/-! ### Plays.lean -/

@[simp] theorem refusePlay_bytes (s key p status) : (refusePlay s key p status).mem.bytes = s.mem.bytes := by
  simp [refusePlay]

/-! ### StepEngine.lean -/

@[simp] theorem stopApplies_mem (s ctx) : (stopApplies s ctx).mem = s.mem := by simp [stopApplies]

@[simp] theorem startNumbered_mem (s j ws) : (startNumbered s j ws).mem = s.mem := by rfl

/-! ### Arenas.lean -/

@[simp] theorem beginTile_mem (s fk f key plain) : (beginTile s fk f key plain).mem = s.mem := by rfl

/-! ### CaddieUnit.lean -/

@[simp] theorem watchCursor_mem (s key c) : (watchCursor s key c).mem = s.mem := by rfl

@[simp] theorem wakeLanded_mem (s key) : (wakeLanded s key).mem = s.mem := by unfold wakeLanded; split <;> simp

/-! ### EndPoint.lean -/

@[simp] theorem takeProbe_mem (s p) : (takeProbe s p).mem = s.mem := by
  unfold takeProbe
  simp only
  repeat' split
  all_goals simp

@[simp] theorem atomicCopy_mem (s p) : (atomicCopy s p).mem = s.mem := by unfold atomicCopy; split <;> simp

/-! ### Scrum.lean -/

@[simp] theorem chargeCluster_bytes (s q c) : (chargeCluster s q c).mem.bytes = s.mem.bytes := by
  simp [chargeCluster]

@[simp] theorem mismatchRecord_mem (s c first count) : (mismatchRecord s c first count).mem = s.mem := by
  simp [mismatchRecord]

/-! ### Sessions.lean -/

@[simp] theorem closeSessions_mem (s p) : (closeSessions s p).mem = s.mem := by simp [closeSessions]

@[simp] theorem dexolOut_bytes (s port id address d) : (dexolOut s port id address d).mem.bytes = s.mem.bytes := by
  simp [dexolOut]

@[simp] theorem replyTo_bytes (s x id seq a) : (replyTo s x id seq a).mem.bytes = s.mem.bytes := by simp [replyTo]

theorem guarded_bytes {k : State → State × Answer} (hk : ∀ s, (k s).1.mem.bytes = s.mem.bytes) (s w idx sub v) :
    (guarded s w idx sub v k).1.mem.bytes = s.mem.bytes := by
  unfold guarded
  dsimp only
  split <;> simp [hk]

@[simp] theorem plainAnswer_fst (r) : (plainAnswer r).1 = r.1 := rfl

/-! ### Contexts.lean -/

@[simp] theorem makeContext_mem (s c) : (makeContext s c).mem = s.mem := by simp [makeContext]

@[simp] theorem createContext_mem (s c) : (createContext s c).1.mem = s.mem := by simp [createContext]

@[simp] theorem drainQueues_bytes (s c) : (drainQueues s c).mem.bytes = s.mem.bytes := by simp [drainQueues]

@[simp] theorem dropPlays_mem (s c) : (dropPlays s c).mem = s.mem := by simp [dropPlays]

@[simp] theorem dropTees_mem (s c) : (dropTees s c).mem = s.mem := by rfl

@[simp] theorem dropGroups_bytes (s c) : (dropGroups s c).mem.bytes = s.mem.bytes := by simp [dropGroups]

@[simp] theorem closeArenas_mem (s c) : (closeArenas s c).mem = s.mem := by simp [closeArenas]

@[simp] theorem stopJobs_mem (s c) : (stopJobs s c).mem = s.mem := by rfl

@[simp] theorem stopFlights_mem (s c) : (stopFlights s c).mem = s.mem := by simp [stopFlights]

@[simp] theorem dropReservations_mem (s c) : (dropReservations s c).mem = s.mem := by rfl

@[simp] theorem dropRings_mem (s c) : (dropRings s c).mem = s.mem := by rfl

@[simp] theorem dropTranslations_mem (s c) : (dropTranslations s c).mem = s.mem := by rfl

@[simp] theorem dropHeldFlags_mem (s c) : (dropHeldFlags s c).mem = s.mem := by
  simp [dropHeldFlags, mem_foldl fun _ _ => modFlow_mem ..]

@[simp] theorem dropOutside_mem (s c) : (dropOutside s c).mem = s.mem := by simp [dropOutside]

@[simp] theorem generationStep_bytes (s c) : (generationStep s c).mem.bytes = s.mem.bytes := by
  simp [generationStep]

@[simp] theorem abandonRequests_bytes (s c) : (abandonRequests s c).mem.bytes = s.mem.bytes := by
  unfold abandonRequests
  dsimp only
  rw [mem_foldl fun _ _ => refuseReq_mem ..]
  refine (bytes_foldl (fun s x => by cases x.2.waiting <;> simp) _ _).trans ?_
  refine (congrArg MemState.bytes (mem_foldl (fun _ _ => dropGroup_mem ..) _ _)).trans ?_
  refine (bytes_foldl (fun s x => by cases x.2.kind <;> simp) _ _).trans ?_
  exact congrArg MemState.bytes (mem_foldl (fun _ _ => dropReq_mem ..) _ _)

@[simp] theorem freeRecords_mem (s c) : (freeRecords s c).mem = s.mem := by rfl

@[simp] theorem writeGroupEntry_mem (s c b) : (writeGroupEntry s c b).1.mem = s.mem := by
  unfold writeGroupEntry
  simp only
  repeat' split
  all_goals simp

/-! ### Fabric.lean -/

@[simp] theorem flowCheck_mem (s port) : (flowCheck s port).mem = s.mem := by simp [flowCheck]

@[simp] theorem routePkt_mem (s port fifo id c) : (routePkt s port fifo id c).mem = s.mem := by
  unfold routePkt; split <;> simp

@[simp] theorem markPkt_mem (s q id c o) : (markPkt s q id c o).mem = s.mem := by simp [markPkt]

@[simp] theorem storeCell_mem (s port fifo middle ps) : (storeCell s port fifo middle ps).mem = s.mem := by
  unfold storeCell
  split
  · rfl
  · split
    · simp only [flowCheck_mem]
      split <;> split <;> simp [mem_foldl fun _ _ => modPkt_mem ..]
    · rfl

@[simp] theorem reachOutput_mem (o s id) : (reachOutput o s id).mem = s.mem := by
  unfold reachOutput
  simp only
  repeat' split
  all_goals simp

/-! ### Recovery.lean -/

@[simp] theorem floodLocal_mem (s except op ext) : (floodLocal s except op ext).mem = s.mem := by simp [floodLocal]

@[simp] theorem sendGasp_mem (s cause quarters) : (sendGasp s cause quarters).mem = s.mem := by simp [sendGasp]

@[simp] theorem raiseInc_mem (s n) : (raiseInc s n).mem = s.mem := by rfl

@[simp] theorem dropNode_mem (s n) : (dropNode s n).mem = s.mem := by rfl

@[simp] theorem noteNotice_mem (s n ext repeats) : (noteNotice s n ext repeats).mem = s.mem := by rfl

@[simp] theorem applyUnfence_mem (s n inc cause origin ft from_) :
    (applyUnfence s n inc cause origin ft from_).mem = s.mem := by
  simp [applyUnfence]

@[simp] theorem tellFenced_mem (s port) : (tellFenced s port).mem = s.mem := by simp [tellFenced]

@[simp] theorem linkUp_mem (s port node inc) : (linkUp s port node inc).mem = s.mem := by simp [linkUp]

@[simp] theorem noteDeferral_mem (s t) : (noteDeferral s t).mem = s.mem := by simp [noteDeferral]

@[simp] theorem stopAllApplies_mem (s status) : (stopAllApplies s status).mem = s.mem := by simp [stopAllApplies]

@[simp] theorem resumeDispatch_mem (s) : (resumeDispatch s).mem = s.mem := by rfl

@[simp] theorem startRebuild_mem (lost spare s x) : (startRebuild lost spare s x).mem = s.mem := by
  unfold startRebuild; split <;> simp

@[simp] theorem rebuildByDict_mem (s b) : (rebuildByDict s b).1.mem = s.mem := by
  unfold rebuildByDict
  simp only
  repeat' split
  all_goals simp

@[simp] theorem adoptByDict_mem (s b) : (adoptByDict s b).1.mem = s.mem := by
  unfold adoptByDict
  simp only
  repeat' split
  all_goals simp

@[simp] theorem reopenStreams_mem (s c) : (reopenStreams s c).mem = s.mem := by rfl

@[simp] theorem replayByDict_mem (s c) : (replayByDict s c).1.mem = s.mem := by
  unfold replayByDict
  repeat' split
  all_goals simp

@[simp] theorem consumeFaults_mem (s n) : (consumeFaults s n).1.mem = s.mem := by
  unfold consumeFaults; split <;> simp

@[simp] theorem clearSummary_mem (s v) : (clearSummary s v).1.mem = s.mem := by unfold clearSummary; split <;> simp

@[simp] theorem restoreUnit_mem (s kind unit) : (restoreUnit s kind unit).mem = s.mem := by
  unfold restoreUnit; split <;> simp

@[simp] theorem restoreByDict_mem (s b) : (restoreByDict s b).1.mem = s.mem := by
  unfold restoreByDict
  simp only
  repeat' split
  all_goals simp

/-! ### SwitchCore.lean -/

@[simp] theorem poisonCell_mem (q s c) : (poisonCell q s c).mem = s.mem := by
  simp [poisonCell, mem_foldl fun _ _ => modPkt_mem ..]

@[simp] theorem fetchCells_bytes (q s l) : (fetchCells q s l).1.mem.bytes = s.mem.bytes := by
  induction l generalizing q s with
  | nil => rfl
  | cons a l ih =>
    unfold fetchCells
    simp only
    repeat' split
    all_goals simp [ih]

/-! ### Links.lean -/

@[simp] theorem modLanes_mem (s n f) : (modLanes s n f).mem = s.mem := by rfl

@[simp] theorem checkPort_bytes (s n) : (checkPort s n).mem.bytes = s.mem.bytes := by simp [checkPort]

@[simp] theorem checkPorts_bytes (s) : (checkPorts s).mem.bytes = s.mem.bytes := by simp [checkPorts]

@[simp] theorem enablePort_mem (s n) : (enablePort s n).mem = s.mem := by simp [enablePort]

@[simp] theorem enterDetect_mem (s n) : (enterDetect s n).mem = s.mem := by simp [enterDetect]

@[simp] theorem enterServe_mem (s n) : (enterServe s n).mem = s.mem := by rfl

@[simp] theorem enterEqualise_mem (s n) : (enterEqualise s n).mem = s.mem := by simp [enterEqualise]

@[simp] theorem takeAccept_mem (s n m) : (takeAccept s n m).mem = s.mem := by simp [takeAccept]

@[simp] theorem takeOffer_mem (s n m) : (takeOffer s n m).mem = s.mem := by
  unfold takeOffer
  simp only
  repeat' split
  all_goals simp

@[simp] theorem takeRequest_mem (s n lane m) : (takeRequest s n lane m).mem = s.mem := by rfl

@[simp] theorem notePeerStart_mem (s n m) : (notePeerStart s n m).mem = s.mem := by simp [notePeerStart]

@[simp] theorem takeStatus_mem (s n lane m) : (takeStatus s n lane m).mem = s.mem := by simp [takeStatus]

@[simp] theorem sendCap_mem (s n kind b) : (sendCap s n kind b).mem = s.mem := by rfl

@[simp] theorem enterCapability_mem (s n) : (enterCapability s n).mem = s.mem := by simp [enterCapability]

@[simp] theorem noteCorrected_mem (s n) : (noteCorrected s n).mem = s.mem := by rfl

@[simp] theorem failCapability_mem (s n) : (failCapability s n).mem = s.mem := by simp [failCapability]

@[simp] theorem deriveKeys_mem (s n peer peerNonce ikm) : (deriveKeys s n peer peerNonce ikm).mem = s.mem := by rfl

@[simp] theorem sendReady_mem (s n) : (sendReady s n).mem = s.mem := by rfl

theorem openFrame_mem {s t : State} {n word body tag b} (h : openFrame s n word body tag = some (t, b)) :
    t.mem = s.mem := by
  unfold openFrame at h
  dsimp only at h
  split at h
  · split at h <;> cases h
    rfl
  · split at h
    · cases h
    · obtain ⟨p, _, hp⟩ := Option.map_eq_some_iff.mp h
      cases hp
      rfl

@[simp] theorem dropFrame_mem (s n clear) : (dropFrame s n clear).mem = s.mem := by simp [dropFrame]

@[simp] theorem takePacket_mem (s n age p) : (takePacket s n age p).mem = s.mem := by simp [takePacket]

/-! ### Ethernet.lean -/

@[simp] theorem resendAll_bytes (s qpn f) : (resendAll s qpn f).mem.bytes = s.mem.bytes := by
  unfold resendAll
  simp only
  repeat' split
  all_goals simp

@[simp] theorem retry_bytes (s qpn exhausted f) : (retry s qpn exhausted f).mem.bytes = s.mem.bytes := by
  simp [retry]

@[simp] theorem takeAck_mem (s qpn psn) : (takeAck s qpn psn).mem = s.mem := by simp [takeAck]

@[simp] theorem requesterReply_bytes (s qpn psn p reply) :
    (requesterReply s qpn psn p reply).mem.bytes = s.mem.bytes := by
  unfold requesterReply
  simp only
  repeat' split
  all_goals simp

@[simp] theorem createQp_mem (s w data) : (createQp s w data).1.mem = s.mem := by
  unfold createQp
  simp only
  repeat' split
  all_goals simp

@[simp] theorem destroyQp_mem (s qpn) : (destroyQp s qpn).1.mem = s.mem := by unfold destroyQp; split <;> simp

@[simp] theorem loseExternal_mem (s) : (loseExternal s).mem = s.mem := by simp [loseExternal]

@[simp] theorem ptpAnnounced_mem (s) : (ptpAnnounced s).mem = s.mem := by simp [ptpAnnounced]

@[simp] theorem ptpElect_mem (s) : (ptpElect s).mem = s.mem := by
  unfold ptpElect
  simp only
  repeat' split
  all_goals simp

@[simp] theorem ptpSteer_mem (s offset time) : (ptpSteer s offset time).mem = s.mem := by simp [ptpSteer]

@[simp] theorem ethDown_mem (s e) : (ethDown s e).mem = s.mem := by simp [ethDown]

@[simp] theorem ethAnswer_bytes (s e kind data) : (ethAnswer s e kind data).mem.bytes = s.mem.bytes := by
  simp [ethAnswer]

/-! ### Firmware.lean -/

@[simp] theorem loadBank_mem (s) : (loadBank s).mem = s.mem := by
  unfold loadBank
  simp only
  repeat' split
  all_goals simp

@[simp] theorem bootFirmware_mem (s) : (bootFirmware s).mem = s.mem := by simp [bootFirmware]

@[simp] theorem reloadCores_mem (s) : (reloadCores s).mem = s.mem := by simp [reloadCores]

@[simp] theorem swapBank_mem (s trial) : (swapBank s trial).mem = s.mem := by simp [swapBank]

@[simp] theorem handOver_mem (s core) : (handOver s core).mem = s.mem := by simp [handOver]

@[simp] theorem writeSegment_mem (s offset data) : (writeSegment s offset data).1.mem = s.mem := by
  unfold writeSegment
  simp only
  repeat' split
  all_goals simp

@[simp] theorem verifyBank_mem (s) : (verifyBank s).1.mem = s.mem := by
  unfold verifyBank
  repeat' split
  all_goals simp

@[simp] theorem activate_mem (s) : (activate s).1.mem = s.mem := by
  unfold activate
  simp only
  repeat' split
  all_goals simp

@[simp] theorem cancelUpdate_mem (s) : (cancelUpdate s).1.mem = s.mem := by unfold cancelUpdate; split <;> simp

@[simp] theorem commitFuses_mem (s) : (commitFuses s).mem = s.mem := by rfl

@[simp] theorem commitUpdate_mem (s) : (commitUpdate s).1.mem = s.mem := by
  unfold commitUpdate
  simp only
  repeat' split
  all_goals simp

@[simp] theorem restartCores_mem (s) : (restartCores s).1.mem = s.mem := by simp [restartCores]

@[simp] theorem updateCommand_mem (s v) : (updateCommand s v).1.mem = s.mem := by
  unfold updateCommand; split <;> simp

@[simp] theorem loadTrust_mem (s data) : (loadTrust s data).1.mem = s.mem := by
  unfold loadTrust
  simp only
  repeat' split
  all_goals simp

@[simp] theorem loadMap_bytes (s data) : (loadMap s data).1.mem.bytes = s.mem.bytes := by
  unfold loadMap
  simp only
  repeat' split
  all_goals simp

@[simp] theorem loadPolicy_mem (s data) : (loadPolicy s data).1.mem = s.mem := by
  unfold loadPolicy
  simp only
  repeat' split
  all_goals simp

/-! ### Power.lean -/

@[simp] theorem takePending_mem (t held) : (takePending t held).mem = t.mem :=
  mem_foldl (fun _ _ => setReg_mem ..) held t

@[simp] theorem noteReset_mem (t inc code upd count) : (noteReset t inc code upd count).mem = t.mem := by
  simp [noteReset]

@[simp] theorem layOut_bytes (t) : (layOut t).mem.bytes = t.mem.bytes := by rfl

@[simp] theorem sampleStraps_bytes (s x) : (sampleStraps s x).mem.bytes = s.mem.bytes := by rfl

@[simp] theorem beginStart_bytes (s) : (beginStart s).mem.bytes = s.mem.bytes := by rfl

@[simp] theorem releaseReset_bytes (s x hot) : (releaseReset s x hot).mem.bytes = s.mem.bytes := by
  simp [releaseReset]

@[simp] theorem unitAbsent_mem (s kind unit quarter) : (unitAbsent s kind unit quarter).mem = s.mem := by
  simp [unitAbsent]

@[simp] theorem bootDrawn_mem (s) : (bootDrawn s).mem = s.mem := by simp [bootDrawn]

@[simp] theorem firstContexts_bytes (s) : (firstContexts s).mem.bytes = s.mem.bytes := by
  unfold firstContexts
  extract_lets t u v w
  have ht : t.mem = s.mem := by rw [makeContext_mem, setReg_mem, bootDrawn_mem]
  have hv : v.mem = s.mem := by rw [setPages_mem, makeContext_mem, setReg_mem, setReg_mem, setReg_mem, ht]
  clear_value w v t
  by_cases h : role t = 3
  · rw [if_pos h, ht]
  · rw [if_neg h, hv]

@[simp] theorem haltEngines_mem (s) : (haltEngines s).mem = s.mem := by rfl

@[simp] theorem setClocks_bytes (s) : (setClocks s).mem.bytes = s.mem.bytes := by rfl

@[simp] theorem chargeStage_mem (s) : (chargeStage s).mem = s.mem := by
  unfold chargeStage
  simp only
  repeat' split
  all_goals simp

@[simp] theorem showStage_bytes (s) : (showStage s).mem.bytes = s.mem.bytes := by rfl

@[simp] theorem limitByDict_mem (s watts) : (limitByDict s watts).mem = s.mem := by
  unfold limitByDict; split <;> simp

@[simp] theorem nextStage_mem (s) : (nextStage s).mem = s.mem := by simp [nextStage]

@[simp] theorem undoStage_mem (s) : (undoStage s).mem = s.mem := by simp [undoStage]

@[simp] theorem showAlert_mem (s) : (showAlert s).mem = s.mem := by rfl

@[simp] theorem setLadder_bytes (s q step) : (setLadder s q step).mem.bytes = s.mem.bytes := by simp [setLadder]

@[simp] theorem noteCool_mem (s q t) : (noteCool s q t).mem = s.mem := by rfl

/-! ### DictWrites.lean -/

@[simp] theorem ftStepByDict_mem (s v) : (ftStepByDict s v).1.mem = s.mem := by unfold ftStepByDict; split <;> simp

@[simp] theorem teeByDict_bytes (s q b) : (teeByDict s q b).1.mem.bytes = s.mem.bytes := by
  unfold teeByDict
  simp only
  repeat' split
  all_goals simp

@[simp] theorem pushByDict_mem (s w q b) : (pushByDict s w q b).1.mem = s.mem := by
  unfold pushByDict
  simp only
  repeat' split
  all_goals simp

@[simp] theorem openFByDict_mem (s q b) : (openFByDict s q b).1.mem = s.mem := by simp [openFByDict]

@[simp] theorem writeOwner_mem (s c key) : (writeOwner s c key).mem = s.mem := by simp [writeOwner]

@[simp] theorem routesByDict_bytes (s w b) : (routesByDict s w b).1.mem.bytes = s.mem.bytes := by
  unfold routesByDict
  repeat' split
  all_goals simp

@[simp] theorem domainsByDict_mem (s b) : (domainsByDict s b).1.mem = s.mem := by
  unfold domainsByDict; split <;> simp

@[simp] theorem targetByDict_mem (s b) : (targetByDict s b).1.mem = s.mem := by
  unfold targetByDict
  simp only
  repeat' split
  all_goals simp

@[simp] theorem doorbellByDict_mem (s b) : (doorbellByDict s b).1.mem = s.mem := by
  unfold doorbellByDict
  simp only
  repeat' split
  all_goals simp

@[simp] theorem tapsByDict_mem (s idx sub b) : (tapsByDict s idx sub b).1.mem = s.mem := by
  unfold tapsByDict
  simp only
  repeat' split
  all_goals simp

@[simp] theorem writeOctets_mem (s idx sub b) : (writeOctets s idx sub b).1.mem = s.mem := by
  unfold writeOctets
  simp only
  repeat' split
  all_goals simp

@[simp] theorem writeBlock_bytes (s w idx sub b) : (writeBlock s w idx sub b).1.mem.bytes = s.mem.bytes := by
  unfold writeBlock
  split
  · simp
  · split
    · simp
    · split
      · rw [plainAnswer_fst]
        split <;> simp
      · split <;> simp

@[simp] theorem stageWrite_mem (s w idx sub group b) : (stageWrite s w idx sub group b).1.mem = s.mem := by
  unfold stageWrite
  simp only
  repeat' split
  all_goals simp

@[simp] theorem segmentWrite_bytes (s w id idx sub offset last b) :
    (segmentWrite s w id idx sub offset last b).1.mem.bytes = s.mem.bytes := by
  unfold segmentWrite
  split
  · rfl
  · dsimp only
    split
    · rfl
    · split
      · rfl
      · exact guarded_bytes (fun s => writeBlock_bytes s w idx sub _) ..

@[simp] theorem writeDomain_bytes (s via w idx sub offset last b) :
    (writeDomain s via w idx sub offset last b).1.mem.bytes = s.mem.bytes := by
  unfold writeDomain
  split
  · rfl
  · split
    · exact guarded_bytes (fun s => by simp) ..
    · split
      · split
        · rfl
        · exact guarded_bytes (fun s => writeBlock_bytes s w idx sub b) ..
      · simp

/-! ### Dexol.lean -/

@[simp] theorem answerOpen_bytes (s port address d secret nonce shared) :
    (answerOpen s port address d secret nonce shared).mem.bytes = s.mem.bytes := by
  simp [answerOpen]

@[simp] theorem commitByDict_mem (s w group scope) : (commitByDict s w group scope).1.mem = s.mem := by
  unfold commitByDict
  simp only
  repeat' split
  all_goals simp

@[simp] theorem discardByDict_mem (s w group scope) : (discardByDict s w group scope).1.mem = s.mem := by
  unfold discardByDict
  simp only
  repeat' split
  all_goals simp

end Sys2Proof.Machine
end

section
/-! PROOFS. Canonical form through every operation that writes bytes of memory (O4): each writes through
`writeRun`, `zeroRun` or `writePhys`, or leaves the bytes. One lemma per operation, in the model's order. -/

namespace Sys2Proof.Machine

theorem wf_foldl {α : Type} {f : State → α → State} (hf : ∀ s x, Memory.wf s = true → Memory.wf (f s x) = true)
    (l : List α) {s : State} (h : Memory.wf s = true) : Memory.wf (l.foldl f s) = true := by
  induction l generalizing s with
  | nil => exact h
  | cons x l ih => exact ih (hf s x h)

theorem wf_foldl_fst {α β : Type} {f : State × β → α → State × β}
    (hf : ∀ r x, Memory.wf r.1 = true → Memory.wf (f r x).1 = true) (l : List α) {r : State × β}
    (h : Memory.wf r.1 = true) : Memory.wf (l.foldl f r).1 = true := by
  induction l generalizing r with
  | nil => exact h
  | cons x l ih => exact ih (hf r x h)

/-! ### Translate.lean -/

@[simp] theorem writeSegs_wf {s} (h : Memory.wf s = true) (ctx l b) :
    Memory.wf (writeSegs s ctx l b).st = true := by
  induction l generalizing s b with
  | nil => exact h
  | cons g l ih => exact ih (writePhys_wf h ..) _

@[simp] theorem writeVa_wf {s} (h : Memory.wf s = true) (ctx va data) :
    Memory.wf (writeVa s ctx va data).st = true := by
  unfold writeVa
  simp only
  repeat' split
  all_goals simp [Memory.wf, h]

/-! ### Deliver.lean -/

@[simp] theorem storeVa_wf {s} (h : Memory.wf s = true) (ctx va data) :
    Memory.wf (storeVa s ctx va data).st = true := by
  simp [Memory.wf, storeVa, h]

/-! ### Apply.lean -/

@[simp] theorem writeArray_wf {s} (h : Memory.wf s = true) (st innings k first ws) :
    Memory.wf (writeArray s st innings k first ws).st = true := by
  simp [Memory.wf, writeArray, h]

@[simp] theorem applySegment_wf {s} (h : Memory.wf s = true) (key d first gs) :
    Memory.wf (applySegment s key d first gs) = true := by
  unfold applySegment
  split
  · exact h
  · rename_i st _
    extract_lets n l w m v bad vs hy xs a b c bad' wild t u
    have hv : Memory.wf v.st = true := by
      simp only [v, m, w]
      split <;> simpa [Memory.wf] using h
    have hb : Memory.wf b.st = true := writeArray_wf (writeArray_wf hv ..) ..
    have hc : Memory.wf c.st = true := by
      simp only [c]
      split
      · exact writeArray_wf hb ..
      · exact hb
    have hu : Memory.wf u = true := hc
    clear_value u c v
    split
    · exact hv
    · split
      · exact hc
      · split
        · exact wf_of_mem hu (congrArg _ (emitWords_mem ..))
        · exact hu

@[simp] theorem memorySegment_wf {s} (h : Memory.wf s = true) (key st d first n) :
    Memory.wf (memorySegment s key st d first n) = true := by
  unfold memorySegment
  simp only
  repeat' split
  all_goals simp [Memory.wf, h]

@[simp] theorem memoryRun_wf {s} (h : Memory.wf s = true) (fuel key) : Memory.wf (memoryRun fuel s key) = true := by
  induction fuel generalizing s with
  | zero => exact h
  | succ n ih =>
    unfold memoryRun
    split
    · exact h
    · split
      · exact h
      · dsimp only
        split
        · rename_i t ht
          exact wf_of_mem h (congrArg _ (heldBy_mem ht))
        · split
          · simp [Memory.wf, h]
          · exact ih (memorySegment_wf h ..)

@[simp] theorem memoryApply_wf {s} (h : Memory.wf s = true) (key) : Memory.wf (memoryApply s key) = true := by
  unfold memoryApply
  repeat' split
  all_goals simp [Memory.wf, h]

@[simp] theorem startApply_wf {s} (h : Memory.wf s = true) (key st fk clip) :
    Memory.wf (startApply s key st fk clip) = true := by
  simp [Memory.wf, startApply, h]

@[simp] theorem clipApply_wf {s} (h : Memory.wf s = true) (fk f key st) :
    Memory.wf (clipApply s fk f key st) = true := by
  unfold clipApply
  simp only
  repeat' split
  all_goals simp [Memory.wf, h]

@[simp] theorem tryApply_wf {s} (h : Memory.wf s = true) (fk) : Memory.wf (tryApply s fk) = true := by
  unfold tryApply
  simp only
  repeat' split
  all_goals simp [Memory.wf, h]

@[simp] theorem retryApplies_wf {s} (h : Memory.wf s = true) (ctx) : Memory.wf (retryApplies s ctx) = true :=
  wf_foldl (fun _ _ h => tryApply_wf h _) _ h

/-! ### Rounds.lean -/

@[simp] theorem commitInnings_wf {s} (h : Memory.wf s = true) (ctx) : Memory.wf (commitInnings s ctx) = true := by
  simp [Memory.wf, commitInnings, h]

@[simp] theorem ledgerRound_wf {s} (hs : Memory.wf s = true) (ctx no h) :
    Memory.wf (ledgerRound s ctx no h).1 = true := by
  unfold ledgerRound
  simp only
  repeat' split
  all_goals simp_all [Memory.wf]

@[simp] theorem runEv_wf {s} (h : Memory.wf s = true) (e) : Memory.wf (runEv s e).1 = true := by
  cases e with
  | arrive ctx no who value =>
    have ha := wf_of_mem h
      (localArrive_bytes s (huddleKey ctx no) who none none value (ftOf s (ctx % 4)))
    dsimp only [runEv]
    split
    · exact ha
    · split
      · simpa [Memory.wf] using ha
      · exact ha
  | ended ctx no =>
    dsimp only [runEv]
    split
    · exact h
    · simp [Memory.wf, h]

@[simp] theorem runEvs_wf {s} (h : Memory.wf s = true) (fuel l) : Memory.wf (runEvs fuel l s) = true := by
  induction fuel generalizing l s with
  | zero => exact h
  | succ n ih =>
    cases l with
    | nil => exact h
    | cons e l => exact ih (runEv_wf h e) _

@[simp] theorem runAll_wf {r : Evs} (h : Memory.wf r.1 = true) : Memory.wf (runAll r) = true := runEvs_wf h _ _

/-! ### Tiles.lean -/

@[simp] theorem writeMap_wf {s} (h : Memory.wf s = true) (key) : Memory.wf (writeMap s key) = true := by
  unfold writeMap; split <;> simp [Memory.wf, h]

@[simp] theorem writeDir_wf {s} (h : Memory.wf s = true) (key a tile e) :
    Memory.wf (writeDir s key a tile e).1 = true := by
  unfold writeDir
  simp only
  repeat' split
  all_goals simp [Memory.wf, h]

@[simp] theorem readersDone_wf {s} (h : Memory.wf s = true) (who) : Memory.wf (readersDone s who) = true :=
  wf_foldl (fun _ _ h => by simp [Memory.wf, h]) _ h

@[simp] theorem placeTile_wf {s} (h : Memory.wf s = true) (key tile hdr payload) :
    Memory.wf (placeTile s key tile hdr payload).1 = true := by
  unfold placeTile
  split
  · exact h
  · rename_i a _
    split
    · exact h
    · split
      · exact bump_wf h _ _
      · rename_i p a' _
        have hw := writeVa_wf h a.ctx (a.sectorVa p) (hdr.bytes ++ payload)
        dsimp only
        generalize writeVa s a.ctx (a.sectorVa p) (hdr.bytes ++ payload) = w at hw ⊢
        split
        · exact hw
        · have hr := wf_of_mem hw (readDir_bytes w.st key a tile)
          generalize readDir w.st key a tile = r at hr ⊢
          obtain ⟨t, _ | old⟩ := r
          · exact hr
          · have hd := writeDir_wf (s := modArena t key fun _ => a') hr key a' tile
              { valid := true, first := p, sectors := hdr.sectors, version := (old.version + 1) % 2 ^ 32 }
            dsimp only
            generalize writeDir _ _ _ _ _ = q at hd ⊢
            split
            · exact hd
            · split
              · exact writeMap_wf (s := modArena q.1 key _) hd _
              · exact writeMap_wf hd _

@[simp] theorem packPlain_wf {s} (h : Memory.wf s = true) (fk f w plain) :
    Memory.wf (packPlain s fk f w plain) = true := by
  unfold packPlain
  extract_lets d ask c t
  have ht : Memory.wf t = true := by simp [t, c, Memory.wf, h]
  have hp := placeTile_wf ht w.arena w.tile c.2.1 c.2.2
  generalize placeTile t w.arena w.tile c.2.1 c.2.2 = r at hp ⊢
  obtain ⟨u, _ | _⟩ := r <;> simpa [Memory.wf] using hp

@[simp] theorem tileNext_wf {s} (h : Memory.wf s = true) (fk f w j) : Memory.wf (tileNext s fk f w j) = true := by
  unfold tileNext
  simp only
  repeat' split
  all_goals simp [Memory.wf, h]

/-! ### Guard.lean -/

@[simp] theorem dropEntry_wf {s} (h : Memory.wf s = true) (key x) : Memory.wf (dropEntry s key x) = true := by
  simp [Memory.wf, dropEntry, h]

@[simp] theorem failEntry_wf {s} (h : Memory.wf s = true) (key x status) :
    Memory.wf (failEntry s key x status) = true := by
  simp [Memory.wf, failEntry, h]

@[simp] theorem sendWindow_wf {s} (h : Memory.wf s = true) (key c x) : Memory.wf (sendWindow s key c x) = true := by
  unfold sendWindow
  dsimp only
  split
  · exact h
  · split
    · rename_i a u _ _
      split
      · exact failEntry_wf h ..
      · have hd := wf_of_mem h
          (decodeSet_bytes c (c.entry x.index) x.pass a u s ((c.entry x.index).tileSet.zip x.dirs))
        generalize decodeSet c (c.entry x.index) x.pass a u s _ = r at hd ⊢
        obtain ⟨t, _ | data⟩ := r
        · exact failEntry_wf hd ..
        · simpa [Memory.wf] using hd
    · exact h

@[simp] theorem sendWindows_wf {s} (h : Memory.wf s = true) : Memory.wf (sendWindows s) = true :=
  wf_foldl (fun _ _ h => wf_foldl (fun _ _ h => sendWindow_wf h ..) _ h) _ h

@[simp] theorem runEntry_wf {s} (h : Memory.wf s = true) (key c e x) : Memory.wf (runEntry s key c e x) = true := by
  unfold runEntry
  dsimp only
  split
  · exact failEntry_wf h ..
  · rename_i a _
    split
    · exact failEntry_wf h ..
    · have hd := wf_of_mem h (readDirs_bytes s (arenaKey c.ctx e.srcArena) a e.tileSet)
      generalize readDirs s (arenaKey c.ctx e.srcArena) a e.tileSet = r at hd ⊢
      obtain ⟨t, _ | es⟩ := r
      · exact failEntry_wf hd ..
      · dsimp only
        split
        · exact failEntry_wf hd ..
        · have hr := wf_of_mem hd (readHdrs_bytes t a es)
          generalize readHdrs t a es = r at hr ⊢
          obtain ⟨u, _ | hs⟩ := r
          · exact failEntry_wf hr ..
          · have hu : cellsWf 0 u.mem.bytes = true := hr
            dsimp only
            repeat' split
            all_goals simp [Memory.wf, hu]

@[simp] theorem startEntry_wf {s} (h : Memory.wf s = true) (key c) : Memory.wf (startEntry s key c) = true := by
  simp [Memory.wf, startEntry, h]

@[simp] theorem startCursor_wf {s} (h : Memory.wf s = true) (fuel key) :
    Memory.wf (startCursor fuel s key) = true := by
  induction fuel generalizing s with
  | zero => exact h
  | succ n ih =>
    unfold startCursor
    split
    · exact h
    · split
      · exact ih (startEntry_wf h ..)
      · exact h

@[simp] theorem startCursors_wf {s} (h : Memory.wf s = true) : Memory.wf (startCursors s) = true :=
  wf_foldl (fun _ _ h => startCursor_wf h ..) _ h

/-! ### Inbound.lean -/

@[simp] theorem performAtomic_wf {s} (h : Memory.wf s = true) (p va) : Memory.wf (performAtomic s p va) = true := by
  unfold performAtomic
  simp only
  repeat' split
  all_goals simp [Memory.wf, h]

@[simp] theorem performWrite_wf {s} (h : Memory.wf s = true) (p va) : Memory.wf (performWrite s p va) = true := by
  simp [Memory.wf, performWrite, h]

@[simp] theorem performAt_wf {s} (h : Memory.wf s = true) (p va) : Memory.wf (performAt s p va) = true := by
  unfold performAt; split <;> simp [Memory.wf, h]

@[simp] theorem guardAt_wf {s} (h : Memory.wf s = true) (p va len) : Memory.wf (guardAt s p va len) = true := by
  unfold guardAt
  split
  · exact performAt_wf h ..
  · rename_i t ht
    exact wf_of_mem h (t := t) (congrArg _ (heldBy_mem ht))

@[simp] theorem windowReq_wf {s} (h : Memory.wf s = true) (p len op again) :
    Memory.wf (windowReq s p len op again) = true := by
  have hp := wf_of_mem h (congrArg MemState.bytes (passWindow_mem s p len op again))
  unfold windowReq
  generalize passWindow s p len op again = r at hp ⊢
  obtain ⟨t, _ | va⟩ := r
  · simpa [Memory.wf] using hp
  · exact guardAt_wf hp ..

@[simp] theorem runFlagged_wf {s} (h : Memory.wf s = true) (p) : Memory.wf (runFlagged s p) = true := by
  unfold runFlagged
  simp only
  repeat' split
  all_goals simp [Memory.wf, h]

@[simp] theorem takeFlagged_wf {s} (h : Memory.wf s = true) (p) : Memory.wf (takeFlagged s p) = true := by
  unfold takeFlagged
  simp only
  repeat' split
  all_goals simp [Memory.wf, h]

@[simp] theorem pumpHeld_wf {s} (h : Memory.wf s = true) (fuel q) : Memory.wf (pumpHeld fuel s q) = true := by
  induction fuel generalizing s with
  | zero => exact h
  | succ n ih =>
    unfold pumpHeld
    split
    · exact h
    · exact ih (startCursors_wf (runFlagged_wf (s := setHeld s q _) h _))

@[simp] theorem pumpFlags_wf {s} (h : Memory.wf s = true) : Memory.wf (pumpFlags s) = true := by
  unfold pumpFlags
  generalize [0, 1, 2, 3] = l
  exact wf_foldl (fun _ _ h => pumpHeld_wf h ..) l h

/-! ### Contribs.lean -/

@[simp] theorem feedStream_wf {s} (h : Memory.wf s = true) (q stream ctx first accs) :
    Memory.wf (feedStream s q stream ctx first accs).1 = true := by
  unfold feedStream
  dsimp only
  split
  · exact bump_wf h _ _
  · split
    · exact bump_wf h _ _
    · split
      · split
        · exact h
        · rename_i f _
          split
          · rename_i t ht
            exact wf_of_mem h (congrArg MemState.bytes (heldBy_mem ht))
          · dsimp only
            generalize hu : List.foldl _ s _ = u
            have : Memory.wf u = true := by
              subst hu
              refine wf_foldl (fun t r ht => ?_) _ h
              split
              · exact ht
              · exact applySegment_wf ht ..
            split
            · simpa [Memory.wf] using this
            · exact this
      · exact h

@[simp] theorem endSteps_wf {s} (h : Memory.wf s = true) (key g) : Memory.wf (endSteps s key g) = true := by
  unfold endSteps
  extract_lets t u
  have hu : Memory.wf u = true := by
    simp only [u]
    split
    · exact runAll_wf h
    · exact h
  clear_value u
  split
  · exact hu
  · split <;> simpa [Memory.wf] using hu

@[simp] theorem beginEnd_wf {s} (h : Memory.wf s = true) (key) : Memory.wf (beginEnd s key) = true := by
  unfold beginEnd
  simp only
  repeat' split
  all_goals simp [Memory.wf, h]

@[simp] theorem pumpEnds_wf {s} (h : Memory.wf s = true) : Memory.wf (pumpEnds s) = true := by
  refine wf_foldl (fun t x ht => ?_) _ h
  split
  · exact ht
  · split
    · exact endSteps_wf ht ..
    · exact ht

@[simp] theorem segDone_wf {s} (h : Memory.wf s = true) (key seg) : Memory.wf (segDone s key seg) = true := by
  unfold segDone
  simp only
  repeat' split
  all_goals simp [Memory.wf, h]

@[simp] theorem feedSeg_wf {s} (h : Memory.wf s = true) (key seg) : Memory.wf (feedSeg s key seg) = true := by
  unfold feedSeg
  split
  · exact h
  · rename_i g _
    split
    · exact segDone_wf h ..
    · have hf := feedStream_wf h (steer g.ctx g.no) g.stepStream g.ctx (seg * g.segElems) (g.seg seg).cur.acc
      generalize feedStream s _ _ _ _ _ = r at hf ⊢
      obtain ⟨t, _ | _⟩ := r
      · exact hf
      · exact segDone_wf hf ..

@[simp] theorem writeSeg_wf {s} (h : Memory.wf s = true) (key seg) : Memory.wf (writeSeg s key seg) = true := by
  unfold writeSeg
  split
  · exact h
  · split
    · exact feedSeg_wf h ..
    · split
      · rename_i t ht
        exact wf_of_mem h (t := t) (congrArg _ (heldBy_mem ht))
      · refine feedSeg_wf ?_ ..
        split <;> simp [Memory.wf, h]

@[simp] theorem resumeSeg_wf {s} (h : Memory.wf s = true) (key seg) : Memory.wf (resumeSeg s key seg) = true := by
  unfold resumeSeg
  repeat' split
  all_goals simp [Memory.wf, h]

@[simp] theorem pumpSegs_wf {s} (h : Memory.wf s = true) : Memory.wf (pumpSegs s) = true := by
  refine wf_foldl (fun t x ht => wf_foldl (fun u y hu => ?_) _ ht) _ h
  split
  · exact hu
  · exact resumeSeg_wf hu ..

@[simp] theorem finalise_wf {s} (h : Memory.wf s = true) (key seg) : Memory.wf (finalise s key seg) = true := by
  unfold finalise
  simp only
  repeat' split
  all_goals simp [Memory.wf, h]

@[simp] theorem addSeg_wf {s} (h : Memory.wf s = true) (key seg next payload) :
    Memory.wf (addSeg s key seg next payload) = true := by
  unfold addSeg
  simp only
  repeat' split
  all_goals simp [Memory.wf, h]

@[simp] theorem contributeAt_wf {s} (h : Memory.wf s = true) (p) : Memory.wf (contributeAt s p).1 = true := by
  unfold contributeAt
  dsimp only
  split
  · simp [Memory.wf, h]
  · rename_i g _
    split
    · simp [Memory.wf, h]
    · rename_i segs _
      have hi := wf_of_mem h (initStatus_bytes s g segs)
      generalize initStatus s g segs = r at hi ⊢
      obtain ⟨t, st⟩ := r
      dsimp only
      split
      · exact hi
      · exact wf_foldl (fun _ _ h => addSeg_wf h ..) _ (bump_wf hi _ _)

@[simp] theorem contribute_wf {s} (h : Memory.wf s = true) (p) : Memory.wf (contribute s p).1 = true := by
  have hp := wf_of_mem h (congrArg MemState.bytes (passWindow_mem s p (contribLen s p) .reduce false))
  unfold contribute
  generalize passWindow s p (contribLen s p) .reduce = r at hp ⊢
  obtain ⟨t, _ | va⟩ := r
  · exact hp
  · exact contributeAt_wf hp p

@[simp] theorem contribFreed_wf {s} (h : Memory.wf s = true) (p) : Memory.wf (contribFreed s p) = true := by
  simp [Memory.wf, contribFreed, h]

@[simp] theorem takeContrib_wf {s} (h : Memory.wf s = true) (p) : Memory.wf (takeContrib s p) = true := by
  have hp := wf_of_mem h (congrArg MemState.bytes (passWindow_mem s p (contribLen s p) .reduce false))
  unfold takeContrib
  generalize passWindow s p (contribLen s p) .reduce = r at hp ⊢
  obtain ⟨t, _ | va⟩ := r
  · simpa [Memory.wf] using hp
  · dsimp only
    split
    · rename_i u hu
      simpa [Memory.wf, heldBy_mem hu] using hp
    · exact contribFreed_wf hp p

@[simp] theorem finaliseHeld_wf {s} (h : Memory.wf s = true) (key) : Memory.wf (finaliseHeld s key) = true := by
  unfold finaliseHeld
  split
  · exact h
  · exact wf_foldl (fun _ _ h => finalise_wf h ..) _ h

@[simp] theorem endRound_wf {s} (h : Memory.wf s = true) (key g) : Memory.wf (endRound s key g) = true := by
  simp [Memory.wf, endRound, h]

/-! ### Roce.lean -/

@[simp] theorem performRoceWrite_wf {s} (h : Memory.wf s = true) (qpn p held k) :
    Memory.wf (performRoceWrite s qpn p held k) = true := by
  have hp := wf_of_mem h (writePlace_bytes s qpn p held k)
  unfold performRoceWrite
  generalize writePlace s qpn p held k = r at hp ⊢
  obtain ⟨t, _ | va⟩ := r
  · simpa [Memory.wf] using hp
  · have hw := storeVa_wf hp p.ctx va k.data
    dsimp only at hw ⊢
    repeat' split
    all_goals simpa [Memory.wf] using hw

@[simp] theorem performRoceAtomic_wf {s} (h : Memory.wf s = true) (qpn p held op k) :
    Memory.wf (performRoceAtomic s qpn p held op k) = true := by
  have hp := wf_of_mem h (congrArg MemState.bytes (roceCheck_mem s p held k.rkey k.va 8 .atomic))
  unfold performRoceAtomic
  generalize roceCheck s p held k.rkey k.va 8 .atomic = r at hp ⊢
  obtain ⟨t, _ | va⟩ := r
  · simpa [Memory.wf] using hp
  · have ht : cellsWf 0 t.mem.bytes = true := hp
    dsimp only
    split
    · simp [Memory.wf, ht]
    · generalize (if op = .add then 0x11 else 0x45) = a
      split
      · simp [Memory.wf, ht]
      · generalize leBytes 8 _ = b
        split <;> simp [Memory.wf, ht]

@[simp] theorem performRoce_wf {s} (h : Memory.wf s = true) (qpn p held op k) :
    Memory.wf (performRoce s qpn p held op k) = true := by
  unfold performRoce; split <;> simp [Memory.wf, h]

@[simp] theorem pumpQp_wf {s} (h : Memory.wf s = true) (fuel qpn) : Memory.wf (pumpQp fuel s qpn) = true := by
  induction fuel generalizing s with
  | zero => exact h
  | succ n ih =>
    unfold pumpQp
    split
    · exact h
    · rename_i p _
      split
      · exact h
      · rename_i w ws _
        split
        · simp [Memory.wf, h]
        · split
          · rename_i t ht
            split at ht
            · exact wf_of_mem h (t := t) (congrArg _ (heldBy_mem ht))
            · cases ht
          · exact ih (startCursors_wf (performRoce_wf (s := modQp s qpn _) h ..))

@[simp] theorem pumpRoce_wf {s} (h : Memory.wf s = true) : Memory.wf (pumpRoce s) = true := by
  refine wf_foldl (fun t x ht => ?_) _ h
  split
  · exact ht
  · exact pumpQp_wf ht ..

@[simp] theorem roceDuplicate_wf {s} (h : Memory.wf s = true) (qpn p op k) :
    Memory.wf (roceDuplicate s qpn p op k) = true := by
  unfold roceDuplicate
  simp only
  repeat' split
  all_goals simp [Memory.wf, h]

@[simp] theorem rcRequest_wf {s} (h : Memory.wf s = true) (qpn p op k) :
    Memory.wf (rcRequest s qpn p op k) = true := by
  unfold rcRequest
  simp only
  repeat' split
  all_goals simp [Memory.wf, h]

/-! ### Jobs.lean -/

@[simp] theorem sinkData_wf {s} (h : Memory.wf s = true) (jk n ctx sink data) :
    Memory.wf (sinkData s jk n ctx sink data) = true := by
  unfold sinkData
  simp only
  repeat' split
  all_goals simp [Memory.wf, h]

@[simp] theorem feedPiece_wf {s} (h : Memory.wf s = true) (jk x from_ base data) :
    Memory.wf (feedPiece s jk x from_ base data) = true := by
  unfold feedPiece
  simp only
  repeat' split
  all_goals simp [Memory.wf, h]

@[simp] theorem endFill_wf {s} (h : Memory.wf s = true) (jk n base data) :
    Memory.wf (endFill s jk n base data) = true :=
  wf_foldl (fun _ _ h => wf_foldl (fun _ _ h => feedPiece_wf h ..) _ h) _ (wf_of_mem h (by simp))

/-- Lines expected of memory change nothing in it. -/
theorem expectIfLive_bytes (s : State) (live : Bool) (k ctx jk m : Nat) (names : List Nat) :
    (if live = true then expectLines s k ctx jk m names else s).mem.bytes = s.mem.bytes := by
  split
  · exact expectLines_bytes ..
  · rfl

theorem issueCached_wf {s t} (hs : Memory.wf s = true) {jk j n h sink len} (e : issueCached s jk j n h sink len = some t) :
    Memory.wf t = true := by
  unfold issueCached at e
  extract_lets k from_ got own reach near far need w u expect at e
  have hu : Memory.wf u = true := wf_of_mem hs (by simp [u])
  clear_value u w need far near
  split at e
  · cases e
    exact sinkData_wf hu ..
  · split at e
    · extract_lets first at e
      have hf {t} (e : first = some t) : Memory.wf t = true := by
        obtain ⟨v, hv, rfl⟩ := Option.map_eq_some_iff.mp e
        exact wf_of_mem hs ((expectIfLive_bytes ..).trans (sendPiece_bytes hv))
      split at e
      · obtain ⟨v, hv, rfl⟩ := Option.map_eq_some_iff.mp e
        obtain ⟨x, hx, hv⟩ := Option.bind_eq_some_iff.mp hv
        exact wf_of_mem (hf hx) ((expectIfLive_bytes ..).trans (sendFill_bytes hv))
      · exact hf e
    · cases e
      exact wf_of_mem hs (by simp)

theorem issueRead_wf {s t} (hs : Memory.wf s = true) {jk j n w h sink len}
    (e : issueRead s jk j n w h sink len = some t) : Memory.wf t = true := by
  unfold issueRead at e
  split at e
  · exact issueCached_wf hs e
  · exact wf_of_mem hs (sendPiece_bytes e)

theorem issueStore_wf {s t} (h : Memory.wf s = true) {jk j n dst op data} (e : issueStore s jk j n dst op data = some t) :
    Memory.wf t = true := by
  unfold issueStore at e
  split at e
  · cases e
    simp [Memory.wf, h]
  · obtain ⟨u, hu, rfl⟩ := Option.map_eq_some_iff.mp e
    exact wf_of_mem h ((dropWritten_bytes ..).trans (sendPiece_bytes hu))

theorem issueDrain_wf {s t} (h : Memory.wf s = true) {jk j n dst data} (e : issueDrain s jk j n dst data = some t) :
    Memory.wf t = true := by
  unfold issueDrain at e
  split at e
  · split at e
    · obtain ⟨u, hu, rfl⟩ := Option.map_eq_some_iff.mp e
      have := issueStore_wf h hu
      exact this
    · cases e
  · obtain ⟨u, hu, rfl⟩ := Option.map_eq_some_iff.mp e
    have := issueStore_wf h hu
    simpa [Memory.wf] using this

theorem issuePiece_wf {s t} (h : Memory.wf s = true) {jk j n w} (e : issuePiece s jk j n w = some t) :
    Memory.wf t = true := by
  unfold issuePiece at e
  split at e
  · split at e <;> cases e
    simpa [Memory.wf] using h
  · exact wf_of_mem h (sendPiece_bytes e)
  · dsimp only at e
    split at e <;> cases e <;> simp [Memory.wf, h]
  · exact issueRead_wf h e
  · exact issueRead_wf h e
  · exact issueStore_wf h e
  · split at e
    · cases e
    · exact issueStore_wf h e
  · obtain ⟨u, hu, rfl⟩ := Option.map_eq_some_iff.mp e
    exact wf_of_mem h ((dropWritten_bytes ..).trans (sendPiece_bytes hu))
  · exact issueDrain_wf h e
  · split at e
    · cases e
      simp [Memory.wf, h]
    · exact wf_of_mem h (sendPiece_bytes e)
  · exact wf_of_mem h (sendPiece_bytes e)

@[simp] theorem pumpJob_wf {s} (h : Memory.wf s = true) (fuel jk i) : Memory.wf (pumpJob fuel s jk i) = true := by
  induction fuel generalizing s i with
  | zero => exact h
  | succ n ih =>
    unfold pumpJob
    split
    · exact h
    · split
      · exact h
      · split
        · exact h
        · split
          · exact h
          · split
            · exact ih h _
            · split
              · rename_i t ht
                exact ih (wf_of_mem h (congrArg _ (pieceHeld_mem ht))) _
              · split
                · exact h
                · rename_i t ht
                  exact ih (startCursors_wf (issuePiece_wf h ht)) _

@[simp] theorem finishJob_wf {s} (h : Memory.wf s = true) (jk) : Memory.wf (finishJob s jk) = true := by
  unfold finishJob
  simp only
  repeat' split
  all_goals simp [Memory.wf, h]

@[simp] theorem pumpJobs_wf {s} (h : Memory.wf s = true) : Memory.wf (pumpJobs s) = true :=
  wf_foldl (fun _ _ h => finishJob_wf (pumpJob_wf h ..) _) _ h

@[simp] theorem pumpWork_wf {s} (h : Memory.wf s = true) : Memory.wf (pumpWork s) = true :=
  pumpJobs_wf (pumpEnds_wf (pumpJobs_wf (pumpJobs_wf h)))

@[simp] theorem settle_wf {s} (h : Memory.wf s = true) : Memory.wf (settle s) = true := by
  unfold settle
  split
  · exact h
  · extract_lets t u v w x
    have ht : Memory.wf t = true := wf_of_mem (pumpRoce_wf (wf_of_mem h (by simp))) (pumpRings_bytes _)
    clear_value t
    have hu : Memory.wf u = true := pumpWork_wf (pumpSegs_wf (sendWindows_wf (startCursors_wf ht)))
    clear_value u
    have hw : Memory.wf w = true := wf_of_mem hu (by simp [w, v])
    clear_value w
    have hx : Memory.wf x = true := pumpFlags_wf hw
    clear_value x
    exact wf_of_mem hx (by simp)

@[simp] theorem jobAnswer_wf {s} (h : Memory.wf s = true) (jk n status detail r data) :
    Memory.wf (jobAnswer s jk n status detail r data) = true := by
  unfold jobAnswer
  simp only
  repeat' split
  all_goals simp [Memory.wf, h]

@[simp] theorem finalReq_wf {s} (h : Memory.wf s = true) (key r status detail data) :
    Memory.wf (finalReq s key r status detail data) = true := by
  have hd : Memory.wf (dropReq s key r) = true := h
  unfold finalReq
  dsimp only
  split
  · exact jobAnswer_wf hd ..
  · simpa [Memory.wf] using hd
  · simpa [Memory.wf] using hd
  · split
    · split
      · split
        · exact runAll_wf (wf_of_mem hd (failFound_bytes ..))
        · exact hd
      · exact hd
    · exact hd
  all_goals exact hd

/-! ### Huddles.lean -/

@[simp] theorem childArrive_wf {s} (h : Memory.wf s = true) (p) : Memory.wf (childArrive s p) = true := by
  unfold childArrive
  split
  · exact wf_of_mem h (by simp)
  · extract_lets key
    split
    · exact wf_of_mem h (by simp)
    · dsimp only
      split
      · exact wf_of_mem h (by simp)
      · split
        · exact wf_of_mem h (by simp)
        · split
          · exact runAll_wf (wf_of_mem h (by simp))
          · split <;> exact wf_of_mem h (by simp)

@[simp] theorem takeRelease_wf {s} (h : Memory.wf s = true) (p) : Memory.wf (takeRelease s p) = true := by
  unfold takeRelease
  split
  · exact wf_of_mem h (by simp)
  · extract_lets key failed status status' t
    have ht : Memory.wf t = true := wf_of_mem h (by simp [t])
    clear_value status' t
    split
    · exact wf_of_mem h (by simp)
    · extract_lets current
      split
      · split
        · split
          · exact wf_of_mem ht (by simp)
          · exact runAll_wf (wf_of_mem ht (by simp))
        · split
          · exact runAll_wf (wf_of_mem h (by simp))
          · exact wf_of_mem h (by simp)
      · split
        · split
          · exact runAll_wf (wf_of_mem h (by simp))
          · exact wf_of_mem h (by simp)
        · exact wf_of_mem h (by simp)

/-! ### Aborts.lean -/

@[simp] theorem abortCaddie_wf {s} (h : Memory.wf s = true) (key status) :
    Memory.wf (abortCaddie s key status) = true := by
  unfold abortCaddie
  split
  · exact h
  · exact wf_foldl (fun _ _ h => failEntry_wf h ..) _ (wf_of_mem h (failCaddie_bytes ..))

@[simp] theorem abortOwner_wf {s} (h : Memory.wf s = true) (owner) : Memory.wf (abortOwner s owner) = true := by
  unfold abortOwner; split <;> simp [Memory.wf, h]

/-! ### Spaces.lean -/

@[simp] theorem abortRange_wf {s} (h : Memory.wf s = true) (ctx va len) :
    Memory.wf (abortRange s ctx va len).1 = true :=
  wf_foldl (fun _ _ h => abortOwner_wf h _) _ (s := endResv s ctx va len Code.aborted) h

@[simp] theorem cutPages_wf {s} (h : Memory.wf s = true) (fk f) : Memory.wf (cutPages s fk f) = true := by
  unfold cutPages
  simp only
  repeat' split
  all_goals simp [Memory.wf, h]

@[simp] theorem applyUnmap_wf {s} (h : Memory.wf s = true) (fk f) : Memory.wf (applyUnmap s fk f) = true := by
  unfold applyUnmap
  simp only
  repeat' split
  all_goals simp [Memory.wf, h]

@[simp] theorem applyMapWait_wf {s} (h : Memory.wf s = true) (w) : Memory.wf (applyMapWait s w) = true := by
  unfold applyMapWait
  repeat' split
  all_goals simp [Memory.wf, h]

@[simp] theorem runMaps_wf {s} (h : Memory.wf s = true) (fuel ctx) : Memory.wf (runMaps fuel s ctx) = true := by
  induction fuel generalizing s with
  | zero => exact h
  | succ n ih =>
    unfold runMaps
    split
    · exact h
    · split
      · exact h
      · exact ih (applyMapWait_wf (by exact h) _)

@[simp] theorem zeroScratch_wf {s} (h : Memory.wf s = true) (es) : Memory.wf (zeroScratch s es) = true := by
  refine wf_foldl (fun t e ht => ?_) _ h
  split
  · exact cellsWf_zeroRun ht ..
  · exact ht

@[simp] theorem releaseUnmap_wf {s} (h : Memory.wf s = true) (u) : Memory.wf (releaseUnmap s u) = true := by
  simp [Memory.wf, releaseUnmap, h]

/-! ### Queues.lean -/

@[simp] theorem completeFlight_wf {s} (h : Memory.wf s = true) (fk f status detail) :
    Memory.wf (completeFlight s fk f status detail) = true := by
  unfold completeFlight
  repeat' split
  all_goals simp [Memory.wf, h]

@[simp] theorem completeFinal_wf {s} (h : Memory.wf s = true) (ctx queue) :
    Memory.wf (completeFinal s ctx queue) = true := by
  refine wf_foldl (fun t p ht => ?_) _ h
  split
  · split
    · exact completeFlight_wf ht ..
    · exact ht
  · exact ht

@[simp] theorem resumeQueue_wf {s} (h : Memory.wf s = true) (ctx queue discard) :
    Memory.wf (resumeQueue s ctx queue discard) = true := by
  unfold resumeQueue
  simp only
  repeat' split
  all_goals simp [Memory.wf, h]

/-! ### StepEngine.lean -/

@[simp] theorem dropApplies_wf {s} (h : Memory.wf s = true) (key st) : Memory.wf (dropApplies s key st) = true := by
  unfold dropApplies; split <;> simp [Memory.wf, h]

@[simp] theorem applyEnds_wf {s} (h : Memory.wf s = true) (ctx status) :
    Memory.wf (applyEnds s ctx status) = true := by
  unfold applyEnds
  dsimp only
  split
  · exact h
  · split
    · exact runAll_wf (wf_of_mem h (abortOpen_bytes ..))
    · split
      · exact runAll_wf (wf_of_mem h (congrArg MemState.bytes (allApplied_mem ..)))
      · exact h

/-! ### Arenas.lean -/

@[simp] theorem adoptDir_wf {s} (h : Memory.wf s = true) (key fuel tile a n) :
    Memory.wf (adoptDir key fuel tile s a n).1 = true := by
  induction fuel generalizing s tile a n with
  | zero => exact h
  | succ m ih =>
    have hr := wf_of_mem h (readDir_bytes s key a tile)
    unfold adoptDir
    generalize readDir s key a tile = r at hr ⊢
    obtain ⟨t, _ | e⟩ := r
    · exact hr
    · dsimp only
      split
      · exact ih hr ..
      · split
        · exact ih hr ..
        · have hw := writeDir_wf hr key a tile { e with valid := false }
          generalize writeDir t key a tile _ = q at hw ⊢
          obtain ⟨u, st⟩ := q
          dsimp only
          split
          · exact ih hw ..
          · exact hw

@[simp] theorem blankDir_wf {s} (h : Memory.wf s = true) (key a) : Memory.wf (blankDir s key a).1 = true := by
  unfold blankDir
  simp only
  repeat' split
  all_goals simp [Memory.wf, h]

@[simp] theorem layArena_wf {s} (h : Memory.wf s = true) (key a) : Memory.wf (layArena s key a).1 = true := by
  unfold layArena
  simp only
  repeat' split
  all_goals simp [Memory.wf, h]

@[simp] theorem overflowHit_wf {s} (h : Memory.wf s = true) (q) : Memory.wf (overflowHit s q) = true := by
  unfold overflowHit
  simp only
  repeat' split
  all_goals simp [Memory.wf, h]

/-! ### CaddieUnit.lean -/

@[simp] theorem packBack_wf {s} (h : Memory.wf s = true) (key c e o k) :
    Memory.wf (packBack s key c e o k).1 = true := by
  unfold packBack
  extract_lets size r ask t
  have hr : Memory.wf r.st = true := wf_of_mem h (readVa_bytes ..)
  have ht : Memory.wf t.1 = true := wf_of_mem hr (by simp [t])
  clear_value t ask r
  split
  · exact hr
  · split
    · exact ht
    · split
      · exact ht
      · have hp := placeTile_wf ht (arenaKey c.ctx e.srcArena) (e.srcTile + k) t.2.1 t.2.2
        generalize placeTile t.1 _ _ _ _ = q at hp ⊢
        obtain ⟨u, _ | _⟩ := q
        · exact hp
        · exact wf_of_mem hp (by simp)

@[simp] theorem writeBack_wf {s} (h : Memory.wf s = true) (key c slot o) :
    Memory.wf (writeBack s key c slot o).1 = true := by
  unfold writeBack
  extract_lets e r
  have hr : Memory.wf r.1 = true := by
    refine wf_foldl_fst (fun q k hq => ?_) _ h
    split
    · exact packBack_wf hq ..
    · exact hq
  clear_value r
  split <;> exact hr

@[simp] theorem performHeld_wf {s} (h : Memory.wf s = true) (x) : Memory.wf (performHeld s x) = true := by
  unfold performHeld
  split
  · split
    · exact contribFreed_wf h _
    · exact performAt_wf h ..
  · exact pumpQp_wf h ..
  · rename_i jk n _
    split
    · exact h
    · rename_i j _
      split
      · exact h
      · split
        · exact h
        · rename_i w _
          split
          · exact h
          · split
            · rename_i t ht
              exact wf_of_mem h (congrArg MemState.bytes (pieceHeld_mem ht))
            · cases e : issuePiece s jk j n w with
              | none => exact h
              | some t => exact issuePiece_wf h e
  · exact resumeSeg_wf h ..
  · exact memoryApply_wf h _
  · exact h

@[simp] theorem performFreed_wf {s} (h : Memory.wf s = true) (fuel) : Memory.wf (performFreed fuel s) = true := by
  induction fuel generalizing s with
  | zero => exact h
  | succ n ih =>
    unfold performFreed
    split
    · exact h
    · exact ih (startCursors_wf (performHeld_wf (by exact h) _))

@[simp] theorem freeHeld_wf {s} (h : Memory.wf s = true) : Memory.wf (freeHeld s) = true := by
  simp [Memory.wf, freeHeld, h]

@[simp] theorem fillSlot_wf {s} (h : Memory.wf s = true) (key c e x a fuel unit left hs) :
    Memory.wf (fillSlot key c e x a fuel s unit left hs).1 = true := by
  induction fuel generalizing s unit left hs with
  | zero => exact h
  | succ n ih =>
    unfold fillSlot
    split
    · exact h
    · rename_i k _
      have hr := wf_of_mem h (readTile_bytes s a (x.dirs.getD k {}) c.quarter ((pewterUnit s c.quarter).getD unit))
      dsimp only
      generalize readTile s a _ _ _ = r at hr ⊢
      obtain ⟨t, _ | y⟩ := r
      · exact hr
      · have ht : cellsWf 0 t.mem.bytes = true := hr
        dsimp only
        split
        · simp [Memory.wf, ht]
        · exact ih (freeHeld_wf (by simp [Memory.wf, ht])) ..

@[simp] theorem moveSet_wf {s} (h : Memory.wf s = true) (c e a k l) : Memory.wf (moveSet c e a s k l).1 = true := by
  induction l generalizing s k with
  | nil => exact h
  | cons d l ih =>
    have hr := wf_of_mem h (readRunOf_bytes s a d)
    unfold moveSet
    generalize readRunOf s a d = r at hr ⊢
    obtain ⟨t, _ | ⟨y, payload⟩⟩ := r
    · exact hr
    · have hp := placeTile_wf hr (arenaKey c.ctx (bits e.dest 0 8)) (bits e.dest 8 24 + k) y payload
      dsimp only at hp ⊢
      generalize placeTile t _ _ y payload = q at hp ⊢
      obtain ⟨u, _ | _⟩ := q
      · exact hp
      · exact ih (s := bumpBy u _ _ _) hp _

@[simp] theorem landFlag_wf {s} (h : Memory.wf s = true) (key c e) : Memory.wf (landFlag s key c e) = true := by
  unfold landFlag
  simp only
  repeat' split
  all_goals simp [Memory.wf, h]

@[simp] theorem landEntry_wf {s} (h : Memory.wf s = true) (key c e x hs) :
    Memory.wf (landEntry s key c e x hs) = true := by
  unfold landEntry
  extract_lets t y o u
  have hu : Memory.wf u = true := dropEntry_wf h ..
  clear_value u
  exact wf_of_mem (landFlag_wf (freeHeld_wf hu) key c e) (by rw [closeCaddie_mem, wakeLanded_mem])

@[simp] theorem landSlot_wf {s} (h : Memory.wf s = true) (key c e x a unit) :
    Memory.wf (landSlot s key c e x a unit).1 = true := by
  unfold landSlot
  simp only
  repeat' split
  all_goals simp [Memory.wf, h]

theorem landSteps_wf {s t} (h : Memory.wf s = true) {key c e x st l} (heq : landSteps s key c e x = some (t, st, l)) :
    Memory.wf t = true := by
  unfold landSteps at heq
  split at heq
  · cases heq
    exact h
  · rename_i a _
    split at heq
    · cases heq
      exact h
    · split at heq
      · split at heq
        · cases heq
        · split at heq
          · cases heq
          · split at heq <;> cases heq <;> exact h
      · split at heq
        · cases heq
        · rename_i u _
          split at heq
          · have hl := landSlot_wf h key c e x a u
            rw [Option.some.inj heq] at hl
            exact hl
          · cases heq
            exact moveSet_wf h ..

/-! ### Scrum.lean -/

@[simp] theorem releaseHeld_wf {s} (h : Memory.wf s = true) (c) : Memory.wf (releaseHeld s c) = true := by
  unfold releaseHeld
  repeat' split
  all_goals simp [Memory.wf, h]

/-! ### Sessions.lean -/

theorem guarded_wf {k : State → State × Answer} {s} (h : Memory.wf s = true) (hk : Memory.wf (k s).1 = true)
    (w idx sub v) : Memory.wf (guarded s w idx sub v k).1 = true := by
  unfold guarded
  dsimp only
  split
  · exact hk
  · exact h

theorem guardedBlock_wf {k : State → State × Answer} {s} (h : Memory.wf s = true) (hk : Memory.wf (k s).1 = true)
    (via w idx sub) : Memory.wf (guardedBlock s via w idx sub k).1 = true := by
  unfold guardedBlock
  split
  · exact h
  · exact guarded_wf h hk ..

/-! ### Contexts.lean -/

@[simp] theorem retireCaddie_wf {s} (h : Memory.wf s = true) (key c) : Memory.wf (retireCaddie s key c) = true := by
  unfold retireCaddie
  extract_lets t u
  have hu : Memory.wf u = true := wf_foldl (fun _ _ h => bump_wf (dropEntry_wf h ..) _ _) _ h
  clear_value u
  exact wf_of_mem hu (by simp)

@[simp] theorem dropCaddie_wf {s} (h : Memory.wf s = true) (c) : Memory.wf (dropCaddie s c) = true :=
  wf_foldl (fun _ _ h => retireCaddie_wf h ..) _ h

@[simp] theorem failRounds_wf {s} (h : Memory.wf s = true) (c) : Memory.wf (failRounds s c) = true :=
  wf_foldl (fun _ _ h => runAll_wf (wf_of_mem h (failFound_bytes ..))) _ h

@[simp] theorem stopContext_wf {s} (h : Memory.wf s = true) (c again) :
    Memory.wf (stopContext s c again) = true := by
  simp [Memory.wf, stopContext, h]

@[simp] theorem teardown_wf {s} (h : Memory.wf s = true) (c again) : Memory.wf (teardown s c again).1 = true := by
  unfold teardown; split <;> simp [Memory.wf, h]

@[simp] theorem control_wf {s} (h : Memory.wf s = true) (c v) : Memory.wf (control s c v).1 = true := by
  unfold control; split <;> simp [Memory.wf, h]

theorem guardedCtx_wf {k : State → State × Answer} {s} (h : Memory.wf s = true) (hk : Memory.wf (k s).1 = true)
    (w c sub v) : Memory.wf (guardedCtx s w c sub v k).1 = true := by
  unfold guardedCtx
  split
  · exact h
  · exact guarded_wf h hk ..

@[simp] theorem abandonFlights_wf {s} (h : Memory.wf s = true) (c) : Memory.wf (abandonFlights s c) = true := by
  refine wf_foldl (fun t x ht => ?_) _ (by simpa [Memory.wf] using h)
  split
  · exact ht
  · split <;> exact completeFlight_wf ht ..

@[simp] theorem freePages_wf {s} (h : Memory.wf s = true) (c) : Memory.wf (freePages s c) = true := by
  refine wf_foldl (fun t e ht => ?_) _ h
  split
  · exact cellsWf_zeroRun ht ..
  · exact ht

@[simp] theorem resumeByDict_wf {s} (h : Memory.wf s = true) (c queue) :
    Memory.wf (resumeByDict s c queue).1 = true := by
  unfold resumeByDict
  simp only
  repeat' split
  all_goals simp [Memory.wf, h]

/-! ### Recovery.lean -/

@[simp] theorem failRequests_wf {s} (h : Memory.wf s = true) (n) : Memory.wf (failRequests s n) = true := by
  refine wf_foldl (fun t x ht => ?_) _ h
  split
  · exact finalReq_wf ht ..
  · exact ht

@[simp] theorem failNodeRounds_wf {s} (h : Memory.wf s = true) (n) : Memory.wf (failNodeRounds s n) = true := by
  refine wf_foldl (fun t x ht => ?_) _ h
  split
  · exact runAll_wf (wf_of_mem ht (failFound_bytes ..))
  · exact ht

@[simp] theorem fenceEffects_wf {s} (h : Memory.wf s = true) (n) : Memory.wf (fenceEffects s n) = true := by
  simp [Memory.wf, fenceEffects, h]

@[simp] theorem applyFence_wf {s} (h : Memory.wf s = true) (n inc cause origin ft from_) :
    Memory.wf (applyFence s n inc cause origin ft from_) = true := by
  unfold applyFence
  split
  · exact h
  · dsimp only
    rw [Memory.wf, floodLocal_mem, bump_mem]
    refine wf_foldl (fun _ _ h => fenceEffects_wf h _) _ (wf_foldl (fun _ _ h => ?_) _ h)
    exact wf_of_mem h (by simp)

@[simp] theorem decideFence_wf {s} (h : Memory.wf s = true) (n cause) :
    Memory.wf (decideFence s n cause) = true := by
  simp [Memory.wf, decideFence, h]

@[simp] theorem resetContexts_wf {s} (h : Memory.wf s = true) : Memory.wf (resetContexts s) = true :=
  wf_foldl (fun _ _ h => teardown_wf h ..) _ h

@[simp] theorem selfFence_wf {s} (h : Memory.wf s = true) : Memory.wf (selfFence s) = true := by
  simp [Memory.wf, selfFence, h]

@[simp] theorem fenceByDict_wf {s} (h : Memory.wf s = true) (n) : Memory.wf (fenceByDict s n).1 = true := by
  unfold fenceByDict; split <;> simp [Memory.wf, h]

@[simp] theorem declareLost_wf {s} (h : Memory.wf s = true) (n cause) :
    Memory.wf (declareLost s n cause) = true := by
  unfold declareLost
  simp only
  repeat' split
  all_goals simp [Memory.wf, h]

@[simp] theorem linkDown_wf {s} (h : Memory.wf s = true) (port) : Memory.wf (linkDown s port) = true := by
  unfold linkDown
  simp only
  repeat' split
  all_goals simp [Memory.wf, h]

@[simp] theorem peerReport_wf {s} (h : Memory.wf s = true) (fenced valid r) :
    Memory.wf (peerReport s fenced valid r) = true := by
  unfold peerReport
  repeat' split
  all_goals simp [Memory.wf, h]

@[simp] theorem abandonAll_wf {s} (h : Memory.wf s = true) : Memory.wf (abandonAll s) = true := by
  refine wf_foldl (fun t x ht => ?_) _ ?_
  · split
    · exact ht
    · split <;> exact completeFlight_wf ht ..
  · exact wf_of_mem h (congrArg MemState.bytes (mem_foldl (fun _ _ => dropReq_mem ..) _ _))

/-! ### Links.lean -/

@[simp] theorem leaveActive_wf {s} (h : Memory.wf s = true) (n) : Memory.wf (leaveActive s n) = true := by
  simp [Memory.wf, leaveActive, h]

@[simp] theorem disablePort_wf {s} (h : Memory.wf s = true) (n) : Memory.wf (disablePort s n) = true := by
  unfold disablePort; split <;> simp [Memory.wf, h]

@[simp] theorem enterRecover_wf {s} (h : Memory.wf s = true) (n own) : Memory.wf (enterRecover s n own) = true := by
  unfold enterRecover
  extract_lets l word t u
  have ht : Memory.wf t = true := by
    simp only [t]
    split
    · exact wf_of_mem h (congrArg _ (mem_foldl (fun _ _ => by rw [modLane_mem, send_mem]) _ _))
    · exact h
  clear_value t
  have hu : Memory.wf u = true :=
    wf_of_mem (leaveActive_wf (s := setReg t (0x3000 + n) 0x01 stRecover) ht n) (by simp [u])
  clear_value u
  exact hu

/-! ### Power.lean -/

@[simp] theorem resetBase_wf (s warm inc) : Memory.wf (resetBase s warm inc) = true := rfl

@[simp] theorem resetPart_wf (s warm code) : Memory.wf (resetPart s warm code) = true := by
  unfold resetPart
  extract_lets again warm' code' inc t u
  have ht : Memory.wf t = true := wf_of_mem (resetBase_wf s warm' inc) (by rw [takePending_mem])
  clear_value t
  exact wf_of_mem ht (by simp [u])

@[simp] theorem resetByDict_wf (s) : Memory.wf (resetByDict s).1 = true := by
  simp [Memory.wf, resetByDict]

@[simp] theorem quietPorts_wf {s} (h : Memory.wf s = true) : Memory.wf (quietPorts s) = true := by
  unfold quietPorts
  generalize List.range 64 = l
  generalize List.range 8 = l'
  refine wf_foldl (fun t e ht => ?_) _ (wf_foldl (fun _ _ h => disablePort_wf h _) _ h)
  split
  · exact wf_of_mem ht (by simp)
  · exact ht

@[simp] theorem shutQuarter_wf {s} (h : Memory.wf s = true) (q) : Memory.wf (shutQuarter s q) = true := by
  simp [Memory.wf, shutQuarter, h]

/-! ### DictWrites.lean -/

@[simp] theorem writeDirection_wf {s} (h : Memory.wf s = true) (n v) : Memory.wf (writeDirection s n v) = true := by
  unfold writeDirection; split <;> simp [Memory.wf, h]

@[simp] theorem writeCtxNumber_wf {s} (h : Memory.wf s = true) (c sub v) :
    Memory.wf (writeCtxNumber s c sub v).1 = true := by
  unfold writeCtxNumber; split <;> simp [Memory.wf, h]

@[simp] theorem writeNumber_wf {s} (h : Memory.wf s = true) (idx sub v) :
    Memory.wf (writeNumber s idx sub v).1 = true := by
  unfold writeNumber
  simp only
  repeat' split
  all_goals simp [Memory.wf, h]

@[simp] theorem acceptWrite_wf {s} (h : Memory.wf s = true) (w e idx sub group b) :
    Memory.wf (acceptWrite s w e idx sub group b).1 = true := by
  unfold acceptWrite
  repeat' split
  all_goals simp [Memory.wf, h]

@[simp] theorem dictWrite_wf {s} (h : Memory.wf s = true) (via w idx sub group offset last b) :
    Memory.wf (dictWrite s via w idx sub group offset last b).1 = true := by
  unfold dictWrite
  split
  · exact h
  · split
    · exact h
    · split
      · exact wf_of_mem h (writeDomain_bytes ..)
      · split
        · exact h
        · exact guarded_wf h (acceptWrite_wf h ..) ..

/-! ### Replies.lean -/

@[simp] theorem takeFinal_wf {s} (h : Memory.wf s = true) (p key r status detail data) :
    Memory.wf (takeFinal s p key r status detail data) = true := by
  simp [Memory.wf, takeFinal, h]

@[simp] theorem badReply_wf {s} (h : Memory.wf s = true) (p) : Memory.wf (badReply s p) = true := by
  unfold badReply; split <;> simp [Memory.wf, h]

@[simp] theorem ackRun_wf {s} (h : Memory.wf s = true) (p detail) : Memory.wf (ackRun s p detail) = true := by
  refine wf_foldl (fun t back ht => ?_) _ h
  split
  · split
    · exact takeFinal_wf ht ..
    · exact ht
  · exact ht

@[simp] theorem valueReply_wf {s} (h : Memory.wf s = true) (p answers status detail data) :
    Memory.wf (valueReply s p answers status detail data) = true := by
  unfold valueReply
  split
  · split
    · exact takeFinal_wf h ..
    · exact h
  · exact h

end Sys2Proof.Machine
end

section
/-! PROOFS. Canonical form through every command (O4). A command is operations that keep the form, behind the
checks of its arrival, its descriptor or its session. -/

namespace Sys2Proof.Machine

/-- An outcome that goes on leaves the bytes of memory in canonical form. -/
def Canonical : Out → Prop
  | .next s => Memory.wf s = true
  | .fault _ => True
  | .refused _ => True

@[simp] theorem canonical_next (s : State) : Canonical (.next s) ↔ Memory.wf s = true := Iff.rfl

@[simp] theorem canonical_fault (r : Fault) : Canonical (.fault r) := trivial

@[simp] theorem canonical_refused (r : Refusal) : Canonical (.refused r) := trivial

/-! ### Guarded.lean -/

theorem heldBy_wf {s t : State} (h : Memory.wf s = true) {w ctx rs} (e : heldBy s w ctx rs = some t) :
    Memory.wf t = true := wf_of_mem h (congrArg MemState.bytes (heldBy_mem e))

/-! ### Descs.lean -/

@[simp] theorem doneWith_canonical {s} (h : Memory.wf s = true) (fk status detail) :
    Canonical (doneWith s fk status detail) :=
  settle_wf (s := finish s fk status detail) h

@[simp] theorem failWith_canonical {s} (h : Memory.wf s = true) (fk x) : Canonical (failWith s fk x) := by
  unfold failWith
  exact doneWith_canonical (by split; exacts [bump_wf h _ _, h]) ..

theorem withDesc_canonical {s} (h : Memory.wf s = true) {d op} {k : State → Nat → Flight → Out}
    (hk : ∀ s fk f, Memory.wf s = true → Canonical (k s fk f)) : Canonical (withDesc s d op k) := by
  unfold withDesc
  split
  · exact h
  · split
    · exact h
    · split
      · exact doneWith_canonical (bump_wf h _ _) ..
      · refine hk _ _ _ ?_
        split
        · exact wf_of_mem h (acquire_bytes ..)
        · exact h

/-! ### Time.lean -/

theorem execFtTickFireTee_canonical {s} (h : Memory.wf s = true) (n) : Canonical (execFtTickFireTee n s) := by
  simp [Memory.wf, execFtTickFireTee, h]

theorem execBeaconSend_canonical {s} (h : Memory.wf s = true) (port) : Canonical (execBeaconSend port s) := by
  unfold execBeaconSend
  dsimp only
  repeat' split
  all_goals simp [Memory.wf, h]

theorem execTimeBeacon_canonical {s} (h : Memory.wf s = true) (port p) : Canonical (execTimeBeacon port p s) := by
  unfold execTimeBeacon
  dsimp only
  repeat' split
  all_goals simp [Memory.wf, h]

theorem execFtLockReached_canonical {s} (h : Memory.wf s = true) : Canonical (execFtLockReached s) := by
  unfold execFtLockReached
  dsimp only
  repeat' split
  all_goals simp [Memory.wf, h]

theorem execFtOffsetLimitExceeded_canonical {s} (h : Memory.wf s = true) :
    Canonical (execFtOffsetLimitExceeded s) := by
  unfold execFtOffsetLimitExceeded
  split <;> simp [Memory.wf, h]

theorem execParentLost_canonical {s} (h : Memory.wf s = true) : Canonical (execParentLost s) := by
  unfold execParentLost
  repeat' split
  all_goals simp [Memory.wf, h]

theorem execHoldoverHuddleLimit_canonical {s} (h : Memory.wf s = true) : Canonical (execHoldoverHuddleLimit s) := by
  unfold execHoldoverHuddleLimit
  split <;> simp [Memory.wf, h]

theorem execAnnounceSend_canonical {s} (h : Memory.wf s = true) : Canonical (execAnnounceSend s) := by
  unfold execAnnounceSend
  split <;> simp [Memory.wf, h]

theorem execTimeAnnounce_canonical {s} (h : Memory.wf s = true) (port p) :
    Canonical (execTimeAnnounce port p s) := by
  unfold execTimeAnnounce
  dsimp only
  repeat' split
  all_goals simp [Memory.wf, h]

theorem execTaiStepMaster_canonical {s} (h : Memory.wf s = true) : Canonical (execTaiStepMaster s) := by
  unfold execTaiStepMaster
  dsimp only
  repeat' split
  all_goals simp [Memory.wf, h]

theorem execExternalLockGained_canonical {s} (h : Memory.wf s = true) : Canonical (execExternalLockGained s) := by
  unfold execExternalLockGained
  dsimp only
  repeat' split
  all_goals simp [Memory.wf, h]

theorem execPpsEdge_canonical {s} (h : Memory.wf s = true) : Canonical (execPpsEdge s) := by
  unfold execPpsEdge
  dsimp only
  repeat' split
  all_goals simp [Memory.wf, h]

theorem execArmTee_canonical {s} (h : Memory.wf s = true) (d) : Canonical (execArmTee d s) := by
  refine withDesc_canonical h fun s fk f h => ?_
  dsimp only
  repeat' split
  all_goals simp [Memory.wf, h]

theorem execDisarmTee_canonical {s} (h : Memory.wf s = true) (d) : Canonical (execDisarmTee d s) := by
  refine withDesc_canonical h fun s fk f h => ?_
  dsimp only
  repeat' split
  all_goals simp [Memory.wf, h]

/-! ### Huddles.lean -/

theorem execHuddleArm_canonical {s} (h : Memory.wf s = true) (d) : Canonical (execHuddleArm d s) := by
  refine withDesc_canonical h fun s fk f h => ?_
  dsimp only
  repeat' split
  all_goals simp [Memory.wf, h]

theorem execHuddleArrive_canonical {s} (h : Memory.wf s = true) (d) : Canonical (execHuddleArrive d s) := by
  unfold execHuddleArrive
  dsimp only
  repeat' split
  all_goals simp [Memory.wf, h]

theorem execHuddleArrivePacket_canonical {s} (h : Memory.wf s = true) (p) :
    Canonical (execHuddleArrivePacket p s) := by
  have ha := wf_of_mem h (arrival_bytes s none p)
  unfold execHuddleArrivePacket
  generalize arrival s none p = a at ha ⊢
  rcases a with t | t | t | t
  · exact settle_wf ha
  · exact settle_wf (childArrive_wf ha p)
  · exact settle_wf (wf_of_mem ha (by simp [Arrived.st]))
  · exact settle_wf ha

theorem execHuddleRelease_canonical {s} (h : Memory.wf s = true) (p) : Canonical (execHuddleRelease p s) := by
  have ha := wf_of_mem h (arrival_bytes s none p)
  unfold execHuddleRelease
  generalize arrival s none p = a at ha ⊢
  rcases a with t | t | t | t
  · exact settle_wf ha
  · exact settle_wf (takeRelease_wf ha p)
  · exact settle_wf (wf_of_mem ha (by simp [Arrived.st]))
  · exact settle_wf ha

theorem execHuddleRootTimeout_canonical {s} (h : Memory.wf s = true) (ctx no) :
    Canonical (execHuddleRootTimeout ctx no s) := by
  unfold execHuddleRootTimeout
  repeat' split
  all_goals simp [Memory.wf, h]

theorem execHuddleReleaseTimeout_canonical {s} (h : Memory.wf s = true) (ctx no) :
    Canonical (execHuddleReleaseTimeout ctx no s) := by
  unfold execHuddleReleaseTimeout
  repeat' split
  all_goals simp [Memory.wf, h]

/-! ### Spaces.lean -/

theorem execMap_canonical {s} (h : Memory.wf s = true) (d) : Canonical (execMap d s) := by
  refine withDesc_canonical h fun s fk f h => ?_
  repeat' split
  all_goals simp [Memory.wf, h]

theorem execUnmap_canonical {s} (h : Memory.wf s = true) (d) : Canonical (execUnmap d s) := by
  refine withDesc_canonical h fun s fk f h => ?_
  repeat' split
  all_goals simp [Memory.wf, h]

theorem execUnmapDrainEnd_canonical {s} (h : Memory.wf s = true) (d) : Canonical (execUnmapDrainEnd d s) := by
  unfold execUnmapDrainEnd
  repeat' split
  all_goals simp [Memory.wf, h]

theorem execUnmapWaitLimit_canonical {s} (h : Memory.wf s = true) (d) : Canonical (execUnmapWaitLimit d s) := by
  unfold execUnmapWaitLimit
  dsimp only
  repeat' split
  all_goals simp [Memory.wf, h]

theorem execWalkComplete_canonical {s} (h : Memory.wf s = true) (quarter) :
    Canonical (execWalkComplete quarter s) := by
  unfold execWalkComplete
  dsimp only
  repeat' split
  all_goals simp [Memory.wf, h]

theorem execOpenWindow_canonical {s} (h : Memory.wf s = true) (d) : Canonical (execOpenWindow d s) := by
  refine withDesc_canonical h fun s fk f h => ?_
  dsimp only
  repeat' split
  all_goals simp [Memory.wf, h]

theorem execCloseWindow_canonical {s} (h : Memory.wf s = true) (d) : Canonical (execCloseWindow d s) := by
  refine withDesc_canonical h fun s fk f h => ?_
  dsimp only
  repeat' split
  all_goals simp [Memory.wf, h]

theorem execReservationExpire_canonical {s} (h : Memory.wf s = true) (quarter id) :
    Canonical (execReservationExpire quarter id s) := by
  unfold execReservationExpire
  dsimp only
  repeat' split
  all_goals simp [Memory.wf, h]

/-! ### Queues.lean -/

theorem execDescriptorComplete_canonical {s} (h : Memory.wf s = true) (d) :
    Canonical (execDescriptorComplete d s) := by
  unfold execDescriptorComplete
  repeat' split
  all_goals simp [Memory.wf, h]

theorem execDescriptorDispatch_canonical {s} (h : Memory.wf s = true) (quarter ctx queue) :
    Canonical (execDescriptorDispatch quarter ctx queue s) := by
  unfold execDescriptorDispatch
  dsimp only
  repeat' split
  all_goals simp [Memory.wf, h]

theorem execNop_canonical {s} (h : Memory.wf s = true) (d) : Canonical (execNop d s) := by
  unfold execNop
  split <;> simp [Memory.wf, h]

theorem execWaitFlag_canonical {s} (h : Memory.wf s = true) (d) : Canonical (execWaitFlag d s) := by
  refine withDesc_canonical h fun s fk f h => ?_
  dsimp only
  split
  · exact doneWith_canonical h ..
  · split
    · exact failWith_canonical h ..
    · split
      · exact doneWith_canonical h ..
      · split
        · exact heldBy_wf h ‹_›
        · exact settle_wf (wf_of_mem h (by simp))

theorem execWaitFlagTimeout_canonical {s} (h : Memory.wf s = true) (d) : Canonical (execWaitFlagTimeout d s) := by
  unfold execWaitFlagTimeout
  dsimp only
  repeat' split
  all_goals simp [Memory.wf, h]

theorem execWhistle_canonical {s} (h : Memory.wf s = true) (d) : Canonical (execWhistle d s) := by
  refine withDesc_canonical h fun s fk f h => ?_
  dsimp only
  repeat' split
  all_goals simp [Memory.wf, h]

theorem execOpenRing_canonical {s} (h : Memory.wf s = true) (d) : Canonical (execOpenRing d s) := by
  refine withDesc_canonical h fun s fk f h => ?_
  dsimp only
  repeat' split
  all_goals simp [Memory.wf, h]

theorem execCloseRing_canonical {s} (h : Memory.wf s = true) (d) : Canonical (execCloseRing d s) := by
  refine withDesc_canonical h fun s fk f h => ?_
  dsimp only
  repeat' split
  all_goals simp [Memory.wf, h]

theorem execCoalesceTimeout_canonical {s} (h : Memory.wf s = true) (ctx ring queue) :
    Canonical (execCoalesceTimeout ctx ring queue s) := by
  unfold execCoalesceTimeout
  repeat' split
  all_goals simp [Memory.wf, h]

theorem execRingHeadReread_canonical {s} (h : Memory.wf s = true) (ctx ring) :
    Canonical (execRingHeadReread ctx ring s) := by
  unfold execRingHeadReread
  repeat' split
  all_goals simp [Memory.wf, h]

theorem execOpenQueue_canonical {s} (h : Memory.wf s = true) (d) : Canonical (execOpenQueue d s) := by
  refine withDesc_canonical h fun s fk f h => ?_
  dsimp only
  repeat' split
  all_goals simp [Memory.wf, h]

theorem execCloseQueue_canonical {s} (h : Memory.wf s = true) (d) : Canonical (execCloseQueue d s) := by
  refine withDesc_canonical h fun s fk f h => ?_
  dsimp only
  repeat' split
  all_goals simp [Memory.wf, h]

theorem execResumeQueue_canonical {s} (h : Memory.wf s = true) (d) : Canonical (execResumeQueue d s) := by
  refine withDesc_canonical h fun s fk f h => ?_
  dsimp only
  repeat' split
  all_goals simp [Memory.wf, h]

theorem execCacheLineExpire_canonical {s} (h : Memory.wf s = true) (quarter cls ctx name) :
    Canonical (execCacheLineExpire quarter cls ctx name s) := by
  simp [Memory.wf, execCacheLineExpire, h]

theorem execFlagHoldTimeout_canonical {s} (h : Memory.wf s = true) (quarter src srcQueue seq) :
    Canonical (execFlagHoldTimeout quarter src srcQueue seq s) := by
  unfold execFlagHoldTimeout
  dsimp only
  exact (canonical_next _).2 (wf_foldl (fun _ _ h => bump_wf (wf_of_mem h (congrArg _ (modFlow_mem ..))) _ _) _ h)

/-! ### Plays.lean -/

theorem execStartPlay_canonical {s} (h : Memory.wf s = true) (d) : Canonical (execStartPlay d s) := by
  refine withDesc_canonical h fun s fk f h => ?_
  dsimp only
  repeat' split
  all_goals simp [Memory.wf, h]

theorem execLoadPlay_canonical {s} (h : Memory.wf s = true) (d) : Canonical (execLoadPlay d s) := by
  refine withDesc_canonical h fun s fk f h => ?_
  dsimp only
  split
  · exact doneWith_canonical h ..
  · split
    · exact doneWith_canonical h ..
    · split
      · exact failWith_canonical h ..
      · split
        · exact heldBy_wf h ‹_›
        · split
          · exact doneWith_canonical h ..
          · split
            · exact h
            · split <;> exact doneWith_canonical (wf_of_mem h (by simp)) ..

theorem execArmPlay_canonical {s} (h : Memory.wf s = true) (d) : Canonical (execArmPlay d s) := by
  refine withDesc_canonical h fun s fk f h => ?_
  extract_lets x named ctx key trig cmp va queue old bound status entry q p t place
  clear_value status entry place
  split
  · exact doneWith_canonical h ..
  · split
    · exact failWith_canonical h ..
    · split
      · exact doneWith_canonical h ..
      · split
        · rename_i u hu
          split at hu
          · exact heldBy_wf h hu
          · cases hu
        · split
          · exact doneWith_canonical h ..
          · split
            · exact doneWith_canonical h ..
            · refine settle_wf ?_
              split <;> exact wf_of_mem h (by simp [t])

theorem execDisarmPlay_canonical {s} (h : Memory.wf s = true) (d) : Canonical (execDisarmPlay d s) := by
  refine withDesc_canonical h fun s fk f h => ?_
  dsimp only
  repeat' split
  all_goals simp [Memory.wf, h]

theorem execPlayAppend_canonical {s} (h : Memory.wf s = true) (ctx play) :
    Canonical (execPlayAppend ctx play s) := by
  unfold execPlayAppend
  dsimp only
  repeat' split
  all_goals simp [Memory.wf, h]

/-! ### Movers.lean -/

theorem moverRun_canonical {s} (h : Memory.wf s = true) (op fill d) : Canonical (moverRun op fill d s) := by
  refine withDesc_canonical h fun s fk f h => ?_
  extract_lets m fromF ranges t u n v
  have hu : Memory.wf u = true := wf_foldl (fun _ _ h => wf_of_mem h (by simp)) _ h
  have hv : Memory.wf v = true := by
    simp only [v]
    split <;> exact hu
  clear_value v
  split
  · exact doneWith_canonical h ..
  · split
    · exact doneWith_canonical h ..
    · split
      · exact h
      · split
        · exact failWith_canonical h ..
        · exact settle_wf (wf_of_mem hv (by simp))

theorem execCopy_canonical {s} (h : Memory.wf s = true) (d) : Canonical (execCopy d s) := moverRun_canonical h ..

theorem execFill_canonical {s} (h : Memory.wf s = true) (d) : Canonical (execFill d s) := moverRun_canonical h ..

/-! ### StepEngine.lean -/

theorem execStreamArm_canonical {s} (h : Memory.wf s = true) (d) : Canonical (execStreamArm d s) := by
  refine withDesc_canonical h fun s fk f h => ?_
  dsimp only
  split
  · exact doneWith_canonical h ..
  · split
    · exact failWith_canonical h ..
    · split
      · exact doneWith_canonical h ..
      · split
        · exact h
        · exact doneWith_canonical (wf_of_mem h (by simp)) ..

theorem execStreamDisarm_canonical {s} (h : Memory.wf s = true) (d) : Canonical (execStreamDisarm d s) := by
  refine withDesc_canonical h fun s fk f h => ?_
  dsimp only
  repeat' split
  all_goals simp [Memory.wf, h]

theorem execStepApply_canonical {s} (h : Memory.wf s = true) (d) : Canonical (execStepApply d s) := by
  refine withDesc_canonical h fun s fk f h => ?_
  dsimp only
  repeat' split
  all_goals simp [Memory.wf, h]

theorem execApplyComplete_canonical {s} (h : Memory.wf s = true) (d) : Canonical (execApplyComplete d s) := by
  unfold execApplyComplete
  dsimp only
  repeat' split
  all_goals simp [Memory.wf, h]

theorem execLedgerArm_canonical {s} (h : Memory.wf s = true) (d) : Canonical (execLedgerArm d s) := by
  refine withDesc_canonical h fun s fk f h => ?_
  dsimp only
  repeat' split
  all_goals simp [Memory.wf, h]

theorem execLedgerAbort_canonical {s} (h : Memory.wf s = true) (d) : Canonical (execLedgerAbort d s) := by
  refine withDesc_canonical h fun s fk f h => ?_
  dsimp only
  repeat' split
  all_goals simp [Memory.wf, h]

theorem execLedgerResolve_canonical {s} (h : Memory.wf s = true) (d) : Canonical (execLedgerResolve d s) := by
  refine withDesc_canonical h fun s fk f h => ?_
  dsimp only
  repeat' split
  all_goals simp [Memory.wf, h]

theorem execParityArm_canonical {s} (h : Memory.wf s = true) (d) : Canonical (execParityArm d s) := by
  refine withDesc_canonical h fun s fk f h => ?_
  dsimp only
  repeat' split
  all_goals simp [Memory.wf, h]

theorem execParityComplete_canonical {s} (h : Memory.wf s = true) (ctx) : Canonical (execParityComplete ctx s) := by
  unfold execParityComplete
  dsimp only
  split
  · exact h
  · split
    · exact settle_wf (runAll_wf (wf_of_mem h (by simp)))
    · split
      · exact settle_wf (runAll_wf (wf_of_mem h (by simp [mem_foldl fun _ _ => setRow_mem ..])))
      · exact h

theorem execEmitCommitted_canonical {s} (h : Memory.wf s = true) (d) : Canonical (execEmitCommitted d s) := by
  refine withDesc_canonical h fun s fk f h => ?_
  dsimp only
  split
  · exact doneWith_canonical h ..
  · split
    · exact doneWith_canonical h ..
    · split
      · exact doneWith_canonical h ..
      · split
        · exact doneWith_canonical h ..
        · split
          · exact heldBy_wf h ‹_›
          · split
            · exact doneWith_canonical (wf_of_mem h (readVa_bytes ..)) ..
            · exact settle_wf (wf_of_mem h (by simp))

/-! ### Arenas.lean -/

theorem execArenaArm_canonical {s} (h : Memory.wf s = true) (d) : Canonical (execArenaArm d s) := by
  refine withDesc_canonical h fun s fk f h => ?_
  dsimp only
  split
  · exact doneWith_canonical h ..
  · split
    · exact failWith_canonical h ..
    · split
      · exact doneWith_canonical h ..
      · split
        · exact h
        · exact doneWith_canonical (layArena_wf (wf_of_mem h (by simp)) ..) ..

theorem execArenaDisarm_canonical {s} (h : Memory.wf s = true) (d) : Canonical (execArenaDisarm d s) := by
  refine withDesc_canonical h fun s fk f h => ?_
  dsimp only
  repeat' split
  all_goals simp [Memory.wf, h]

theorem execTilePack_canonical {s} (h : Memory.wf s = true) (d) : Canonical (execTilePack d s) := by
  refine withDesc_canonical h fun s fk f h => ?_
  dsimp only
  split
  · exact h
  · split
    · exact doneWith_canonical h ..
    · split
      · exact doneWith_canonical h ..
      · split
        · exact failWith_canonical h ..
        · split
          · exact h
          · exact settle_wf (wf_of_mem h (by simp))

theorem withTile_canonical {s} (h : Memory.wf s = true) {fk f} {k : State → Nat → Arena → DirEntry → Out}
    (hk : ∀ s key a e, Memory.wf s = true → Canonical (k s key a e)) : Canonical (withTile s fk f k) := by
  unfold withTile
  dsimp only
  split
  · exact h
  · split
    · exact doneWith_canonical h ..
    · split
      · exact doneWith_canonical h ..
      · rename_i a _
        split
        · exact doneWith_canonical h ..
        · have hr := wf_of_mem h (readDir_bytes s (arenaKey f.ctx (opnd f.desc 160 8)) a (opnd f.desc 168 24))
          generalize readDir s _ a _ = r at hr ⊢
          obtain ⟨t, _ | e⟩ := r
          · exact doneWith_canonical hr ..
          · dsimp only
            split
            · exact doneWith_canonical hr ..
            · exact hk _ _ _ _ hr

theorem execTileUnpack_canonical {s} (h : Memory.wf s = true) (d) : Canonical (execTileUnpack d s) := by
  refine withDesc_canonical h fun s fk f h => withTile_canonical h fun s key a e h => ?_
  have hr : Memory.wf (readVa s a.ctx (a.sectorVa e.first) 64).st = true := wf_of_mem h (readVa_bytes ..)
  dsimp only
  generalize readVa s a.ctx (a.sectorVa e.first) 64 = r at hr ⊢
  split
  · exact doneWith_canonical hr ..
  · split
    · exact doneWith_canonical hr ..
    · split
      · exact failWith_canonical hr ..
      · split
        · exact hr
        · split <;> exact settle_wf (wf_of_mem hr (by simp))

theorem execTileMove_canonical {s} (h : Memory.wf s = true) (d) : Canonical (execTileMove d s) := by
  refine withDesc_canonical h fun s fk f h => withTile_canonical h fun s key a e h => ?_
  dsimp only
  split
  · exact failWith_canonical h ..
  · split
    · exact h
    · generalize hj : joinArena (beginTile s fk f key none) _ _ = t
      have ht : Memory.wf t = true := wf_of_mem h (by simp [← hj])
      have hr := wf_of_mem ht (readRunOf_bytes t a e)
      generalize readRunOf t a e = r at hr ⊢
      obtain ⟨u, _ | ⟨y, payload⟩⟩ := r
      · exact settle_wf (wf_of_mem hr (by simp))
      · have hp := placeTile_wf hr (arenaKey f.ctx (opnd f.desc 224 8)) (opnd f.desc 232 24) y payload
        dsimp only at hp ⊢
        generalize placeTile u _ _ y payload = q at hp ⊢
        obtain ⟨v, _ | _⟩ := q <;> exact settle_wf (wf_of_mem hp (by simp))

theorem execTileFree_canonical {s} (h : Memory.wf s = true) (d) : Canonical (execTileFree d s) := by
  refine withDesc_canonical h fun s fk f h => withTile_canonical h fun s key a e h => ?_
  have hw := writeDir_wf h key a (opnd f.desc 168 24) { e with valid := false }
  generalize writeDir s key a _ _ = r at hw ⊢
  obtain ⟨t, st⟩ := r
  dsimp only at hw ⊢
  split
  · exact doneWith_canonical hw ..
  · exact doneWith_canonical (writeMap_wf (s := modArena t key _) hw _) ..

theorem execTileStat_canonical {s} (h : Memory.wf s = true) (d) : Canonical (execTileStat d s) := by
  refine withDesc_canonical h fun s fk f h => withTile_canonical h fun s key a e h => ?_
  dsimp only
  split <;> exact doneWith_canonical (wf_of_mem h (readVa_bytes ..)) ..

theorem execCompactionMove_canonical {s} (h : Memory.wf s = true) (ctx arena tile) :
    Canonical (execCompactionMove ctx arena tile s) := by
  unfold execCompactionMove
  dsimp only
  split
  · exact h
  · rename_i a _
    split
    · exact h
    · have hd := wf_of_mem h (readDir_bytes s (arenaKey ctx arena) a tile)
      generalize readDir s (arenaKey ctx arena) a tile = r at hd ⊢
      obtain ⟨t, _ | e⟩ := r
      · exact settle_wf hd
      · dsimp only
        split
        · exact hd
        · rename_i p _
          split
          · exact hd
          · have hr := wf_of_mem hd (readRunOf_bytes t a e)
            generalize readRunOf t a e = r at hr ⊢
            obtain ⟨u, _ | ⟨y, payload⟩⟩ := r
            · exact settle_wf hr
            · have hw := writeVa_wf hr a.ctx (a.sectorVa p) (y.bytes ++ payload)
              dsimp only at hw ⊢
              generalize writeVa u a.ctx (a.sectorVa p) (y.bytes ++ payload) = w at hw ⊢
              split
              · exact settle_wf hw
              · generalize hm : modArena w.st _ _ = v
                have hv : Memory.wf v = true := wf_of_mem hw (by simp [← hm])
                have hx := writeDir_wf hv (arenaKey ctx arena) a tile { e with first := p }
                generalize writeDir v _ a tile _ = q at hx ⊢
                obtain ⟨x, st⟩ := q
                dsimp only at hx ⊢
                split
                · exact settle_wf hx
                · exact settle_wf (writeMap_wf (wf_of_mem hx (by simp)) _)

theorem execArenaLargestSample_canonical {s} (h : Memory.wf s = true) : Canonical (execArenaLargestSample s) := by
  unfold execArenaLargestSample
  split <;> simp [Memory.wf, h]

theorem execBackgroundZeroFill_canonical {s} (h : Memory.wf s = true) (pa) :
    Canonical (execBackgroundZeroFill pa s) := by
  unfold execBackgroundZeroFill
  split
  · exact canonical_fault _
  · split
    · exact h
    · split
      · exact h
      · exact fillRegion_wf h ..

theorem execPatrolScrub_canonical {s} (h : Memory.wf s = true) (pa outcome) :
    Canonical (execPatrolScrub pa outcome s) := by
  unfold execPatrolScrub
  dsimp only
  repeat' split
  all_goals simp [Memory.wf, h]

/-! ### CaddieUnit.lean -/

theorem armCaddie_canonical {s} (h : Memory.wf s = true) (fk c) : Canonical (armCaddie s fk c) := by
  have hr : Memory.wf (readVa s c.ctx c.entryVa (c.count * 64)).st = true := wf_of_mem h (readVa_bytes ..)
  unfold armCaddie
  dsimp only
  split
  · exact failWith_canonical h ..
  · split
    · exact heldBy_wf h ‹_›
    · split
      · exact doneWith_canonical hr ..
      · split
        · exact failWith_canonical hr ..
        · split
          · exact hr
          · exact doneWith_canonical (wf_of_mem hr (by simp)) ..

theorem execCaddieArm_canonical {s} (h : Memory.wf s = true) (d) : Canonical (execCaddieArm d s) := by
  refine withDesc_canonical h fun s fk f h => ?_
  dsimp only
  split
  · exact doneWith_canonical h ..
  · exact armCaddie_canonical h ..

theorem execCaddieDisarm_canonical {s} (h : Memory.wf s = true) (d) : Canonical (execCaddieDisarm d s) := by
  refine withDesc_canonical h fun s fk f h => ?_
  dsimp only
  repeat' split
  all_goals simp [Memory.wf, h]

theorem execCaddieWait_canonical {s} (h : Memory.wf s = true) (d) : Canonical (execCaddieWait d s) := by
  refine withDesc_canonical h fun s fk f h => ?_
  dsimp only
  repeat' split
  all_goals simp [Memory.wf, h]

theorem execCaddieWaitTimeout_canonical {s} (h : Memory.wf s = true) (d) :
    Canonical (execCaddieWaitTimeout d s) := by
  unfold execCaddieWaitTimeout
  dsimp only
  repeat' split
  all_goals simp [Memory.wf, h]

theorem execCaddieFlush_canonical {s} (h : Memory.wf s = true) (d) : Canonical (execCaddieFlush d s) := by
  refine withDesc_canonical h fun s fk f h => ?_
  dsimp only
  split
  · exact doneWith_canonical h ..
  · split
    · exact doneWith_canonical h ..
    · split
      · exact heldBy_wf h ‹_›
      · refine doneWith_canonical (wf_foldl_fst (fun _ _ h => ?_) _ h) ..
        exact writeBack_wf h ..

theorem execCaddieEntryStart_canonical {s} (h : Memory.wf s = true) (quarter ctx stream) :
    Canonical (execCaddieEntryStart quarter ctx stream s) := by
  unfold execCaddieEntryStart
  dsimp only
  repeat' split
  all_goals simp [Memory.wf, h]

theorem execCaddieEntryLand_canonical {s} (h : Memory.wf s = true) (quarter ctx stream entry) :
    Canonical (execCaddieEntryLand quarter ctx stream entry s) := by
  unfold execCaddieEntryLand
  dsimp only
  split
  · exact h
  · split
    · exact h
    · split
      · exact h
      · split
        · exact h
        · rename_i hl
          have ht := landSteps_wf h hl
          split
          · exact settle_wf (landEntry_wf ht ..)
          · exact settle_wf (wf_of_mem (failEntry_wf ht ..) (congrArg _ (closeCaddie_mem ..)))

theorem execCaddieDeadlineMiss_canonical {s} (h : Memory.wf s = true) (quarter ctx stream entry) :
    Canonical (execCaddieDeadlineMiss quarter ctx stream entry s) := by
  unfold execCaddieDeadlineMiss
  dsimp only
  repeat' split
  all_goals simp [Memory.wf, h]

/-! ### EndPoint.lean -/

theorem onArrival_canonical {s} (h : Memory.wf s = true) {i p} {fresh copy : State → State}
    (hf : ∀ s, Memory.wf s = true → Canonical (.next (fresh s)))
    (hc : ∀ s, Memory.wf s = true → Canonical (.next (copy s))) : Canonical (onArrival s i p fresh copy) := by
  have ha := wf_of_mem h (arrival_bytes s i p)
  unfold onArrival
  generalize arrival s i p = a at ha ⊢
  rcases a with t | t | t | t
  · exact settle_wf ha
  · exact settle_wf (hf t ha)
  · exact settle_wf (hc t ha)
  · exact settle_wf (wf_of_mem ha (congrArg _ (sendReply_mem ..)))

theorem ackMerged_canonical {s} (h : Memory.wf s = true) (p) : Canonical (.next (ackMerged s p)) :=
  wf_of_mem h (congrArg _ (ackMerged_mem ..))

theorem execReadReq_canonical {s} (h : Memory.wf s = true) (p) : Canonical (execReadReq p s) :=
  onArrival_canonical h (fun s h => by simp [Memory.wf, h]) fun s h => by simp [Memory.wf, h]

theorem execProbe_canonical {s} (h : Memory.wf s = true) (p) : Canonical (execProbe p s) :=
  onArrival_canonical h (fun s h => by simp [Memory.wf, h]) fun s h => by simp [Memory.wf, h]

theorem execWrite_canonical {s} (h : Memory.wf s = true) (inPort p) : Canonical (execWrite inPort p s) :=
  onArrival_canonical h (fun s h => by simp [Memory.wf, h]) fun s h => by simp [Memory.wf, h]

theorem execFlaggedWrite_canonical {s} (h : Memory.wf s = true) (inPort p) :
    Canonical (execFlaggedWrite inPort p s) :=
  onArrival_canonical h (fun _ h => (canonical_next _).2 (takeFlagged_wf h p)) fun _ h => ackMerged_canonical h p

theorem takePush_canonical {s} (h : Memory.wf s = true) (p) : Canonical (.next (takePush s p)) :=
  wf_of_mem h (by simp)

theorem execQueuePush_canonical {s} (h : Memory.wf s = true) (inPort p) : Canonical (execQueuePush inPort p s) :=
  onArrival_canonical h (fun _ h => takePush_canonical h p) fun _ h => ackMerged_canonical h p

theorem takeAtomic_canonical {s} (h : Memory.wf s = true) (inPort p) : Canonical (takeAtomic s inPort p) :=
  onArrival_canonical h (fun s h => by simp [Memory.wf, h]) fun s h => by simp [Memory.wf, h]

theorem execAtomic_canonical {s} (h : Memory.wf s = true) (p) : Canonical (execAtomic p s) :=
  takeAtomic_canonical h ..

theorem execCas64_canonical {s} (h : Memory.wf s = true) (inPort p) : Canonical (execCas64 inPort p s) :=
  takeAtomic_canonical h ..

theorem execCas128_canonical {s} (h : Memory.wf s = true) (inPort p) : Canonical (execCas128 inPort p s) :=
  takeAtomic_canonical h ..

theorem execRelayWrite_canonical {s} (h : Memory.wf s = true) (inPort p) : Canonical (execRelayWrite inPort p s) :=
  onArrival_canonical h (fun s h => by simp [Memory.wf, h]) fun s h => by simp [Memory.wf, h]

theorem execRelayFlaggedWrite_canonical {s} (h : Memory.wf s = true) (inPort p) :
    Canonical (execRelayFlaggedWrite inPort p s) :=
  onArrival_canonical h (fun _ h => (canonical_next _).2 (takeFlagged_wf h p)) fun _ h => ackMerged_canonical h p

theorem execReservedOpcodePacket_canonical {s} (h : Memory.wf s = true) (p) :
    Canonical (execReservedOpcodePacket p s) := by
  simp [Memory.wf, execReservedOpcodePacket, h]

/-! ### Scrum.lean -/

theorem execReduceContrib_canonical {s} (h : Memory.wf s = true) (inPort p) :
    Canonical (execReduceContrib inPort p s) :=
  onArrival_canonical h (fun s h => by simp [Memory.wf, h]) fun s h => by simp [Memory.wf, h]

theorem execGroupArm_canonical {s} (h : Memory.wf s = true) (d) : Canonical (execGroupArm d s) := by
  refine withDesc_canonical h fun s fk f h => ?_
  dsimp only
  split
  · exact doneWith_canonical h ..
  · split
    · exact failWith_canonical h ..
    · split
      · exact doneWith_canonical h ..
      · split
        · exact h
        · exact doneWith_canonical (wf_of_mem h (by simp)) ..

theorem execGroupDisarm_canonical {s} (h : Memory.wf s = true) (d) : Canonical (execGroupDisarm d s) := by
  refine withDesc_canonical h fun s fk f h => ?_
  dsimp only
  repeat' split
  all_goals simp [Memory.wf, h]

theorem execContribute_canonical {s} (h : Memory.wf s = true) (d) : Canonical (execContribute d s) := by
  refine withDesc_canonical h fun s fk f h => ?_
  dsimp only
  split
  · exact doneWith_canonical h ..
  · split
    · exact h
    · split
      · exact failWith_canonical h ..
      · exact settle_wf (wf_of_mem h (by simp))

theorem execRoundWait_canonical {s} (h : Memory.wf s = true) (d) : Canonical (execRoundWait d s) := by
  refine withDesc_canonical h fun s fk f h => ?_
  dsimp only
  repeat' split
  all_goals simp [Memory.wf, h]

theorem execRoundWaitTimeout_canonical {s} (h : Memory.wf s = true) (d) : Canonical (execRoundWaitTimeout d s) := by
  unfold execRoundWaitTimeout
  repeat' split
  all_goals simp [Memory.wf, h]

theorem execRoundEnd_canonical {s} (h : Memory.wf s = true) (ctx group) : Canonical (execRoundEnd ctx group s) := by
  unfold execRoundEnd
  dsimp only
  repeat' split
  all_goals simp [Memory.wf, h]

theorem execSegmentFeed_canonical {s} (h : Memory.wf s = true) (ctx group segment) :
    Canonical (execSegmentFeed ctx group segment s) := by
  unfold execSegmentFeed
  dsimp only
  repeat' split
  all_goals simp [Memory.wf, h]

theorem execDuplicateCheckDone_canonical {s} (h : Memory.wf s = true) (check verdict) :
    Canonical (execDuplicateCheckDone check verdict s) := by
  unfold execDuplicateCheckDone
  dsimp only
  repeat' split
  all_goals simp [Memory.wf, h]

/-! ### Sessions.lean -/

theorem withSession_wf {s} (h : Memory.wf s = true) {id seq} {k : State → Session → State × Answer}
    (hk : ∀ s x, Memory.wf s = true → Memory.wf (k s x).1 = true) : Memory.wf (withSession s id seq k) = true := by
  unfold withSession
  split
  · exact wf_of_mem h (by simp)
  · rename_i x _
    split
    · exact wf_of_mem h (by simp)
    · exact wf_of_mem h (by simp)
    · have hx := hk (modSession s id fun x => { x with heard := s.now }) x h
      exact wf_of_mem hx (by simp)

theorem withVia_canonical {s} (h : Memory.wf s = true) {via} {k : State → Who → State × Answer}
    (hk : ∀ s w, Memory.wf s = true → Memory.wf (k s w).1 = true) : Canonical (withVia s via k) := by
  refine settle_wf ?_
  split
  · exact hk s _ h
  · exact withSession_wf h fun s x hs => hk s _ hs

/-! ### Contexts.lean -/

theorem execContextCreate_canonical {s} (h : Memory.wf s = true) (via ctx) :
    Canonical (execContextCreate via ctx s) :=
  withVia_canonical h fun s w h => guardedCtx_wf h (by simp [Memory.wf, h]) ..

theorem execContextTeardown_canonical {s} (h : Memory.wf s = true) (via ctx) :
    Canonical (execContextTeardown via ctx s) :=
  withVia_canonical h fun s w h => guardedCtx_wf h (by simp [Memory.wf, h]) ..

theorem execContextReset_canonical {s} (h : Memory.wf s = true) (via ctx) :
    Canonical (execContextReset via ctx s) :=
  withVia_canonical h fun s w h => guardedCtx_wf h (by simp [Memory.wf, h]) ..

theorem execTeardownDrainEnd_canonical {s} (h : Memory.wf s = true) (ctx) :
    Canonical (execTeardownDrainEnd ctx s) := by
  unfold execTeardownDrainEnd
  split <;> simp [Memory.wf, h]

theorem execTeardownDrainLimit_canonical {s} (h : Memory.wf s = true) (ctx) :
    Canonical (execTeardownDrainLimit ctx s) := by
  unfold execTeardownDrainLimit
  dsimp only
  repeat' split
  all_goals simp [Memory.wf, h]

theorem execClearPhaseEnd_canonical {s} (h : Memory.wf s = true) (ctx) : Canonical (execClearPhaseEnd ctx s) := by
  unfold execClearPhaseEnd
  split
  · exact h
  · extract_lets t u v w x y z r
    have hu : Memory.wf u = true := wf_of_mem (freePages_wf h ctx) (by simp [u])
    have hz : Memory.wf z = true := by
      simp only [z]
      split
      · exact hu
      · exact wf_of_mem (s := u) hu (by simp [x, v])
    have hr : Memory.wf r = true := wf_of_mem (s := z) hz (by simp only [r, setCtxState_mem])
    clear_value z r
    split
    · split
      · exact wf_of_mem (s := r) hr (by rw [createContext_mem])
      · exact wf_of_mem (s := r) hr (by rw [raise_mem, createContext_mem])
    · exact hr

theorem execQueueResumeDict_canonical {s} (h : Memory.wf s = true) (via ctx queue) :
    Canonical (execQueueResumeDict via ctx queue s) :=
  withVia_canonical h fun s w h => guardedCtx_wf h (by simp [Memory.wf, h]) ..

theorem execGroupEntryWrite_canonical {s} (h : Memory.wf s = true) (via ctx data) :
    Canonical (execGroupEntryWrite via ctx data s) := by
  refine withVia_canonical h fun s w h => ?_
  split
  · exact h
  · exact guardedCtx_wf h (wf_of_mem h (by simp)) ..

/-! ### Recovery.lean -/

theorem execFenceNotice_canonical {s} (h : Memory.wf s = true) (port p) : Canonical (execFenceNotice port p s) := by
  unfold execFenceNotice
  dsimp only
  repeat' split
  all_goals simp [Memory.wf, h]

theorem execFenceNoticeRepeat_canonical {s} (h : Memory.wf s = true) (node) :
    Canonical (execFenceNoticeRepeat node s) := by
  simp [Memory.wf, execFenceNoticeRepeat, h]

theorem execFenceCommand_canonical {s} (h : Memory.wf s = true) (via node) :
    Canonical (execFenceCommand via node s) :=
  withVia_canonical h fun s w h => by simp [Memory.wf, guarded_wf, h]

theorem execNodeLossTimeout_canonical {s} (h : Memory.wf s = true) (node) :
    Canonical (execNodeLossTimeout node s) := by
  unfold execNodeLossTimeout
  repeat' split
  all_goals simp [Memory.wf, h]

theorem execLastGasp_canonical {s} (h : Memory.wf s = true) (port p) : Canonical (execLastGasp port p s) := by
  unfold execLastGasp
  dsimp only
  repeat' split
  all_goals simp [Memory.wf, h]

theorem execGaspMarkExpire_canonical {s} (h : Memory.wf s = true) (node) :
    Canonical (execGaspMarkExpire node s) := by
  unfold execGaspMarkExpire
  dsimp only
  repeat' split
  all_goals simp [Memory.wf, h]

theorem execPowerWarning_canonical {s} (h : Memory.wf s = true) : Canonical (execPowerWarning s) := by
  unfold execPowerWarning
  dsimp only
  repeat' split
  all_goals simp [Memory.wf, h]

theorem execPowerStopIssue_canonical {s} (h : Memory.wf s = true) : Canonical (execPowerStopIssue s) := by
  unfold execPowerStopIssue
  dsimp only
  repeat' split
  all_goals simp [Memory.wf, h]

theorem execPowerStopAbandon_canonical {s} (h : Memory.wf s = true) : Canonical (execPowerStopAbandon s) := by
  unfold execPowerStopAbandon
  dsimp only
  repeat' split
  all_goals simp [Memory.wf, h]

theorem execPowerWarningClear_canonical {s} (h : Memory.wf s = true) : Canonical (execPowerWarningClear s) := by
  unfold execPowerWarningClear
  split <;> simp [Memory.wf, h]

theorem execRebuildStart_canonical {s} (h : Memory.wf s = true) (via data) :
    Canonical (execRebuildStart via data s) :=
  withVia_canonical h fun s w h => guardedBlock_wf h (by simp [Memory.wf, h]) ..

theorem execRebuildRecordDone_canonical {s} (h : Memory.wf s = true) (ctx record) :
    Canonical (execRebuildRecordDone ctx record s) := by
  unfold execRebuildRecordDone
  dsimp only
  repeat' split
  all_goals simp [Memory.wf, h]

theorem execAdoptInnings_canonical {s} (h : Memory.wf s = true) (via data) :
    Canonical (execAdoptInnings via data s) :=
  withVia_canonical h fun s w h => guardedBlock_wf h (by simp [Memory.wf, h]) ..

theorem execInningsReplay_canonical {s} (h : Memory.wf s = true) (via ctx) :
    Canonical (execInningsReplay via ctx s) :=
  withVia_canonical h fun s w h => by simp [Memory.wf, guarded_wf, h]

theorem execFaultRecordsConsume_canonical {s} (h : Memory.wf s = true) (via count) :
    Canonical (execFaultRecordsConsume via count s) :=
  withVia_canonical h fun s w h => by simp [Memory.wf, guarded_wf, h]

theorem execFaultSummaryClear_canonical {s} (h : Memory.wf s = true) (via value) :
    Canonical (execFaultSummaryClear via value s) :=
  withVia_canonical h fun s w h => by simp [Memory.wf, guarded_wf, h]

theorem execSuspectDecay_canonical {s} (h : Memory.wf s = true) : Canonical (execSuspectDecay s) := by
  unfold execSuspectDecay
  split <;> simp [Memory.wf, h]

theorem execUnitRestore_canonical {s} (h : Memory.wf s = true) (via value) :
    Canonical (execUnitRestore via value s) := by
  refine withVia_canonical h fun s w h => guardedBlock_wf h ?_ ..
  split
  · exact h
  · exact wf_of_mem h (by simp)

/-! ### SwitchCore.lean -/

theorem execPacketRoute_canonical {s} (h : Memory.wf s = true) (port fifo) :
    Canonical (execPacketRoute port fifo s) := by
  unfold execPacketRoute
  repeat' split
  all_goals simp [Memory.wf, h]

theorem execCellAdmit_canonical {s} (h : Memory.wf s = true) (port fifo middle) :
    Canonical (execCellAdmit port fifo middle s) := by
  unfold execCellAdmit
  split <;> simp [Memory.wf, h]

theorem execCellToOutput_canonical {s} (h : Memory.wf s = true) (middle output) :
    Canonical (execCellToOutput middle output s) := by
  unfold execCellToOutput
  dsimp only
  repeat' split
  all_goals simp [Memory.wf, h]

theorem execSpillFetch_canonical {s} (h : Memory.wf s = true) (middle output) :
    Canonical (execSpillFetch middle output s) := by
  unfold execSpillFetch
  dsimp only
  repeat' split
  all_goals simp [Memory.wf, h]

theorem execPacketTransmit_canonical {s} (h : Memory.wf s = true) (port) :
    Canonical (execPacketTransmit port s) := by
  unfold execPacketTransmit
  dsimp only
  repeat' split
  all_goals simp [Memory.wf, h]

theorem execFlowRefresh_canonical {s} (h : Memory.wf s = true) (port) : Canonical (execFlowRefresh port s) := by
  unfold execFlowRefresh
  dsimp only
  repeat' split
  all_goals simp [Memory.wf, h]

theorem execFlowWord_canonical {s} (h : Memory.wf s = true) (port word) : Canonical (execFlowWord port word s) := by
  unfold execFlowWord
  dsimp only
  repeat' split
  all_goals simp [Memory.wf, h]

theorem execPortLoadSample_canonical {s} (h : Memory.wf s = true) : Canonical (execPortLoadSample s) := by
  unfold execPortLoadSample
  split <;> simp [Memory.wf, h]

theorem execCongNote_canonical {s} (h : Memory.wf s = true) (p) : Canonical (execCongNote p s) := by
  unfold execCongNote
  dsimp only
  repeat' split
  all_goals simp [Memory.wf, h]

theorem execLimiterIncrease_canonical {s} (h : Memory.wf s = true) (srcQueue) :
    Canonical (execLimiterIncrease srcQueue s) := by
  unfold execLimiterIncrease
  dsimp only
  repeat' split
  all_goals simp [Memory.wf, h]

/-! ### Links.lean -/

theorem execCommaLock_canonical {s} (h : Memory.wf s = true) (port lane) :
    Canonical (execCommaLock port lane s) := by
  unfold execCommaLock
  repeat' split
  all_goals simp [Memory.wf, h]

theorem execCommaLockLost_canonical {s} (h : Memory.wf s = true) (port lane) :
    Canonical (execCommaLockLost port lane s) := by
  unfold execCommaLockLost
  split <;> simp [Memory.wf, h]

theorem execServeMessageSend_canonical {s} (h : Memory.wf s = true) (port) :
    Canonical (execServeMessageSend port s) := by
  unfold execServeMessageSend
  split
  · exact wf_of_mem h (congrArg _ (mem_foldl (fun _ _ => send_mem ..) _ _))
  · exact h

theorem execServeMessage_canonical {s} (h : Memory.wf s = true) (port lane message) :
    Canonical (execServeMessage port lane message s) := by
  unfold execServeMessage
  dsimp only
  repeat' split
  all_goals simp [Memory.wf, h]

theorem execServeTimeout_canonical {s} (h : Memory.wf s = true) (port) : Canonical (execServeTimeout port s) := by
  unfold execServeTimeout
  split <;> simp [Memory.wf, h]

theorem execTrainingFrame_canonical {s} (h : Memory.wf s = true) (port lane request status satisfied) :
    Canonical (execTrainingFrame port lane request status satisfied s) := by
  unfold execTrainingFrame
  dsimp only
  repeat' split
  all_goals simp [Memory.wf, h]

theorem execTrainingFrameSend_canonical {s} (h : Memory.wf s = true) (port) :
    Canonical (execTrainingFrameSend port s) := by
  unfold execTrainingFrameSend
  split
  · exact h
  · extract_lets l content count u v
    have hv : Memory.wf v = true := wf_foldl (fun _ _ h => wf_of_mem h (by rw [send_mem])) _ h
    clear_value v count
    split
    · exact wf_of_mem hv (by simp)
    · exact hv

theorem execEqualiseTimeout_canonical {s} (h : Memory.wf s = true) (port) :
    Canonical (execEqualiseTimeout port s) := by
  unfold execEqualiseTimeout
  dsimp only
  repeat' split
  all_goals simp [Memory.wf, h]

theorem execAlignBlock_canonical {s} (h : Memory.wf s = true) (port lane word block sinceBad skew) :
    Canonical (execAlignBlock port lane word block sinceBad skew s) := by
  unfold execAlignBlock
  dsimp only
  repeat' split
  all_goals simp [Memory.wf, h]

theorem execLockTimeout_canonical {s} (h : Memory.wf s = true) (port) : Canonical (execLockTimeout port s) := by
  unfold execLockTimeout
  split <;> simp [Memory.wf, h]

theorem execCapFragment_canonical {s} (h : Memory.wf s = true) (port p) : Canonical (execCapFragment port p s) := by
  unfold execCapFragment
  dsimp only
  repeat' split
  all_goals simp [Memory.wf, h]

theorem execCapFragmentTimeout_canonical {s} (h : Memory.wf s = true) (port message) :
    Canonical (execCapFragmentTimeout port message s) := by
  unfold execCapFragmentTimeout
  repeat' split
  all_goals simp [Memory.wf, h]

theorem execCapMessageRepeat_canonical {s} (h : Memory.wf s = true) (port) :
    Canonical (execCapMessageRepeat port s) := by
  unfold execCapMessageRepeat
  dsimp only
  repeat' split
  all_goals simp [Memory.wf, h]

theorem execHello_canonical {s} (h : Memory.wf s = true) (port) : Canonical (execHello port s) := by
  unfold execHello
  dsimp only
  repeat' split
  all_goals simp [Memory.wf, h]

theorem execConfirm_canonical {s} (h : Memory.wf s = true) (port) : Canonical (execConfirm port s) := by
  unfold execConfirm
  dsimp only
  repeat' split
  all_goals simp [Memory.wf, h]

theorem execResume_canonical {s} (h : Memory.wf s = true) (port) : Canonical (execResume port s) := by
  unfold execResume
  dsimp only
  repeat' split
  all_goals simp [Memory.wf, h]

theorem execReady_canonical {s} (h : Memory.wf s = true) (port) : Canonical (execReady port s) := by
  unfold execReady
  dsimp only
  repeat' split
  all_goals simp [Memory.wf, h]

theorem execCapabilityTimeout_canonical {s} (h : Memory.wf s = true) (port) :
    Canonical (execCapabilityTimeout port s) := by
  unfold execCapabilityTimeout
  split <;> simp [Memory.wf, h]

theorem execHeldBackoffEnd_canonical {s} (h : Memory.wf s = true) (port) :
    Canonical (execHeldBackoffEnd port s) := by
  unfold execHeldBackoffEnd
  split <;> simp [Memory.wf, h]

theorem execLinkFrame_canonical {s} (h : Memory.wf s = true) (port word body tag) :
    Canonical (execLinkFrame port word body tag s) := by
  unfold execLinkFrame
  dsimp only
  split
  · exact h
  · split
    · exact bump_wf h _ _
    · split
      · exact h
      · split
        · exact bump_wf h _ _
        · split
          · exact bump_wf h _ _
          · split
            · exact wf_of_mem h (by simp)
            · rename_i ho
              have ht := wf_of_mem h (congrArg MemState.bytes (openFrame_mem ho))
              split
              · exact ht
              · exact settle_wf (wf_of_mem ht (by simp))

theorem recoverOn_canonical {s} (h : Memory.wf s = true) (port lane) : Canonical (recoverOn s port lane) := by
  unfold recoverOn
  split
  · exact settle_wf (enterRecover_wf h ..)
  · exact h

theorem execLossOfSignal_canonical {s} (h : Memory.wf s = true) (port lane) :
    Canonical (execLossOfSignal port lane s) := recoverOn_canonical h ..

theorem execAlignMissing_canonical {s} (h : Memory.wf s = true) (port lane) :
    Canonical (execAlignMissing port lane s) := recoverOn_canonical h ..

theorem execUncorrectableLimit_canonical {s} (h : Memory.wf s = true) (port lane count) :
    Canonical (execUncorrectableLimit port lane count s) := by
  unfold execUncorrectableLimit
  dsimp only
  repeat' split
  all_goals simp [Memory.wf, h]

theorem execTagFailureLimit_canonical {s} (h : Memory.wf s = true) (port) :
    Canonical (execTagFailureLimit port s) := by
  unfold execTagFailureLimit
  dsimp only
  repeat' split
  all_goals simp [Memory.wf, h]

theorem execSymbolErrorLimit_canonical {s} (h : Memory.wf s = true) (port lane) :
    Canonical (execSymbolErrorLimit port lane s) := recoverOn_canonical h ..

theorem execRecoveryNotice_canonical {s} (h : Memory.wf s = true) (port) :
    Canonical (execRecoveryNotice port s) := by
  unfold execRecoveryNotice
  split <;> simp [Memory.wf, h]

theorem execRecoverEnd_canonical {s} (h : Memory.wf s = true) (port) : Canonical (execRecoverEnd port s) := by
  unfold execRecoverEnd
  split <;> simp [Memory.wf, h]

/-! ### Ethernet.lean -/

theorem roceArrive_canonical {s} (h : Memory.wf s = true) {k ext} {act : State → QueuePair → State}
    (ha : ∀ s p, Memory.wf s = true → Memory.wf (act s p) = true) : Canonical (roceArrive s k ext act) := by
  unfold roceArrive
  split
  · exact h
  · split
    · exact h
    · extract_lets size c
      have he : Memory.wf (ethIn c.2 k.port c.1 size k.ect).1 = true := wf_of_mem h (by simp [c])
      generalize ethIn c.2 k.port c.1 size k.ect = r at he ⊢
      obtain ⟨t, _ | marked⟩ := r
      · exact he
      · refine settle_wf (ha _ _ ?_)
        split
        · exact wf_of_mem he (by simp)
        · exact he

theorem roceRequest_canonical {s} (h : Memory.wf s = true) (k op) : Canonical (roceRequest k op s) := by
  unfold roceRequest
  refine roceArrive_canonical h fun s p h => ?_
  split
  · exact wf_of_mem h (by simp)
  · exact rcRequest_wf h ..

theorem execRdmaWrite_canonical {s} (h : Memory.wf s = true) (k) : Canonical (execRdmaWrite k s) :=
  roceRequest_canonical h ..

theorem execRdmaWritePush_canonical {s} (h : Memory.wf s = true) (k) : Canonical (execRdmaWritePush k s) :=
  roceRequest_canonical h ..

theorem execRdmaRead_canonical {s} (h : Memory.wf s = true) (k) : Canonical (execRdmaRead k s) :=
  roceRequest_canonical h ..

theorem execSendWithImmediate_canonical {s} (h : Memory.wf s = true) (k) : Canonical (execSendWithImmediate k s) :=
  roceRequest_canonical h ..

theorem execFetchAdd_canonical {s} (h : Memory.wf s = true) (k) : Canonical (execFetchAdd k s) :=
  roceRequest_canonical h ..

theorem execCompareSwap_canonical {s} (h : Memory.wf s = true) (k) : Canonical (execCompareSwap k s) :=
  roceRequest_canonical h ..

theorem execRoceUnsupportedOpcode_canonical {s} (h : Memory.wf s = true) (k) :
    Canonical (execRoceUnsupportedOpcode k s) := by
  refine roceArrive_canonical h fun s p h => ?_
  dsimp only
  repeat' split
  all_goals simp [Memory.wf, h]

theorem execRoceRequesterResponse_canonical {s} (h : Memory.wf s = true) (qpn psn reply) :
    Canonical (execRoceRequesterResponse qpn psn reply s) := by
  unfold execRoceRequesterResponse
  split
  · exact h
  · rename_i p _
    split
    · exact h
    · dsimp only
      generalize roceSize p.ipv6 4 _ = n
      have he := wf_of_mem h (congrArg MemState.bytes (ethIn_mem s p.port 0 n false))
      generalize ethIn s p.port 0 n false = r at he ⊢
      obtain ⟨t, _ | _⟩ := r
      · exact he
      · exact settle_wf (wf_of_mem he (by simp))

theorem execRoceRequesterTimeout_canonical {s} (h : Memory.wf s = true) (qpn) :
    Canonical (execRoceRequesterTimeout qpn s) := by
  unfold execRoceRequesterTimeout
  repeat' split
  all_goals simp [Memory.wf, h]

theorem execRoceRnrTimerExpire_canonical {s} (h : Memory.wf s = true) (qpn) :
    Canonical (execRoceRnrTimerExpire qpn s) := by
  unfold execRoceRnrTimerExpire
  repeat' split
  all_goals simp [Memory.wf, h]

theorem execCongestionNotification_canonical {s} (h : Memory.wf s = true) (qpn) :
    Canonical (execCongestionNotification qpn s) := by
  unfold execCongestionNotification
  split
  · exact h
  · rename_i p _
    split
    · exact h
    · have he := wf_of_mem h (congrArg MemState.bytes (ethIn_mem s p.port 0 (roceSize p.ipv6 16 0) false))
      generalize ethIn s p.port 0 (roceSize p.ipv6 16 0) false = r at he ⊢
      obtain ⟨t, _ | _⟩ := r <;> exact he

theorem execQueuePairCreate_canonical {s} (h : Memory.wf s = true) (via data) :
    Canonical (execQueuePairCreate via data s) :=
  withVia_canonical h fun s w h => guardedBlock_wf h (by simp [Memory.wf, h]) ..

theorem execQueuePairDestroy_canonical {s} (h : Memory.wf s = true) (via qpn) :
    Canonical (execQueuePairDestroy via qpn s) :=
  withVia_canonical h fun s w h => by simp [Memory.wf, guarded_wf, h]

theorem execUdpDoorbell_canonical {s} (h : Memory.wf s = true) (port source data) :
    Canonical (execUdpDoorbell port source data s) := by
  unfold execUdpDoorbell
  split
  · exact h
  · split
    · exact bump_wf h _ _
    · dsimp only
      split
      · exact bump_wf h _ _
      · rename_i b _
        generalize (if 2 ^ 32 ≤ source then 66 else 46) + data.length = n
        have he : Memory.wf (ethIn (colourPacket s (port / 2) b.ctx n).2 port (colourPacket s (port / 2) b.ctx n).1 n
            false).1 = true := wf_of_mem h (by simp)
        generalize ethIn _ port _ n false = r at he ⊢
        obtain ⟨t, _ | _⟩ := r
        · exact he
        · dsimp only
          split
          · exact settle_wf (wf_of_mem he (by simp))
          · exact bump_wf he _ _

theorem execPtpMessage_canonical {s} (h : Memory.wf s = true) (port domain m) :
    Canonical (execPtpMessage port domain m s) := by
  unfold execPtpMessage
  split
  · exact h
  · have he := wf_of_mem h (congrArg MemState.bytes (ethIn_mem s port 0 100 false))
    generalize ethIn s port 0 100 false = r at he ⊢
    obtain ⟨t, _ | _⟩ := r
    · exact he
    · dsimp only
      split
      · exact he
      · split
        · exact he
        · split
          · show Memory.wf (if _ then _ else _) = true
            split <;> exact wf_of_mem he (by simp)
          · show Memory.wf (if _ then _ else _) = true
            split <;> exact wf_of_mem he (by simp)

theorem execPtpAnnounceTimeout_canonical {s} (h : Memory.wf s = true) : Canonical (execPtpAnnounceTimeout s) := by
  unfold execPtpAnnounceTimeout
  dsimp only
  repeat' split
  all_goals simp [Memory.wf, h]

theorem execEthernetLinkUp_canonical {s} (h : Memory.wf s = true) (port rate) :
    Canonical (execEthernetLinkUp port rate s) := by
  unfold execEthernetLinkUp
  dsimp only
  repeat' split
  all_goals simp [Memory.wf, h]

theorem execEthernetLinkDown_canonical {s} (h : Memory.wf s = true) (port) :
    Canonical (execEthernetLinkDown port s) := by
  unfold execEthernetLinkDown
  split <;> simp [Memory.wf, h]

theorem execManagementAutonegTimeout_canonical {s} (h : Memory.wf s = true) :
    Canonical (execManagementAutonegTimeout s) := by
  unfold execManagementAutonegTimeout
  split <;> simp [Memory.wf, h]

theorem execArpRequest_canonical {s} (h : Memory.wf s = true) (port address) :
    Canonical (execArpRequest port address s) := by
  simp [Memory.wf, execArpRequest, h]

theorem execNeighborSolicitation_canonical {s} (h : Memory.wf s = true) (port address) :
    Canonical (execNeighborSolicitation port address s) := by
  simp [Memory.wf, execNeighborSolicitation, h]

theorem execIcmpEcho_canonical {s} (h : Memory.wf s = true) (port data) : Canonical (execIcmpEcho port data s) := by
  simp [Memory.wf, execIcmpEcho, h]

theorem execEthernetFrameDiscard_canonical {s} (h : Memory.wf s = true) (port) :
    Canonical (execEthernetFrameDiscard port s) := by
  simp [Memory.wf, execEthernetFrameDiscard, h]

/-! ### Firmware.lean -/

theorem execFirmwareCoreRunning_canonical {s} (h : Memory.wf s = true) (core) :
    Canonical (execFirmwareCoreRunning core s) := by
  unfold execFirmwareCoreRunning
  dsimp only
  repeat' split
  all_goals simp [Memory.wf, h]

theorem execWatchdogExpire_canonical {s} (h : Memory.wf s = true) (core) :
    Canonical (execWatchdogExpire core s) := by
  unfold execWatchdogExpire
  dsimp only
  repeat' split
  all_goals simp [Memory.wf, h]

theorem execImageSegmentWrite_canonical {s} (h : Memory.wf s = true) (via offset data) :
    Canonical (execImageSegmentWrite via offset data s) :=
  withVia_canonical h fun s w h => guardedBlock_wf h (by simp [Memory.wf, h]) ..

theorem execUpdateVerify_canonical {s} (h : Memory.wf s = true) (via) : Canonical (execUpdateVerify via s) :=
  withVia_canonical h fun s w h => by simp [Memory.wf, guarded_wf, h]

theorem execUpdateActivate_canonical {s} (h : Memory.wf s = true) (via) : Canonical (execUpdateActivate via s) :=
  withVia_canonical h fun s w h => by simp [Memory.wf, guarded_wf, h]

theorem execUpdateCancel_canonical {s} (h : Memory.wf s = true) (via) : Canonical (execUpdateCancel via s) :=
  withVia_canonical h fun s w h => by simp [Memory.wf, guarded_wf, h]

theorem execUpdateCommit_canonical {s} (h : Memory.wf s = true) (via) : Canonical (execUpdateCommit via s) :=
  withVia_canonical h fun s w h => by simp [Memory.wf, guarded_wf, h]

theorem execFirmwareRestart_canonical {s} (h : Memory.wf s = true) (via) : Canonical (execFirmwareRestart via s) :=
  withVia_canonical h fun s w h => by simp [Memory.wf, guarded_wf, h]

theorem execActivationDeferralEnd_canonical {s} (h : Memory.wf s = true) :
    Canonical (execActivationDeferralEnd s) := by
  unfold execActivationDeferralEnd
  repeat' split
  all_goals simp [Memory.wf, h]

theorem execTrialFail_canonical {s} (h : Memory.wf s = true) : Canonical (execTrialFail s) := by
  unfold execTrialFail
  split <;> simp [Memory.wf, h]

theorem execOperatorKeyWrite_canonical {s} (h : Memory.wf s = true) (via key) :
    Canonical (execOperatorKeyWrite via key s) := by
  refine withVia_canonical h fun s w h => guarded_wf h ?_ ..
  rw [plainAnswer_fst]
  repeat' split
  all_goals exact h

theorem execTrustListLoad_canonical {s} (h : Memory.wf s = true) (via data) :
    Canonical (execTrustListLoad via data s) :=
  withVia_canonical h fun s w h => guardedBlock_wf h (by simp [Memory.wf, h]) ..

theorem execTopologyMapLoad_canonical {s} (h : Memory.wf s = true) (via data) :
    Canonical (execTopologyMapLoad via data s) :=
  withVia_canonical h fun s w h => guardedBlock_wf h (by simp [Memory.wf, h]) ..

theorem execTenantPolicyLoad_canonical {s} (h : Memory.wf s = true) (via data) :
    Canonical (execTenantPolicyLoad via data s) :=
  withVia_canonical h fun s w h => guardedBlock_wf h (by simp [Memory.wf, h]) ..

theorem execAttestationQuote_canonical {s} (h : Memory.wf s = true) (via nonce) :
    Canonical (execAttestationQuote via nonce s) :=
  withVia_canonical h fun s w h => by simp [Memory.wf, h]

/-! ### Power.lean -/

theorem execPowerOkRise_canonical {s} (h : Memory.wf s = true) (straps cold hot) :
    Canonical (execPowerOkRise straps cold hot s) := by
  unfold execPowerOkRise
  dsimp only
  repeat' split
  all_goals simp [Memory.wf, h]

theorem execPowerOkFall_canonical {s} (h : Memory.wf s = true) (aonLost) :
    Canonical (execPowerOkFall aonLost s) := by
  unfold execPowerOkFall
  dsimp only
  repeat' split
  all_goals simp [Memory.wf, h]

theorem execResetN_canonical {s} (h : Memory.wf s = true) : Canonical (execResetN s) := by
  unfold execResetN
  split <;> simp [Memory.wf, h]

theorem execResetNRelease_canonical {s} (h : Memory.wf s = true) (straps) :
    Canonical (execResetNRelease straps s) := by
  unfold execResetNRelease
  split <;> simp [Memory.wf, h]

theorem execResetCommand_canonical {s} (h : Memory.wf s = true) (via value) :
    Canonical (execResetCommand via value s) :=
  withVia_canonical h fun s w h => by simp [Memory.wf, guarded_wf, h]

theorem execPlateTrainingEnd_canonical {s} (h : Memory.wf s = true) (stack trained) :
    Canonical (execPlateTrainingEnd stack trained s) := by
  unfold execPlateTrainingEnd
  split <;> simp [Memory.wf, h]

theorem execSlabTrainingEnd_canonical {s} (h : Memory.wf s = true) (module size trained) :
    Canonical (execSlabTrainingEnd module size trained s) := by
  unfold execSlabTrainingEnd
  split <;> simp [Memory.wf, h]

theorem firstContexts_wf {s} (h : Memory.wf s = true) : Memory.wf (firstContexts s) = true :=
  wf_of_mem h (firstContexts_bytes s)

/-- The part made ready, as the end of the start of cores leaves it. -/
theorem partReady_canonical {s} (h : Memory.wf s = true) : Canonical (
    let s := setPwr s { s.pwr with partReady := true }
    .next (setReg (setReg s 0x9000 0x11 1) 0x9000 0x16 ((s.now - s.pwr.startedAt) * 5 / 9000 % 2 ^ 32))) := h

theorem execStartupComplete_canonical {s} (h : Memory.wf s = true) : Canonical (execStartupComplete s) := by
  unfold execStartupComplete
  split
  · exact partReady_canonical (firstContexts_wf h)
  · exact h

theorem execStartupTemperatureOk_canonical {s} (h : Memory.wf s = true) :
    Canonical (execStartupTemperatureOk s) := by
  unfold execStartupTemperatureOk
  split <;> simp [Memory.wf, h]

theorem execEpoAssert_canonical {s} (h : Memory.wf s = true) : Canonical (execEpoAssert s) := by
  unfold execEpoAssert
  dsimp only
  repeat' split
  all_goals simp [Memory.wf, h]

theorem execEpoRelease_canonical {s} (h : Memory.wf s = true) : Canonical (execEpoRelease s) := by
  unfold execEpoRelease
  split <;> simp [Memory.wf, h]

theorem execReferenceClockLoss_canonical {s} (h : Memory.wf s = true) (clock) :
    Canonical (execReferenceClockLoss clock s) := by
  unfold execReferenceClockLoss
  dsimp only
  split
  · exact h
  · generalize hu : setPwr s _ = u
    have hw : Memory.wf u = true := wf_of_mem h (by simp [← hu])
    split
    · generalize List.range 16 = l
      refine settle_wf (wf_foldl (fun t i ht => ?_) l hw)
      split
      · exact enterRecover_wf ht ..
      · split
        · exact wf_of_mem ht (by simp)
        · exact ht
    · generalize List.range 8 = l
      refine wf_foldl (fun t e ht => ?_) l hw
      split
      · exact wf_of_mem ht (by simp)
      · exact ht
    · show Memory.wf (if _ then _ else _) = true
      split
      · exact resetPart_wf ..
      · exact hw

theorem execReferenceClockReturn_canonical {s} (h : Memory.wf s = true) (clock) :
    Canonical (execReferenceClockReturn clock s) := by
  unfold execReferenceClockReturn
  dsimp only
  repeat' split
  all_goals simp [Memory.wf, h]

theorem execGovernorLimitWrite_canonical {s} (h : Memory.wf s = true) (via watts) :
    Canonical (execGovernorLimitWrite via watts s) :=
  withVia_canonical h fun s w h => by simp [Memory.wf, guarded_wf, h]

theorem execPowerSample_canonical {s} (h : Memory.wf s = true) (watts) : Canonical (execPowerSample watts s) := by
  unfold execPowerSample
  split <;> simp [Memory.wf, h]

theorem execGovernorStep_canonical {s} (h : Memory.wf s = true) (prediction) :
    Canonical (execGovernorStep prediction s) := by
  unfold execGovernorStep
  dsimp only
  repeat' split
  all_goals simp [Memory.wf, h]

theorem execGovernorRelax_canonical {s} (h : Memory.wf s = true) (prediction) :
    Canonical (execGovernorRelax prediction s) := by
  unfold execGovernorRelax
  split <;> simp [Memory.wf, h]

theorem execThermalSample_canonical {s} (h : Memory.wf s = true) (quarter reading) :
    Canonical (execThermalSample quarter reading s) := by
  unfold execThermalSample
  dsimp only
  repeat' split
  all_goals simp [Memory.wf, h]

theorem execThermalStepClear_canonical {s} (h : Memory.wf s = true) (quarter) :
    Canonical (execThermalStepClear quarter s) := by
  unfold execThermalStepClear
  repeat' split
  all_goals simp [Memory.wf, h]

/-! ### DictReads.lean -/

theorem execDexolRead_canonical {s} (h : Memory.wf s = true) (via index sub offset length arg) :
    Canonical (execDexolRead via index sub offset length arg s) :=
  withVia_canonical h fun s w h => by simp [Memory.wf, h]

/-! ### DictWrites.lean -/

theorem execFtStepCommand_canonical {s} (h : Memory.wf s = true) (via value) :
    Canonical (execFtStepCommand via value s) :=
  withVia_canonical h fun s w h => by simp [Memory.wf, guarded_wf, h]

theorem execTeeArmDict_canonical {s} (h : Memory.wf s = true) (via quarter data) :
    Canonical (execTeeArmDict via quarter data s) :=
  withVia_canonical h fun s w h => guardedBlock_wf h (by simp [Memory.wf, h]) ..

theorem execTeeDisarmDict_canonical {s} (h : Memory.wf s = true) (via quarter data) :
    Canonical (execTeeDisarmDict via quarter data s) :=
  withVia_canonical h fun s w h => guardedBlock_wf h (by simp [Memory.wf, h]) ..

theorem execC0QueuePush_canonical {s} (h : Memory.wf s = true) (via quarter data) :
    Canonical (execC0QueuePush via quarter data s) :=
  withVia_canonical h fun s w h => guardedBlock_wf h (by simp [Memory.wf, h]) ..

theorem execFQueueOpen_canonical {s} (h : Memory.wf s = true) (via quarter data) :
    Canonical (execFQueueOpen via quarter data s) :=
  withVia_canonical h fun s w h => guardedBlock_wf h (by simp [Memory.wf, h]) ..

theorem execDexolWrite_canonical {s} (h : Memory.wf s = true) (via index sub group offset last data) :
    Canonical (execDexolWrite via index sub group offset last data s) :=
  withVia_canonical h fun s w h => by simp [Memory.wf, h]

/-! ### Dexol.lean -/

theorem execOpenSession_canonical {s} (h : Memory.wf s = true) (port address datagram) :
    Canonical (execOpenSession port address datagram s) := by
  unfold execOpenSession
  dsimp only
  repeat' split
  all_goals simp [Memory.wf, h]

theorem execClose_canonical {s} (h : Memory.wf s = true) (id seq) : Canonical (execClose id seq s) := by
  have ht : Memory.wf (withSession s id seq fun s _ => (s, answer Code.ok)) = true := withSession_wf h fun _ _ h => h
  show Memory.wf (if _ then _ else _) = true
  split <;> exact ht

theorem execKeepalive_canonical {s} (h : Memory.wf s = true) (id seq) : Canonical (execKeepalive id seq s) :=
  withSession_wf h fun _ _ h => h

theorem execSessionIdleTimeout_canonical {s} (h : Memory.wf s = true) (id) :
    Canonical (execSessionIdleTimeout id s) := by
  unfold execSessionIdleTimeout
  split <;> simp [Memory.wf, h]

theorem execDexolDatagramDiscard_canonical {s} (h : Memory.wf s = true) :
    Canonical (execDexolDatagramDiscard s) := by
  simp [Memory.wf, execDexolDatagramDiscard, h]

theorem execCommit_canonical {s} (h : Memory.wf s = true) (via group scope) :
    Canonical (execCommit via group scope s) :=
  withVia_canonical h fun s w h => by simp [Memory.wf, h]

theorem execDiscard_canonical {s} (h : Memory.wf s = true) (via group scope) :
    Canonical (execDiscard via group scope s) :=
  withVia_canonical h fun s w h => by simp [Memory.wf, h]

theorem execSubscribe_canonical {s} (h : Memory.wf s = true) (id seq subId index sub periodic period) :
    Canonical (execSubscribe id seq subId index sub periodic period s) := by
  refine withSession_wf h fun s x h => ?_
  dsimp only
  split <;> exact h

theorem execUnsubscribe_canonical {s} (h : Memory.wf s = true) (id seq subId) :
    Canonical (execUnsubscribe id seq subId s) := withSession_wf h fun _ _ h => h

theorem execNotify_canonical {s} (h : Memory.wf s = true) (id subscription) :
    Canonical (execNotify id subscription s) := by
  unfold execNotify
  dsimp only
  repeat' split
  all_goals simp [Memory.wf, h]

/-! ### Replies.lean -/

theorem replyIn_canonical {s} (h : Memory.wf s = true) {p} {k : State → State}
    (hk : ∀ s, Memory.wf s = true → Memory.wf (k s) = true) : Canonical (replyIn s p k) := by
  have hl : Memory.wf (learnInc s p.src p.srcInc) = true := wf_of_mem h (by simp)
  unfold replyIn
  repeat' split
  · exact bump_wf h _ _
  · exact h
  · exact bump_wf h _ _
  · exact hl
  · exact settle_wf (badReply_wf hl _)
  · exact settle_wf (hk _ hl)

theorem execAck_canonical {s} (h : Memory.wf s = true) (p) : Canonical (execAck p s) := by
  refine replyIn_canonical h fun s h => ?_
  dsimp only
  repeat' split
  all_goals simp [Memory.wf, h]

theorem execNack_canonical {s} (h : Memory.wf s = true) (p) : Canonical (execNack p s) := by
  refine replyIn_canonical h fun s h => ?_
  dsimp only
  repeat' split
  all_goals simp [Memory.wf, h]

theorem execAtomicReply_canonical {s} (h : Memory.wf s = true) (p) : Canonical (execAtomicReply p s) :=
  replyIn_canonical h fun s h => by simp [Memory.wf, h]

theorem execReadReply_canonical {s} (h : Memory.wf s = true) (p) : Canonical (execReadReply p s) :=
  replyIn_canonical h fun s h => by simp [Memory.wf, h]

theorem execCas128Reply_canonical {s} (h : Memory.wf s = true) (p) : Canonical (execCas128Reply p s) :=
  replyIn_canonical h fun s h => by simp [Memory.wf, h]

theorem execResendTimerExpire_canonical {s} (h : Memory.wf s = true) (node srcQueue seq) :
    Canonical (execResendTimerExpire node srcQueue seq s) := by
  unfold execResendTimerExpire
  repeat' split
  all_goals simp [Memory.wf, h]

theorem execNackBackoffExpire_canonical {s} (h : Memory.wf s = true) (node srcQueue seq) :
    Canonical (execNackBackoffExpire node srcQueue seq s) := by
  unfold execNackBackoffExpire
  repeat' split
  all_goals simp [Memory.wf, h]

theorem execRequestGiveUp_canonical {s} (h : Memory.wf s = true) (node srcQueue seq) :
    Canonical (execRequestGiveUp node srcQueue seq s) := by
  unfold execRequestGiveUp
  repeat' split
  all_goals simp [Memory.wf, h]

theorem execAckMergeExpire_canonical {s} (h : Memory.wf s = true) (src srcQueue) :
    Canonical (execAckMergeExpire src srcQueue s) := by
  simp [Memory.wf, execAckMergeExpire, h]

theorem execFlowRecordExpire_canonical {s} (h : Memory.wf s = true) (src srcQueue srcInc) :
    Canonical (execFlowRecordExpire src srcQueue srcInc s) := by
  unfold execFlowRecordExpire
  dsimp only
  repeat' split
  all_goals simp [Memory.wf, h]

theorem execResultEntryExpire_canonical {s} (h : Memory.wf s = true) (src srcQueue srcInc seq) :
    Canonical (execResultEntryExpire src srcQueue srcInc seq s) := by
  unfold execResultEntryExpire
  dsimp only
  repeat' split
  all_goals simp [Memory.wf, h]

/-! ### The step -/

/-- Every command keeps the bytes of memory in canonical form. -/
theorem exec_canonical {s : State} (h : Memory.wf s = true) (c : Instr) : Canonical (exec c s) :=
  match c with
  | .ftTickFireTee .. => execFtTickFireTee_canonical h ..
  | .beaconSend .. => execBeaconSend_canonical h ..
  | .timeBeacon .. => execTimeBeacon_canonical h ..
  | .ftLockReached => execFtLockReached_canonical h
  | .ftOffsetLimitExceeded => execFtOffsetLimitExceeded_canonical h
  | .parentLost => execParentLost_canonical h
  | .holdoverHuddleLimit => execHoldoverHuddleLimit_canonical h
  | .announceSend => execAnnounceSend_canonical h
  | .timeAnnounce .. => execTimeAnnounce_canonical h ..
  | .taiStepMaster => execTaiStepMaster_canonical h
  | .externalLockGained => execExternalLockGained_canonical h
  | .ppsEdge => execPpsEdge_canonical h
  | .ftStepCommand .. => execFtStepCommand_canonical h ..
  | .armTee .. => execArmTee_canonical h ..
  | .disarmTee .. => execDisarmTee_canonical h ..
  | .teeArmDict .. => execTeeArmDict_canonical h ..
  | .teeDisarmDict .. => execTeeDisarmDict_canonical h ..
  | .huddleArm .. => execHuddleArm_canonical h ..
  | .huddleArrive .. => execHuddleArrive_canonical h ..
  | .huddleArrivePacket .. => execHuddleArrivePacket_canonical h ..
  | .huddleRelease .. => execHuddleRelease_canonical h ..
  | .huddleRootTimeout .. => execHuddleRootTimeout_canonical h ..
  | .huddleReleaseTimeout .. => execHuddleReleaseTimeout_canonical h ..
  | .map .. => execMap_canonical h ..
  | .unmap .. => execUnmap_canonical h ..
  | .unmapDrainEnd .. => execUnmapDrainEnd_canonical h ..
  | .unmapWaitLimit .. => execUnmapWaitLimit_canonical h ..
  | .walkComplete .. => execWalkComplete_canonical h ..
  | .openWindow .. => execOpenWindow_canonical h ..
  | .closeWindow .. => execCloseWindow_canonical h ..
  | .reservationExpire .. => execReservationExpire_canonical h ..
  | .descriptorDispatch .. => execDescriptorDispatch_canonical h ..
  | .descriptorComplete .. => execDescriptorComplete_canonical h ..
  | .nop .. => execNop_canonical h ..
  | .waitFlag .. => execWaitFlag_canonical h ..
  | .waitFlagTimeout .. => execWaitFlagTimeout_canonical h ..
  | .startPlay .. => execStartPlay_canonical h ..
  | .loadPlay .. => execLoadPlay_canonical h ..
  | .armPlay .. => execArmPlay_canonical h ..
  | .disarmPlay .. => execDisarmPlay_canonical h ..
  | .playAppend .. => execPlayAppend_canonical h ..
  | .whistle .. => execWhistle_canonical h ..
  | .openQueue .. => execOpenQueue_canonical h ..
  | .closeQueue .. => execCloseQueue_canonical h ..
  | .resumeQueue .. => execResumeQueue_canonical h ..
  | .openRing .. => execOpenRing_canonical h ..
  | .closeRing .. => execCloseRing_canonical h ..
  | .coalesceTimeout .. => execCoalesceTimeout_canonical h ..
  | .ringHeadReread .. => execRingHeadReread_canonical h ..
  | .copy .. => execCopy_canonical h ..
  | .fill .. => execFill_canonical h ..
  | .cacheLineExpire .. => execCacheLineExpire_canonical h ..
  | .flagHoldTimeout .. => execFlagHoldTimeout_canonical h ..
  | .readReq .. => execReadReq_canonical h ..
  | .probe .. => execProbe_canonical h ..
  | .write .. => execWrite_canonical h ..
  | .flaggedWrite .. => execFlaggedWrite_canonical h ..
  | .queuePush .. => execQueuePush_canonical h ..
  | .reduceContrib .. => execReduceContrib_canonical h ..
  | .atomic .. => execAtomic_canonical h ..
  | .cas64 .. => execCas64_canonical h ..
  | .cas128 .. => execCas128_canonical h ..
  | .relayWrite .. => execRelayWrite_canonical h ..
  | .relayFlaggedWrite .. => execRelayFlaggedWrite_canonical h ..
  | .reservedOpcodePacket .. => execReservedOpcodePacket_canonical h ..
  | .ack .. => execAck_canonical h ..
  | .nack .. => execNack_canonical h ..
  | .atomicReply .. => execAtomicReply_canonical h ..
  | .readReply .. => execReadReply_canonical h ..
  | .cas128Reply .. => execCas128Reply_canonical h ..
  | .resendTimerExpire .. => execResendTimerExpire_canonical h ..
  | .nackBackoffExpire .. => execNackBackoffExpire_canonical h ..
  | .requestGiveUp .. => execRequestGiveUp_canonical h ..
  | .ackMergeExpire .. => execAckMergeExpire_canonical h ..
  | .flowRecordExpire .. => execFlowRecordExpire_canonical h ..
  | .resultEntryExpire .. => execResultEntryExpire_canonical h ..
  | .packetRoute .. => execPacketRoute_canonical h ..
  | .cellAdmit .. => execCellAdmit_canonical h ..
  | .cellToOutput .. => execCellToOutput_canonical h ..
  | .spillFetch .. => execSpillFetch_canonical h ..
  | .packetTransmit .. => execPacketTransmit_canonical h ..
  | .flowRefresh .. => execFlowRefresh_canonical h ..
  | .flowWord .. => execFlowWord_canonical h ..
  | .portLoadSample => execPortLoadSample_canonical h
  | .congNote .. => execCongNote_canonical h ..
  | .limiterIncrease .. => execLimiterIncrease_canonical h ..
  | .groupArm .. => execGroupArm_canonical h ..
  | .groupDisarm .. => execGroupDisarm_canonical h ..
  | .contribute .. => execContribute_canonical h ..
  | .roundWait .. => execRoundWait_canonical h ..
  | .roundWaitTimeout .. => execRoundWaitTimeout_canonical h ..
  | .roundEnd .. => execRoundEnd_canonical h ..
  | .segmentFeed .. => execSegmentFeed_canonical h ..
  | .duplicateCheckDone .. => execDuplicateCheckDone_canonical h ..
  | .streamArm .. => execStreamArm_canonical h ..
  | .streamDisarm .. => execStreamDisarm_canonical h ..
  | .stepApply .. => execStepApply_canonical h ..
  | .applyComplete .. => execApplyComplete_canonical h ..
  | .ledgerArm .. => execLedgerArm_canonical h ..
  | .parityArm .. => execParityArm_canonical h ..
  | .ledgerAbort .. => execLedgerAbort_canonical h ..
  | .ledgerResolve .. => execLedgerResolve_canonical h ..
  | .emitCommitted .. => execEmitCommitted_canonical h ..
  | .parityComplete .. => execParityComplete_canonical h ..
  | .arenaArm .. => execArenaArm_canonical h ..
  | .arenaDisarm .. => execArenaDisarm_canonical h ..
  | .tilePack .. => execTilePack_canonical h ..
  | .tileUnpack .. => execTileUnpack_canonical h ..
  | .tileMove .. => execTileMove_canonical h ..
  | .tileFree .. => execTileFree_canonical h ..
  | .tileStat .. => execTileStat_canonical h ..
  | .compactionMove .. => execCompactionMove_canonical h ..
  | .backgroundZeroFill .. => execBackgroundZeroFill_canonical h ..
  | .patrolScrub .. => execPatrolScrub_canonical h ..
  | .caddieArm .. => execCaddieArm_canonical h ..
  | .caddieDisarm .. => execCaddieDisarm_canonical h ..
  | .caddieWait .. => execCaddieWait_canonical h ..
  | .caddieWaitTimeout .. => execCaddieWaitTimeout_canonical h ..
  | .caddieFlush .. => execCaddieFlush_canonical h ..
  | .caddieEntryStart .. => execCaddieEntryStart_canonical h ..
  | .caddieEntryLand .. => execCaddieEntryLand_canonical h ..
  | .caddieDeadlineMiss .. => execCaddieDeadlineMiss_canonical h ..
  | .contextCreate .. => execContextCreate_canonical h ..
  | .contextTeardown .. => execContextTeardown_canonical h ..
  | .contextReset .. => execContextReset_canonical h ..
  | .teardownDrainEnd .. => execTeardownDrainEnd_canonical h ..
  | .teardownDrainLimit .. => execTeardownDrainLimit_canonical h ..
  | .clearPhaseEnd .. => execClearPhaseEnd_canonical h ..
  | .queueResumeDict .. => execQueueResumeDict_canonical h ..
  | .groupEntryWrite .. => execGroupEntryWrite_canonical h ..
  | .nodeLossTimeout .. => execNodeLossTimeout_canonical h ..
  | .fenceNotice .. => execFenceNotice_canonical h ..
  | .fenceNoticeRepeat .. => execFenceNoticeRepeat_canonical h ..
  | .fenceCommand .. => execFenceCommand_canonical h ..
  | .lastGasp .. => execLastGasp_canonical h ..
  | .gaspMarkExpire .. => execGaspMarkExpire_canonical h ..
  | .powerWarning => execPowerWarning_canonical h
  | .powerStopIssue => execPowerStopIssue_canonical h
  | .powerStopAbandon => execPowerStopAbandon_canonical h
  | .powerWarningClear => execPowerWarningClear_canonical h
  | .rebuildStart .. => execRebuildStart_canonical h ..
  | .rebuildRecordDone .. => execRebuildRecordDone_canonical h ..
  | .adoptInnings .. => execAdoptInnings_canonical h ..
  | .inningsReplay .. => execInningsReplay_canonical h ..
  | .faultRecordsConsume .. => execFaultRecordsConsume_canonical h ..
  | .faultSummaryClear .. => execFaultSummaryClear_canonical h ..
  | .suspectDecay => execSuspectDecay_canonical h
  | .unitRestore .. => execUnitRestore_canonical h ..
  | .commaLock .. => execCommaLock_canonical h ..
  | .serveMessageSend .. => execServeMessageSend_canonical h ..
  | .serveMessage .. => execServeMessage_canonical h ..
  | .serveTimeout .. => execServeTimeout_canonical h ..
  | .trainingFrame .. => execTrainingFrame_canonical h ..
  | .equaliseTimeout .. => execEqualiseTimeout_canonical h ..
  | .alignBlock .. => execAlignBlock_canonical h ..
  | .lockTimeout .. => execLockTimeout_canonical h ..
  | .linkFrame .. => execLinkFrame_canonical h ..
  | .capFragment .. => execCapFragment_canonical h ..
  | .capFragmentTimeout .. => execCapFragmentTimeout_canonical h ..
  | .capMessageRepeat .. => execCapMessageRepeat_canonical h ..
  | .hello .. => execHello_canonical h ..
  | .confirm .. => execConfirm_canonical h ..
  | .resume .. => execResume_canonical h ..
  | .ready .. => execReady_canonical h ..
  | .capabilityTimeout .. => execCapabilityTimeout_canonical h ..
  | .heldBackoffEnd .. => execHeldBackoffEnd_canonical h ..
  | .lossOfSignal .. => execLossOfSignal_canonical h ..
  | .alignMissing .. => execAlignMissing_canonical h ..
  | .uncorrectableLimit .. => execUncorrectableLimit_canonical h ..
  | .tagFailureLimit .. => execTagFailureLimit_canonical h ..
  | .symbolErrorLimit .. => execSymbolErrorLimit_canonical h ..
  | .recoveryNotice .. => execRecoveryNotice_canonical h ..
  | .recoverEnd .. => execRecoverEnd_canonical h ..
  | .rdmaWrite .. => execRdmaWrite_canonical h ..
  | .rdmaWritePush .. => execRdmaWritePush_canonical h ..
  | .rdmaRead .. => execRdmaRead_canonical h ..
  | .sendWithImmediate .. => execSendWithImmediate_canonical h ..
  | .fetchAdd .. => execFetchAdd_canonical h ..
  | .compareSwap .. => execCompareSwap_canonical h ..
  | .roceUnsupportedOpcode .. => execRoceUnsupportedOpcode_canonical h ..
  | .roceRequesterResponse .. => execRoceRequesterResponse_canonical h ..
  | .roceRequesterTimeout .. => execRoceRequesterTimeout_canonical h ..
  | .congestionNotification .. => execCongestionNotification_canonical h ..
  | .queuePairCreate .. => execQueuePairCreate_canonical h ..
  | .queuePairDestroy .. => execQueuePairDestroy_canonical h ..
  | .udpDoorbell .. => execUdpDoorbell_canonical h ..
  | .ptpMessage .. => execPtpMessage_canonical h ..
  | .ptpAnnounceTimeout => execPtpAnnounceTimeout_canonical h
  | .ethernetLinkUp .. => execEthernetLinkUp_canonical h ..
  | .arpRequest .. => execArpRequest_canonical h ..
  | .neighborSolicitation .. => execNeighborSolicitation_canonical h ..
  | .icmpEcho .. => execIcmpEcho_canonical h ..
  | .ethernetFrameDiscard .. => execEthernetFrameDiscard_canonical h ..
  | .openSession .. => execOpenSession_canonical h ..
  | .close .. => execClose_canonical h ..
  | .keepalive .. => execKeepalive_canonical h ..
  | .dexolRead .. => execDexolRead_canonical h ..
  | .dexolWrite .. => execDexolWrite_canonical h ..
  | .commit .. => execCommit_canonical h ..
  | .discard .. => execDiscard_canonical h ..
  | .subscribe .. => execSubscribe_canonical h ..
  | .unsubscribe .. => execUnsubscribe_canonical h ..
  | .notify .. => execNotify_canonical h ..
  | .sessionIdleTimeout .. => execSessionIdleTimeout_canonical h ..
  | .dexolDatagramDiscard => execDexolDatagramDiscard_canonical h
  | .c0QueuePush .. => execC0QueuePush_canonical h ..
  | .fQueueOpen .. => execFQueueOpen_canonical h ..
  | .imageSegmentWrite .. => execImageSegmentWrite_canonical h ..
  | .updateVerify .. => execUpdateVerify_canonical h ..
  | .updateActivate .. => execUpdateActivate_canonical h ..
  | .updateCancel .. => execUpdateCancel_canonical h ..
  | .updateCommit .. => execUpdateCommit_canonical h ..
  | .firmwareRestart .. => execFirmwareRestart_canonical h ..
  | .activationDeferralEnd => execActivationDeferralEnd_canonical h
  | .trialFail => execTrialFail_canonical h
  | .watchdogExpire .. => execWatchdogExpire_canonical h ..
  | .operatorKeyWrite .. => execOperatorKeyWrite_canonical h ..
  | .trustListLoad .. => execTrustListLoad_canonical h ..
  | .topologyMapLoad .. => execTopologyMapLoad_canonical h ..
  | .tenantPolicyLoad .. => execTenantPolicyLoad_canonical h ..
  | .attestationQuote .. => execAttestationQuote_canonical h ..
  | .powerOkRise .. => execPowerOkRise_canonical h ..
  | .powerOkFall .. => execPowerOkFall_canonical h ..
  | .resetN => execResetN_canonical h
  | .resetCommand .. => execResetCommand_canonical h ..
  | .plateTrainingEnd .. => execPlateTrainingEnd_canonical h ..
  | .slabTrainingEnd .. => execSlabTrainingEnd_canonical h ..
  | .startupComplete => execStartupComplete_canonical h
  | .startupTemperatureOk => execStartupTemperatureOk_canonical h
  | .epoAssert => execEpoAssert_canonical h
  | .epoRelease => execEpoRelease_canonical h
  | .referenceClockLoss .. => execReferenceClockLoss_canonical h ..
  | .governorLimitWrite .. => execGovernorLimitWrite_canonical h ..
  | .powerSample .. => execPowerSample_canonical h ..
  | .governorStep .. => execGovernorStep_canonical h ..
  | .governorRelax .. => execGovernorRelax_canonical h ..
  | .thermalSample .. => execThermalSample_canonical h ..
  | .thermalStepClear .. => execThermalStepClear_canonical h ..
  | .commaLockLost .. => execCommaLockLost_canonical h ..
  | .trainingFrameSend .. => execTrainingFrameSend_canonical h ..
  | .ethernetLinkDown .. => execEthernetLinkDown_canonical h ..
  | .managementAutonegTimeout => execManagementAutonegTimeout_canonical h
  | .resetNRelease .. => execResetNRelease_canonical h ..
  | .referenceClockReturn .. => execReferenceClockReturn_canonical h ..
  | .firmwareCoreRunning .. => execFirmwareCoreRunning_canonical h ..
  | .arenaLargestSample => execArenaLargestSample_canonical h
  | .roceRnrTimerExpire .. => execRoceRnrTimerExpire_canonical h ..

theorem step_canonical {s : State} (h : Memory.wf s = true) : Canonical (step s) := by
  unfold step
  split
  case h_1 => exact h
  case h_2 c rest _ => exact exec_canonical (s := s.withQueue rest) h c

/-- Settles O4: whatever the command, what it writes is written through operations that keep the form. -/
theorem memoryStaysCanonical : Obligations.MemoryStaysCanonical := by
  intro s t hs hstep
  have h : Canonical (step s) := step_canonical hs
  rw [hstep] at h
  exact h

end Sys2Proof.Machine
end

section
/-! PROOFS. Pages: MAP and UNMAP, the end of an UNMAP's drain, and the end of a walk (O16; R51 to R60). -/

namespace Sys2Proof.Machine

/-! ## The commands and their meanings -/

theorem exec_map (d : DescRef) (s : State) : exec (.map d) s = execMap d s := rfl

theorem exec_unmap (d : DescRef) (s : State) : exec (.unmap d) s = execUnmap d s := rfl

theorem exec_unmapDrainEnd (d : DescRef) (s : State) : exec (.unmapDrainEnd d) s = execUnmapDrainEnd d s := rfl

theorem exec_unmapWaitLimit (d : DescRef) (s : State) : exec (.unmapWaitLimit d) s = execUnmapWaitLimit d s := rfl

theorem exec_walkComplete (q : Nat) (s : State) : exec (.walkComplete q) s = execWalkComplete q s := rfl

/-! ## MAP and UNMAP past their form (R51, R53, R54) -/

section
variable {s t : State} {d : DescRef} {f : Flight}

theorem exec_map_of_wellFormed (hact : MayAct s d 0x10 f) (hform : mapForm (actsOn s f) f = Code.ok) :
    exec (.map d) s = .next (settle
      (if mapWaits (actsOn s f) (opnd f.desc 0 12) then queueMap (actsOn s f) (refKey d) (opnd f.desc 0 12)
      else applyMap (actsOn s f) (refKey d) f)) := by
  rw [exec_map, execMap, withDesc_acts hact]
  simp only [hform, ne_eq, not_true_eq_false, if_false]
  split <;> rfl

theorem exec_unmap_of_wellFormed (hact : MayAct s d 0x11 f) (hform : unmapForm (actsOn s f) f = Code.ok) :
    exec (.unmap d) s = .next (settle
      (if mapWaits (actsOn s f) (opnd f.desc 0 12) then queueMap (actsOn s f) (refKey d) (opnd f.desc 0 12)
      else applyUnmap (actsOn s f) (refKey d) f)) := by
  rw [exec_unmap, execUnmap, withDesc_acts hact]
  simp only [hform, ne_eq, not_true_eq_false, if_false]
  split <;> rfl

theorem mapForm_of_clean (hcount : opnd f.desc 112 24 ≠ 0) (hsize : opnd f.desc 12 2 ≠ 3)
    (hva : opnd f.desc 16 48 % pageBytes (opnd f.desc 12 2) = 0)
    (hpa : opnd f.desc 64 48 % pageBytes (opnd f.desc 12 2) = 0)
    (hatomic : opBit f.desc 138 = true → opBit f.desc 136 = true ∧ opBit f.desc 137 = true)
    (h14 : clean f.desc 14 2 = true) (h141 : clean f.desc 141 307 = true) (hzero : f.ctx = 0)
    (hctx : ctxFieldStatus t f (opnd f.desc 0 12) = Code.ok) : mapForm t f = Code.ok := by
  have hrights : (opBit f.desc 138 && !(opBit f.desc 136 && opBit f.desc 137)) = false := by
    cases ha : opBit f.desc 138
    case false => rfl
    case true => obtain ⟨hr, hw⟩ := hatomic ha; simp [hr, hw]
  simp only [mapForm, firstOf, hrights]
  simp [hcount, hsize, hva, hpa, h14, h141, hzero, hctx]

theorem unmapForm_of_clean (hcount : opnd f.desc 112 24 ≠ 0) (hsize : opnd f.desc 12 2 ≠ 3)
    (hva : opnd f.desc 16 48 % pageBytes (opnd f.desc 12 2) = 0) (h15 : opBit f.desc 15 = false)
    (h64 : clean f.desc 64 48 = true) (h136 : clean f.desc 136 24 = true) (h192 : clean f.desc 192 256 = true)
    (hzero : f.ctx = 0) (hctx : ctxFieldStatus t f (opnd f.desc 0 12) = Code.ok) : unmapForm t f = Code.ok := by
  simp [unmapForm, firstOf, hcount, hsize, hva, h15, h64, h136, h192, hzero, hctx]

/-- The range of a MAP is free in its context, and its physical pages may be mapped (R51 checks 2 to 6). -/
theorem mapSpace_of_free {ctx size va pa len : Nat} (hctx : ctx = opnd f.desc 0 12) (hsize : size = opnd f.desc 12 2)
    (hva : va = opnd f.desc 16 48) (hpa : pa = opnd f.desc 64 48) (hlen : len = opnd f.desc 112 24 * pageBytes size)
    (hend : va + len ≤ spaceEnd t ctx) (hunit : paOffset pa + len ≤ unitBound t (paTier pa) (paUnit pa))
    (hhw : inHardware t pa = false) (hpad : ¬(paTier pa = 3 ∧ (size = 2 ∨ paMapped t pa len = true)))
    (hF : ¬(paTier pa = 3 ∧ ctx = 0 ∧ ((queueOf t f.ctx f.queue).map (·.fQueue)).getD false = true))
    (hfree : (extentsOf t ctx).any (fun x => x.touches va len) = false)
    (hquota : paTier pa = 3 → ctx ≠ 0 → scratchHeld t ctx + len ≤ reg t (ctxIdx ctx) 0x1E * 65536) :
    mapSpace t f = Code.ok := by
  subst hctx hsize hva hpa hlen
  have hF' : ((((queueOf t f.ctx f.queue).map (·.fQueue)).getD false && paTier (opnd f.desc 64 48) == 3) &&
      opnd f.desc 0 12 == 0) = false := by
    by_contra h
    simp only [Bool.not_eq_false, Bool.and_eq_true, beq_iff_eq] at h
    exact hF ⟨h.1.2, h.2, h.1.1⟩
  have hbig : (opnd f.desc 12 2 == 2 && paTier (opnd f.desc 64 48) == 3) = false := by
    by_contra h
    simp only [Bool.not_eq_false, Bool.and_eq_true, beq_iff_eq] at h
    exact hpad ⟨h.2, .inl h.1⟩
  have hmapped : (paTier (opnd f.desc 64 48) == 3 &&
      paMapped t (opnd f.desc 64 48) (opnd f.desc 112 24 * pageBytes (opnd f.desc 12 2))) = false := by
    by_contra h
    simp only [Bool.not_eq_false, Bool.and_eq_true, beq_iff_eq] at h
    exact hpad ⟨h.1, .inr h.2⟩
  have hquota' : (paTier (opnd f.desc 64 48) == 3 && opnd f.desc 0 12 != 0 &&
      decide (reg t (ctxIdx (opnd f.desc 0 12)) 0x1E * 65536 <
        scratchHeld t (opnd f.desc 0 12) + opnd f.desc 112 24 * pageBytes (opnd f.desc 12 2))) = false := by
    by_contra h
    simp only [Bool.not_eq_false, Bool.and_eq_true, beq_iff_eq, bne_iff_ne, decide_eq_true_eq] at h
    exact absurd (hquota h.1.1 h.1.2) (Nat.not_le.mpr h.2)
  simp only [mapSpace, firstOf, decide_eq_false (Nat.not_lt.mpr hend), decide_eq_false (Nat.not_lt.mpr hunit), hhw, hfree,
    hF', hbig, hmapped, hquota', Bool.false_and, Bool.or_false, Bool.false_eq_true, if_false]

/-- A MAP whose range is free enters as many pages as there are tables for (R48, R52). -/
theorem applyMap_of_free {n : Nat} (hspace : mapSpace t f = Code.ok)
    (hn : n = fitCount (fun m => tablesFit t (opnd f.desc 0 12) (otherTables t (opnd f.desc 0 12))
      (insertExtent (mapExtent f.desc m) (extentsOf t (opnd f.desc 0 12)))) 25 0 (opnd f.desc 112 24)) (fk : Nat) :
    applyMap t fk f =
      finish (if n = 0 then t else setPages t (opnd f.desc 0 12)
          (insertExtent (mapExtent f.desc n) (extentsOf t (opnd f.desc 0 12)))) fk
        (if n = opnd f.desc 112 24 then Code.ok else Code.quota) (BitVec.ofNat 64 n) := by
  subst hn
  simp only [applyMap, hspace, ne_eq, not_true_eq_false, if_false]

/-- An UNMAP of a range of whole pages, some of them mapped, cuts them (R53). -/
theorem applyUnmap_of_mapped {ctx va len : Nat} (hctx : ctx = opnd f.desc 0 12) (hva : va = opnd f.desc 16 48)
    (hlen : len = opnd f.desc 112 24 * pageBytes (opnd f.desc 12 2)) (hend : va + len ≤ spaceEnd t ctx)
    (hwhole : (extentsOf t ctx).any (fun e => cutsThrough e va len) = false)
    (hmapped : (extentsOf t ctx).any (fun e => e.touches va len) = true) (fk : Nat) :
    applyUnmap t fk f = cutPages t fk f := by
  subst hctx hva hlen
  simp only [applyUnmap, if_neg (Nat.not_lt.mpr hend), hwhole, hmapped, Bool.false_eq_true, if_false, if_true]

end

/-! ## The end of a drain (R56, R57, R59) -/

section
variable {s : State} {d : DescRef} {u : UnmapJob}

theorem drainOver_of_unheld (hh : holdersOf s u.ctx u.va u.length = []) (hr : resvCount s u.ctx u.va u.length = 0)
    (hq : requestHeld s u.ctx u.va u.length = false) : drainOver s u = true := by
  simp [drainOver, hh, hr, hq]

/-- The UNMAP found by its descriptor is that descriptor's. -/
theorem unmapOf_owner (h : (s.xlat.unmaps.find? fun u => u.owner == refKey d) = some u) : u.owner = refKey d := by
  simpa using List.find?_some h

theorem exec_unmapDrainEnd_of_over (h : (s.xlat.unmaps.find? fun u => u.owner == refKey d) = some u)
    (hover : drainOver s u = true) : exec (.unmapDrainEnd d) s = .next (settle (releaseUnmap s u)) := by
  simp only [exec_unmapDrainEnd, execUnmapDrainEnd, h, hover, if_true]

theorem exec_unmapWaitLimit_of_passed {limit : Nat} (h : (s.xlat.unmaps.find? fun u => u.owner == refKey d) = some u)
    (hl : u.limit = some limit) (hp : passedUs s u.cutAt limit = true) :
    exec (.unmapWaitLimit d) s =
      let r := abortRange s u.ctx u.va u.length
      .next (settle (modUnmap r.1 (refKey d) fun u => { u with limit := none, aborted := u.aborted + r.2 })) := by
  simp only [exec_unmapWaitLimit, execUnmapWaitLimit, h, hl, hp, if_true]

end

/-! ## The end of a walk (R60) -/

/-- A unit whose first walk has ended: the page is awaited by no stream of the context. -/
def walkEnded (u : TransUnit) (w : Walk) (rest : List Walk) : TransUnit :=
  { u with
    walks := rest
    streams := u.streams.map fun x =>
      if x.ctx = w.ctx then
        { x with misses := x.misses.filter fun va => va != w.va, behind := x.behind.filter fun va => va != w.va }
      else x }

/-- The walk caches of a unit with the levels that a walk to a mapped page has passed. -/
def walkCached (s : State) (wc : List WalkEntry) (w : Walk) (e : Extent) : List WalkEntry :=
  let va := e.pageOf w.va
  let wc := if e.size ≤ 1 then enterWalk 256 wc { ctx := w.ctx, level := 1, index := va / 2 ^ 30, used := s.now } else wc
  if e.size = 0 then enterWalk 1024 wc { ctx := w.ctx, level := 2, index := va / 2 ^ 21, used := s.now } else wc

/-- The TLB with the page that a walk has found. -/
def walkEntered (s : State) (tlb : List TlbEntry) (w : Walk) (e : Extent) : List TlbEntry :=
  if tlbHolds tlb w.ctx (e.pageOf w.va) e.size then tlb
  else enterTlb (reg s 0x2800 0x01) tlb { ctx := w.ctx, va := e.pageOf w.va, size := e.size, used := s.now }

section
variable {s : State} {q : Nat} {w : Walk} {rest : List Walk} {e : Extent}

theorem exec_walkComplete_of_unmapped (hw : (s.xlat.units.get q).walks = w :: rest)
    (he : extentAt s w.ctx w.va = none) :
    exec (.walkComplete q) s =
      let u := walkEnded (s.xlat.units.get q) w rest
      .next { s with xlat := { s.xlat with
        units := s.xlat.units.set q (startWalks (reg s 0x2800 0x02) 16 (retryMisses s u)) } } := by
  simp only [exec_walkComplete, execWalkComplete, hw, he]
  rfl

theorem exec_walkComplete_of_mapped (hw : (s.xlat.units.get q).walks = w :: rest)
    (he : extentAt s w.ctx w.va = some e) :
    exec (.walkComplete q) s =
      let v := s.xlat.units.get q
      let u := { walkEnded v w rest with
        walkCache := walkCached s v.walkCache w e
        tlb := walkEntered s v.tlb w e }
      .next { s with xlat := { s.xlat with
        units := s.xlat.units.set q (startWalks (reg s 0x2800 0x02) 16 (retryMisses s u)) } } := by
  simp only [exec_walkComplete, execWalkComplete, hw, he]
  rfl

/-- A page found is in the TLB that held it or had room for it. -/
theorem walkEntered_holds {tlb : List TlbEntry} (h : tlbHolds tlb w.ctx (e.pageOf w.va) e.size = true ∨
      (tlb.filter fun x => x.ctx == w.ctx).length < reg s 0x2800 0x01 ∧ tlb.length < 8192) :
    tlbHolds (walkEntered s tlb w e) w.ctx (e.pageOf w.va) e.size = true := by
  unfold walkEntered
  split
  case isTrue hheld => exact hheld
  case isFalse hnot =>
    obtain ⟨hctx, hall⟩ := h.resolve_left hnot
    exact enterTlb_holds _ _ _ hctx hall

end

/-- Settles O16: each command past its checks, and the two ends of a walk. -/
theorem pagesAreMappedAndUnmapped : Obligations.PagesAreMappedAndUnmapped := by
  refine ⟨?map, ?unmap, ?mapWaits, ?unmapWaits, ?drained, ?limit, ?unmapped, ?mapped⟩
  case map =>
    intro s t d f ctx size va pa count len n e hact ht hctx hsize hva hpa hcount hlen he hc0 hs3 hvap hpap hatomic
      h14 h141 hzero hfield hwaits hend hunit hhw hpad hF hfree hquota hn
    have hee : e = mapExtent f.desc := funext fun m => by rw [he m, hva, hpa, hsize]; rfl
    subst ht hcount hee
    have hspace : mapSpace (actsOn s f) f = Code.ok :=
      mapSpace_of_free hctx hsize hva hpa hlen hend hunit hhw hpad hF hfree hquota
    subst hctx hsize hva hpa hlen
    rw [exec_map_of_wellFormed hact (mapForm_of_clean hc0 hs3 hvap hpap hatomic h14 h141 hzero hfield), hwaits,
      if_neg Bool.false_ne_true, applyMap_of_free hspace hn]
    rfl
  case unmap =>
    intro s t d f ctx size va count len hact ht hctx hsize hva hcount hlen hc0 hs3 hvap h15 h64 h136 h192 hzero hfield
      hwaits hend hwhole hmapped
    subst ht hctx hsize hva hcount hlen
    rw [exec_unmap_of_wellFormed hact (unmapForm_of_clean hc0 hs3 hvap h15 h64 h136 h192 hzero hfield), hwaits,
      if_neg Bool.false_ne_true, applyUnmap_of_mapped rfl rfl rfl hend hwhole hmapped]
    rfl
  case mapWaits =>
    intro s t d f hact ht hform hwaits
    subst ht
    rw [exec_map_of_wellFormed hact hform, if_pos hwaits]
  case unmapWaits =>
    intro s t d f hact ht hform hwaits
    subst ht
    rw [exec_unmap_of_wellFormed hact hform, if_pos hwaits]
  case drained =>
    intro s d u hu hh hr hq
    rw [exec_unmapDrainEnd_of_over hu (drainOver_of_unheld hh hr hq), releaseUnmap, unmapOf_owner hu]
  case limit =>
    intro s d u limit hu hl hp
    exact exec_unmapWaitLimit_of_passed hu hl hp
  case unmapped =>
    intro s q w rest hw he
    exact exec_walkComplete_of_unmapped hw he
  case mapped =>
    intro s q w rest e hw he
    refine ⟨_, exec_walkComplete_of_mapped hw he, fun h => ?_, fun q' hq => ?_⟩
    · rw [Quad.get_set, if_pos rfl, startWalks_tlb]
      exact (retryMisses_holds ..).trans (walkEntered_holds h)
    · rw [Quad.get_set, if_neg hq.symm]

end Sys2Proof.Machine
end

section
/-! PROOFS. Windows: opening, closing, and the lapse of reservations (O17; R65 to R67, R72). -/

namespace Sys2Proof.Machine

/-! ## The commands and their meanings -/

theorem exec_openWindow (d : DescRef) (s : State) : exec (.openWindow d) s = execOpenWindow d s := rfl

theorem exec_closeWindow (d : DescRef) (s : State) : exec (.closeWindow d) s = execCloseWindow d s := rfl

theorem exec_reservationExpire (q id : Nat) (s : State) :
    exec (.reservationExpire q id) s = execReservationExpire q id s := rfl

/-! ## Opening and closing (R65 to R67) -/

section
variable {s t : State} {d : DescRef} {f : Flight} {n c : Nat} {w : Window}

/-- A context may name the windows of its range, and context 0 every window. -/
theorem mayName_window (h : f.ctx = 0 ∨ windowInRange t c n = true) : (f.ctx != 0 && !windowInRange t c n) = false := by
  rcases h with h | h <;> simp [h]

/-- OPEN_WINDOW with its layout, context, window and range as R65 and R66 ask. -/
theorem exec_openWindow_of_allowed (hact : MayAct s d 0x07 f) (hn : n = opnd f.desc 0 14)
    (hc : c = namedCtx f (opnd f.desc 136 12))
    (hw : w = { valid := true, read := opBit f.desc 14, write := opBit f.desc 15, atomic := opBit f.desc 16
                reduce := opBit f.desc 17, flagged := opBit f.desc 18, ctx := c, gen := ctxGen (actsOn s f) c
                srcBase := opnd f.desc 32 12, srcMask := opnd f.desc 44 12, baseVa := opnd f.desc 64 48
                length := opnd f.desc 112 23 })
    (hlayout : (w.baseVa % 65536 != 0 || w.length == 0 || decide (4194304 < w.length) || (w.flagged && !w.write) ||
      !clean f.desc 19 13 || !clean f.desc 56 8 || opBit f.desc 135 || !clean f.desc 148 300) = false)
    (hctx : ctxFieldStatus (actsOn s f) f (opnd f.desc 136 12) = Code.ok)
    (hname : (n == 0 || windowValid (actsOn s f) n || (f.ctx != 0 && !windowInRange (actsOn s f) c n)) = false)
    (hrange : w.baseVa + w.length * 65536 ≤ spaceEnd (actsOn s f) c) :
    exec (.openWindow d) s =
      completes { actsOn s f with xlat := { (actsOn s f).xlat with
        windows := tset (actsOn s f).xlat.windows n w } } d Code.ok 0 := by
  subst hn hc hw
  dsimp only at hlayout hrange
  rw [exec_openWindow, execOpenWindow, withDesc_acts hact]
  simp only [firstOf, hlayout, hctx, hname, decide_eq_false (Nat.not_lt.mpr hrange)]
  rfl

/-- CLOSE_WINDOW of a valid window of the context (R67). -/
theorem exec_closeWindow_of_allowed (hact : MayAct s d 0x08 f) (hn : n = opnd f.desc 0 14)
    (hc : c = namedCtx f (opnd f.desc 136 12)) (hlow : clean f.desc 14 122 = true) (hhigh : clean f.desc 148 300 = true)
    (hctx : ctxFieldStatus (actsOn s f) f (opnd f.desc 136 12) = Code.ok) (hvalid : windowValid (actsOn s f) n = true)
    (hw : tget (actsOn s f).xlat.windows n = some w) (hwc : w.ctx = c)
    (hname : f.ctx = 0 ∨ windowInRange (actsOn s f) c n = true) :
    exec (.closeWindow d) s =
      if windowHeld (actsOn s f) n = true then .next (settle (closeWindow (waitOn (actsOn s f) (refKey d)) n))
      else completes (closeWindow (actsOn s f) n) d Code.ok 0 := by
  subst hn
  have howner : (!windowValid (actsOn s f) (opnd f.desc 0 14) ||
      (tget (actsOn s f).xlat.windows (opnd f.desc 0 14)).map (·.ctx) != some c ||
      (f.ctx != 0 && !windowInRange (actsOn s f) c (opnd f.desc 0 14))) = false := by
    simp [hvalid, hw, hwc, mayName_window hname]
  rw [exec_closeWindow, execCloseWindow, withDesc_acts hact]
  simp only [← hc, firstOf, hlow, hhigh, hctx, howner]
  rfl

end

/-- Settles O17: each command past its checks. -/
theorem windowsAreOpenedAndClosed : Obligations.WindowsAreOpenedAndClosed := by
  refine ⟨?opened, ?closed, ?lapsed⟩
  case opened =>
    intro s t d f x n c w hact ht hx hn hc hw hbase hlen hmax hflag h19 h56 h135 h148 hctx hn0 hfree hname hrange
    subst ht hx
    refine exec_openWindow_of_allowed hact hn hc hw ?_ hctx ?_ hrange
    · have hf : (w.flagged && !w.write) = false := by cases hwf : w.flagged <;> simp_all
      simp [hbase, hlen, hmax, hf, h19, h56, h135, h148]
    · simp [hn0, hfree, mayName_window hname]
  case closed =>
    intro s t d f n c w hact ht hn hc hlow hhigh hctx hvalid hw hwc hname
    subst ht
    exact exec_closeWindow_of_allowed hact hn hc hlow hhigh hctx hvalid hw hwc hname
  case lapsed =>
    intro s q id r hr hp
    simp only [exec_reservationExpire, execReservationExpire, hr, hp, if_true]

end Sys2Proof.Machine
end

section
/-! PROOFS. Movers: how COPY and FILL start, and the bytes of an overlap (O22; R70, R90 to R93, R124). -/

namespace Sys2Proof.Machine

/-! ## The commands and their meanings -/

theorem exec_copy (d : DescRef) (s : State) : exec (.copy d) s = moverRun 0x20 false d s := rfl

theorem exec_fill (d : DescRef) (s : State) : exec (.fill d) s = moverRun 0x21 true d s := rfl

/-! ## The start of a mover (R70, R90 to R93) -/

section
variable {s t : State} {d : DescRef} {f : Flight} {fill : Bool} {m : MoverOp}

/-- The local ranges that a mover's sides and its flag look up and hold. -/
def moverRanges (fill : Bool) (m : MoverOp) : List (Nat × Nat) :=
  (if fill then [] else localRanges m.src (rowOffsets m.rows m.srcPitch) m.rowBytes) ++
    localRanges m.dst (rowOffsets m.rows m.dstPitch) m.rowBytes ++
    (if m.flagEn then localRanges m.flag [0] 8 else [])

/-- The state with a mover's translations looked up and held, the mover waiting. -/
def moverHeld (t : State) (fk : Nat) (f : Flight) (ranges : List (Nat × Nat)) : State :=
  hold (waitOn (ranges.foldl (fun s r => lookupRange s f.quarter (moverStream f.engine f.ctx) f.ctx r.1 r.2) t) fk)
    f.quarter f.ctx (holdFlight fk) ranges

/-- The mover's work started in the state that holds its ranges; sides that meet draw their free bytes. -/
def moverStarted (u : State) (fk : Nat) (f : Flight) (m : MoverOp) : State :=
  let v := if (sidesMeet m).isSome then draw u else u
  startJob v (flightJob v fk f) (moverWork m (reg v 0x6000 0x03) u.fresh)

/-- An F-queue's mover stays in the part: none of its sides is remote (R90). -/
theorem fQueue_stays_local {inF : Bool} (h : inF = true →
    (fill = true ∨ isRemote t m.src = false) ∧ isRemote t m.dst = false ∧ (m.flagEn = true → isRemote t m.flag = false)) :
    (inF && ((!fill && isRemote t m.src) || isRemote t m.dst || (m.flagEn && isRemote t m.flag))) = false := by
  cases inF
  case false => rfl
  case true =>
    obtain ⟨hsrc, hdst, hflag⟩ := h rfl
    have hsrc' : (!fill && isRemote t m.src) = false := by rcases hsrc with h | h <;> simp [h]
    have hflag' : (m.flagEn && isRemote t m.flag) = false := by cases hf : m.flagEn <;> simp [hf, hflag]
    simp [hsrc', hdst, hflag']

theorem moverRun_of_checked {op : Nat} (hact : MayAct s d op f) (hm : m = moverOp f.desc fill)
    (hlayout : moverMisaligned f.desc m = false)
    (hlocal : ((queueOf (actsOn s f) f.ctx f.queue).map (·.fQueue)).getD false = true →
      (fill = true ∨ isRemote (actsOn s f) m.src = false) ∧ isRemote (actsOn s f) m.dst = false ∧
        (m.flagEn = true → isRemote (actsOn s f) m.flag = false))
    (hroom : trackerFull (actsOn s f) f.quarter = false) (hcheck : moverCheck (actsOn s f) f.ctx m = none) :
    moverRun op fill d s =
      .next (settle (moverStarted (moverHeld (actsOn s f) (refKey d) f (moverRanges fill m)) (refKey d) f m)) := by
  subst hm
  have hstay := fQueue_stays_local hlocal
  rw [moverRun, withDesc_acts hact]
  simp only [hlayout, hstay, hroom, hcheck, Bool.false_eq_true, if_false]
  rfl

end

/-! ## Sides that meet (R124) -/

/-- A byte that is not of the overlap comes from its own source byte. -/
theorem copiedFrom_of_outside {m : MoverOp} {a b i : Nat}
    (h : inSource m a (sideByte b m.dstPitch m.rowBytes i) = false ∨
      dstByteAt m b (sideByte a m.srcPitch m.rowBytes i) = none) (n fuel : Nat) : copiedFrom m a b n fuel i = i := by
  cases fuel with
  | zero => rfl
  | succ fuel =>
    rw [copiedFrom]
    rcases h with h | h
    · simp only [h, Bool.false_and, Bool.false_eq_true, if_false]
    · simp only [h, ite_self]

/-- Settles O22: COPY and FILL are one mover, and a byte outside the overlap stays its own source. -/
theorem moversStartTheirWork : Obligations.MoversStartTheirWork := by
  refine ⟨?starts, ?outside⟩
  case starts =>
    intro s t d f fill m hact ht hm hlayout hlocal hroom hcheck
    subst ht
    cases fill
    case false => exact moverRun_of_checked hact hm hlayout hlocal hroom hcheck
    case true => exact moverRun_of_checked hact hm hlayout hlocal hroom hcheck
  case outside =>
    intro m a b n fuel i h
    exact copiedFrom_of_outside h n fuel

end Sys2Proof.Machine
end

section
/-! PROOFS. Requests at the end-point blocks: reads, writes, flagged writes and atomics past their checks (O23; R68, R71,
R72, R115, R132, R158, R163). -/

namespace Sys2Proof.Machine

/-! ## The commands and their meanings -/

theorem exec_readReq (p : Packet) (s : State) : exec (.readReq p) s = execReadReq p s := rfl

theorem exec_probe (p : Packet) (s : State) : exec (.probe p) s = execProbe p s := rfl

theorem exec_write (i : Nat) (p : Packet) (s : State) : exec (.write i p) s = execWrite i p s := rfl

theorem exec_flaggedWrite (i : Nat) (p : Packet) (s : State) : exec (.flaggedWrite i p) s = execFlaggedWrite i p s := rfl

theorem exec_queuePush (i : Nat) (p : Packet) (s : State) : exec (.queuePush i p) s = execQueuePush i p s := rfl

theorem exec_atomic (p : Packet) (s : State) : exec (.atomic p) s = execAtomic p s := rfl

theorem exec_cas64 (i : Nat) (p : Packet) (s : State) : exec (.cas64 i p) s = execCas64 i p s := rfl

theorem exec_cas128 (i : Nat) (p : Packet) (s : State) : exec (.cas128 i p) s = execCas128 i p s := rfl

theorem exec_relayWrite (i : Nat) (p : Packet) (s : State) : exec (.relayWrite i p) s = execRelayWrite i p s := rfl

theorem exec_relayFlaggedWrite (i : Nat) (p : Packet) (s : State) :
    exec (.relayFlaggedWrite i p) s = execRelayFlaggedWrite i p s := rfl

theorem exec_reservedOpcodePacket (p : Packet) (s : State) :
    exec (.reservedOpcodePacket p) s = execReservedOpcodePacket p s := rfl

/-! ## Arrival (R156, R162) -/

section
variable {s t : State} {i : Option Nat} {p : Packet} (fresh copy : State → State)

theorem onArrival_of_fresh (h : arrival s i p = .fresh t) : onArrival s i p fresh copy = .next (settle (fresh t)) := by
  rw [onArrival, h]

theorem onArrival_of_copy (h : arrival s i p = .copy t) : onArrival s i p fresh copy = .next (settle (copy t)) := by
  rw [onArrival, h]

end

/-! ## A request past its window checks (R68, R71) -/

section
variable {t u : State} {p : Packet} {va len : Nat} {op : Acc}

/-- A request that passes and that no guard holds is performed at its VA. -/
theorem windowReq_of_passed (hpass : passWindow t p len op = (u, .ok va))
    (hfree : heldBy u (.request p) p.ctx [(va, len)] = none) : windowReq t p len op = performAt u p va := by
  simp only [windowReq, hpass, guardAt, hfree]

theorem performRead_of_ok (h : (readVa u p.ctx va p.bytes).status = Code.ok) :
    performRead u p va = sendReply (markDone (readVa u p.ctx va p.bytes).st p) (pktHome p)
      (mkDataReply (readVa u p.ctx va p.bytes).st p 0x42 Code.ok (readVa u p.ctx va p.bytes).data) :=
  if_neg (not_not_intro h)

theorem performWrite_of_ok (h : (storeVa u p.ctx va p.data).status = Code.ok) :
    performWrite u p va = ackDone (storeVa u p.ctx va p.data).st p := if_pos h

theorem performAt_read (hop : p.op = 0x01) : performAt u p va = performRead u p va := by
  simp only [performAt, hop]

theorem performAt_write (hop : p.op = 0x40) : performAt u p va = performWrite u p va := by
  simp only [performAt, hop]

theorem performAt_flagged (hop : p.op = 0x41) :
    performAt u p va = modFlow (performWrite u p va) (pktFlow p) fun f => { f with spanFrom := p.seq } := by
  simp only [performAt, hop]

theorem performAt_atomic (h1 : p.op ≠ 0x01) (h2 : p.op ≠ 0x40) (h3 : p.op ≠ 0x41) :
    performAt u p va = performAtomic u p va := by
  unfold performAt
  split
  · exact absurd ‹_› h1
  · exact absurd ‹_› h2
  · exact absurd ‹_› h3
  · rfl

/-- A flagged request whose span is complete and unrefused is run at once (R115, R132). -/
theorem takeFlagged_of_covered {f : Flow} (hf : tget t.net.flows (pktFlow p) = some f) (hc : coveredFinal f p.seq = true) :
    takeFlagged t p = runFlagged t p := by
  simp only [takeFlagged, hf, Option.getD_some, hc, if_true]

theorem runFlagged_of_unrefused {f : Flow} (hf : tget t.net.flows (pktFlow p) = some f)
    (hr : spanRefused f p.seq = false) :
    runFlagged t p = if p.op = 0x49 then relayReq t p else windowReq t p p.bytes .flagged := by
  simp only [runFlagged, hf, Option.getD_some, hr, Bool.false_eq_true, if_false]

/-- An atomic with room for its result and at its controller reads, stores and keeps the old value (R158, R163). -/
theorem performAtomic_of_room {r w : State} {pa old : Nat} (hpa : pa = (paOf u p.ctx va).getD 0)
    (hresults : resultsOn u (pktHome p) < 8192) (hqueue : (atomicQueue u (controllerOf pa)).length < 1024)
    (hr : r = touchLine (readVa (queueAtomic u pa p.op) p.ctx va (atomicBytes p.op)).st pa)
    (hread : (readVa (queueAtomic u pa p.op) p.ctx va (atomicBytes p.op)).status = Code.ok)
    (hold : old = ofLe (readVa (queueAtomic u pa p.op) p.ctx va (atomicBytes p.op)).data)
    (hstore : (storeVa r p.ctx va (leBytes (atomicBytes p.op) (atomicNew p old))).status = Code.ok)
    (hw : w = markDone (storeVa r p.ctx va (leBytes (atomicBytes p.op) (atomicNew p old))).st p) :
    performAtomic u p va =
      let e : ResultEntry := { old := BitVec.ofNat 128 old, ctx := p.ctx, since := u.now }
      replyAtomic { w with net := { w.net with results := tset w.net.results (resultKey (pktFlow p) p.seq) e } } p
        Code.ok (BitVec.ofNat 128 old) := by
  subst hpa hold hr hw
  simp only [performAtomic, if_neg (Nat.not_le.mpr hresults), if_neg (Nat.not_le.mpr hqueue), hread, hstore, ne_eq,
    not_true_eq_false, if_false]

end

/-! ## The commands of a fresh request that passes -/

section
variable {s t u : State} {i : Nat} {p : Packet} {va : Nat}

theorem exec_readReq_of_passed (ha : arrival s none p = .fresh t) (hop : p.op = 0x01)
    (hpass : passWindow t p p.bytes .read = (u, .ok va)) (hfree : heldBy u (.request p) p.ctx [(va, p.bytes)] = none)
    (hread : (readVa u p.ctx va p.bytes).status = Code.ok) :
    exec (.readReq p) s =
      .next (settle (sendReply (markDone (readVa u p.ctx va p.bytes).st p) (pktHome p)
        (mkDataReply (readVa u p.ctx va p.bytes).st p 0x42 Code.ok (readVa u p.ctx va p.bytes).data))) := by
  rw [exec_readReq, execReadReq, onArrival_of_fresh _ _ ha, windowReq_of_passed hpass hfree, performAt_read hop,
    performRead_of_ok hread]

theorem exec_write_of_passed (ha : arrival s (some i) p = .fresh t) (hop : p.op = 0x40)
    (hpass : passWindow t p p.bytes .write = (u, .ok va)) (hfree : heldBy u (.request p) p.ctx [(va, p.bytes)] = none)
    (hstore : (storeVa u p.ctx va p.data).status = Code.ok) :
    exec (.write i p) s = .next (settle (ackDone (storeVa u p.ctx va p.data).st p)) := by
  rw [exec_write, execWrite, onArrival_of_fresh _ _ ha, windowReq_of_passed hpass hfree, performAt_write hop,
    performWrite_of_ok hstore]

theorem exec_flaggedWrite_of_passed {f : Flow} (ha : arrival s (some i) p = .fresh t) (hop : p.op = 0x41)
    (hf : tget t.net.flows (pktFlow p) = some f) (hc : coveredFinal f p.seq = true) (hr : spanRefused f p.seq = false)
    (hpass : passWindow t p p.bytes .flagged = (u, .ok va)) (hfree : heldBy u (.request p) p.ctx [(va, p.bytes)] = none)
    (hstore : (storeVa u p.ctx va p.data).status = Code.ok) :
    exec (.flaggedWrite i p) s =
      .next (settle (modFlow (ackDone (storeVa u p.ctx va p.data).st p) (pktFlow p)
        fun f => { f with spanFrom := p.seq })) := by
  have hne : p.op ≠ 0x49 := by omega
  rw [exec_flaggedWrite, execFlaggedWrite, onArrival_of_fresh _ _ ha, takeFlagged_of_covered hf hc,
    runFlagged_of_unrefused hf hr, if_neg hne, windowReq_of_passed hpass hfree, performAt_flagged hop,
    performWrite_of_ok hstore]

/-- An atomic of any class. -/
theorem takeAtomic_of_passed {i : Option Nat} (ha : arrival s i p = .fresh t)
    (hpass : passWindow t p (atomicBytes p.op) .atomic = (u, .ok va))
    (hfree : heldBy u (.request p) p.ctx [(va, atomicBytes p.op)] = none)
    (h1 : p.op ≠ 0x01) (h2 : p.op ≠ 0x40) (h3 : p.op ≠ 0x41) :
    takeAtomic s i p = .next (settle (performAtomic u p va)) := by
  rw [takeAtomic, onArrival_of_fresh _ _ ha, windowReq_of_passed hpass hfree, performAt_atomic h1 h2 h3]

end

/-- Settles O23: each class of request, fresh and past its checks. -/
theorem windowRequestsArePerformed : Obligations.WindowRequestsArePerformed := by
  refine ⟨?read, ?write, ?flagged, ?atomic, ?cas64, ?cas128, ?effect⟩
  case read =>
    intro s t u p va
    exact exec_readReq_of_passed
  case write =>
    intro s t u i p va
    exact exec_write_of_passed
  case flagged =>
    intro s t u i p va f ha hop
    exact exec_flaggedWrite_of_passed ha hop
  case atomic =>
    intro s t u p va ha hop hpass hfree
    obtain ⟨hlo, hhi⟩ : 0x10 ≤ p.op ∧ p.op ≤ 0x23 := by simpa [isAtomicOp] using hop
    exact takeAtomic_of_passed ha hpass hfree (by omega) (by omega) (by omega)
  case cas64 =>
    intro s t u i p va ha hop hpass hfree
    have hn : atomicBytes p.op = 8 := by rw [hop]; rfl
    rw [← hn] at hpass hfree
    exact takeAtomic_of_passed ha hpass hfree (by omega) (by omega) (by omega)
  case cas128 =>
    intro s t u i p va ha hop hpass hfree
    have hn : atomicBytes p.op = 16 := by rw [hop]; rfl
    rw [← hn] at hpass hfree
    exact takeAtomic_of_passed ha hpass hfree (by omega) (by omega) (by omega)
  case effect =>
    intro u r w p va pa old
    exact performAtomic_of_room

end Sys2Proof.Machine
end

section
/-! PROOFS. Probes, pushes, relays and copies (O24; R71, R80, R81, R157, R173, R174). -/

namespace Sys2Proof.Machine

/-! ## Probes, pushes and relays past their checks (R71, R80, R81, R173, R174) -/

section
variable {t : State} {p : Packet}

/-- The reservation that a probe leaves (R71). -/
def probeResv (t : State) (p : Packet) (op : Acc) : Reservation :=
  { srcNode := p.src, srcQueue := p.srcQueue, srcInc := p.srcInc, ctx := p.ctx
    window := handleWindow p.handle, offset := handleOffset p.handle, length := bits p.ext 64 38, op := op
    seq := p.seq, since := t.now }

theorem takeProbe_of_checked {op : Acc} {va : Nat} (hop : op = probeOp (bits p.ext 102 2))
    (hcheck : inboundCheck t (inboundOf p (bits p.ext 64 38) op) = .ok va) (hroom : trackerFull t (pktHome p) = false) :
    takeProbe t p =
      let v := t.xlat.resv.get (pktHome p)
      let u := setResv (touchWindow t (pktHome p) (handleWindow p.handle)) (pktHome p)
        (tset v (freeFrom v 0) (probeResv t p op))
      ackDone (lookupRange u (pktHome p) (inboundStream p.src p.ctx) p.ctx va (bits p.ext 64 38)) p := by
  subst hop
  simp only [takeProbe, hcheck, hroom, Bool.false_eq_true, if_false]
  rfl

theorem takePush_of_turn (hturn : pushTurn t p = true) :
    takePush t p = pumpPushes (performPush t p).net.heldPushes.length (performPush t p) := if_pos hturn

theorem takePush_of_missing (hturn : pushTurn t p = false) :
    takePush t p =
      let u := markBusy t p
      { u with net := { u.net with
        heldPushes := u.net.heldPushes ++ [{ pkt := p, flow := pktFlow p, since := u.now }] } } :=
  if_neg (by simp [hturn])

theorem performPush_of_passed (hst : pushStatus t p = Code.ok) :
    performPush t p = ackDone (appendDescs t (bits p.handle 26 12) (bits p.handle 16 10) (descsOf p.data) none) p
      (BitVec.ofNat 64 (p.bytes / 64)) := if_pos hst

theorem modFlow_groups (s : State) (k : Nat) (f : Flow → Flow) : (modFlow s k f).net.groups = s.net.groups := rfl

theorem relayReq_of_admitted {g : GroupEntry} (hst : relayStatus t p = Code.ok)
    (hg : tget t.net.groups (p.aux % 4096) = some g) :
    relayReq t p =
      startJob (modFlow t (pktFlow p) fun f =>
          { f with busy := if f.busy.contains p.seq then f.busy else f.busy ++ [p.seq] })
        { kind := .relay p, ctx := p.ctx, gen := p.gen, quarter := pktHome p, engine := engPoint
          srcQueue := issuer (pktHome p) 2, multicast := true }
        (relayWork p g.members) := by
  simp only [relayReq, hst, hg, ne_eq, not_true_eq_false, if_false, Option.map_some, Option.getD_some, modFlow_groups]

end

/-- Settles O24: a fresh request of each opcode, the copies, and an opcode that is not listed. -/
theorem probesPushesAndRelaysAreTaken : Obligations.ProbesPushesAndRelaysAreTaken := by
  refine ⟨?probe, ?push, ?waits, ?relays, ?copies, ?unlisted⟩
  case probe =>
    intro s t p op va ha hop hcheck hroom
    rw [exec_probe, execProbe, onArrival_of_fresh _ _ ha, takeProbe_of_checked hop hcheck hroom]
    rfl
  case push =>
    intro s t i p ha hturn hst
    rw [exec_queuePush, execQueuePush, onArrival_of_fresh _ _ ha, takePush_of_turn hturn, performPush_of_passed hst]
  case waits =>
    intro s t i p ha hturn
    rw [exec_queuePush, execQueuePush, onArrival_of_fresh _ _ ha, takePush_of_missing hturn]
  case relays =>
    intro s t i p g ha hst hg hflow hspan
    refine ⟨fun _ => ?_, fun hop => ?_⟩
    · rw [exec_relayWrite, execRelayWrite, onArrival_of_fresh _ _ ha, relayReq_of_admitted hst hg]
    · obtain ⟨f, hf⟩ := Option.isSome_iff_exists.mp hflow
      obtain ⟨hc, hr⟩ := hspan hop f hf
      rw [exec_relayFlaggedWrite, execRelayFlaggedWrite, onArrival_of_fresh _ _ ha, takeFlagged_of_covered hf hc,
        runFlagged_of_unrefused hf hr, if_pos hop, relayReq_of_admitted hst hg]
  case copies =>
    intro s t i p ha
    exact ⟨onArrival_of_copy _ _ ha, onArrival_of_copy _ _ ha, onArrival_of_copy _ _ ha, onArrival_of_copy _ _ ha⟩
  case unlisted =>
    intro s p h
    rw [exec_reservedOpcodePacket, execReservedOpcodePacket, h]
    rfl

end Sys2Proof.Machine
end

section
/-! PROOFS. Descriptors: their dispatch and completion, NOP and WAIT_FLAG (O18; R82, R84, R86 to R89, R98). -/

namespace Sys2Proof.Machine

/-! ## The commands and their meanings -/

theorem exec_descriptorDispatch (quarter ctx queue : Nat) (s : State) :
    exec (.descriptorDispatch quarter ctx queue) s = execDescriptorDispatch quarter ctx queue s := rfl

theorem exec_descriptorComplete (d : DescRef) (s : State) :
    exec (.descriptorComplete d) s = execDescriptorComplete d s := rfl

theorem exec_nop (d : DescRef) (s : State) : exec (.nop d) s = execNop d s := rfl

theorem exec_waitFlag (d : DescRef) (s : State) : exec (.waitFlag d) s = execWaitFlag d s := rfl

theorem exec_waitFlagTimeout (d : DescRef) (s : State) : exec (.waitFlagTimeout d) s = execWaitFlagTimeout d s := rfl

theorem doneWith_refKey (s : State) (d : DescRef) (st : Status) (detail : BitVec 64) :
    doneWith s (refKey d) st detail = completes s d st detail := rfl

/-! ## Dispatch (R86, R87) -/

/-- The head of a ready queue goes to its engine in its context's turn. -/
theorem exec_descriptorDispatch_of_turn {s : State} {q ctx queue : Nat} {r : Queue} {w : Waiting} {ws : List Waiting}
    (hr : queueOf s ctx queue = some r) (hslots : r.slots = w :: ws) (hq : r.quarter = q) (hrun : running s = true)
    (hstop : s.core.stopped = false) (hactive : ctxActive s ctx = true) (hready : queueReady s r = true)
    (hturn : turnOf s q ctx = true) :
    exec (.descriptorDispatch q ctx queue) s =
      .next (settle (launch (takeTurn (dispatchAs s r w).1 q ctx) r w
        ((engineFor s q (opcodeOf w.desc)).getD engPoint) (dispatchAs s r w).2)) := by
  rw [exec_descriptorDispatch, execDescriptorDispatch]
  simp only [hr, hslots]
  rw [if_neg (by simp [hq, hrun, hstop, hactive, hready, hturn])]

/-- What is launched is in flight under the queue's next sequence number. -/
theorem flightOf_launch {r : Queue} (h : r.dispatched < 2 ^ 32 - 1) (s : State) (w : Waiting) (e : Nat) (p : Progress) :
    flightOf (launch s r w e p) ⟨r.ctx, r.queue, r.dispatched + 1⟩ =
      some { ctx := r.ctx, queue := r.queue, seq := r.dispatched + 1, desc := w.desc, quarter := r.quarter, engine := e
             run := w.run, lastOfRun := w.lastOfRun, progress := p, since := s.now } := by
  have hseq : (r.dispatched + 1) % 2 ^ 32 = r.dispatched + 1 := Nat.mod_eq_of_lt (by omega)
  simp only [launch, flightOf, refKey, hseq, tget_tset_self]

/-! ## WAIT_FLAG (R98) -/

/-- A WAIT_FLAG past its checks, its flag under no guard, waits behind a watch on its flag. -/
theorem exec_waitFlag_of_checked {s : State} {d : DescRef} {f : Flight} (hact : MayAct s d 0x01 f)
    (h50 : clean f.desc 50 14 = true) (h160 : clean f.desc 160 288 = true)
    (hflag : flagCheck (actsOn s f) f.ctx (opnd f.desc 0 48) (opnd f.desc 48 2) = none)
    (hroom : watchesOn (actsOn s f) f.quarter < 1024)
    (hfree : heldBy (actsOn s f) (.command (refKey d)) f.ctx [(opnd f.desc 0 48, 8)] = none) :
    exec (.waitFlag d) s =
      .next (settle (addWatch (waitOn (actsOn s f) (refKey d)) f.quarter
        { ctx := f.ctx, va := opnd f.desc 0 48, cmp := opnd f.desc 48 2, value := BitVec.ofNat 64 (opnd f.desc 64 64)
          who := .wait (refKey d) })) := by
  rw [exec_waitFlag, execWaitFlag, withDesc_acts hact]
  simp only [h50, h160, hflag, hfree, if_neg (Nat.not_le.mpr hroom), Bool.not_true, Bool.false_eq_true, or_self, if_false]

/-- Settles O18: the dispatch of a queue's head, the completion of a final flight, NOP, and WAIT_FLAG. -/
theorem descriptorsAreDispatchedAndComplete : Obligations.DescriptorsAreDispatchedAndComplete := by
  refine ⟨?dispatched, ?launched, ?completed, ?nop, ?waits, ?timedOut⟩
  case dispatched =>
    intro s q ctx queue r w ws hr hslots hq hrun hstop hactive hready hturn
    exact exec_descriptorDispatch_of_turn hr hslots hq hrun hstop hactive hready hturn
  case launched =>
    intro s r w e p hseq
    exact flightOf_launch hseq s w e p
  case completed =>
    intro s d f st detail hf hfinal
    simp only [exec_descriptorComplete, execDescriptorComplete, hf, hfinal]
  case nop =>
    intro s d f hf hzero
    simp only [exec_nop, execNop, hf, if_pos hzero, doneWith_refKey]
  case waits =>
    intro s t d f hact ht h50 h160 hflag hroom hfree
    subst ht
    exact exec_waitFlag_of_checked hact h50 h160 hflag hroom hfree
  case timedOut =>
    intro s d f hf hlimit hpassed
    simp only [exec_waitFlagTimeout, execWaitFlagTimeout, hf]
    rw [if_pos ⟨hlimit, hpassed⟩]

end Sys2Proof.Machine
end

section
/-! PROOFS. Plays: START_PLAY, LOAD_PLAY, ARM_PLAY, DISARM_PLAY and the append of a pending play (O19; R96 to R100, R111). -/

namespace Sys2Proof.Machine

/-! ## The commands and their meanings -/

theorem exec_startPlay (d : DescRef) (s : State) : exec (.startPlay d) s = execStartPlay d s := rfl

theorem exec_loadPlay (d : DescRef) (s : State) : exec (.loadPlay d) s = execLoadPlay d s := rfl

theorem exec_armPlay (d : DescRef) (s : State) : exec (.armPlay d) s = execArmPlay d s := rfl

theorem exec_disarmPlay (d : DescRef) (s : State) : exec (.disarmPlay d) s = execDisarmPlay d s := rfl

theorem exec_playAppend (ctx no : Nat) (s : State) : exec (.playAppend ctx no) s = execPlayAppend ctx no s := rfl

section
variable {s : State} {d : DescRef} {f : Flight} {key : Nat} {p : Play}

/-! ## START_PLAY and DISARM_PLAY (R99, R111) -/

theorem exec_startPlay_of_held (hact : MayAct s d 0x02 f) (hkey : key = playKey f.ctx (opnd f.desc 0 16))
    (hclean : clean f.desc 16 432 = true) (hp : tget (actsOn s f).q.plays key = some p) :
    exec (.startPlay d) s =
      completes (trigger (actsOn s f) key false) d Code.ok
        (BitVec.ofNat 64 (((tget (trigger (actsOn s f) key false).q.plays key).map fun p => p.state.code).getD 0)) := by
  subst hkey
  rw [exec_startPlay, execStartPlay, withDesc_acts hact]
  simp only [hclean, hp, Bool.true_eq_false, if_false, doneWith_refKey]

theorem exec_disarmPlay_of_held (hact : MayAct s d 0x0D f) (hkey : key = playKey f.ctx (opnd f.desc 0 16))
    (hclean : clean f.desc 16 432 = true) (hp : tget (actsOn s f).q.plays key = some p) :
    exec (.disarmPlay d) s =
      completes (modPlay (dropPlayWatch (actsOn s f) key) key fun p =>
        { p with armed := false, state := if p.state = .armed then .idle else p.state }) d Code.ok 0 := by
  subst hkey
  rw [exec_disarmPlay, execDisarmPlay, withDesc_acts hact]
  simp only [hclean, hp, Bool.true_eq_false, if_false, doneWith_refKey]

/-! ## LOAD_PLAY (R96, R97) -/

/-- The quotas leave room for the play and its descriptors (R96, R327). -/
theorem loadQuota_free {t : State} {n : Nat}
    (hnew : tget t.q.plays key = none →
      underQuota t f.ctx 0x16 (tcount t.q.plays fun _ p => p.ctx == f.ctx) = true ∧ t.q.plays.length < 16384)
    (hroom : f.ctx = 0 ∨ storeHeld t f.ctx key + n ≤ reg t (ctxIdx f.ctx) 0x17 * 16) :
    (((tget t.q.plays key).isNone && (!underQuota t f.ctx 0x16 (tcount t.q.plays fun _ p => p.ctx == f.ctx) ||
        decide (16384 ≤ t.q.plays.length))) ||
      (f.ctx != 0 && decide (reg t (ctxIdx f.ctx) 0x17 * 16 < storeHeld t f.ctx key + n))) = false := by
  rw [Bool.or_eq_false_iff]
  constructor
  · cases hold : tget t.q.plays key with
    | some p => rfl
    | none =>
      obtain ⟨hunder, hlen⟩ := hnew hold
      simp [hunder, hlen]
  · rcases hroom with hzero | hroom
    · simp [hzero]
    · simp [hroom]

theorem exec_loadPlay_of_checked {no va n q at_ : Nat} {base : Play} (hact : MayAct s d 0x0B f)
    (hno : no = opnd f.desc 0 16) (hva : va = opnd f.desc 16 48) (hn : n = opnd f.desc 64 9) (hpos : n ≠ 0)
    (hmax : n ≤ 256) (hclean : clean f.desc 73 375 = true)
    (hidle : ((tget (actsOn s f).q.plays (playKey f.ctx no)).map (·.busy)).getD false = false)
    (hside : sideCheck (actsOn s f) f.ctx [(va, n * 64)] .read = none)
    (hread : (readVa (actsOn s f) f.ctx va (n * 64)).status = Code.ok)
    (hmeets : earlierMeets (actsOn s f) (refKey d) [(.va va, n * 64)] = false)
    (hguard : heldBy (actsOn s f) (.command (refKey d)) f.ctx [(va, n * 64)] = none)
    (hbase : base = (tget (actsOn s f).q.plays (playKey f.ctx no)).getD
      { ctx := f.ctx, no := no, queue := f.queue, store := f.quarter })
    (hq : q = ((queueOf (actsOn s f) f.ctx base.queue).map (·.quarter)).getD base.store)
    (hnew : tget (actsOn s f).q.plays (playKey f.ctx no) = none →
      underQuota (actsOn s f) f.ctx 0x16 (tcount (actsOn s f).q.plays fun _ p => p.ctx == f.ctx) = true ∧
        (actsOn s f).q.plays.length < 16384)
    (hroom : f.ctx = 0 ∨
      storeHeld (actsOn s f) f.ctx (playKey f.ctx no) + n ≤ reg (actsOn s f) (ctxIdx f.ctx) 0x17 * 16)
    (hrun : storeRun (actsOn s f) q n = some at_) :
    exec (.loadPlay d) s =
      let r := readVa (actsOn s f) f.ctx va (n * 64)
      let p := { base with store := q, descBase := at_, descs := descsOf r.data }
      completes { r.st with q := { r.st.q with plays := tset r.st.q.plays (playKey f.ctx no) p } } d Code.ok 0 := by
  subst hno hva hn
  rw [exec_loadPlay, execLoadPlay, withDesc_acts hact]
  have hform : ¬(opnd f.desc 64 9 = 0 ∨ 256 < opnd f.desc 64 9 ∨ (!clean f.desc 73 375) = true) := by
    simp [hpos, hmax, hclean]
  simp only [if_neg hform, hidle, hside, hguard, ← hbase, loadQuota_free hnew hroom, hmeets, hread]
  cases hb : queueOf (actsOn s f) f.ctx base.queue
  all_goals
    simp only [hb, Option.map_none, Option.map_some, Option.getD_none, Option.getD_some] at hq
    subst hq
    simp only [hrun]
    rfl

/-! ## ARM_PLAY (R97, R98) -/

/-- The play as an ARM_PLAY leaves it, its descriptors at a place of a quarter's store. -/
def armedPlay (x : Desc) (q at_ : Nat) (p : Play) : Play :=
  { p with
    trigger := opnd x 1 2, queue := opnd x 15 10, flagCmp := opnd x 25 2, oneShot := opBit x 27
    whistleStart := opBit x 28, whistleEnd := opBit x 29, flagVa := opnd x 64 48
    huddleNo := opnd x 112 16, flagValue := BitVec.ofNat 64 (opnd x 128 64)
    store := q, descBase := at_, state := .armed, armed := true }

/-- The watch on the flag of a play that ARM_PLAY has armed on a flag. -/
def playWatch (x : Desc) (c key : Nat) : Watch :=
  { ctx := c, va := opnd x 64 48, cmp := opnd x 25 2, value := BitVec.ofNat 64 (opnd x 128 64), who := .play key }

/-- ARM_PLAY of an idle play on an open queue; the checks of the flag count where the trigger is one. -/
theorem exec_armPlay_of_checked {c q at_ : Nat} {old : Play} {b : Queue} (hact : MayAct s d 0x0C f)
    (hc : c = namedCtx f (opnd f.desc 3 12)) (hkey : key = playKey c (opnd f.desc 32 16))
    (h0 : opBit f.desc 0 = false) (h30 : clean f.desc 30 2 = true) (h48 : clean f.desc 48 16 = true)
    (h192 : clean f.desc 192 256 = true) (hcmp : opnd f.desc 25 2 ≠ 3)
    (hva : opnd f.desc 1 2 = 1 → opnd f.desc 64 48 % 8 = 0)
    (hctx : ctxFieldStatus (actsOn s f) f (opnd f.desc 3 12) = Code.ok)
    (hold : tget (actsOn s f).q.plays key = some old) (hidle : old.busy = false)
    (hb : queueOf (actsOn s f) c (opnd f.desc 15 10) = some b) (hopen : b.state ≠ .closed)
    (hflag : opnd f.desc 1 2 = 1 → flagCheck (actsOn s f) c (opnd f.desc 64 48) (opnd f.desc 25 2) = none)
    (hq : q = b.quarter)
    (hguard : opnd f.desc 1 2 = 1 → heldBy (actsOn s f) (.command (refKey d)) c [(opnd f.desc 64 48, 8)] = none)
    (hroom : opnd f.desc 1 2 = 1 → watchesOn (dropPlayWatch (actsOn s f) key) q < 1024)
    (hplace : (if old.store = q ∨ old.descs.isEmpty = true then some old.descBase
      else storeRun (actsOn s f) q old.descs.length) = some at_) :
    exec (.armPlay d) s =
      let u := finish (modPlay (dropPlayWatch (actsOn s f) key) key (armedPlay f.desc q at_)) (refKey d) Code.ok
      .next (settle (if opnd f.desc 1 2 = 1 then addWatch u q (playWatch f.desc c key) else u)) := by
  subst hc hkey hq
  rw [exec_armPlay, execArmPlay, withDesc_acts hact]
  have hform : (opBit f.desc 0 || !clean f.desc 30 2 || !clean f.desc 48 16 || !clean f.desc 192 256 ||
      opnd f.desc 25 2 == 3 || (opnd f.desc 1 2 == 1 && opnd f.desc 64 48 % 8 != 0)) = false := by
    simpa [h0, h30, h48, h192, hcmp] using hva
  have hbound : (b.state == .closed) = false := beq_eq_false_iff_ne.mpr hopen
  have hwatch : ¬(opnd f.desc 1 2 = 1 ∧ 1024 ≤
      watchesOn (dropPlayWatch (actsOn s f) (playKey (namedCtx f (opnd f.desc 3 12)) (opnd f.desc 32 16))) b.quarter) :=
    fun ⟨htrig, hfull⟩ => absurd (hroom htrig) (Nat.not_lt.mpr hfull)
  simp only [firstOf, hform, hctx, hold, hb, Option.map_some, Option.getD_some, hidle, Option.some_beq_some, hbound,
    ite_eq_right_iff.mpr hflag, ite_eq_right_iff.mpr hguard, if_neg hwatch, hplace]
  rfl

/-! ## PLAY_APPEND (R99, R101) -/

/-- A pending play with room in its open queue runs, its descriptors appended there as one run. -/
theorem exec_playAppend_of_room {ctx no : Nat} {r : Queue} (hp : tget s.q.plays (playKey ctx no) = some p)
    (hr : queueOf s ctx p.queue = some r) (hpending : p.state = .pending) (hopen : r.state = .opened)
    (hroom : p.descs.length ≤ ringFree r) (hrun : running s = true) (hdescs : p.descs ≠ [])
    (hsource : sourcePasses (nodeId s) r.srcBase r.srcMask = true) :
    exec (.playAppend ctx no) s =
      .next (modPlay (appendDescs s ctx p.queue p.descs (some (playKey ctx no))) (playKey ctx no) fun p =>
        { p with state := .running }) := by
  have hpush : playPushStatus s r = Code.ok := by simp [playPushStatus, hopen, hsource]
  have hsome : p.descs.isEmpty = false := by simpa using hdescs
  rw [exec_playAppend, execPlayAppend]
  simp only [hp, hr, hpush, ne_eq, not_true_eq_false, and_false, if_false, hpending, hopen, hroom, hrun, hsome, and_self,
    if_true]

end

/-- Settles O19: each command of a play past its checks. -/
theorem playsAreLoadedArmedAndStarted : Obligations.PlaysAreLoadedArmedAndStarted := by
  refine ⟨?started, ?loaded, ?armed, ?disarmed, ?appended⟩
  case started =>
    intro s t d f key p hact ht hkey hclean hp
    subst ht
    exact exec_startPlay_of_held hact hkey hclean hp
  case loaded =>
    intro s t u d f no va n q at_ base hact ht hno hva hn hpos hmax hclean hidle hside hread hu hmeets hguard hbase hq
      hnew hroom hrun
    subst ht hu
    exact exec_loadPlay_of_checked hact hno hva hn hpos hmax hclean hidle hside hread hmeets hguard hbase hq hnew hroom
      hrun
  case armed =>
    intro s t d f x c key q at_ old b hact ht hx hc hkey h0 h30 h48 h192 hcmp hva hctx hold hidle hb hopen hflag hq hguard
      hroom hplace
    subst ht hx
    exact exec_armPlay_of_checked hact hc hkey h0 h30 h48 h192 hcmp hva hctx hold hidle hb hopen hflag hq hguard hroom
      hplace
  case disarmed =>
    intro s t d f key p hact ht hkey hclean hp
    subst ht
    exact exec_disarmPlay_of_held hact hkey hclean hp
  case appended =>
    intro s ctx no p r hp hr hpending hopen hroom hrun hdescs hsource
    exact exec_playAppend_of_room hp hr hpending hopen hroom hrun hdescs hsource

end Sys2Proof.Machine
end

section
/-! PROOFS. Whistle rings: user whistles, opening, closing, merged records and HEAD (O20; R102, R104, R106 to R108). -/

namespace Sys2Proof.Machine

/-! ## The commands and their meanings -/

theorem exec_whistle (d : DescRef) (s : State) : exec (.whistle d) s = execWhistle d s := rfl

theorem exec_openRing (d : DescRef) (s : State) : exec (.openRing d) s = execOpenRing d s := rfl

theorem exec_closeRing (d : DescRef) (s : State) : exec (.closeRing d) s = execCloseRing d s := rfl

theorem exec_coalesceTimeout (ctx ring queue : Nat) (s : State) :
    exec (.coalesceTimeout ctx ring queue) s = execCoalesceTimeout ctx ring queue s := rfl

theorem exec_ringHeadReread (ctx ring : Nat) (s : State) :
    exec (.ringHeadReread ctx ring) s = execRingHeadReread ctx ring s := rfl

section
variable {s : State} {d : DescRef} {f : Flight} {r : Ring}

/-! ## WHISTLE (R102, R125) -/

/-- The record of a user whistle (R102). -/
def userRecord (t : State) (d : DescRef) (f : Flight) : Whistle :=
  { kind := 0x09, ctx := f.ctx, queue := f.queue, quarter := f.quarter, tag := bits f.desc 16 16
    detail := BitVec.ofNat 64 (opnd f.desc 64 64), ft := ftOf t f.quarter, seq := f.seq, owner := some (refKey d) }

/-- A WHISTLE to an open ring waits for its record's write, or completes at once where the record is dropped. -/
theorem exec_whistle_of_open (hact : MayAct s d 0x0E f) (h16 : clean f.desc 16 48 = true)
    (h128 : clean f.desc 128 320 = true) (hr : tget (actsOn s f).q.rings (ringKey f.ctx (opnd f.desc 0 16)) = some r) :
    exec (.whistle d) s =
      let u := whistleNow (waitOn (actsOn s f) (refKey d)) (userRecord (actsOn s f) d f) (opnd f.desc 0 16)
      if recordDropped u (ringKey f.ctx (opnd f.desc 0 16)) (refKey d) = true then completes u d (r.lost.getD Code.ok) 0
      else .next (settle u) := by
  rw [exec_whistle, execWhistle, withDesc_acts hact]
  simp only [h16, h128, hr, Bool.not_true, Bool.false_eq_true, or_self, if_false]
  rfl

/-! ## OPEN_RING and CLOSE_RING (R104, R108) -/

/-- OPEN_RING with its layout, context, number, target and quota as R104 asks. -/
theorem exec_openRing_of_allowed {c : Nat} (hact : MayAct s d 0x12 f) (hc : c = namedCtx f (opnd f.desc 16 12))
    (hr : r = ringOf f.desc c)
    (hlayout : (opBit f.desc 28 || opBit f.desc 31 || !clean f.desc 37 3 || !clean f.desc 52 12 || !clean f.desc 96 32 ||
      !clean f.desc 256 192 || decide (r.sizeLog2 < 4) || decide (20 < r.sizeLog2) ||
      (!r.baseKind && handleOffset r.base % (32 * 2 ^ r.sizeLog2) != 0)) = false)
    (hctx : ctxFieldStatus (actsOn s f) f (opnd f.desc 16 12) = Code.ok)
    (hfree : thas (actsOn s f).q.rings (ringKey c r.no) = false) (htarget : ringTargetOk (actsOn s f) r = true)
    (hquota : underQuota (actsOn s f) c 0x13 (tcount (actsOn s f).q.rings fun _ r => r.ctx == c) = true) :
    exec (.openRing d) s =
      completes { actsOn s f with q := { (actsOn s f).q with
        rings := tset (actsOn s f).q.rings (ringKey c r.no) r } } d Code.ok 0 := by
  subst hc hr
  rw [exec_openRing, execOpenRing, withDesc_acts hact]
  simp only [firstOf, hlayout, hctx, hfree, htarget, hquota]
  rfl

/-- CLOSE_RING of an open ring writes what it holds and waits for the writes. -/
theorem exec_closeRing_of_open {key : Nat} (hact : MayAct s d 0x13 f) (hkey : key = ringKey f.ctx (opnd f.desc 0 16))
    (hclean : clean f.desc 16 432 = true) (hr : tget (actsOn s f).q.rings key = some r) (hopen : r.closing = none) :
    exec (.closeRing d) s =
      .next (settle (modRing (flushAll (waitOn (actsOn s f) (refKey d)) [(key, r)]) key fun r =>
        { r with closing := some (refKey d) })) := by
  subst hkey
  rw [exec_closeRing, execCloseRing, withDesc_acts hact]
  simp only [hclean, hr, hopen, Bool.true_eq_false, if_false, Option.isSome_none, Bool.false_eq_true]

/-! ## Merged records and HEAD (R106, R107) -/

/-- A record held for COALESCE_TIME is written while its ring has room. -/
theorem exec_coalesceTimeout_of_passed {ctx ring queue : Nat} {h : Held}
    (hr : tget s.q.rings (ringKey ctx ring) = some r) (hh : tget r.held queue = some h)
    (hpassed : passedNs s h.since (if r.coalTime = 0 then 1000 else r.coalTime) = true) (hroom : ringFull r = false) :
    exec (.coalesceTimeout ctx ring queue) s = .next (settle (flushHeld s ctx ring queue)) := by
  rw [exec_coalesceTimeout, execCoalesceTimeout]
  simp only [hr, hh, if_pos (And.intro hpassed hroom)]

/-- HEAD of a full ring is asked for where it is due, not yet asked for, and its flow can take the request. -/
theorem exec_ringHeadReread_of_due {ctx ring : Nat} (hr : tget s.q.rings (ringKey ctx ring) = some r)
    (hfull : ringFull r = true) (hasked : r.headAsked = false) (hlost : r.lost = none) (hdue : headDue s r = true)
    (hflow : ringFlowOpen s r r.head = true) :
    exec (.ringHeadReread ctx ring) s = .next (settle (askHead s (ringKey ctx ring) r)) := by
  have hall : (ringFull r && !r.headAsked && r.lost.isNone && headDue s r && ringFlowOpen s r r.head) = true := by
    simp [hfull, hasked, hlost, hdue, hflow]
  rw [exec_ringHeadReread, execRingHeadReread]
  simp only [hr, if_pos hall]

end

/-- Settles O20: each command of a ring past its checks. -/
theorem ringsAreOpenedWrittenAndClosed : Obligations.RingsAreOpenedWrittenAndClosed := by
  refine ⟨?whistled, ?opened, ?closed, ?coalesced, ?asked⟩
  case whistled =>
    intro s t d f r hact ht h16 h128 hr
    subst ht
    exact exec_whistle_of_open hact h16 h128 hr
  case opened =>
    intro s t d f x c r hact ht hx hc hr h28 h31 h37 h52 h96 h256 hmin hmax hbase hctx hfree htarget hquota
    subst ht hx
    refine exec_openRing_of_allowed hact hc hr ?_ hctx hfree htarget hquota
    have hbase' : (!r.baseKind && handleOffset r.base % (32 * 2 ^ r.sizeLog2) != 0) = false := by simpa using hbase
    simp [h28, h31, h37, h52, h96, h256, hmin, hmax, hbase']
  case closed =>
    intro s t d f key r hact ht hkey hclean hr hopen
    subst ht
    exact exec_closeRing_of_open hact hkey hclean hr hopen
  case coalesced =>
    intro s ctx ring queue r h hr hh hpassed hroom
    exact exec_coalesceTimeout_of_passed hr hh hpassed hroom
  case asked =>
    intro s ctx ring r hr hfull hasked hlost hdue hflow
    exact exec_ringHeadReread_of_due hr hfull hasked hlost hdue hflow

end Sys2Proof.Machine
end

section
/-! PROOFS. Queues: opening, closing and resumption, and the lapse of cache lines and held flagged writes (O21; R76, R77,
R88, R109, R120, R134). -/

namespace Sys2Proof.Machine

/-! ## The commands and their meanings -/

theorem exec_openQueue (d : DescRef) (s : State) : exec (.openQueue d) s = execOpenQueue d s := rfl

theorem exec_closeQueue (d : DescRef) (s : State) : exec (.closeQueue d) s = execCloseQueue d s := rfl

theorem exec_resumeQueue (d : DescRef) (s : State) : exec (.resumeQueue d) s = execResumeQueue d s := rfl

theorem exec_cacheLineExpire (q cls ctx name : Nat) (s : State) :
    exec (.cacheLineExpire q cls ctx name) s = execCacheLineExpire q cls ctx name s := rfl

theorem exec_flagHoldTimeout (q src srcQueue seq : Nat) (s : State) :
    exec (.flagHoldTimeout q src srcQueue seq) s = execFlagHoldTimeout q src srcQueue seq s := rfl

section
variable {s : State} {d : DescRef} {f : Flight} {r : Queue} {n : Nat}

/-! ## OPEN_QUEUE and CLOSE_QUEUE (R76, R77, R109) -/

theorem exec_openQueue_of_allowed {x : BitVec 96} (hact : MayAct s d 0x09 f) (hx : x = f.desc.extractLsb' 64 96)
    (hr : r = queueRecord x (namedCtx f (bits x 0 12))) (hform : queueMisaligned x = false)
    (hclean : clean f.desc 96 352 = true) (hctx : ctxFieldStatus (actsOn s f) f (bits x 0 12) = Code.ok)
    (hfree : queueOf (actsOn s f) r.ctx r.queue = none) (hfits : queueFits (actsOn s f) r = true) :
    exec (.openQueue d) s =
      completes (enterQueue (actsOn s f) { r with
        fQueue := ((queueOf (actsOn s f) f.ctx f.queue).map (·.fQueue)).getD false && r.ctx == 0 }) d Code.ok 0 := by
  subst hx hr
  rw [exec_openQueue, execOpenQueue, withDesc_acts hact]
  simp only [firstOf, hform, hclean, hctx, hfree, hfits]
  rfl

theorem exec_closeQueue_of_open (hact : MayAct s d 0x0A f) (hn : n = opnd f.desc 0 10)
    (hclean : clean f.desc 10 438 = true) (hpos : n ≠ 0) (hr : queueOf (actsOn s f) f.ctx n = some r)
    (hopen : r.state ≠ .closed)
    (hplays : tany (actsOn s f).q.plays
      (fun _ p => p.ctx == f.ctx && p.queue == n && decide (p.state ≠ .idle)) = false) :
    exec (.closeQueue d) s =
      let u := modQueue (waitOn (actsOn s f) (refKey d)) f.ctx n fun r =>
        { r with state := .closed, closing := some (refKey d) }
      .next (settle (closeQueueIfEmpty (abortQueue u f.ctx n Code.aborted) f.ctx n)) := by
  have hnot : (r.state == .closed) = false := beq_eq_false_iff_ne.mpr hopen
  rw [exec_closeQueue, execCloseQueue, withDesc_acts hact]
  simp only [← hn, firstOf, hclean, beq_eq_false_iff_ne.mpr hpos, hr, Option.map_some, Option.some_beq_some, hnot, hplays]
  rfl

/-! ## RESUME_QUEUE (R88) -/

/-- A queue in error opens again, with DISCARD after what it holds has been aborted. -/
theorem resumeQueue_of_error {t : State} {c : Nat} (hr : queueOf t c n = some r) (herr : r.state = .error)
    (discard : Bool) :
    resumeQueue t c n discard =
      modQueue (if discard then completeFinal (abortQueue t c n Code.aborted) c n else t) c n fun r =>
        { r with state := .opened } := by
  simp only [resumeQueue, hr, if_pos herr]

theorem exec_resumeQueue_of_allowed {c : Nat} (hact : MayAct s d 0x0F f) (hn : n = opnd f.desc 0 10)
    (hc : c = namedCtx f (opnd f.desc 64 12)) (h10 : clean f.desc 10 6 = true) (h17 : clean f.desc 17 47 = true)
    (h76 : clean f.desc 76 372 = true) (hctx : ctxFieldStatus (actsOn s f) f (opnd f.desc 64 12) = Code.ok)
    (hr : queueOf (actsOn s f) c n = some r) :
    exec (.resumeQueue d) s = completes (resumeQueue (actsOn s f) c n (opBit f.desc 16)) d Code.ok 0 := by
  rw [exec_resumeQueue, execResumeQueue, withDesc_acts hact]
  simp only [← hn, ← hc, firstOf, h10, h17, h76, hctx, hr]
  rfl

/-! ## Held flagged writes (R134) -/

/-- The state without a quarter's one held flagged write: forgotten, its SEQ no longer busy, and counted. -/
theorem exec_flagHoldTimeout_of_one {q : Nat} {h : HeldWrite} (hheld : s.net.heldFlags.get q = [h])
    (hpassed : passedUs s h.since (resendTime s h.pkt.src) = true) :
    exec (.flagHoldTimeout q h.pkt.src h.pkt.srcQueue h.pkt.seq) s =
      .next (bump (modFlow { s with net := { s.net with heldFlags := s.net.heldFlags.set q [] } } h.flow fun f =>
        { f with busy := f.busy.filter fun x => x != h.pkt.seq }) 0x6000 0x0E) := by
  rw [exec_flagHoldTimeout, execFlagHoldTimeout]
  simp [Quad.mod, hheld, hpassed]

end

/-- Settles O21: each command of a queue past its checks, and the two lapses. -/
theorem queuesAreOpenedClosedAndResumed : Obligations.QueuesAreOpenedClosedAndResumed := by
  refine ⟨?opened, ?closed, ?resumed, ?expired, ?forgotten⟩
  case opened =>
    intro s t d f x r hact ht hx hr hform hclean hctx hfree hfits
    subst ht
    exact exec_openQueue_of_allowed hact hx hr hform hclean hctx hfree hfits
  case closed =>
    intro s t d f n r hact ht hn hclean hpos hr hopen hplays
    subst ht
    exact exec_closeQueue_of_open hact hn hclean hpos hr hopen hplays
  case resumed =>
    intro s t d f n c r hact ht hn hc h10 h17 h76 hctx hr herr
    subst ht
    rw [exec_resumeQueue_of_allowed hact hn hc h10 h17 h76 hctx hr, resumeQueue_of_error hr herr]
  case expired =>
    intro s q cls ctx name
    rw [exec_cacheLineExpire, execCacheLineExpire]
  case forgotten =>
    intro s q src srcQueue seq h hheld hsrc hsrcQueue hseq hpassed
    subst hsrc hsrcQueue hseq
    exact exec_flagHoldTimeout_of_one hheld hpassed

end Sys2Proof.Machine
end

section
/-! PROOFS. Replies to the part's own requests, their timers, and what expires at the target (O25; R150, R157, R161, R164
to R167, R169, R176, R507). -/

namespace Sys2Proof.Machine

/-! ## The commands and their meanings -/

theorem exec_ack (p : Packet) (s : State) : exec (.ack p) s = execAck p s := rfl

theorem exec_nack (p : Packet) (s : State) : exec (.nack p) s = execNack p s := rfl

theorem exec_atomicReply (p : Packet) (s : State) : exec (.atomicReply p) s = execAtomicReply p s := rfl

theorem exec_readReply (p : Packet) (s : State) : exec (.readReply p) s = execReadReply p s := rfl

theorem exec_cas128Reply (p : Packet) (s : State) : exec (.cas128Reply p) s = execCas128Reply p s := rfl

theorem exec_resendTimerExpire (node q seq : Nat) (s : State) :
    exec (.resendTimerExpire node q seq) s = execResendTimerExpire node q seq s := rfl

theorem exec_nackBackoffExpire (node q seq : Nat) (s : State) :
    exec (.nackBackoffExpire node q seq) s = execNackBackoffExpire node q seq s := rfl

theorem exec_requestGiveUp (node q seq : Nat) (s : State) :
    exec (.requestGiveUp node q seq) s = execRequestGiveUp node q seq s := rfl

theorem exec_ackMergeExpire (src q : Nat) (s : State) :
    exec (.ackMergeExpire src q) s = execAckMergeExpire src q s := rfl

theorem exec_flowRecordExpire (src q inc : Nat) (s : State) :
    exec (.flowRecordExpire src q inc) s = execFlowRecordExpire src q inc s := rfl

theorem exec_resultEntryExpire (src q inc seq : Nat) (s : State) :
    exec (.resultEntryExpire src q inc seq) s = execResultEntryExpire src q inc seq s := rfl

/-! ## A reply that is looked at (R157, R507) -/

/-- A reply of the right class for this part and its incarnation, whose check passes. -/
structure ReplyHeard (s : State) (p : Packet) : Prop where
  cls : p.isData = isDataOp p.op
  dst : p.dst = nodeId s
  dstInc : p.dstInc = ownInc s
  check : p.crcOk = true

/-- Such a reply teaches the part its sender's incarnation, and reaches its request unless it is malformed. -/
theorem replyIn_of_heard {s : State} {p : Packet} (heard : ReplyHeard s p) (k : State → State) :
    replyIn s p k =
      .next (settle (if replyMalformed p then badReply (learnInc s p.src p.srcInc) p
        else k (learnInc s p.src p.srcInc))) := by
  have hcls : (p.isData != isDataOp p.op) = false := by simp [heard.cls]
  simp only [replyIn, hcls, heard.dst, heard.dstInc, heard.check, ne_eq, not_true_eq_false, Bool.not_true,
    Bool.false_eq_true, if_false]
  split <;> rfl

theorem replyIn_of_wellFormed {s : State} {p : Packet} (heard : ReplyHeard s p) (hform : replyMalformed p = false)
    (k : State → State) : replyIn s p k = .next (settle (k (learnInc s p.src p.srcInc))) := by
  rw [replyIn_of_heard heard, hform, if_neg Bool.false_ne_true]

/-- A reply names the request of its own SEQ. -/
theorem reqFor_of_outstanding {t : State} {p : Packet} {r : Req}
    (hr : tget t.net.reqs (reqKey p.src p.srcQueue p.seq) = some r) :
    reqFor t p 0 = some (reqKey p.src p.srcQueue p.seq, r) := by
  have hlt : p.seq < 2 ^ 24 := Nat.mod_lt _ (by decide)
  have hseq : (p.seq + 2 ^ 24 - 0) % 2 ^ 24 = p.seq := by omega
  simp only [reqFor, hseq, hr, Option.map_some]

/-- A malformed reply makes its request final with MISALIGNED, whatever it carries (R5, log entry 33). -/
theorem replyIn_of_malformed {s t : State} {p : Packet} {r : Req} (heard : ReplyHeard s p)
    (hform : replyMalformed p = true) (ht : t = learnInc s p.src p.srcInc)
    (hr : tget t.net.reqs (reqKey p.src p.srcQueue p.seq) = some r) (k : State → State) :
    replyIn s p k = .next (settle (finalReq t (reqKey p.src p.srcQueue p.seq) r Code.misaligned 0 [])) := by
  rw [replyIn_of_heard heard, if_pos hform, ← ht, badReply, reqFor_of_outstanding hr]

/-! ## Replies to a request outstanding (R150, R165, R166) -/

/-- A request after a NACK of a reason that waits: 1 µs times 2 to the power of n−1, at most T (R166). -/
def nackedToWait (t : State) (r : Req) : Req :=
  { r with
    nacks := r.nacks + 1, drewOther := true
    backoff := some (t.now, min (resendTime t r.pkt.dst) (2 ^ (r.nacks + 1 - 1))) }

/-- A request after a NACK that counts against the re-sends (R166). -/
def nackedToResend (r : Req) : Req :=
  { r with nacks := r.nacks + 1, drewCheck := true, resends := r.resends + 1 }

section
variable {s t : State} {p : Packet} {r : Req} (heard : ReplyHeard s p) (hform : replyMalformed p = false)
  (ht : t = learnInc s p.src p.srcInc) (hr : tget t.net.reqs (reqKey p.src p.srcQueue p.seq) = some r)
include heard hform ht

theorem exec_ack_of_ok (hst : p.ext.extractLsb' 0 8 = Code.ok) :
    exec (.ack p) s = .next (settle (ackRun t p (p.ext.extractLsb' 64 64))) := by
  rw [exec_ack, execAck, replyIn_of_wellFormed heard hform, ← ht]
  simp only [hst, if_true]

include hr

theorem exec_ack_of_failing (hst : p.ext.extractLsb' 0 8 ≠ Code.ok) :
    exec (.ack p) s =
      .next (settle (takeFinal t p (reqKey p.src p.srcQueue p.seq) r (p.ext.extractLsb' 0 8)
        (p.ext.extractLsb' 64 64) [])) := by
  rw [exec_ack, execAck, replyIn_of_wellFormed heard hform, ← ht]
  simp only [if_neg hst, reqFor_of_outstanding hr]

/-- A reply with a value makes a request of its kind final. -/
theorem replyIn_valueReply {answers : Nat → Bool} (hkind : answers r.pkt.op = true) (status : Status)
    (detail : BitVec 64) (data : Bytes) :
    (replyIn s p fun s => valueReply s p answers status detail data) =
      .next (settle (takeFinal t p (reqKey p.src p.srcQueue p.seq) r status detail data)) := by
  rw [replyIn_of_wellFormed heard hform, ← ht, valueReply, reqFor_of_outstanding hr]
  simp only [hkind, if_true]

theorem exec_atomicReply_of_kind (hkind : isAtomicOp r.pkt.op = true ∨ r.pkt.op = 0x45) :
    exec (.atomicReply p) s =
      .next (settle (takeFinal t p (reqKey p.src p.srcQueue p.seq) r (p.ext.extractLsb' 0 8) (p.ext.extractLsb' 64 64)
        (leBytes 8 (bits p.ext 64 64)))) := by
  rw [exec_atomicReply, execAtomicReply]
  exact replyIn_valueReply heard hform ht hr (by rcases hkind with h | h <;> simp [h]) _ _ _

theorem exec_readReply_of_kind (hkind : r.pkt.op = 0x01) :
    exec (.readReply p) s =
      .next (settle (takeFinal t p (reqKey p.src p.srcQueue p.seq) r p.dataStatus 0 p.data)) := by
  rw [exec_readReply, execReadReply]
  exact replyIn_valueReply heard hform ht hr (by simp [hkind]) _ _ _

theorem exec_cas128Reply_of_kind (hkind : r.pkt.op = 0x46) :
    exec (.cas128Reply p) s =
      .next (settle (takeFinal t p (reqKey p.src p.srcQueue p.seq) r p.dataStatus 0 p.data)) := by
  rw [exec_cas128Reply, execCas128Reply]
  exact replyIn_valueReply heard hform ht hr (by simp [hkind]) _ _ _

/-- The reasons 2 to 5 set the back-off. -/
theorem exec_nack_of_wait (hreason : 2 ≤ bits p.ext 8 8 ∧ bits p.ext 8 8 ≤ 5) :
    exec (.nack p) s =
      .next (settle { t with net := { t.net with
        reqs := tset t.net.reqs (reqKey p.src p.srcQueue p.seq) (nackedToWait t r) } }) := by
  rw [exec_nack, execNack, replyIn_of_wellFormed heard hform, ← ht]
  simp only [reqFor_of_outstanding hr, if_pos hreason]
  rfl

/-- Every other reason re-sends at once while re-sends are left. -/
theorem exec_nack_of_resend (hreason : ¬(2 ≤ bits p.ext 8 8 ∧ bits p.ext 8 8 ≤ 5))
    (hleft : r.resends < reg t 0x3E00 0x03) :
    exec (.nack p) s = .next (settle (resend t (reqKey p.src p.srcQueue p.seq) (nackedToResend r))) := by
  rw [exec_nack, execNack, replyIn_of_wellFormed heard hform, ← ht]
  simp only [reqFor_of_outstanding hr, if_neg hreason, if_pos hleft]
  rfl

end

/-! ## Timers of requests (R165 to R167) -/

section
variable {s : State} {node q seq : Nat} {r : Req} (hr : outstanding s node q seq = some r)
include hr

theorem exec_resendTimerExpire_of_passed (hpassed : passedUs s r.timerFrom (resendTime s node) = true)
    (hdue : r.due = false) (hleft : r.resends < reg s 0x3E00 0x03) :
    exec (.resendTimerExpire node q seq) s =
      .next (resend s (reqKey node q seq) { r with resends := r.resends + 1 }) := by
  have hall := And.intro hpassed (And.intro hdue hleft)
  simp only [exec_resendTimerExpire, execResendTimerExpire, hr, if_pos hall]

theorem exec_nackBackoffExpire_of_passed {t w : Nat} (hback : r.backoff = some (t, w)) (hpassed : passedUs s t w = true) :
    exec (.nackBackoffExpire node q seq) s = .next (resend s (reqKey node q seq) { r with backoff := none }) := by
  simp only [exec_nackBackoffExpire, execNackBackoffExpire, hr, hback, hpassed, if_true]

theorem exec_requestGiveUp_of_passed (hpassed : passedUs s r.firstSent (8 * resendTime s node) = true) :
    exec (.requestGiveUp node q seq) s =
      .next (settle (finalReq s (reqKey node q seq) r (giveUpStatus r) 0 [])) := by
  simp only [exec_requestGiveUp, execRequestGiveUp, hr, hpassed, if_true]

end

/-- INTEGRITY where only CHECK NACKs came, TIMEOUT where only others, and otherwise the status of an unreachable target
(R167). -/
theorem giveUpStatus_eq (r : Req) :
    giveUpStatus r =
      if r.drewCheck = true ∧ r.drewOther = false then Code.integrity
      else if r.drewOther = true ∧ r.drewCheck = false then Code.timeout
      else unreachableStatus r.pkt.op := by
  simp only [giveUpStatus, Bool.and_eq_true, Bool.not_eq_true']

/-! ## Expiry at the target (R161, R164, R169) -/

theorem exec_ackMergeExpire_of_one {s : State} {k : Nat} {m : MergedAck} (hacks : s.net.acks = [(k, m)])
    (hpassed : passedNs s m.since (reg s 0x3E00 0x05) = true) :
    exec (.ackMergeExpire m.last.src m.last.srcQueue) s = .next (flushAck s k) := by
  simp [exec_ackMergeExpire, execAckMergeExpire, hacks, hpassed]

theorem exec_flowRecordExpire_of_idle {s : State} {src q inc : Nat} {f : Flow}
    (hf : tget s.net.flows (flowKey src q inc) = some f) (hpassed : passedUs s f.used (reg s 0x3E00 0x04) = true)
    (hidle : f.busy = []) :
    exec (.flowRecordExpire src q inc) s =
      .next { s with net := { s.net with flows := tdel s.net.flows (flowKey src q inc) } } := by
  simp only [exec_flowRecordExpire, execFlowRecordExpire, hf, if_pos (And.intro hpassed hidle)]

theorem exec_resultEntryExpire_of_passed {s : State} {src q inc seq : Nat} {e : ResultEntry}
    (he : tget s.net.results (resultKey (flowKey src q inc) seq) = some e)
    (hpassed : passedUs s e.since (reg s 0x3E00 0x04) = true) :
    exec (.resultEntryExpire src q inc seq) s =
      .next { s with net := { s.net with results := tdel s.net.results (resultKey (flowKey src q inc) seq) } } := by
  simp only [exec_resultEntryExpire, execResultEntryExpire, he, hpassed, if_true]

/-- Settles O25: each reply to its request, well-formed and malformed, and each timer once its time has passed. -/
theorem repliesAndTimersSettleRequests : Obligations.RepliesAndTimersSettleRequests := by
  refine ⟨?replies, ?malformed, ?resent, ?backedOff, ?givenUp, ?merged, ?flow, ?result⟩
  case replies =>
    intro s t p key r hcls hdst hinc hcrc hform ht hkey hr
    subst hkey
    have heard : ReplyHeard s p := ⟨hcls, hdst, hinc, hcrc⟩
    exact ⟨exec_ack_of_ok heard hform ht, exec_ack_of_failing heard hform ht hr,
      exec_atomicReply_of_kind heard hform ht hr, exec_readReply_of_kind heard hform ht hr,
      exec_cas128Reply_of_kind heard hform ht hr,
      fun hlo hhi => exec_nack_of_wait heard hform ht hr ⟨hlo, hhi⟩, exec_nack_of_resend heard hform ht hr⟩
  case malformed =>
    intro s t p key r hcls hdst hinc hcrc hform ht hkey hr
    subst hkey
    have final := replyIn_of_malformed ⟨hcls, hdst, hinc, hcrc⟩ hform ht hr
    rw [exec_ack, exec_nack, exec_atomicReply, exec_readReply, exec_cas128Reply, execAck, execNack, execAtomicReply,
      execReadReply, execCas128Reply]
    exact ⟨final _, final _, final _, final _, final _⟩
  case resent =>
    intro s node q seq r hr hpassed hdue hleft
    exact exec_resendTimerExpire_of_passed hr hpassed hdue hleft
  case backedOff =>
    intro s node q seq t w r hr hback hpassed
    exact exec_nackBackoffExpire_of_passed hr hback hpassed
  case givenUp =>
    intro s node q seq r hr hpassed
    rw [exec_requestGiveUp_of_passed hr hpassed, giveUpStatus_eq]
  case merged =>
    intro s src q k m hacks hsrc hq hpassed
    subst hsrc hq
    exact exec_ackMergeExpire_of_one hacks hpassed
  case flow =>
    intro s src q inc f hf hpassed hidle
    exact exec_flowRecordExpire_of_idle hf hpassed hidle
  case result =>
    intro s src q inc seq e he hpassed
    exact exec_resultEntryExpire_of_passed he hpassed

end Sys2Proof.Machine
end

section
/-! PROOFS. Reduction groups: arming, contributions of every outcome, and CONTRIBUTE (O28; R158, R219, R224 to R228,
R235). -/

namespace Sys2Proof.Machine

/-! ## The commands and their meanings -/

theorem exec_groupArm (d : DescRef) (s : State) : exec (.groupArm d) s = execGroupArm d s := rfl

theorem exec_reduceContrib (i : Nat) (p : Packet) (s : State) :
    exec (.reduceContrib i p) s = execReduceContrib i p s := rfl

theorem exec_contribute (d : DescRef) (s : State) : exec (.contribute d) s = execContribute d s := rfl

/-! ## GROUP_ARM (R224 to R226) -/

/-- The VA of a group's destination. -/
def groupVa (t : State) (g : Group) : Nat := ((groupWindow t g).map (·.baseVa)).getD 0 + g.destOffset

/-- A group as it is entered at rest: its destination and its accumulator space. -/
def groupAtRest (t : State) (key : Nat) (g : Group) : Group :=
  { g with destVa := groupVa t g, sram := (groupSpace t g).1, foil := (groupSpace t g).2, bank := freeBank t key }

/-- The state that holds a group's destination and has the group entered, its overflow bytes counted. -/
def groupEntered (t : State) (c key : Nat) (g : Group) : State :=
  let u := hold t (steer c g.no) c (holdGroup key) [(groupVa t g, g.destBytes)]
  bumpBy { u with scrum := { u.scrum with groups := tset u.scrum.groups key (groupAtRest t key g) } } 0x6100 0x0D
    (groupSpace t g).2

/-- GROUP_ARM with its layout, context, window, number, destination and quota as R225 asks, and room to hold. -/
theorem exec_groupArm_of_allowed {s t : State} {d : DescRef} {f : Flight} {x : BitVec 320} {c : Nat} {g : Group}
    (hact : MayAct s d 0x40 f) (ht : t = actsOn s f) (hx : x = f.desc.extractLsb' 64 320)
    (hc : c = namedCtx f (bits x 1 12)) (hg : g = groupOf x c) (hreserved : groupReserved f.desc = false)
    (hform : groupMisaligned t g = false) (hctx : ctxFieldStatus t f (bits x 1 12) = Code.ok)
    (hprot : groupProtected t g = false) (hfree : thas t.scrum.groups (groupKey c g.no) = false)
    (hrange : rangesCheck t c [(groupVa t g, g.destBytes, .reduce)] = none) (hquota : groupQuota t g = false)
    (hroom : trackerFull t (steer c g.no) = false) :
    exec (.groupArm d) s =
      completes (groupEntered t c (groupKey c g.no) g) d Code.ok (BitVec.ofNat 64 (steer c g.no)) := by
  rw [groupVa] at hrange
  rw [exec_groupArm, execGroupArm, withDesc_acts hact, ← ht, ← hx]
  simp only [← hc, ← hg, firstOf, hreserved, hform, hctx, hprot, hfree, hrange, hquota, hroom]
  rfl

/-! ## REDUCE_CONTRIB (R158, R219, R227, R228) -/

section
variable {s t u v : State} {i : Nat} {p : Packet}

theorem exec_reduceContrib_of_fresh (ha : arrival s (some i) p = .fresh t) :
    exec (.reduceContrib i p) s = .next (settle (takeContrib t p)) := by
  rw [exec_reduceContrib, execReduceContrib, onArrival_of_fresh _ _ ha]

theorem takeContrib_of_refused {st : Status} {off : Nat}
    (hpass : passWindow t p (contribLen t p) .reduce = (u, .error (st, off))) :
    takeContrib t p = refuseReq u p st (BitVec.ofNat 64 off) := by
  simp only [takeContrib, hpass]

section
variable {va : Nat} (hpass : passWindow t p (contribLen t p) .reduce = (u, .ok va))
include hpass

/-- A guard over the bytes that a contribution loads holds it. -/
theorem takeContrib_of_held (hheld : heldBy u (.request p) p.ctx (contribLoads u p) = some v) :
    takeContrib t p = markBusy v p := by
  simp only [takeContrib, hpass, hheld]

theorem takeContrib_of_unheld (hfree : heldBy u (.request p) p.ctx (contribLoads u p) = none) :
    takeContrib t p = contribFreed u p := by
  simp only [takeContrib, hpass, hfree]

end

theorem contribFreed_of_contributeAt {st : Status} {off : Nat} (hat : contributeAt u p = (v, st, off)) :
    contribFreed u p = if st = Code.ok then ackDone v p else refuseReq v p st (BitVec.ofNat 64 off) := by
  simp only [contribFreed, hat]

/-- A contribution past the checks of Table 5 whose destination loads adds each of its segments and is counted. -/
theorem contributeAt_of_accepted {g : Group} {segs : List (Nat × Bool)}
    (hg : tget u.scrum.groups (groupKey p.ctx (p.aux % 65536)) = some g) (hchecks : groupChecks g p = .ok segs)
    (hinit : initStatus u g segs = (v, Code.ok)) :
    contributeAt u p =
      ((segs.zip (cutRuns g.segIn (p.data.length + 1) p.data)).foldl
        (fun s x => addSeg s (groupKey p.ctx (p.aux % 65536)) x.1.1 x.1.2 x.2) (bump v 0x6100 0x08), Code.ok, 0) := by
  simp only [contributeAt, hg, hchecks, hinit, ne_eq, not_true_eq_false, if_false]

end

/-! ## CONTRIBUTE (R235) -/

/-- The state with a contribution's source looked up and held, its descriptor waiting. -/
def contribHeld (t : State) (fk : Nat) (f : Flight) (ranges : List (Nat × Nat)) : State :=
  hold (waitOn (ranges.foldl
    (fun s r => lookupRange s f.quarter (unitStream f.engine f.ctx f.queue) f.ctx r.1 r.2) t) fk)
    f.quarter f.ctx (holdFlight fk) ranges

theorem exec_contribute_of_checked {s : State} {d : DescRef} {f : Flight} {src : Place} {len : Nat}
    (hact : MayAct s d 0x42 f) (hsrc : src = placeOf (opBit f.desc 183) (opnd f.desc 0 64))
    (hlen : len = opnd f.desc 152 31 / 2 ^ opnd f.desc 188 4 * contribSeg f.desc)
    (hform : contribMisaligned f.desc = false) (hroom : trackerFull (actsOn s f) f.quarter = false)
    (hside : localSide (actsOn s f) f.ctx src [0] len .read = none) :
    exec (.contribute d) s =
      let u := contribHeld (actsOn s f) (refKey d) f (localRanges src [0] len)
      .next (settle (startJob u (flightJob u (refKey d) f) (contribWork u f.ctx f.desc))) := by
  rw [exec_contribute, execContribute, withDesc_acts hact]
  simp only [← hsrc, ← hlen, hform, hroom, hside, Bool.false_eq_true, if_false]
  rfl

/-- Settles O28: GROUP_ARM and CONTRIBUTE past their checks, and REDUCE_CONTRIB by each of its outcomes. -/
theorem groupsAreArmedAndTakeContributions : Obligations.GroupsAreArmedAndTakeContributions := by
  refine ⟨?armed, ?refused, ?held, ?answered, ?accepted, ?started⟩
  case armed =>
    intro s t d f x c g va hact ht hx hc hg hreserved hform hctx hprot hfree hva hrange hquota hroom
    subst hva
    exact exec_groupArm_of_allowed hact ht hx hc hg hreserved hform hctx hprot hfree hrange hquota hroom
  case refused =>
    intro s t u i p st off ha hpass
    rw [exec_reduceContrib_of_fresh ha, takeContrib_of_refused hpass]
  case held =>
    intro s t u v i p va ha hpass hheld
    rw [exec_reduceContrib_of_fresh ha, takeContrib_of_held hpass hheld]
  case answered =>
    intro s t u v i p va off st ha hpass hfree hat
    rw [exec_reduceContrib_of_fresh ha, takeContrib_of_unheld hpass hfree, contribFreed_of_contributeAt hat]
  case accepted =>
    intro u v p g segs hg hchecks hinit
    exact contributeAt_of_accepted hg hchecks hinit
  case started =>
    intro s t d f src len hact ht hsrc hlen hform hroom hside
    subst ht
    exact exec_contribute_of_checked hact hsrc hlen hform hroom hside

end Sys2Proof.Machine
end

section
/-! PROOFS. The switch core: packets routed, cut, switched, fetched and sent (O26; R182, R185, R186, R193, R195 to R197,
R204). -/

namespace Sys2Proof.Machine

/-! ## The commands and their meanings -/

theorem exec_packetRoute (port fifo : Nat) (s : State) :
    exec (.packetRoute port fifo) s = execPacketRoute port fifo s := rfl

theorem exec_cellAdmit (port fifo middle : Nat) (s : State) :
    exec (.cellAdmit port fifo middle) s = execCellAdmit port fifo middle s := rfl

theorem exec_cellToOutput (middle output : Nat) (s : State) :
    exec (.cellToOutput middle output) s = execCellToOutput middle output s := rfl

theorem exec_spillFetch (middle output : Nat) (s : State) :
    exec (.spillFetch middle output) s = execSpillFetch middle output s := rfl

theorem exec_packetTransmit (port : Nat) (s : State) :
    exec (.packetTransmit port) s = execPacketTransmit port s := rfl

/-! ## Spilled cells (R193) -/

/-- One cell of a fetch: a spilled cell that is not back yet is brought back, with or without the free error. -/
def fetchCell (q : Nat) (s : State) (c : CoreCell) : State × CoreCell :=
  if c.spilled && !c.staged then
    (if Config.freeBit s.fresh then poisonCell q (draw s) c else draw s, { c with staged := true })
  else (s, c)

/-- A fetch takes its cells one after another. -/
theorem fetchCells_cons (q : Nat) (s : State) (c : CoreCell) (cs : List CoreCell) :
    fetchCells q s (c :: cs) =
      ((fetchCells q (fetchCell q s c).1 cs).1, (fetchCell q s c).2 :: (fetchCells q (fetchCell q s c).1 cs).2) := rfl

theorem fetchCell_of_present {c : CoreCell} (h : c.spilled = false ∨ c.staged = true) (q : Nat) (s : State) :
    fetchCell q s c = (s, c) := by
  have hpresent : (c.spilled && !c.staged) = false := by rcases h with h | h <;> simp [h]
  rw [fetchCell, hpresent, if_neg Bool.false_ne_true]

/-- A fetch leaves no spilled cell behind. -/
theorem fetchCell_staged {q : Nat} {s : State} {c : CoreCell} (h : (fetchCell q s c).2.spilled = true) :
    (fetchCell q s c).2.staged = true := by
  by_cases hpresent : c.spilled = false ∨ c.staged = true
  · rw [fetchCell_of_present hpresent] at h ⊢
    simpa [show c.spilled = true from h] using hpresent
  · simp only [not_or, Bool.not_eq_false, Bool.not_eq_true] at hpresent
    simp [fetchCell, hpresent]

theorem fetchCells_staged {q : Nat} {s : State} {cs : List CoreCell} {c : CoreCell} (hc : c ∈ (fetchCells q s cs).2)
    (hspilled : c.spilled = true) : c.staged = true := by
  induction cs generalizing s with
  | nil => exact absurd hc List.not_mem_nil
  | cons d ds ih =>
    rw [fetchCells_cons, List.mem_cons] at hc
    obtain rfl | hc := hc
    · exact fetchCell_staged hspilled
    · exact ih hc

/-! ## The commands of a core that runs -/

section
variable {s : State} (hruns : s.core.stopped = false)
include hruns

theorem exec_packetRoute_of_unrouted {port fifo id : Nat} {c : CorePkt}
    (hc : oldestUnrouted s port fifo = some (id, c)) :
    exec (.packetRoute port fifo) s = .next (routePkt s port fifo id c) := by
  rw [exec_packetRoute, execPacketRoute, if_neg (ne_true_of_eq_false hruns)]
  simp only [hc]

/-- The pattern of stage 1 (R185): an input is connected to one middle per cycle and feeds it once. -/
theorem exec_cellAdmit_of_offered {port fifo middle : Nat} (hturn : middle = (port + s.now) % 80)
    (hfed : tget s.core.fed port ≠ some (s.now + 1)) (hoffer : offered s port middle = some fifo) :
    exec (.cellAdmit port fifo middle) s = .next (storeCell s port fifo middle (headCell s port fifo)) := by
  rw [exec_cellAdmit, execCellAdmit, if_pos ⟨hruns, hturn, hfed, hoffer⟩]

/-- A middle's cells for an output once one of them has left, the middle having given its cell of this cycle. -/
def cellGiven (u : State) (middle output : Nat) (c : CoreCell) : State :=
  let rest := ((tget u.core.cells (cellKey middle output)).getD []).filter fun x => x.order != c.order
  setCore u { u.core with
    cells := if rest.isEmpty then tdel u.core.cells (cellKey middle output)
      else tset u.core.cells (cellKey middle output) rest
    gave := tset u.core.gave middle (u.now + 1) }

/-- The pattern of stage 2 (R185): a middle is connected to one output per cycle and gives it one cell. -/
theorem exec_cellToOutput_of_sendable {middle output : Nat} {c : CoreCell} (hturn : output = (middle + s.now) % 80)
    (hgave : tget s.core.gave middle ≠ some (s.now + 1)) (hc : sendable s middle output = some c) :
    exec (.cellToOutput middle output) s =
      .next (c.pkts.foldl (reachOutput output)
        (cellGiven (fetchCells (middleQuarter middle) s [c]).1 middle output c)) := by
  rw [exec_cellToOutput, execCellToOutput, if_pos ⟨hruns, hturn, hgave⟩]
  simp only [hc]
  rfl

theorem exec_spillFetch_of_cells {middle output : Nat} {l : List CoreCell}
    (hl : tget s.core.cells (cellKey middle output) = some l) :
    exec (.spillFetch middle output) s =
      let r := fetchCells (middleQuarter middle) s (l.take 16)
      .next (setCore r.1
        { r.1.core with cells := tset r.1.core.cells (cellKey middle output) (r.2 ++ l.drop 16) }) := by
  simp only [exec_spillFetch, execSpillFetch, hl, hruns, Bool.false_eq_true, if_false]

/-- A port's next complete packet taken from the core, the turn of its virtual lanes moved on. -/
def packetTaken (s : State) (port id : Nat) (t : OutTurn) : State :=
  dropPkt (setCore s { s.core with turns := tset s.core.turns port t }) id

/-- A packet leaves a fabric port, or is discarded at the age limit of 3D00:03 (R196, R197). -/
def leaveFabric (u : State) (port : Nat) (c : CorePkt) : State :=
  if reg u 0x3D00 0x03 * 1000 < ageNs u c then bump u 0x3D00 0x07
  else send (countFrame u port) (.packet port (ageNs u c / 1000) (leaving c))

/-- A packet reaches the part's own blocks, or is discarded at 2 ms (R197). -/
def leaveInner (u : State) (port : Nat) (c : CorePkt) : State :=
  if 2000000 < ageNs u c then bump u 0x3E00 0x0C else send u (.inner port (ageNs u c / 1000) (leaving c))

section
variable {port id : Nat} {c : CorePkt} {t : OutTurn} (hnext : nextOut s port = some ((id, c), t))
include hnext

theorem exec_packetTransmit_of_fabric (hport : port < 64) :
    exec (.packetTransmit port) s = .next (leaveFabric (packetTaken s port id t) port c) := by
  rw [exec_packetTransmit, execPacketTransmit, if_neg (ne_true_of_eq_false hruns), leaveFabric,
    apply_ite Host.Outcome.next]
  simp only [hnext, if_pos hport]
  rfl

theorem exec_packetTransmit_of_inner (hport : ¬ port < 64) :
    exec (.packetTransmit port) s = .next (leaveInner (packetTaken s port id t) port c) := by
  rw [exec_packetTransmit, execPacketTransmit, if_neg (ne_true_of_eq_false hruns), leaveInner,
    apply_ite Host.Outcome.next]
  simp only [hnext, if_neg hport]
  rfl

end

end

/-- Settles O26: each command of the core on its cycle, what a fetch does to a cell, and a packet's way out of a fabric
port and of an internal one. -/
theorem packetsCrossTheCore : Obligations.PacketsCrossTheCore := by
  refine ⟨?routed, ?admitted, ?switched, ?present, ?fetched, ?staged, ?sent⟩
  case routed =>
    intro s port fifo id c hruns hc
    exact exec_packetRoute_of_unrouted hruns hc
  case admitted =>
    intro s port fifo middle hruns hturn hfed hoffer
    exact exec_cellAdmit_of_offered hruns hturn hfed hoffer
  case switched =>
    intro s middle output c hruns hturn hgave hc
    exact exec_cellToOutput_of_sendable hruns hturn hgave hc
  case present =>
    intro q s c h
    rw [fetchCells_cons, fetchCell_of_present h]
    rfl
  case fetched =>
    intro s middle output l hruns hl
    exact exec_spillFetch_of_cells hruns hl
  case staged =>
    intro q s cs c hc hspilled
    exact fetchCells_staged hc hspilled
  case sent =>
    intro s port id c t hruns hnext
    by_cases hport : port < 64
    · rw [exec_packetTransmit_of_fabric hruns hnext hport]
      simp only [if_pos hport]
      rfl
    · rw [exec_packetTransmit_of_inner hruns hnext hport]
      simp only [if_neg hport]
      rfl

end Sys2Proof.Machine
end

section
/-! PROOFS. Flow words, port loads and the limiters of congestion notes (O27; R200, R204, R210, R211, R386, R389). -/

namespace Sys2Proof.Machine

/-! ## The commands and their meanings -/

theorem exec_flowRefresh (port : Nat) (s : State) : exec (.flowRefresh port) s = execFlowRefresh port s := rfl

theorem exec_flowWord (port : Nat) (w : BitVec 64) (s : State) :
    exec (.flowWord port w) s = execFlowWord port w s := rfl

theorem exec_portLoadSample (s : State) : exec .portLoadSample s = execPortLoadSample s := rfl

theorem exec_congNote (p : Packet) (s : State) : exec (.congNote p) s = execCongNote p s := rfl

theorem exec_limiterIncrease (k : Nat) (s : State) : exec (.limiterIncrease k) s = execLimiterIncrease k s := rfl

/-! ## Flow words (R200, R386, R389) -/

/-- A port that has sent no flow word yet is due as one whose last is 1 µs old. -/
theorem exec_flowRefresh_of_due {s : State} {port : Nat}
    (hdue : ∀ t, tget s.core.refreshed port = some t → passedUs s t 1 = true) (hport : port < 64)
    (hactive : portActive s port = true) :
    exec (.flowRefresh port) s =
      .next (send (setCore s { s.core with refreshed := tset s.core.refreshed port s.now })
        (.flow port (flowStates s port))) := by
  rw [exec_flowRefresh, execFlowRefresh]
  cases hlast : tget s.core.refreshed port with
  | none => simp only [hport, hactive, and_self, if_true]
  | some t => simp only [hdue t hlast, hport, hactive, and_self, if_true]

/-- A flow word as R389 lays it out: type 2, its reserved fields zero, and no code of 3. -/
structure FlowWordFormed (w : BitVec 64) : Prop where
  type : bits w 4 4 = 2
  reservedLow : bits w 0 4 = 0
  reservedHigh : bits w 18 46 = 0
  codes : ((List.range 5).any fun v => bits w (8 + 2 * v) 2 == 3) = false

theorem exec_flowWord_of_formed {s : State} {port : Nat} {w : BitVec 64} (hport : port < 64)
    (hactive : portActive s port = true) (formed : FlowWordFormed w) :
    exec (.flowWord port w) s =
      .next (sendAllHeld (setCore s { s.core with
        xoffRecv := (List.range 5).foldl (fun t v => tset t (port * 8 + v) (bits w (8 + 2 * v) 2)) s.core.xoffRecv })
        port) := by
  have heard : ¬(64 ≤ port ∨ (!portActive s port) = true) := by simp [hport, hactive]
  have hcodes := formed.codes
  rw [exec_flowWord, execFlowWord, if_neg heard, formed.type, formed.reservedLow, formed.reservedHigh]
  simp only [hcodes, Nat.reduceLeDiff, ne_eq, not_true_eq_false, or_self, Bool.false_eq_true, if_false]

/-! ## Loads (R204) -/

theorem exec_portLoadSample_of_due {s : State} (hdue : s.core.sampledAt + 32 ≤ s.now) :
    exec .portLoadSample s = .next (setCore s { s.core with
      loads := (List.range 80).foldl (fun t o => tset t o (portLoad s o)) s.core.loads, sampledAt := s.now }) := by
  rw [exec_portLoadSample, execPortLoadSample, if_neg (Nat.not_lt.mpr hdue)]

/-! ## Limiters (R211) -/

/-- A CONG_NOTE for this part with its reserved fields zero. -/
structure NoteHeard (s : State) (p : Packet) : Prop where
  header : unsequencedBad p = false
  reservedBit : extZero p 23 1 = true
  reservedTop : extZero p 40 88 = true
  dst : p.dst = nodeId s

/-- A limiter at the full rate of an issuing queue. -/
def fullLimiter (s : State) (queue : Nat) : Limiter :=
  { rate := rMax s queue, rmax := rMax s queue, lastChange := s.now }

section
variable {s : State} {p : Packet} (heard : NoteHeard s p)
include heard

theorem NoteHeard.wellFormed : (unsequencedBad p || !extZero p 23 1 || !extZero p 40 88) = false := by
  simp [heard.header, heard.reservedBit, heard.reservedTop]

theorem exec_congNote_of_limited {l : Limiter}
    (hl : tget (s.core.limiters.get (issuerQuarter p.srcQueue)) p.srcQueue = some l) :
    exec (.congNote p) s =
      .next (setLimiters s (issuerQuarter p.srcQueue)
        (tset (s.core.limiters.get (issuerQuarter p.srcQueue)) p.srcQueue (cutLimiter s l))) := by
  simp only [exec_congNote, execCongNote, heard.wellFormed, heard.dst, hl, ne_eq, not_true_eq_false,
    Bool.false_eq_true, if_false]

theorem exec_congNote_of_unlimited
    (hl : tget (s.core.limiters.get (issuerQuarter p.srcQueue)) p.srcQueue = none) :
    exec (.congNote p) s =
      .next (setLimiters s (issuerQuarter p.srcQueue)
        (tset (roomLimiter (s.core.limiters.get (issuerQuarter p.srcQueue))) p.srcQueue
          (cutLimiter s (fullLimiter s p.srcQueue)))) := by
  simp only [exec_congNote, execCongNote, heard.wellFormed, heard.dst, hl, ne_eq, not_true_eq_false,
    Bool.false_eq_true, if_false]
  rfl

end

/-- A limiter's rate after a rise by a quarter of what it lacks. -/
def raisedRate (l : Limiter) : Nat := l.rate + (l.rmax - l.rate) / 4

theorem exec_limiterIncrease_of_passed {s : State} {k : Nat} {l : Limiter}
    (hl : tget (s.core.limiters.get (issuerQuarter k)) k = some l) (hpassed : passedUs s l.lastChange 8 = true) :
    exec (.limiterIncrease k) s =
      .next (setLimiters s (issuerQuarter k)
        (if l.rmax * 63 ≤ raisedRate l * 64 then tdel (s.core.limiters.get (issuerQuarter k)) k
        else tset (s.core.limiters.get (issuerQuarter k)) k { l with rate := raisedRate l, lastChange := s.now })) := by
  simp only [exec_limiterIncrease, execLimiterIncrease, hl, hpassed, if_true]
  rw [apply_ite (setLimiters s (issuerQuarter k)), apply_ite Host.Outcome.next]
  rfl

/-- Settles O27: the flow words sent and received, the sample of the loads, a note for a queue with a limiter and for
one without, and the rise of a limiter. -/
theorem flowControlAndCongestionAct : Obligations.FlowControlAndCongestionAct := by
  refine ⟨?refreshed, ?received, ?sampled, ?noted, ?raised⟩
  case refreshed =>
    intro s port hdue hport hactive
    exact exec_flowRefresh_of_due hdue hport hactive
  case received =>
    intro s port w hport hactive htype hlow hhigh hcodes
    exact exec_flowWord_of_formed hport hactive ⟨htype, hlow, hhigh, hcodes⟩
  case sampled =>
    intro s hdue
    exact exec_portLoadSample_of_due hdue
  case noted =>
    intro s p hheader hbit htop hdst
    have heard : NoteHeard s p := ⟨hheader, hbit, htop, hdst⟩
    cases hl : tget (s.core.limiters.get (issuerQuarter p.srcQueue)) p.srcQueue with
    | some l => simp only [exec_congNote_of_limited heard hl, hl]
    | none =>
      simp only [exec_congNote_of_unlimited heard hl, hl]
      rfl
  case raised =>
    intro s k l hl hpassed
    exact exec_limiterIncrease_of_passed hl hpassed

end Sys2Proof.Machine
end

section
/-! PROOFS. The part as RC requester: responses, timers and congestion notification (O48; R211, R423, R426). -/

namespace Sys2Proof.Machine

/-! ## The commands and their meanings -/

theorem exec_roceRequesterResponse (qpn psn : Nat) (reply : RoceReply) (s : State) :
    exec (.roceRequesterResponse qpn psn reply) s = execRoceRequesterResponse qpn psn reply s := rfl

theorem exec_roceRequesterTimeout (qpn : Nat) (s : State) :
    exec (.roceRequesterTimeout qpn) s = execRoceRequesterTimeout qpn s := rfl

theorem exec_roceRnrTimerExpire (qpn : Nat) (s : State) :
    exec (.roceRnrTimerExpire qpn) s = execRoceRnrTimerExpire qpn s := rfl

theorem exec_congestionNotification (qpn : Nat) (s : State) :
    exec (.congestionNotification qpn) s = execCongestionNotification qpn s := rfl

/-! ## Responses (R423) -/

/-- A response of a size that the ingress buffer takes; only read data have bytes. -/
theorem exec_roceRequesterResponse_of_taken {s u : State} {qpn psn len : Nat} {p : QueuePair} {reply : RoceReply}
    {marked : Bool} (hq : qpOf s qpn = some p) (hready : p.state = 1) (hup : ethUp s p.port = true)
    (hsent : (p.sends.any fun r => r.psn == psn) = true) (hdata : ∀ d, reply = .readData d → len = d.length)
    (hempty : (∀ d, reply ≠ .readData d) → len = 0)
    (htaken : ethIn s p.port 0 (roceSize p.ipv6 4 len) false = (u, some marked)) :
    exec (.roceRequesterResponse qpn psn reply) s = .next (settle (requesterReply u qpn psn p reply)) := by
  have hmeant : ¬(p.state ≠ 1 ∨ ethUp s p.port = false ∨ (!(p.sends.any fun r => r.psn == psn)) = true) := by
    simp [hready, hup, hsent]
  rw [exec_roceRequesterResponse]
  unfold execRoceRequesterResponse
  cases reply with
  | readData d =>
    obtain rfl := hdata d rfl
    simp only [hq, if_neg hmeant, htaken]
  | _ =>
    obtain rfl := hempty fun d => RoceReply.noConfusion
    simp only [hq, if_neg hmeant, htaken]

/-- An acknowledgement completes the WHISTLEs of the writes that it covers. -/
theorem requesterReply_ack (s : State) (qpn psn : Nat) (p : QueuePair) :
    requesterReply s qpn psn p .ack = takeAck s qpn psn := rfl

/-! ## Timers (R423) -/

theorem retry_eq (s : State) (qpn : Nat) (p : Prop) [Decidable p] (f : RingReq → RingReq) :
    retry s qpn (decide p) f = if p then qpError s qpn Code.targetLost else resendAll s qpn f := by
  simp only [retry, decide_eq_true_eq]

theorem exec_roceRequesterTimeout_of_passed {s : State} {qpn : Nat} {p : QueuePair} {r : RingReq} {rs : List RingReq}
    (hq : qpOf s qpn = some p) (hsends : p.sends = r :: rs) (hwait : r.rnrFrom = none)
    (hpassed : passedNs s r.since (4096 * 2 ^ p.ackTimeout) = true) :
    exec (.roceRequesterTimeout qpn) s =
      .next (settle (retry s qpn (decide (p.retryCnt ≤ r.tries)) fun r => { r with tries := r.tries + 1 })) := by
  have hdue : r.rnrFrom.isNone = true ∧ passedNs s r.since (4096 * 2 ^ p.ackTimeout) = true := by
    simp only [hwait, hpassed, Option.isNone_none, and_self]
  simp only [exec_roceRequesterTimeout, execRoceRequesterTimeout, hq, hsends, if_pos hdue]

theorem exec_roceRnrTimerExpire_of_passed {s : State} {qpn since code : Nat} {r : RingReq}
    (hr : (qpOf s qpn).bind (·.sends.head?) = some r) (hwait : r.rnrFrom = some (since, code))
    (hpassed : passedUs s since (10 * rnrTime code) = true) :
    exec (.roceRnrTimerExpire qpn) s = .next (settle (resendAll s qpn id)) := by
  simp only [exec_roceRnrTimerExpire, execRoceRnrTimerExpire, hr, hwait, hpassed, if_true]

/-! ## Congestion notification (R211, R426) -/

/-- The limiter of a queue pair, or a new one at the rate of its port. -/
def limiterOrFull (u : State) (p : QueuePair) : Limiter :=
  (p.limiterNow u).getD
    { rate := (ethPort u p.port).rate * 125, rmax := (ethPort u p.port).rate * 125, lastChange := u.now }

theorem exec_congestionNotification_of_taken {s u : State} {qpn : Nat} {p : QueuePair} {marked : Bool}
    (hq : qpOf s qpn = some p) (hrc : p.ud = false) (hup : ethUp s p.port = true)
    (htaken : ethIn s p.port 0 (roceSize p.ipv6 16 0) false = (u, some marked)) :
    exec (.congestionNotification qpn) s =
      .next (modQp u qpn fun qp => { qp with limiter := some (cutLimiter u (limiterOrFull u p)) }) := by
  simp only [exec_congestionNotification, execCongestionNotification, hq, hrc, hup, htaken, Bool.not_true,
    Bool.or_self, Bool.false_eq_true, if_false]
  rfl

/-- Settles O48: a response taken, the two timers once they have passed, a notification taken, and what an
acknowledgement ends. -/
theorem theRequesterAndItsTimers : Obligations.TheRequesterAndItsTimers := by
  refine ⟨?answered, ?timedOut, ?waited, ?notified, ?acknowledged⟩
  case answered =>
    intro s u qpn psn p reply len marked hq hready hup hsent hdata hempty htaken
    exact exec_roceRequesterResponse_of_taken hq hready hup hsent hdata hempty htaken
  case timedOut =>
    intro s qpn p r rs hq hsends hwait hpassed
    rw [exec_roceRequesterTimeout_of_passed hq hsends hwait hpassed, retry_eq]
  case waited =>
    intro s qpn since code r hr hwait hpassed
    exact exec_roceRnrTimerExpire_of_passed hr hwait hpassed
  case notified =>
    intro s u qpn p l marked hq hrc hup htaken hl
    subst hl
    exact exec_congestionNotification_of_taken hq hrc hup htaken
  case acknowledged =>
    intro s qpn psn p
    rw [requesterReply_ack, takeAck]

end Sys2Proof.Machine
end

section
/-! PROOFS. The rounds of a reduction group: waiting for them, their end, feeding the step engine, the end of a group,
and the duplicate checks (O29; R231, R233, R237, R238, R241 to R243, R255). -/

namespace Sys2Proof.Machine

/-! ## The commands and their meanings -/

theorem exec_roundWait (d : DescRef) (s : State) : exec (.roundWait d) s = execRoundWait d s := rfl

theorem exec_roundWaitTimeout (d : DescRef) (s : State) :
    exec (.roundWaitTimeout d) s = execRoundWaitTimeout d s := rfl

theorem exec_roundEnd (ctx no : Nat) (s : State) : exec (.roundEnd ctx no) s = execRoundEnd ctx no s := rfl

theorem exec_segmentFeed (ctx no seg : Nat) (s : State) :
    exec (.segmentFeed ctx no seg) s = execSegmentFeed ctx no seg s := rfl

theorem exec_groupDisarm (d : DescRef) (s : State) : exec (.groupDisarm d) s = execGroupDisarm d s := rfl

theorem exec_duplicateCheckDone (n : Nat) (v : Verdict) (s : State) :
    exec (.duplicateCheckDone n v) s = execDuplicateCheckDone n v s := rfl

/-! ## ROUND_WAIT (R237) -/

/-- A ROUND_WAIT past its checks on a group in service: a failed group and a round that has ended answer it at once. -/
theorem exec_roundWait_of_inService {s t : State} {d : DescRef} {f : Flight} {g : Group} {past : Nat}
    (hact : MayAct s d 0x43 f) (ht : t = actsOn s f) (hclean : clean f.desc 76 372 = true)
    (hctx : ctxFieldStatus t f (opnd f.desc 64 12) = Code.ok)
    (hg : tget t.scrum.groups (groupKey (namedCtx f (opnd f.desc 64 12)) (opnd f.desc 0 16)) = some g)
    (hpast : past = (g.round + 65536 - opnd f.desc 16 16) % 65536) (hserved : g.disarm = false) :
    exec (.roundWait d) s =
      if g.state = 2 then completes t d g.failStatus 0
      else if 1 ≤ past ∧ past ≤ 32767 then completes t d g.lastStatus (roundDetail g)
      else .next (waitOn t (refKey d)) := by
  rw [exec_roundWait, execRoundWait, withDesc_acts hact, ← ht]
  simp only [firstOf, hclean, hctx, hg, hserved, ← hpast, doneWith_refKey]
  rfl

theorem exec_roundWaitTimeout_of_passed {s : State} {d : DescRef} {f : Flight} (hf : waitingOp s d 0x43 = some f)
    (hlimit : opnd f.desc 32 32 ≠ 0) (hpassed : passedUs s f.since (opnd f.desc 32 32) = true) :
    exec (.roundWaitTimeout d) s = completes s d Code.timeout 0 := by
  simp only [exec_roundWaitTimeout, execRoundWaitTimeout, hf]
  rw [if_pos ⟨hlimit, hpassed⟩, doneWith_refKey]

/-! ## The end of a round, and feeding the step engine (R231, R233, R255) -/

section
variable {s : State} {ctx no : Nat} {g : Group} (hg : tget s.scrum.groups (groupKey ctx no) = some g)
include hg

theorem exec_roundEnd_of_gathered (hstate : g.state = 1) (hbegun : g.ending = false)
    (hover : gatherOver s (groupKey ctx no) g = true) :
    exec (.roundEnd ctx no) s = .next (settle (endRound s (groupKey ctx no) g)) := by
  simp only [exec_roundEnd, execRoundEnd, hg]
  rw [if_pos ⟨hstate, hbegun, hover⟩]

theorem exec_segmentFeed_of_waiting {seg : Nat} (hstate : g.state = 0) (hstage : (g.seg seg).stage = 1) :
    exec (.segmentFeed ctx no seg) s = .next (settle (feedSeg s (groupKey ctx no) seg)) := by
  simp only [exec_segmentFeed, execSegmentFeed, hg]
  rw [if_pos ⟨hstate, hstage⟩]

end

/-! ## GROUP_DISARM and the end of a group (R238) -/

@[simp] theorem finish_scrum (s : State) (key : Nat) (st : Status) (detail : BitVec 64) :
    (finish s key st detail).scrum = s.scrum := rfl

@[simp] theorem waitOn_scrum (s : State) (key : Nat) : (waitOn s key).scrum = s.scrum := rfl

theorem scrum_foldl {α : Type} {f : State → α → State} (h : ∀ s x, (f s x).scrum = s.scrum) (l : List α)
    (s : State) : (l.foldl f s).scrum = s.scrum := by
  induction l generalizing s with
  | nil => rfl
  | cons x l ih => rw [List.foldl_cons, ih, h]

/-- The group under the key that is changed is the old one changed. -/
theorem modGroup_group {s : State} {key : Nat} {g : Group} (hg : tget s.scrum.groups key = some g) (f : Group → Group) :
    tget (modGroup s key f).scrum.groups key = some (f g) := by
  rw [modGroup, tget_tmod, if_pos rfl, hg, Option.map_some]

/-- A group that a GROUP_DISARM has stopped stays while a finalisation is in progress; then it goes, and the descriptor
completes unless gather requests are outstanding. -/
theorem disarmEnds_of_stopped {s : State} {key b : Nat} {g : Group} (hg : tget s.scrum.groups key = some g)
    (hstopped : g.disarm = true) (hby : g.disarmBy = some b) :
    disarmEnds s key =
      if g.finalising = true ∧ g.state ≠ 2 then s
      else if gatherLive s key then dropGroup s key g
      else finish (dropGroup s key g) b Code.ok := by
  simp only [disarmEnds, hg, hstopped, hby, Bool.not_true, Bool.false_or, Bool.and_eq_true, bne_iff_ne]

/-- The state in which the ROUND_WAITs of a group have ended ABORTED. -/
def waitersAborted (s : State) (key : Nat) : State :=
  (roundWaiters s key).foldl (fun s w => finish s w.1 Code.aborted) s

theorem waitersAborted_scrum (s : State) (key : Nat) : (waitersAborted s key).scrum = s.scrum :=
  scrum_foldl (fun _ _ => finish_scrum ..) _ _

/-- A group as a GROUP_DISARM leaves it. -/
def Group.stoppedBy (fk : Nat) (g : Group) : Group := { g with disarm := true, disarmBy := some fk }

/-- The state in which a GROUP_DISARM has ended a group's ROUND_WAITs and stopped it. -/
def groupStopped (s : State) (key fk : Nat) : State :=
  modGroup (waitersAborted s key) key (Group.stoppedBy fk)

theorem groupStopped_group {s : State} {key : Nat} {g : Group} (hg : tget s.scrum.groups key = some g) (fk : Nat) :
    tget (groupStopped s key fk).scrum.groups key = some (g.stoppedBy fk) :=
  modGroup_group (by rw [waitersAborted_scrum, hg]) _

theorem stopGroup_aborted (s : State) (key fk : Nat) :
    stopGroup s key Code.aborted (some fk) = disarmEnds (groupStopped s key fk) key := rfl

/-- A group that a GROUP_DISARM stops goes at once where no finalisation of it is in progress. -/
theorem stopGroup_of_group {s : State} {key : Nat} {g : Group} (hg : tget s.scrum.groups key = some g) (fk : Nat) :
    stopGroup s key Code.aborted (some fk) =
      let u := groupStopped s key fk
      if g.finalising = true ∧ g.state ≠ 2 then u
      else if gatherLive u key then dropGroup u key (g.stoppedBy fk)
      else finish (dropGroup u key (g.stoppedBy fk)) fk Code.ok := by
  rw [stopGroup_aborted, disarmEnds_of_stopped (groupStopped_group hg fk) rfl rfl]
  rfl

theorem exec_groupDisarm_of_inService {s t : State} {d : DescRef} {f : Flight} {key : Nat} {g : Group}
    (hact : MayAct s d 0x41 f) (ht : t = actsOn s f) (h16 : clean f.desc 16 48 = true)
    (h76 : clean f.desc 76 372 = true) (hctx : ctxFieldStatus t f (opnd f.desc 64 12) = Code.ok)
    (hkey : key = groupKey (namedCtx f (opnd f.desc 64 12)) (opnd f.desc 0 16))
    (hg : tget t.scrum.groups key = some g) (hserved : g.disarm = false) :
    exec (.groupDisarm d) s = .next (settle (stopGroup (waitOn t (refKey d)) key Code.aborted (some (refKey d)))) := by
  rw [exec_groupDisarm, execGroupDisarm, withDesc_acts hact, ← ht]
  simp only [firstOf, h16, h76, hctx, ← hkey, hg, hserved]
  rfl

/-! ## Duplicate checks (R241 to R243) -/

/-- The state without a duplicate check. -/
def checkTaken (s : State) (n : Nat) : State :=
  { s with scrum := { s.scrum with checks := tdel s.scrum.checks n } }

/-- The state in which a check that has ended is counted by its group and its quarter. -/
def checkCounted (s : State) (n : Nat) (c : DupCheck) : State :=
  bump (modGroup (checkTaken s n) c.group fun g => { g with checks := satInc 16 g.checks }) 0x6100 0x0A

/-- The state in which a mismatch is counted by its group and its quarter, and recorded. -/
def mismatchNoted (t : State) (c : DupCheck) (first count : Nat) : State :=
  mismatchRecord (bump (modGroup t c.group fun g => { g with mismatches := satInc 16 g.mismatches }) 0x6100 0x0C)
    c first count

section
variable {s : State} {n : Nat} {c : DupCheck} (hc : tget s.scrum.checks n = some c)
  (hfirst : (s.scrum.checks.any fun x => x.2.checker == c.checker && decide (x.1 < n)) = false)
include hc hfirst

theorem exec_duplicateCheckDone_same (hgroup : c.orphan = false) :
    exec (.duplicateCheckDone n .same) s =
      .next (settle (if c.hold then releaseHeld (checkCounted s n c) c else checkCounted s n c)) := by
  simp only [exec_duplicateCheckDone, execDuplicateCheckDone, hc, hfirst, hgroup, Bool.false_eq_true, if_false,
    Bool.not_false, Bool.and_true]
  rfl

/-- A check that differs: without CHECK_HOLD both clusters are charged; a withheld segment goes on where the third
computation agrees with one of them, and fails its group where it agrees with neither. -/
theorem exec_duplicateCheckDone_differs (hgroup : c.orphan = false) (first count third : Nat) :
    exec (.duplicateCheckDone n (.differs first count third)) s =
      let u := mismatchNoted (checkCounted s n c) c first count
      .next (settle (
        if c.hold = false then chargeCluster (chargeCluster u c.quarter c.cluster) c.checker c.checkCluster
        else if third = 0 then releaseHeld (chargeCluster u c.checker c.checkCluster) c
        else if third = 1 then releaseHeld (chargeCluster u c.quarter c.cluster) c
        else failGroup (chargeCluster (chargeCluster u c.quarter c.cluster) c.checker c.checkCluster) c.group
          Code.integrity)) := by
  simp only [exec_duplicateCheckDone, execDuplicateCheckDone, hc, hfirst, hgroup, Bool.false_eq_true, if_false,
    Bool.not_false, Bool.and_true, Bool.not_eq_true', apply_ite settle, apply_ite Host.Outcome.next]
  rfl

/-- The check of a group that is gone counts for its quarter only. -/
theorem exec_duplicateCheckDone_same_of_orphan (hgone : c.orphan = true) :
    exec (.duplicateCheckDone n .same) s = .next (settle (bump (checkTaken s n) 0x6100 0x0A)) := by
  simp only [exec_duplicateCheckDone, execDuplicateCheckDone, hc, hfirst, hgone, Bool.false_eq_true, if_false, if_true,
    Bool.not_true, Bool.and_false]
  rfl

end

/-- Settles O29: each command past its checks, the end of a stopped group, and a check by each of its verdicts. -/
theorem roundsEndAndAreWaitedFor : Obligations.RoundsEndAndAreWaitedFor := by
  refine ⟨?waits, ?timedOut, ?ended, ?fed, ?disarmed, ?stopped, ?checked, ?orphaned⟩
  case waits =>
    intro s t d f g past hact ht hclean hctx hg hpast hserved
    exact exec_roundWait_of_inService hact ht hclean hctx hg hpast hserved
  case timedOut =>
    intro s d f hf hlimit hpassed
    exact exec_roundWaitTimeout_of_passed hf hlimit hpassed
  case ended =>
    intro s ctx no g hg hstate hbegun hover
    exact exec_roundEnd_of_gathered hg hstate hbegun hover
  case fed =>
    intro s ctx no seg g hg hstate hstage
    exact exec_segmentFeed_of_waiting hg hstate hstage
  case disarmed =>
    intro s t d f key g hact ht h16 h76 hctx hkey hg hserved
    rw [exec_groupDisarm_of_inService hact ht h16 h76 hctx hkey hg hserved,
      stopGroup_of_group (g := g) (by rw [waitOn_scrum, hg])]
    rfl
  case stopped =>
    intro s key g b hg hstopped hby hidle
    have hgoes : ¬(g.finalising = true ∧ g.state ≠ 2) := by
      rintro ⟨hbusy, hlive⟩
      exact hidle.elim (by simp [hbusy]) hlive
    rw [disarmEnds_of_stopped hg hstopped hby, if_neg hgoes]
  case checked =>
    intro s t n c hc hfirst hgroup ht
    subst ht
    exact ⟨exec_duplicateCheckDone_same hc hfirst hgroup, exec_duplicateCheckDone_differs hc hfirst hgroup⟩
  case orphaned =>
    intro s n c hc hfirst hgone
    exact exec_duplicateCheckDone_same_of_orphan hc hfirst hgone

end Sys2Proof.Machine
end

section
/-! PROOFS. Streams and their applies: arming, disarming, an apply tried, started and complete (O30; R248, R251, R252,
R254, R256, R257, R264). -/

namespace Sys2Proof.Machine

/-! ## The commands and their meanings -/

theorem exec_streamArm (d : DescRef) (s : State) : exec (.streamArm d) s = execStreamArm d s := rfl

theorem exec_streamDisarm (d : DescRef) (s : State) : exec (.streamDisarm d) s = execStreamDisarm d s := rfl

theorem exec_stepApply (d : DescRef) (s : State) : exec (.stepApply d) s = execStepApply d s := rfl

theorem exec_applyComplete (d : DescRef) (s : State) : exec (.applyComplete d) s = execApplyComplete d s := rfl

/-! ## STREAM_ARM and STREAM_DISARM (R248 to R252) -/

/-- The state that holds a stream's ranges and has the stream entered. -/
def streamEntered (t : State) (q c key : Nat) (st : Stream) : State :=
  let u := hold t q c (holdStream key) st.ranges
  { u with step := { u.step with streams := tset u.step.streams key st } }

/-- The state with a stream's ranges released and the stream gone. -/
def streamRemoved (t : State) (key : Nat) : State :=
  let u := release t (holdStream key)
  { u with step := { u.step with streams := tdel u.step.streams key } }

/-- STREAM_ARM with its layout, context, group, ledger, banks and quota as R251 asks, and room to hold. -/
theorem exec_streamArm_of_allowed {s t : State} {d : DescRef} {f : Flight} {x : BitVec 416} {c key : Nat} {st : Stream}
    (hact : MayAct s d 0x60 f) (ht : t = actsOn s f) (hx : x = f.desc.extractLsb' 64 416)
    (hc : c = namedCtx f (bits x 1 12)) (hst : st = streamOf x f.quarter c) (hkey : key = streamKey f.quarter st.no)
    (hreserved : streamReserved f.desc = false) (hform : streamMisaligned t st = false)
    (hctx : ctxFieldStatus t f (bits x 1 12) = Code.ok)
    (hgroup : (st.emitEn && (groupFor t st.emitGroup c 0).isNone) = false)
    (hfree : thas t.step.streams key = false) (hopen : (ledgerOf t c).state = 0)
    (hbanks : bankCheck t c st.ranges = none)
    (hquota : underQuota t c 0x19 (tcount t.step.streams fun _ x => x.ctx == c) = true)
    (hroom : trackerFull t f.quarter = false) :
    exec (.streamArm d) s = completes (streamEntered t f.quarter c key st) d Code.ok 0 := by
  rw [exec_streamArm, execStreamArm, withDesc_acts hact, ← ht, ← hx]
  simp only [← hc, ← hst, ← hkey, firstOf, hreserved, hform, hctx, hgroup, hfree, hopen, hbanks, hquota, hroom,
    doneWith_refKey]
  rfl

theorem streamFor_of_entered {t : State} {q no c : Nat} {st : Stream}
    (hst : tget t.step.streams (streamKey q no) = some st) (hctx : st.ctx = c) : streamFor t q no c = some st := by
  simp only [streamFor, hst, if_pos hctx]

/-- A ledger in OPEN or ABORTED locks neither a disarm nor a committed copy. -/
theorem ledgerLocks_eq_false {state : Nat} (h : state = 0 ∨ state = 6) : (state != 0 && state != 6) = false := by
  obtain rfl | rfl := h <;> rfl

/-- STREAM_DISARM of an entered stream while its ledger is OPEN or ABORTED and nothing is rebuilt. -/
theorem exec_streamDisarm_of_entered {s t : State} {d : DescRef} {f : Flight} {n c key : Nat} {st : Stream}
    (hact : MayAct s d 0x61 f) (ht : t = actsOn s f) (hn : n = opnd f.desc 64 12) (hc : c = namedCtx f n)
    (hkey : key = streamKey f.quarter (opnd f.desc 0 6)) (h6 : clean f.desc 6 58 = true)
    (h76 : clean f.desc 76 372 = true) (hctx : ctxFieldStatus t f n = Code.ok)
    (hst : tget t.step.streams key = some st) (howner : st.ctx = c)
    (hstate : (ledgerOf t c).state = 0 ∨ (ledgerOf t c).state = 6) (hquiet : rebuilding t c = false) :
    exec (.streamDisarm d) s = completes (dropApplies (streamRemoved t key) key st) d Code.ok 0 := by
  have hfor : streamFor t f.quarter (opnd f.desc 0 6) c = some st := streamFor_of_entered (hkey ▸ hst) howner
  rw [exec_streamDisarm, execStreamDisarm, withDesc_acts hact, ← ht]
  simp only [← hn, ← hc, ← hkey, firstOf, h6, h76, hctx, hfor, ledgerLocks_eq_false hstate, hquiet, hst,
    doneWith_refKey]
  rfl

/-! ## STEP_APPLY (R253 to R256) -/

/-- STEP_APPLY past its checks waits, and is tried. -/
theorem exec_stepApply_of_checked {s t : State} {d : DescRef} {f : Flight} (hact : MayAct s d 0x62 f)
    (ht : t = actsOn s f) (hreserved : applyReserved f.desc = false) (hclip : clipsFed t f = false)
    (hctx : ctxFieldStatus t f (opnd f.desc 384 12) = Code.ok) (hquiet : rebuilding t (applyCtx f) = false) :
    exec (.stepApply d) s = .next (settle (tryApply (waitOn t (refKey d)) (refKey d))) := by
  rw [exec_stepApply, execStepApply, withDesc_acts hact, ← ht]
  simp only [firstOf, hreserved, hclip, hctx, hquiet]
  rfl

/-- An apply without CLIP_EN asks no norm huddle (R254). -/
theorem clipApply_of_unclipped {f : Flight} (hclip : opBit f.desc 40 = false) (s : State) (fk key : Nat) (st : Stream) :
    clipApply s fk f key st = startApply s key st fk fp32One := by
  simp only [clipApply, hclip, Bool.not_false, if_true]

/-- An apply of the open innings, neither taken nor waited for, on a stream that has not failed, takes its clip
factor (R256). -/
theorem tryApply_of_open {s : State} {fk key : Nat} {f : Flight} {st : Stream} (hf : tget s.q.flights fk = some f)
    (hkey : key = streamKey f.quarter (opnd f.desc 0 6)) (hst : tget s.step.streams key = some st)
    (howner : st.ctx = applyCtx f) (hinnings : opnd f.desc 8 32 = (ledgerOf s st.ctx).innings)
    (hstate : (ledgerOf s st.ctx).state = 0 ∨ (ledgerOf s st.ctx).state = 1)
    (htaken : st.innings ≠ some (opnd f.desc 8 32)) (hwaiting : applyWaiting s fk f = false) (hgood : st.state ≠ 3) :
    tryApply s fk = clipApply s fk f key st := by
  have hopen : ¬((ledgerOf s st.ctx).state ≠ 0 ∧ (ledgerOf s st.ctx).state ≠ 1) := fun ⟨h0, h1⟩ => hstate.elim h0 h1
  have hfirst : ¬(st.innings = some (opnd f.desc 8 32) ∨ applyWaiting s fk f = true) := by
    simp [htaken, hwaiting]
  simp only [tryApply, hf, ← hkey, hst]
  rw [if_neg (not_not_intro howner), if_pos hinnings, if_neg hopen, if_neg hfirst, if_neg hgood]

/-! ## APPLY_COMPLETE (R257, R264) -/

/-- The status with which an apply ends: the one its descriptor is made to end with, else its own failure. -/
def applyStatus (f : Flight) (st : Stream) : Status := f.forced.getD (st.failing.getD Code.ok)

/-- A stream whose apply has ended with a status. -/
def Stream.appliedWith (status : Status) (st : Stream) : Stream :=
  { st with
    flight := none, failing := none
    state := if status = Code.ok then 2 else if st.state = 3 then 3 else 0
    applied := if status = Code.ok then st.innings.getD 0 else st.applied }

/-- DETAIL of an apply that has ended: the status of its emission, and its count of non-finite parameters. -/
def applyDetail (j : Option Job) (st : Stream) : BitVec 64 :=
  BitVec.ofNat 64 (((j.map (·.status)).getD Code.ok).toNat + st.nonFinite % 2 ^ 32 * 2 ^ 32)

/-- APPLY_COMPLETE of an apply that has taken every parameter, or stops, once its emission is final. -/
theorem exec_applyComplete_of_ready {s : State} {d : DescRef} {f : Flight} {key : Nat} {st : Stream}
    (hf : waitingOp s d 0x62 = some f) (hof : applyStreamOf s (refKey d) = some key)
    (hst : tget s.step.streams key = some st)
    (hready : (((jobOf s (.emission key)).map (·.isDone)).getD true && (st.failing.isSome || st.done == st.params)) =
      true) :
    exec (.applyComplete d) s =
      let t := modStream (endJob s (.emission key)) key (Stream.appliedWith (applyStatus f st))
      let u := finish t (refKey d) (applyStatus f st) (applyDetail (jobOf s (.emission key)) st)
      .next (settle (applyEnds u st.ctx (applyStatus f st))) := by
  simp only [exec_applyComplete, execApplyComplete, hf, hof, hst, hready]
  rfl

/-- Settles O30: each command past its checks, an apply that R256 lets start, and the end of an apply. -/
theorem streamsAreArmedAndApply : Obligations.StreamsAreArmedAndApply := by
  refine ⟨?armed, ?disarmed, ?tried, ?started, ?ended⟩
  case armed =>
    intro s t d f x c st hact ht hx hc hst hreserved hform hctx hgroup hfree hopen hbanks hquota hroom
    exact exec_streamArm_of_allowed hact ht hx hc hst rfl hreserved hform hctx hgroup hfree hopen hbanks hquota hroom
  case disarmed =>
    intro s t d f n c key st hact ht hn hc hkey h6 h76 hctx hst howner hstate hquiet
    exact exec_streamDisarm_of_entered hact ht hn hc hkey h6 h76 hctx hst howner hstate hquiet
  case tried =>
    intro s t d f hact ht hreserved hclip hctx hquiet
    exact exec_stepApply_of_checked hact ht hreserved hclip hctx hquiet
  case started =>
    intro s fk key f st hf hkey hst howner hinnings hstate htaken hwaiting hgood hclip
    rw [tryApply_of_open hf hkey hst howner hinnings hstate htaken hwaiting hgood, clipApply_of_unclipped hclip]
  case ended =>
    intro s t d f key st j status hf hof hst hj hready hstatus ht
    subst hj hstatus ht
    exact exec_applyComplete_of_ready hf hof hst hready

end Sys2Proof.Machine
end

section
/-! PROOFS. The innings ledger, its parity rows and committed copies (O31; R260, R262 to R267, R269 to R271). -/

namespace Sys2Proof.Machine

/-! ## The commands and their meanings -/

theorem exec_ledgerArm (d : DescRef) (s : State) : exec (.ledgerArm d) s = execLedgerArm d s := rfl

theorem exec_ledgerAbort (d : DescRef) (s : State) : exec (.ledgerAbort d) s = execLedgerAbort d s := rfl

theorem exec_ledgerResolve (d : DescRef) (s : State) : exec (.ledgerResolve d) s = execLedgerResolve d s := rfl

theorem exec_parityArm (d : DescRef) (s : State) : exec (.parityArm d) s = execParityArm d s := rfl

theorem exec_parityComplete (ctx : Nat) (s : State) : exec (.parityComplete ctx) s = execParityComplete ctx s := rfl

theorem exec_emitCommitted (d : DescRef) (s : State) : exec (.emitCommitted d) s = execEmitCommitted d s := rfl

section
variable {s t : State} {d : DescRef} {f : Flight} {n c : Nat}

/-! ## The ledger's descriptors (R263, R266, R267) -/

/-- The huddles and switches that a LEDGER_ARM names. -/
def Ledger.armedBy (x : Desc) (l : Ledger) : Ledger :=
  { l with armed := true, prepare := opnd x 0 16, commit := opnd x 16 16, prepareEn := opBit x 32 }

theorem exec_ledgerArm_of_allowed {h1 h2 : Huddle} (hact : MayAct s d 0x63 f) (ht : t = actsOn s f)
    (hn : n = opnd f.desc 64 12) (hc : c = namedCtx f n) (h33 : clean f.desc 33 31 = true)
    (h76 : clean f.desc 76 372 = true) (hctx : ctxFieldStatus t f n = Code.ok) (hopen : (ledgerOf t c).state = 0)
    (hfresh : (ledgerOf t c).innings = (ledgerOf t c).committed + 1)
    (hprepare : ledgerHuddle t c (opnd f.desc 0 16) = some h1)
    (hcommit : ledgerHuddle t c (opnd f.desc 16 16) = some h2) (hmax1 : h1.combine = 2) (hmax2 : h2.combine = 2) :
    exec (.ledgerArm d) s = completes (modLedger t c (Ledger.armedBy f.desc)) d Code.ok 0 := by
  have hlocked : ((ledgerOf t c).state != 0 || (ledgerOf t c).innings != (ledgerOf t c).committed + 1) = false := by
    simp [hopen, hfresh]
  rw [exec_ledgerArm, execLedgerArm, withDesc_acts hact, ← ht]
  simp only [← hn, ← hc, firstOf, h33, h76, hctx, hlocked, hprepare, hcommit, List.any_cons, List.any_nil,
    Option.map_some, hmax1, hmax2, doneWith_refKey]
  rfl

/-- What a LEDGER_ABORT does to the innings, by the state of its ledger (Table 6). -/
def inningsAborted (t : State) (c : Nat) : State :=
  let state := (ledgerOf t c).state
  if state ≤ 1 then runAll (abortOpen (stopApplies t c) c)
  else if state = 2 then modLedger t c fun l => { l with abortRecorded := true }
  else if state = 3 then runAll (abortParity t c)
  else t

/-- LEDGER_ABORT before the part has voted to commit, and not on the cycle of a commit. -/
theorem exec_ledgerAbort_of_unlocked (hact : MayAct s d 0x65 f) (ht : t = actsOn s f)
    (hn : n = opnd f.desc 64 12) (hc : c = namedCtx f n) (h0 : clean f.desc 0 64 = true)
    (h76 : clean f.desc 76 372 = true) (hctx : ctxFieldStatus t f n = Code.ok) (hready : (ledgerOf t c).state ≠ 4)
    (hdoubt : (ledgerOf t c).state ≠ 5) (hnow : committedNow t c = false) :
    exec (.ledgerAbort d) s = completes (inningsAborted t c) d Code.ok 0 := by
  have hlocked : ((ledgerOf t c).state == 4 || (ledgerOf t c).state == 5 || committedNow t c) = false := by
    simp [hready, hdoubt, hnow]
  rw [exec_ledgerAbort, execLedgerAbort, withDesc_acts hact, ← ht]
  simp only [← hn, ← hc, firstOf, h0, h76, hctx, hlocked, inningsAborted, doneWith_refKey]
  match (ledgerOf t c).state with
  | 0 | 1 | 2 | 3 | _ + 4 => rfl

theorem exec_ledgerResolve_of_inDoubt (hact : MayAct s d 0x66 f) (ht : t = actsOn s f)
    (hn : n = opnd f.desc 64 12) (hc : c = namedCtx f n) (h1 : clean f.desc 1 63 = true)
    (h76 : clean f.desc 76 372 = true) (hctx : ctxFieldStatus t f n = Code.ok) (hdoubt : (ledgerOf t c).state = 5) :
    exec (.ledgerResolve d) s =
      completes (if opBit f.desc 0 then commitInnings t c else ledgerAborts t c) d Code.ok 0 := by
  rw [exec_ledgerResolve, execLedgerResolve, withDesc_acts hact, ← ht]
  simp only [← hn, ← hc, firstOf, h1, h76, hctx, hdoubt, doneWith_refKey]
  rfl

/-! ## Parity (R269 to R271) -/

/-- The state that holds a record's parity banks and has the record entered. -/
def parityEntered (t : State) (q c key : Nat) (p : ParityRec) (st : Stream) : State :=
  let u := hold t q c (holdParity key) (p.banks st)
  { u with step := { u.step with parity := tset u.step.parity key p } }

/-- PARITY_ARM with its layout, context, stream, ledger, banks and count as R269 asks, and room to hold. -/
theorem exec_parityArm_of_allowed {x : BitVec 284} {key : Nat} {p : ParityRec} {st : Stream}
    (hact : MayAct s d 0x64 f) (ht : t = actsOn s f) (hx : x = f.desc.extractLsb' 64 284)
    (hc : c = namedCtx f (bits x 272 12)) (hp : p = parityOf x f.quarter c) (hkey : key = streamKey f.quarter p.stream)
    (hreserved : parityReserved f.desc = false) (hform : parityMisaligned t p = false)
    (hst : streamFor t f.quarter p.stream c = some st) (hapart : parityOverlaps t p st = false)
    (hctx : ctxFieldStatus t f (bits x 272 12) = Code.ok) (hopen : (ledgerOf t c).state = 0)
    (hfree : thas t.step.parity key = false) (hquiet : rebuilding t c = false)
    (hbanks : bankCheck t c (p.banks st) = none)
    (hcount : tcount t.step.parity (fun _ r => r.quarter == f.quarter) < 64) (hroom : trackerFull t f.quarter = false) :
    exec (.parityArm d) s = completes (parityEntered t f.quarter c key p st) d Code.ok 0 := by
  rw [exec_parityArm, execParityArm, withDesc_acts hact, ← ht, ← hx]
  have hbits : (parityReserved f.desc || parityMisaligned t p || (some st).any (parityOverlaps t p)) = false := by
    rw [hreserved, hform, Option.any_some, hapart]
    rfl
  simp only [← hc, ← hp, ← hkey, firstOf, hst, hbits, hctx, hopen, hfree, hquiet, Option.map_some, Option.getD_some,
    hbanks, if_neg (Nat.not_le.mpr hcount), hroom, doneWith_refKey]
  rfl

/-! ## EMIT_COMMITTED (R260) -/

section
variable {st : Stream} (hact : MayAct s d 0x67 f) (ht : t = actsOn s f) (hn : n = opnd f.desc 64 12)
  (hc : c = namedCtx f n) (h6 : clean f.desc 6 58 = true) (h76 : clean f.desc 76 372 = true)
  (hctx : ctxFieldStatus t f n = Code.ok) (hst : streamFor t f.quarter (opnd f.desc 0 6) c = some st)
  (hstate : (ledgerOf t c).state = 0 ∨ (ledgerOf t c).state = 6)
include hact ht hn hc h6 h76 hctx hst hstate

theorem exec_emitCommitted_of_silent (hsilent : st.emitEn = false) :
    exec (.emitCommitted d) s = completes t d Code.ok 0 := by
  rw [exec_emitCommitted, execEmitCommitted, withDesc_acts hact, ← ht]
  simp only [← hn, ← hc, firstOf, h6, h76, hctx, hst, ledgerLocks_eq_false hstate, hsilent, doneWith_refKey]
  rfl

section
variable {g : GroupEntry} (hemits : st.emitEn = true) (hg : groupFor t st.emitGroup c 0 = some g)
include hemits hg

/-- A guard over the committed weights holds their copy. -/
theorem exec_emitCommitted_of_held {u : State}
    (hheld : heldBy t (.command (refKey d)) c [(st.bank (ledgerOf t c).committed, st.params * 4)] = some u) :
    exec (.emitCommitted d) s = .next u := by
  rw [exec_emitCommitted, execEmitCommitted, withDesc_acts hact, ← ht]
  simp only [← hn, ← hc, firstOf, h6, h76, hctx, hst, ledgerLocks_eq_false hstate, hemits, hg, hheld]
  rfl

/-- The committed weights, once read, start as packets to every member of the group. -/
theorem exec_emitCommitted_of_read {k : Nat} {w : Access1} (hk : k = (ledgerOf t c).committed)
    (hw : w = readVa t c (st.bank k) (st.params * 4)) (hread : w.status = Code.ok)
    (hfree : heldBy t (.command (refKey d)) c [(st.bank k, st.params * 4)] = none) :
    exec (.emitCommitted d) s =
      let data := encodeElems st.emitFmt
        (roundings st.emitStochastic (roundSeed t c) (0xF000 + 64 * f.quarter + st.no) k 0 st.params) (words32 w.data)
      .next (settle (startNumbered (waitOn w.st (refKey d)) { flightJob t (refKey d) f with
        ctx := c, gen := ctxGen t c, srcQueue := issuer f.quarter (8 + st.no), multicast := true }
        (memberWork (committedWork st k data) 0 g.members))) := by
  rw [exec_emitCommitted, execEmitCommitted, withDesc_acts hact, ← ht]
  simp only [← hn, ← hc, firstOf, h6, h76, hctx, hst, ledgerLocks_eq_false hstate, hemits, hg, ← hk, hfree, ← hw, hread]
  rfl

end

end

end

/-! ## PARITY_COMPLETE (R270, R271) -/

section
variable {s : State} {ctx : Nat} {rows : List (Nat × ParityRec)} {failed : Bool}
  (hparity : (ledgerOf s ctx).state = 3) (hrows : rows = s.step.parity.filter fun x => x.2.ctx == ctx)
  (hfailed : failed = ((rows.any fun x => x.2.row == 3 || x.2.row == 4) ||
    (rows.map fun x => jobOf s (.parity x.1 (ledgerOf s ctx).innings)).any fun j => (j.bind (·.failed)).isSome))
include hparity hrows hfailed

/-- A row that has failed aborts the innings. -/
theorem exec_parityComplete_of_failed (hbad : failed = true) :
    exec (.parityComplete ctx) s = .next (settle (runAll (abortParity s ctx))) := by
  rw [exec_parityComplete, execParityComplete, if_neg (not_not_intro hparity)]
  simp only [← hrows, ← hfailed, hbad, if_true]

/-- With every row written the rows are final, and the part votes to commit. -/
theorem exec_parityComplete_of_written (hgood : failed = false)
    (hwritten : ((rows.map fun x => jobOf s (.parity x.1 (ledgerOf s ctx).innings)).all fun j =>
      (j.map (·.isDone)).getD false) = true) :
    exec (.parityComplete ctx) s =
      .next (settle (runAll (goReady (stopRows (rows.foldl (fun s x => setRow s x.1 2) s) ctx) ctx))) := by
  rw [exec_parityComplete, execParityComplete, if_neg (not_not_intro hparity)]
  simp only [← hrows, ← hfailed, hgood, Bool.false_eq_true, if_false, hwritten, if_true]

end

/-- Settles O31: each command past its checks, and the parity rows written or failed. -/
theorem theLedgerAndItsParity : Obligations.TheLedgerAndItsParity := by
  refine ⟨?armed, ?aborted, ?resolved, ?parityArmed, ?parityEnded, ?emitted⟩
  case armed =>
    intro s t d f n c h1 h2 hact ht hn hc h33 h76 hctx hopen hfresh hprepare hcommit hmax1 hmax2
    exact exec_ledgerArm_of_allowed hact ht hn hc h33 h76 hctx hopen hfresh hprepare hcommit hmax1 hmax2
  case aborted =>
    intro s t d f n c state hact ht hn hc hstate h0 h76 hctx hready hdoubt hnow
    subst hstate
    exact exec_ledgerAbort_of_unlocked hact ht hn hc h0 h76 hctx hready hdoubt hnow
  case resolved =>
    intro s t d f n c hact ht hn hc h1 h76 hctx hdoubt
    exact exec_ledgerResolve_of_inDoubt hact ht hn hc h1 h76 hctx hdoubt
  case parityArmed =>
    intro s t d f x c p st hact ht hx hc hp hreserved hform hst hapart hctx hopen hfree hquiet hbanks hcount hroom
    exact exec_parityArm_of_allowed hact ht hx hc hp rfl hreserved hform hst hapart hctx hopen hfree hquiet hbanks
      hcount hroom
  case parityEnded =>
    intro s ctx rows failed hparity hrows hfailed
    exact ⟨exec_parityComplete_of_failed hparity hrows hfailed, exec_parityComplete_of_written hparity hrows hfailed⟩
  case emitted =>
    intro s t d f n c st hact ht hn hc h6 h76 hctx hst hstate
    refine ⟨?silent, ?read, ?held⟩
    case silent => exact exec_emitCommitted_of_silent hact ht hn hc h6 h76 hctx hst hstate
    case read =>
      intro g k w data hemits hg hk hw hread hfree hdata
      subst hdata
      exact exec_emitCommitted_of_read hact ht hn hc h6 h76 hctx hst hstate hemits hg hk hw hread hfree
    case held =>
      intro g u hemits hg hheld
      exact exec_emitCommitted_of_held hact ht hn hc h6 h76 hctx hst hstate hemits hg hheld

end Sys2Proof.Machine
end

section
/-! PROOFS. The power-warning stop: the warning, its two later instants, and its end (O40; R258, R365 to R367, R479). -/

namespace Sys2Proof.Machine

/-! ## The commands and their meanings -/

theorem exec_powerWarning (s : State) : exec .powerWarning s = execPowerWarning s := rfl

theorem exec_powerStopIssue (s : State) : exec .powerStopIssue s = execPowerStopIssue s := rfl

theorem exec_powerStopAbandon (s : State) : exec .powerStopAbandon s = execPowerStopAbandon s := rfl

theorem exec_powerWarningClear (s : State) : exec .powerWarningClear s = execPowerWarningClear s := rfl

/-! ## The warning (R365, R367, R479) -/

/-- A warning of a powered part is counted and defers an activation, and begins the stop unless one has begun. -/
theorem exec_powerWarning_of_powered {s : State} (hpower : s.pwr.pwrOk = true) :
    exec .powerWarning s =
      let t := bump (noteDeferral { s with pwr := { s.pwr with warnLow := true } } s.now) 0x9000 0x14
      let t := setRecov t { t.recov with warnHigh := none }
      if t.recov.warnedAt.isSome then .next t
      else
        let u := raise (sendGasp t 1 15) { cls := 0x14, critical := true }
        .next (settle (stopAllApplies (setRecov u { u.recov with warnedAt := some u.now, warnPhase := 0 })
          Code.aborted)) := by
  rw [exec_powerWarning, execPowerWarning, hpower, if_neg (by decide)]

/-! ## The instants after it (R366) -/

theorem exec_powerStopIssue_of_passed {s : State} {since : Nat} (hwarned : s.recov.warnedAt = some since)
    (hphase : s.recov.warnPhase = 0) (hpassed : passedUs s since 100 = true) :
    exec .powerStopIssue s =
      let t := setRecov s { s.recov with warnPhase := 1 }
      .next (settle (t.q.flights.foldl (fun s x => stopFlight s x.1 Code.aborted) t)) := by
  simp only [exec_powerStopIssue, execPowerStopIssue, hwarned]
  rw [if_pos ⟨hphase, hpassed⟩]

theorem exec_powerStopAbandon_of_passed {s : State} {since : Nat} (hwarned : s.recov.warnedAt = some since)
    (hphase : s.recov.warnPhase = 1) (hpassed : passedUs s since 150 = true) :
    exec .powerStopAbandon s =
      let t := abandonAll s
      let u := setRecov (flushAll t t.q.rings) { t.recov with warnPhase := 2 }
      .next (settle (if u.recov.warnHigh.isSome then resumeDispatch u else u)) := by
  simp only [exec_powerStopAbandon, execPowerStopAbandon, hwarned]
  rw [if_pos ⟨hphase, hpassed⟩]

/-! ## The end of the warning (R366) -/

/-- Dispatch resumes where the stop has run to its end; else the stop's end will resume it. -/
theorem exec_powerWarningClear_of_warned {s : State} (hwarned : s.recov.warnedAt.isSome = true)
    (hpower : s.pwr.pwrOk = true) :
    exec .powerWarningClear s =
      let t := noteDeferral { s with pwr := { s.pwr with warnLow := false } } (s.now - 1800000)
      .next (settle (if t.recov.warnPhase = 2 then resumeDispatch t
        else setRecov t { t.recov with warnHigh := some t.now })) := by
  have hlive : ¬(s.recov.warnedAt.isNone = true ∨ s.pwr.pwrOk = false) := by
    simp [hpower, Option.isSome_iff_ne_none.mp hwarned]
  rw [exec_powerWarningClear, execPowerWarningClear, if_neg hlive]

/-- Settles O40: the first warning, its two later instants once they have passed, and its end. -/
theorem powerWarningStopsThePart : Obligations.PowerWarningStopsThePart := by
  refine ⟨?warned, ?stopped, ?abandoned, ?cleared⟩
  case warned =>
    intro s hpower _
    exact exec_powerWarning_of_powered hpower
  case stopped =>
    intro s since hwarned hphase hpassed
    exact exec_powerStopIssue_of_passed hwarned hphase hpassed
  case abandoned =>
    intro s since hwarned hphase hpassed
    exact exec_powerStopAbandon_of_passed hwarned hphase hpassed
  case cleared =>
    intro s hwarned hpower
    rw [exec_powerWarningClear_of_warned hwarned hpower]

end Sys2Proof.Machine
end

section
/-! PROOFS. Arenas, armed and disarmed, and the background work of the tiers (O32; R283, R284, R293, R294, R300, R302,
R303). -/

namespace Sys2Proof.Machine

/-! ## The commands and their meanings -/

theorem exec_arenaArm (d : DescRef) (s : State) : exec (.arenaArm d) s = execArenaArm d s := rfl

theorem exec_arenaDisarm (d : DescRef) (s : State) : exec (.arenaDisarm d) s = execArenaDisarm d s := rfl

theorem exec_arenaLargestSample (s : State) : exec .arenaLargestSample s = execArenaLargestSample s := rfl

theorem exec_backgroundZeroFill (pa : Nat) (s : State) :
    exec (.backgroundZeroFill pa) s = execBackgroundZeroFill pa s := rfl

theorem exec_compactionMove (ctx arena tile : Nat) (s : State) :
    exec (.compactionMove ctx arena tile) s = execCompactionMove ctx arena tile s := rfl

theorem exec_patrolScrub (pa : Nat) (o : Scrub) (s : State) : exec (.patrolScrub pa o) s = execPatrolScrub pa o s := rfl

/-! ## ARENA_ARM and ARENA_DISARM (R293, R294, R300, R302) -/

section
variable {s t : State} {d : DescRef} {f : Flight} {c key : Nat} {a : Arena}

/-- ARENA_ARM with its layout, context, number, range, pages and quota as R294 asks, and room to hold. -/
theorem exec_arenaArm_of_allowed {x : BitVec 192} (hact : MayAct s d 0x80 f) (ht : t = actsOn s f)
    (hx : x = f.desc.extractLsb' 64 192) (hc : c = namedCtx f (bits x 1 12)) (ha : a = arenaOf x f.quarter c)
    (hkey : key = arenaKey c a.no) (hreserved : arenaReserved f.desc = false) (hform : arenaMisaligned t a = false)
    (hctx : ctxFieldStatus t f (bits x 1 12) = Code.ok) (hfree : thas t.pewter.arenas key = false)
    (hapart : tany t.pewter.arenas (fun _ o => o.ctx == c && rangesMeet o.range a.range) = false)
    (hpages : codecCheck t c a.base (a.sectors * 4096) = none) (hcount : t.pewter.arenas.length < 1024)
    (hquota : underQuota t c 0x1A (tcount t.pewter.arenas fun _ o => o.ctx == c) = true)
    (hroom : trackerFull t f.quarter = false) :
    exec (.arenaArm d) s =
      let r := layArena (hold t f.quarter c (holdArena key) [a.range]) key a
      completes r.1 d r.2.1 (BitVec.ofNat 64 r.2.2) := by
  have hrecords : ¬(1024 ≤ t.pewter.arenas.length ∨
      (!underQuota t c 0x1A (tcount t.pewter.arenas fun _ o => o.ctx == c)) = true) := by
    simp [hquota, hcount]
  rw [exec_arenaArm, execArenaArm, withDesc_acts hact, ← ht, ← hx]
  simp only [← hc, ← ha, ← hkey, firstOf, hreserved, hform, hctx, hfree, hapart, hpages, if_neg hrecords, hroom,
    doneWith_refKey]
  rfl

/-- An arena that its ARENA_DISARM has closed to new commands, and which completes that command (R302). -/
def Arena.closedBy (fk : Nat) (a : Arena) : Arena := { a with closing := true, closer := some fk }

/-- ARENA_DISARM of an armed arena; `closeArena` completes it now or with the arena's last reader. -/
theorem exec_arenaDisarm_of_armed {n : Nat} (hact : MayAct s d 0x81 f) (ht : t = actsOn s f)
    (hn : n = opnd f.desc 64 12) (hkey : key = arenaKey (namedCtx f n) (opnd f.desc 0 8))
    (h8 : clean f.desc 8 56 = true) (h76 : clean f.desc 76 372 = true) (hctx : ctxFieldStatus t f n = Code.ok)
    (ha : tget t.pewter.arenas key = some a) (hopen : a.closing = false) :
    exec (.arenaDisarm d) s =
      .next (settle (closeArena (modArena (waitOn t (refKey d)) key (Arena.closedBy (refKey d))) key)) := by
  rw [exec_arenaDisarm, execArenaDisarm, withDesc_acts hact, ← ht]
  simp only [← hn, ← hkey, firstOf, h8, h76, hctx, ha, Option.map_some, hopen]
  rfl

end

/-! ## Background work (R283, R284, R302, R303) -/

section
variable {s : State}

theorem exec_arenaLargestSample_of_passed (hpassed : passedUs s s.pewter.sampledAt 100 = true) :
    exec .arenaLargestSample s =
      .next { s with pewter := { s.pewter with
        arenas := tmap s.pewter.arenas fun _ a => { a with largest := a.largestRun }, sampledAt := s.now } } := by
  rw [exec_arenaLargestSample, execArenaLargestSample, if_pos hpassed]

/-- A region of a tier of memory, cleared and mapped, is filled with zeros under the key of a context that maps it. -/
theorem exec_backgroundZeroFill_of_cleared {pa c : Nat} (hvalid : paValid s pa = true) (hruns : background s = true)
    (hfills : reg s 0x5000 0x05 = 1) (huser : inHardware s pa = false) (htier : paTier pa ≠ 3)
    (hcleared : tget s.mem.region (pa / 65536) = none) (hmapped : mapperOf s (pa / 65536 * 65536) = some c) :
    exec (.backgroundZeroFill pa) s = .next (fillRegion s (pa / 65536) (ctxKey s c)) := by
  have hdue : (!background s || reg s 0x5000 0x05 != 1 || inHardware s pa || paTier pa == 3 ||
      (tget s.mem.region (pa / 65536)).isSome) = false := by
    simp [hruns, hfills, huser, htier, hcleared]
  rw [exec_backgroundZeroFill, execBackgroundZeroFill]
  simp only [hvalid, hdue, hmapped]
  rfl

/-- COMPACTION_MOVE of a VALID tile with a free run below its own, once the run and its entry are written anew. -/
theorem exec_compactionMove_of_lower {u v w : State} {ctx arena tile key p : Nat} {a : Arena} {e : DirEntry}
    {h : TileHdr} {b : Bytes} {x : Access1} (hkey : key = arenaKey ctx arena)
    (ha : tget s.pewter.arenas key = some a) (hruns : background s = true) (hcompacts : compacts s a = true)
    (htile : tile < a.tiles) (hentry : readDir s key a tile = (u, .ok e)) (hvalid : e.valid = true)
    (hplace : placeFrom e.sectors 0 a.gaps = some p) (hlower : p < e.first)
    (hrun : readRunOf u a e = (v, .ok (h, b))) (hx : x = writeVa v a.ctx (a.sectorVa p) (h.bytes ++ b))
    (hwritten : x.status = Code.ok)
    (hmoved : writeDir (modArena x.st key fun a => { a with used := insertRun (p, e.sectors) a.used }) key a tile
      { e with first := p } = (w, Code.ok)) :
    exec (.compactionMove ctx arena tile) s =
      .next (settle (writeMap (modArena (bumpBy w 0x5000 0x10 e.sectors) key fun a =>
        retireRun a e.first e.sectors) key)) := by
  have hdue : (!background s || !compacts s a || decide (a.tiles ≤ tile)) = false := by
    simp [hruns, hcompacts, htile]
  have hfrom : (if e.valid then placeFrom e.sectors 0 a.gaps else none) = some p := by rw [hvalid, if_pos rfl, hplace]
  rw [exec_compactionMove, execCompactionMove]
  simp only [← hkey, ha, hdue, hentry, hfrom, if_neg (Nat.not_le.mpr hlower), hrun, ← hx, hwritten, hmoved]
  rfl

/-! ## PATROL_SCRUB (R284) -/

/-- The state with a granule's bytes poisoned. -/
def poisonGranule (s : State) (g : Nat) : State :=
  { s with mem := { s.mem with poison := if s.mem.poison.contains g then s.mem.poison else s.mem.poison ++ [g] } }

section
variable {pa : Nat} (hvalid : paValid s pa = true) (hruns : background s = true) (htier : paTier pa ≠ 3)
include hvalid hruns htier

theorem exec_patrolScrub_clean : exec (.patrolScrub pa .clean) s = .next s := by
  rw [exec_patrolScrub, execPatrolScrub]
  simp only [hvalid, hruns, beq_false_of_ne htier]
  rfl

theorem exec_patrolScrub_corrected {g : Nat} (hg : g = pa / granuleSize pa * granuleSize pa) :
    exec (.patrolScrub pa .corrected) s = .next (settle (corrected s g (mapperOf s g))) := by
  rw [exec_patrolScrub, execPatrolScrub]
  simp only [← hg, hvalid, hruns, beq_false_of_ne htier]
  rfl

/-- An uncorrectable error in the Scrum overflow area also costs what lies there. -/
theorem exec_patrolScrub_uncorrectable {g : Nat} (hg : g = pa / granuleSize pa * granuleSize pa) :
    exec (.patrolScrub pa .uncorrectable) s =
      let t := uncorrectable (poisonGranule s g) g (mapperOf (poisonGranule s g) g)
      .next (settle (if inHardware t g && decide (areaStart t 5 ≤ paOffset g) then overflowHit t (paUnit g) else t)) := by
  rw [exec_patrolScrub, execPatrolScrub]
  simp only [← hg, hvalid, hruns, beq_false_of_ne htier]
  rfl

end

/-! ## Addresses that do not exist (R42) -/

theorem exec_backgroundZeroFill_of_invalid {pa : Nat} (hinvalid : paValid s pa = false) :
    exec (.backgroundZeroFill pa) s = .fault (.noSuchAddress pa) := by
  rw [exec_backgroundZeroFill, execBackgroundZeroFill, hinvalid]
  rfl

theorem exec_patrolScrub_of_invalid {pa : Nat} (hinvalid : paValid s pa = false) (o : Scrub) :
    exec (.patrolScrub pa o) s = .fault (.noSuchAddress pa) := by
  rw [exec_patrolScrub]
  simp only [execPatrolScrub, hinvalid]
  rfl

end

/-- Settles O32: each command past its checks, the three outcomes of a patrol, and an address that does not exist. -/
theorem arenasAreArmedAndKept : Obligations.ArenasAreArmedAndKept := by
  refine ⟨?armed, ?disarmed, ?sampled, ?filled, ?compacted, ?patrolled, ?invalid⟩
  case armed =>
    intro s t d f x c a hact ht hx hc ha hreserved hform hctx hfree hapart hpages hcount hquota hroom
    exact exec_arenaArm_of_allowed hact ht hx hc ha rfl hreserved hform hctx hfree hapart hpages hcount hquota hroom
  case disarmed =>
    intro s t d f n key a hact ht hn hkey h8 h76 hctx ha hopen
    exact exec_arenaDisarm_of_armed hact ht hn hkey h8 h76 hctx ha hopen
  case sampled =>
    intro s hpassed
    exact exec_arenaLargestSample_of_passed hpassed
  case filled =>
    intro s pa c hvalid hruns hfills huser htier hcleared hmapped
    exact exec_backgroundZeroFill_of_cleared hvalid hruns hfills huser htier hcleared hmapped
  case compacted =>
    intro s u v w ctx arena tile key p a e h b x hkey ha hruns hcompacts htile hentry hvalid hplace hlower hrun hx
      hwritten hmoved
    exact exec_compactionMove_of_lower hkey ha hruns hcompacts htile hentry hvalid hplace hlower hrun hx hwritten hmoved
  case patrolled =>
    intro s pa g hg hvalid hruns htier
    exact ⟨exec_patrolScrub_clean hvalid hruns htier, exec_patrolScrub_corrected hvalid hruns htier hg,
      exec_patrolScrub_uncorrectable hvalid hruns htier hg⟩
  case invalid =>
    intro s pa o hinvalid
    exact ⟨exec_backgroundZeroFill_of_invalid hinvalid, exec_patrolScrub_of_invalid hinvalid o⟩

end Sys2Proof.Machine
end

section
/-! PROOFS. Tile commands: pack, unpack, move, free and stat (O33; R285, R291, R295 to R299). -/

namespace Sys2Proof.Machine

/-! ## The commands and their meanings -/

theorem exec_tilePack (d : DescRef) (s : State) : exec (.tilePack d) s = execTilePack d s := rfl

theorem exec_tileUnpack (d : DescRef) (s : State) : exec (.tileUnpack d) s = execTileUnpack d s := rfl

theorem exec_tileMove (d : DescRef) (s : State) : exec (.tileMove d) s = execTileMove d s := rfl

theorem exec_tileFree (d : DescRef) (s : State) : exec (.tileFree d) s = execTileFree d s := rfl

theorem exec_tileStat (d : DescRef) (s : State) : exec (.tileStat d) s = execTileStat d s := rfl

/-! ## TILE_PACK (R285, R297) -/

theorem exec_tilePack_of_checked {s t : State} {d : DescRef} {f : Flight} {key fmt : Nat} {a : Arena}
    (hact : MayAct s d 0x82 f) (ht : t = actsOn s f) (hkey : key = arenaKey f.ctx (opnd f.desc 160 8))
    (hfmt : fmt = opnd f.desc 194 4) (hfirst : tileBehind t (refKey d) f.desc = false)
    (hform : tileMisaligned 0x82 f.desc = false)
    (ha : arenaFor t f.ctx (opnd f.desc 160 8) (opnd f.desc 168 24) = some a)
    (hsides : tileSides t f.ctx f.desc (some (fmt, .read)) = none) (hroom : trackerFull t f.quarter = false) :
    exec (.tilePack d) s =
      let u := setTileWork (beginTile t (refKey d) f key (some fmt)) (refKey d)
        { arena := key, tile := opnd f.desc 168 24 }
      .next (settle (startJob u (flightJob u (refKey d) f) (plainProbe f.desc fmt 0 ++ packReads f.desc))) := by
  rw [exec_tilePack, execTilePack, withDesc_acts hact, ← ht]
  simp only [← hkey, ← hfmt, hfirst, hform, ha, hsides, hroom]
  rfl

/-! ## Commands that read a directory entry (R296) -/

/-- A tile command past its first two checks has read its tile's directory entry (R296). -/
structure ReadsEntry (s u : State) (d : DescRef) (f : Flight) (op : Nat) (a : Arena) (e : DirEntry) : Prop where
  acts : MayAct s d op f
  first : tileBehind (actsOn s f) (refKey d) f.desc = false
  form : tileMisaligned op f.desc = false
  arena : arenaFor (actsOn s f) f.ctx (opnd f.desc 160 8) (opnd f.desc 168 24) = some a
  dest : op = 0x84 → (arenaFor (actsOn s f) f.ctx (opnd f.desc 224 8) (opnd f.desc 232 24)).isNone = false
  entry : readDir (actsOn s f) (arenaKey f.ctx (opnd f.desc 160 8)) a (opnd f.desc 168 24) = (u, .ok e)

section
variable {s u : State} {d : DescRef} {f : Flight} {op : Nat} {a : Arena} {e : DirEntry}

/-- With a VALID entry the command goes on from the state in which it was read. -/
theorem ReadsEntry.continues (h : ReadsEntry s u d f op a e) (hvalid : e.valid = true)
    (k : State → Nat → Arena → DirEntry → Out) :
    withTile (actsOn s f) (refKey d) f k = k u (arenaKey f.ctx (opnd f.desc 160 8)) a e := by
  obtain ⟨hact, hfirst, hform, ha, hdest, hentry⟩ := h
  obtain rfl := mayAct_op hact
  exact withTile_reads hfirst hform ha hdest hentry hvalid k

/-- With an entry that is not VALID the command fails, whatever it would have gone on with. -/
theorem ReadsEntry.fails (h : ReadsEntry s u d f op a e) (hinvalid : e.valid = false)
    (k : State → Nat → Arena → DirEntry → Out) :
    withTile (actsOn s f) (refKey d) f k =
      completes u d Code.translationFault (BitVec.ofNat 64 (opnd f.desc 168 24)) := by
  obtain ⟨hact, hfirst, hform, ha, hdest, hentry⟩ := h
  obtain rfl := mayAct_op hact
  exact withTile_invalid hfirst hform ha hdest hentry hinvalid k

/-- The command of each opcode that reads a directory entry: all but TILE_PACK. -/
def tileCommand (op : Nat) (d : DescRef) : Instr :=
  if op = 0x83 then .tileUnpack d else if op = 0x84 then .tileMove d else if op = 0x85 then .tileFree d else .tileStat d

/-- Each of them reads its tile's directory entry before anything else. -/
theorem exec_tileCommand (hop : op = 0x83 ∨ op = 0x84 ∨ op = 0x85 ∨ op = 0x86) :
    ∃ k : Nat → Flight → State → Nat → Arena → DirEntry → Out,
      exec (tileCommand op d) s = withDesc s d op fun s fk f => withTile s fk f (k fk f) := by
  obtain rfl | rfl | rfl | rfl := hop
  · exact ⟨_, exec_tileUnpack d s⟩
  · exact ⟨_, exec_tileMove d s⟩
  · exact ⟨_, exec_tileFree d s⟩
  · exact ⟨_, exec_tileStat d s⟩

theorem exec_tileCommand_of_invalid (hop : op = 0x83 ∨ op = 0x84 ∨ op = 0x85 ∨ op = 0x86)
    (h : ReadsEntry s u d f op a e) (hinvalid : e.valid = false) :
    exec (tileCommand op d) s = completes u d Code.translationFault (BitVec.ofNat 64 (opnd f.desc 168 24)) := by
  obtain ⟨k, hk⟩ := exec_tileCommand (s := s) (d := d) hop
  rw [hk, withDesc_acts h.acts, h.fails hinvalid]

/-! ## TILE_UNPACK (R291, R298) -/

/-- The work of a TILE_UNPACK whose plain side is being probed. -/
def unpackWork (f : Flight) (key : Nat) (e : DirEntry) : TileWork :=
  { arena := key, tile := opnd f.desc 168 24, first := e.first, sectors := e.sectors, version := e.version, phase := 3
    detail := BitVec.ofNat 64 e.version }

theorem exec_tileUnpack_of_agreed {key out : Nat} {h : Access1} (hr : ReadsEntry s u d f 0x83 a e)
    (hkey : key = arenaKey f.ctx (opnd f.desc 160 8)) (hvalid : e.valid = true) (hout : out = opnd f.desc 198 4)
    (hh : h = readVa u a.ctx (a.sectorVa e.first) 64) (hread : h.status = Code.ok)
    (hagrees : unpackBad (tileHdrOf h.data) f.desc = false)
    (hsides : tileSides h.st f.ctx f.desc (some (out, .write)) = none) (hroom : trackerFull h.st f.quarter = false) :
    exec (.tileUnpack d) s =
      let w := unpackWork f key e
      let t := setTileWork (beginTile h.st (refKey d) f key (some out)) (refKey d) w
      .next (settle (if (plainProbe f.desc out 1).isEmpty then unpackRun t (refKey d) f w
        else startJob t (flightJob t (refKey d) f) (plainProbe f.desc out 1))) := by
  rw [exec_tileUnpack, execTileUnpack, withDesc_acts hr.acts, hr.continues hvalid, ← hkey]
  simp only [← hout, ← hh, hread, hagrees, hsides, hroom]
  cases (plainProbe f.desc out 1).isEmpty <;> rfl

/-- A run that reads and checks is decoded, and its plain rows start to be written (R291). -/
theorem unpackRun_of_decoded {v : State} {fk : Nat} {w : TileWork} {x : TileRead} {plain : Bytes}
    (ha : tget s.pewter.arenas w.arena = some a) (hgood : a.failed = false)
    (hread : readTile s a { valid := true, first := w.first, sectors := w.sectors, version := w.version } f.quarter
      (f.engine - 18) = (v, .ok x))
    (hplain : plain = plainOf x.hdr (opnd f.desc 198 4) x.data) :
    unpackRun s fk f w =
      let t := setTileWork (bumpBy v 0x5000 0x0D plain.length) fk { w with phase := 1 }
      startJob t (flightJob t fk f) (unpackWrites f.desc plain ++ tileFlag f.desc) := by
  simp only [unpackRun, ha, hgood, hread, ← hplain]
  rfl

/-! ## TILE_MOVE (R297) -/

/-- The work of a TILE_MOVE whose run has been placed at its destination. -/
def moveWork (f : Flight) (key dst : Nat) (e : DirEntry) : TileWork :=
  { arena := dst, source := some key, tile := opnd f.desc 232 24, first := e.first, sectors := e.sectors
    version := e.version }

theorem exec_tileMove_of_placed {v w : State} {key dst n : Nat} {h : TileHdr} {b : Bytes}
    (hr : ReadsEntry s u d f 0x84 a e) (hkey : key = arenaKey f.ctx (opnd f.desc 160 8)) (hvalid : e.valid = true)
    (hdst : dst = arenaKey f.ctx (opnd f.desc 224 8)) (hsides : tileSides u f.ctx f.desc none = none)
    (hroom : trackerFull u f.quarter = false)
    (hrun : readRunOf (joinArena (beginTile u (refKey d) f key none) dst (readerOf (refKey d))) a e = (v, .ok (h, b)))
    (hplaced : placeTile v dst (opnd f.desc 232 24) h b = (w, .ok n)) :
    exec (.tileMove d) s =
      .next (settle (tileFlagPhase w (refKey d) f (moveWork f key dst e) (BitVec.ofNat 64 n))) := by
  rw [exec_tileMove, execTileMove, withDesc_acts hr.acts, hr.continues hvalid, ← hkey]
  simp only [← hdst, hsides, hroom, hrun, hplaced]
  rfl

/-! ## TILE_FREE and TILE_STAT (R298, R299) -/

theorem exec_tileFree_of_written {v : State} {key : Nat} (hr : ReadsEntry s u d f 0x85 a e)
    (hkey : key = arenaKey f.ctx (opnd f.desc 160 8)) (hvalid : e.valid = true)
    (hfreed : writeDir u key a (opnd f.desc 168 24) { e with valid := false } = (v, Code.ok)) :
    exec (.tileFree d) s =
      completes (writeMap (modArena v key fun a => retireRun a e.first e.sectors) key) d Code.ok
        (BitVec.ofNat 64 e.version) := by
  rw [exec_tileFree, execTileFree, withDesc_acts hr.acts, hr.continues hvalid, ← hkey]
  simp only [hfreed, doneWith_refKey]
  rfl

theorem exec_tileStat_of_read {r : Access1} (hr : ReadsEntry s u d f 0x86 a e) (hvalid : e.valid = true)
    (hrun : r = readVa u a.ctx (a.sectorVa e.first) 64) (hread : r.status = Code.ok) :
    exec (.tileStat d) s =
      completes r.st d Code.ok (BitVec.ofNat 64 (e.sectors + (tileHdrOf r.data).mode * 2 ^ 13 +
        (tileHdrOf r.data).fmt * 2 ^ 15 + e.version * 2 ^ 32)) := by
  rw [exec_tileStat, execTileStat, withDesc_acts hr.acts, hr.continues hvalid]
  simp only [← hrun, hread, doneWith_refKey]
  rfl

end

/-- Settles O33: a pack past its checks, the four commands on an entry that is VALID or not, and a run unpacked. -/
theorem tilesArePackedReadMovedAndFreed : Obligations.TilesArePackedReadMovedAndFreed := by
  refine ⟨?packed, ?entered, ?unpacked⟩
  case packed =>
    intro s t d f key fmt a hact ht hkey hfmt hfirst hform ha hsides hroom
    exact exec_tilePack_of_checked hact ht hkey hfmt hfirst hform ha hsides hroom
  case entered =>
    intro s u d f op key tile a e hop hact hkey htile hfirst hform ha hdest hentry
    subst htile
    have hr : ReadsEntry s u d f op a e := ⟨hact, hfirst, hform, ha, hdest, hkey ▸ hentry⟩
    refine ⟨?invalid, ?unpack, ?move, ?free, ?stat⟩
    case invalid => exact exec_tileCommand_of_invalid hop hr
    case unpack =>
      rintro rfl hvalid h out hout hh hread hagrees hsides hroom
      exact exec_tileUnpack_of_agreed hr hkey hvalid hout hh hread hagrees hsides hroom
    case move =>
      rintro rfl hvalid v w h b n dst hdst hsides hroom hrun hplaced
      exact exec_tileMove_of_placed hr hkey hvalid hdst hsides hroom hrun hplaced
    case free =>
      rintro rfl hvalid v hfreed
      exact exec_tileFree_of_written hr hkey hvalid hfreed
    case stat =>
      rintro rfl hvalid r hrun hread
      exact exec_tileStat_of_read hr hvalid hrun hread
  case unpacked =>
    intro s v fk f w a x plain ha hgood hread hplain
    exact unpackRun_of_decoded ha hgood hread hplain

end Sys2Proof.Machine
end

section
/-! PROOFS. Training of the stacks and modules, and the end of start-up (O58; R275, R276, R335, R482 to R484). -/

namespace Sys2Proof.Machine

/-! ## The commands and their meanings -/

theorem exec_plateTrainingEnd (n : Nat) (ok : Bool) (s : State) :
    exec (.plateTrainingEnd n ok) s = execPlateTrainingEnd n ok s := rfl

theorem exec_slabTrainingEnd (n size : Nat) (ok : Bool) (s : State) :
    exec (.slabTrainingEnd n size ok) s = execSlabTrainingEnd n size ok s := rfl

theorem exec_startupComplete (s : State) : exec .startupComplete s = execStartupComplete s := rfl

theorem exec_startupTemperatureOk (s : State) : exec .startupTemperatureOk s = execStartupTemperatureOk s := rfl

section
variable {s : State} {n : Nat} (hup : s.pwr.up = true)
include hup

/-! ## Stacks (R275) -/

/-- The state that counts a stack's training as over. -/
def stackDone (s : State) (n : Nat) : State := setPwr s { s.pwr with stacksDone := s.pwr.stacksDone ++ [n] }

section
variable (hstack : n < 20) (hnew : n ∉ s.pwr.stacksDone)
include hstack hnew

theorem exec_plateTrainingEnd_of_trained :
    exec (.plateTrainingEnd n true) s =
      .next (setReg (stackDone s n) 0x5000 0x04 (reg (stackDone s n) 0x5000 0x04 ||| 2 ^ n)) := by
  rw [exec_plateTrainingEnd, execPlateTrainingEnd, if_neg (by simp [hup, hstack, hnew])]
  rfl

theorem exec_plateTrainingEnd_of_late (hlate : passedMs s s.pwr.startedAt 150 = true) :
    exec (.plateTrainingEnd n false) s = .next (unitAbsent (stackDone s n) 4 n (n / 5)) := by
  rw [exec_plateTrainingEnd, execPlateTrainingEnd, if_neg (by simp [hup, hstack, hnew, hlate])]
  rfl

end

/-! ## Modules (R276) -/

/-- The state that counts a module's training as over. -/
def moduleDone (s : State) (n : Nat) : State := setPwr s { s.pwr with modulesDone := s.pwr.modulesDone ++ [n] }

section
variable {size : Nat} (hmodule : n < 12) (hnew : n ∉ s.pwr.modulesDone)
include hmodule hnew

theorem exec_slabTrainingEnd_of_trained (hsize : size = 64 ∨ size = 128) :
    exec (.slabTrainingEnd n size true) s =
      let t := moduleDone s n
      .next (setReg { t with mem := { t.mem with slab := tset t.mem.slab n size } } 0x5000 0x03
        (reg t 0x5000 0x03 ||| 2 ^ n)) := by
  rw [exec_slabTrainingEnd, execSlabTrainingEnd, if_neg (by simp [hup, hmodule, hnew, hsize])]
  rfl

theorem exec_slabTrainingEnd_of_late (hlate : passedMs s s.pwr.startedAt 285 = true) :
    exec (.slabTrainingEnd n size false) s = .next (moduleDone s n) := by
  rw [exec_slabTrainingEnd, execSlabTrainingEnd, if_neg (by simp [hup, hmodule, hnew, hlate])]
  rfl

end

/-! ## The end of start-up (R335, R482 to R484) -/

theorem exec_startupComplete_of_trained {t u : State} (hstarting : reg s 0x9000 0x11 = 0)
    (hstacks : s.pwr.stacksDone.length = 20) (hmodules : s.pwr.modulesDone.length = 12) (hu : u = firstContexts s)
    (ht : t = setPwr u { u.pwr with partReady := true }) :
    exec .startupComplete s =
      .next (setReg (setReg t 0x9000 0x11 1) 0x9000 0x16 ((t.now - t.pwr.startedAt) * 5 / 9000 % 2 ^ 32)) := by
  subst hu ht
  rw [exec_startupComplete, execStartupComplete, if_pos ⟨hup, hstarting, hstacks, hmodules⟩]

end

theorem exec_startupTemperatureOk_of_cool {s : State} (hhot : reg s 0x9000 0x11 = 2) (hfree : heldReset s = false)
    (hcool : hotterThan s 721 = false) : exec .startupTemperatureOk s = .next (beginStart s) := by
  rw [exec_startupTemperatureOk, execStartupTemperatureOk, if_pos ⟨hhot, hfree, hcool⟩]

/-- Settles O58: a unit trained or too late, the end of start-up, and a part that has cooled. -/
theorem startUpTrainsMemoryThenReadiesThePart : Obligations.StartUpTrainsMemoryThenReadiesThePart := by
  refine ⟨?stackEnds, ?moduleEnds, ?completes, ?cools⟩
  case stackEnds =>
    intro s t n ok hup hstack hnew hlate ht
    subst ht
    cases ok
    case false => exact exec_plateTrainingEnd_of_late hup hstack hnew (hlate rfl)
    case true => exact exec_plateTrainingEnd_of_trained hup hstack hnew
  case moduleEnds =>
    intro s t n size ok hup hmodule hnew hsize hlate ht
    subst ht
    cases ok
    case false => exact exec_slabTrainingEnd_of_late hup hmodule hnew (hlate rfl)
    case true => exact exec_slabTrainingEnd_of_trained hup hmodule hnew (hsize rfl)
  case completes =>
    intro s t u hup hstarting hstacks hmodules hu ht
    exact exec_startupComplete_of_trained hup hstarting hstacks hmodules hu ht
  case cools =>
    intro s hhot hfree hcool
    exact exec_startupTemperatureOk_of_cool hhot hfree hcool

end Sys2Proof.Machine
end

section
/-! PROOFS. Caddie streams: their descriptors (O34; R306, R307, R309, R317, R321, R322). -/

namespace Sys2Proof.Machine

/-! ## The commands and their meanings -/

theorem exec_caddieArm (d : DescRef) (s : State) : exec (.caddieArm d) s = execCaddieArm d s := rfl

theorem exec_caddieDisarm (d : DescRef) (s : State) : exec (.caddieDisarm d) s = execCaddieDisarm d s := rfl

theorem exec_caddieWait (d : DescRef) (s : State) : exec (.caddieWait d) s = execCaddieWait d s := rfl

theorem exec_caddieWaitTimeout (d : DescRef) (s : State) :
    exec (.caddieWaitTimeout d) s = execCaddieWaitTimeout d s := rfl

theorem exec_caddieFlush (d : DescRef) (s : State) : exec (.caddieFlush d) s = execCaddieFlush d s := rfl

/-! ## CADDIE_ARM (R306, R307, R309) -/

/-- A stream with its schedule entries as they were read. -/
def CaddieStream.withEntries (c : CaddieStream) (b : Bytes) : CaddieStream :=
  { c with entries := (descsOf b).map schedOf }

/-- The state in which a stream is armed: it holds its ranges and watches its cursor words. -/
def caddieArmed (s : State) (key : Nat) (c : CaddieStream) : State :=
  let t := hold s c.quarter c.ctx (holdCaddie key) c.ranges
  watchCursor { t with caddie := { t.caddie with streams := tset t.caddie.streams key c } } key c

section
variable {s : State} {c : CaddieStream} {key : Nat} (hkey : key = caddieKey c.quarter c.ctx c.no)
include hkey

/-- The checks of R309 pass where each of them does. -/
theorem caddieChecks_eq_none {xs : List (BitVec 512)} (hform : caddieMisaligned s c = false)
    (hentries : firstBadEntry c 0 xs = none) (hfree : thas s.caddie.streams key = false)
    (hpages : caddiePages s c = none) (hquota : caddieQuota s c = false) : caddieChecks s c xs = none := by
  subst hkey
  simp only [caddieChecks, hform, hentries, hfree, hpages, hquota, Bool.false_eq_true, if_false]

/-- A stream whose entries can be read, and which passes the checks of R309, is armed with them. -/
theorem armCaddie_of_allowed {d : DescRef} {r : Access1}
    (hside : sideCheck s c.ctx [(c.entryVa, c.count * 64)] .read = none)
    (hguard : heldBy s (.command (refKey d)) c.ctx [(c.entryVa, c.count * 64)] = none)
    (hr : r = readVa s c.ctx c.entryVa (c.count * 64)) (hread : r.status = Code.ok)
    (hchecks : caddieChecks r.st c (descsOf r.data) = none) (hroom : trackerFull r.st c.quarter = false) :
    armCaddie s (refKey d) c = completes (caddieArmed r.st key (c.withEntries r.data)) d Code.ok 0 := by
  subst hkey
  simp only [armCaddie, hside, hguard, ← hr, hread, hchecks, hroom]
  rfl

end

section
variable {s t : State} {d : DescRef} {f : Flight} {n key : Nat} {c : CaddieStream}

/-- A CADDIE_ARM with its reserved fields zero, its COUNT in range and its context in order comes to the copy. -/
theorem exec_caddieArm_of_clean {x : BitVec 256} (hact : MayAct s d 0xA0 f) (ht : t = actsOn s f)
    (hx : x = f.desc.extractLsb' 64 256) (hn : n = bits x 9 12) (hc : c = caddieOf x f.quarter (namedCtx f n) t.now)
    (hreserved : caddieReserved f.desc = false) (hsome : c.count ≠ 0) (hmax : c.count ≤ 4096)
    (hctx : ctxFieldStatus t f n = Code.ok) : exec (.caddieArm d) s = armCaddie t (refKey d) c := by
  have hform : (caddieReserved f.desc || c.count == 0 || decide (4096 < c.count)) = false := by
    simp [hreserved, hsome, hmax]
  rw [exec_caddieArm, execCaddieArm, withDesc_acts hact, ← ht, ← hx]
  simp only [← hn, ← hc, firstOf, hform, hctx]
  rfl

/-! ## CADDIE_DISARM (R322) -/

/-- A stream that its CADDIE_DISARM has put into disarming, and whose end completes that command. -/
def CaddieStream.disarmedBy (fk : Nat) (c : CaddieStream) : CaddieStream := { c with state := 2, closing := some fk }

/-- CADDIE_DISARM of an armed stream; `closeCaddie` completes it now or with the last entry in flight. -/
theorem exec_caddieDisarm_of_armed (hact : MayAct s d 0xA1 f) (ht : t = actsOn s f) (hn : n = opnd f.desc 64 12)
    (hkey : key = caddieKey f.quarter (namedCtx f n) (opnd f.desc 0 8)) (h8 : clean f.desc 8 56 = true)
    (h76 : clean f.desc 76 372 = true) (hctx : ctxFieldStatus t f n = Code.ok)
    (harmed : (caddieFor t f.quarter (namedCtx f n) (opnd f.desc 0 8)).isNone = false) :
    exec (.caddieDisarm d) s =
      .next (settle (closeCaddie (wakeCaddie
        (modCaddie (waitOn t (refKey d)) key (CaddieStream.disarmedBy (refKey d))) key Code.aborted) key)) := by
  rw [exec_caddieDisarm, execCaddieDisarm, withDesc_acts hact, ← ht]
  simp only [← hn, ← hkey, firstOf, h8, h76, hctx, harmed]
  rfl

/-! ## CADDIE_WAIT (R322) -/

/-- CADDIE_WAIT on a stream completes with what it finds there and the stream's MISSES, or waits. -/
theorem exec_caddieWait_of_named (hact : MayAct s d 0xA2 f) (ht : t = actsOn s f) (hn : n = opnd f.desc 96 12)
    (h20 : clean f.desc 20 12 = true) (h108 : clean f.desc 108 340 = true) (hctx : ctxFieldStatus t f n = Code.ok)
    (hc : tget t.caddie.streams (caddieKey f.quarter (namedCtx f n) (opnd f.desc 0 8)) = some c) :
    exec (.caddieWait d) s =
      if c.hasLanded (opnd f.desc 8 12) (opnd f.desc 32 32) then completes t d Code.ok (BitVec.ofNat 64 c.misses)
      else if c.state = 3 then completes t d c.failStatus (BitVec.ofNat 64 c.misses)
      else if c.state = 2 then completes t d Code.aborted (BitVec.ofNat 64 c.misses)
      else .next (settle (waitOn t (refKey d))) := by
  rw [exec_caddieWait, execCaddieWait, withDesc_acts hact, ← ht]
  simp only [← hn, firstOf, h20, h108, hctx, hc, doneWith_refKey]
  rfl

theorem exec_caddieWaitTimeout_of_passed (hf : waitingOp s d 0xA2 = some f) (hlimit : opnd f.desc 64 32 ≠ 0)
    (hpassed : passedUs s f.since (opnd f.desc 64 32) = true) :
    exec (.caddieWaitTimeout d) s =
      completes s d Code.timeout
        (caddieMisses s (caddieKey f.quarter (namedCtx f (opnd f.desc 96 12)) (opnd f.desc 0 8))) := by
  simp only [exec_caddieWaitTimeout, execCaddieWaitTimeout, hf, doneWith_refKey]
  rw [if_pos ⟨hlimit, hpassed⟩]

/-! ## CADDIE_FLUSH (R317, R322) -/

/-- The occupants that a stream owes a writeback, by slot. -/
def CaddieStream.owed (c : CaddieStream) : Tbl Occupant := c.occupants.filter fun x => c.owesBack x.2

/-- One slot flushed: the state, the first status that was not OK, and the count of slots written back. -/
def flushSlot (key : Nat) (c : CaddieStream) (r : State × Status × Nat) (x : Nat × Occupant) : State × Status × Nat :=
  let w := writeBack r.1 key c x.1 x.2
  (w.1, if r.2.1 = Code.ok then w.2 else r.2.1, if w.2 = Code.ok then r.2.2 + 1 else r.2.2)

section
variable (hact : MayAct s d 0xA3 f) (ht : t = actsOn s f) (hn : n = opnd f.desc 64 12)
  (h8 : clean f.desc 8 56 = true) (h76 : clean f.desc 76 372 = true) (hctx : ctxFieldStatus t f n = Code.ok)
  (hc : caddieFor t f.quarter (namedCtx f n) (opnd f.desc 0 8) = some c)
include hact ht hn h8 h76 hctx hc

/-- With none of the owed slots guarded, each is written back in turn. -/
theorem exec_caddieFlush_of_free (hkey : key = caddieKey f.quarter (namedCtx f n) (opnd f.desc 0 8))
    (hfree : heldBy t (.command (refKey d)) (namedCtx f n) (c.owed.map fun x => (c.slotAt x.1, c.slotBytes)) = none) :
    exec (.caddieFlush d) s =
      let r := c.owed.foldl (flushSlot key c) (t, Code.ok, 0)
      completes r.1 d r.2.1 (BitVec.ofNat 64 r.2.2) := by
  unfold CaddieStream.owed at hfree
  rw [exec_caddieFlush, execCaddieFlush, withDesc_acts hact, ← ht]
  simp only [← hn, ← hkey, firstOf, h8, h76, hctx, hc, hfree, doneWith_refKey]
  rfl

/-- A guard over one of the owed slots holds the command. -/
theorem exec_caddieFlush_of_held {u : State}
    (hheld : heldBy t (.command (refKey d)) (namedCtx f n) (c.owed.map fun x => (c.slotAt x.1, c.slotBytes)) = some u) :
    exec (.caddieFlush d) s = .next u := by
  unfold CaddieStream.owed at hheld
  rw [exec_caddieFlush, execCaddieFlush, withDesc_acts hact, ← ht]
  simp only [← hn, firstOf, h8, h76, hctx, hc, hheld]
  rfl

end

end

/-- Settles O34: each descriptor past its checks, and a wait whose time has passed. -/
theorem caddieStreamsAreArmedWaitedForAndFlushed : Obligations.CaddieStreamsAreArmedWaitedForAndFlushed := by
  refine ⟨?armed, ?disarmed, ?waited, ?timedOut, ?flushed, ?held⟩
  case armed =>
    intro s t d f x n key c r hact ht hx hn hc hkey hreserved hsome hmax hctx hside hguard hr hread hform hentries hfree
      hpages hquota hroom
    rw [exec_caddieArm_of_clean hact ht hx hn hc hreserved hsome hmax hctx]
    exact armCaddie_of_allowed hkey hside hguard hr hread
      (caddieChecks_eq_none hkey hform hentries hfree hpages hquota) hroom
  case disarmed =>
    intro s t d f n key hact ht hn hkey h8 h76 hctx harmed
    exact exec_caddieDisarm_of_armed hact ht hn hkey h8 h76 hctx harmed
  case waited =>
    intro s t d f n c hact ht hn h20 h108 hctx hc
    exact exec_caddieWait_of_named hact ht hn h20 h108 hctx hc
  case timedOut =>
    intro s d f hf hlimit hpassed
    exact exec_caddieWaitTimeout_of_passed hf hlimit hpassed
  case flushed =>
    intro s t d f n key c hact ht hn hkey h8 h76 hctx hc hfree
    exact exec_caddieFlush_of_free hact ht hn h8 h76 hctx hc hkey hfree
  case held =>
    intro s t u d f n c hact ht hn h8 h76 hctx hc hheld
    exact exec_caddieFlush_of_held hact ht hn h8 h76 hctx hc hheld

end Sys2Proof.Machine
end

section
/-! PROOFS. Caddie entries: their start, their landing or failure, and their deadlines (O35; R310, R314 to R316, R319,
R320). -/

namespace Sys2Proof.Machine

/-! ## The commands and their meanings -/

theorem exec_caddieEntryStart (q ctx no : Nat) (s : State) :
    exec (.caddieEntryStart q ctx no) s = execCaddieEntryStart q ctx no s := rfl

theorem exec_caddieEntryLand (q ctx no i : Nat) (s : State) :
    exec (.caddieEntryLand q ctx no i) s = execCaddieEntryLand q ctx no i s := rfl

theorem exec_caddieDeadlineMiss (q ctx no i : Nat) (s : State) :
    exec (.caddieDeadlineMiss q ctx no i) s = execCaddieDeadlineMiss q ctx no i s := rfl

section
variable {s : State} {q ctx no i : Nat} {c : CaddieStream} (hc : tget s.caddie.streams (caddieKey q ctx no) = some c)
include hc

/-! ## Start (R310) -/

theorem exec_caddieEntryStart_of_canStart (hready : canStart s c = true) (hruns : s.core.stopped = false) :
    exec (.caddieEntryStart q ctx no) s = .next (settle (startEntry s (caddieKey q ctx no) c)) := by
  simp only [exec_caddieEntryStart, execCaddieEntryStart, hc]
  rw [if_pos (by simp [hready, hruns])]

/-! ## Landing and failure (R314, R320) -/

section
variable {t : State} {x : FlyEntry} {st : Status} {h : Tbl TileHdr}
  (hx : c.flying.find? (fun x => x.index == i) = some x) (hruns : s.core.stopped = false)
  (hsteps : landSteps s (caddieKey q ctx no) c (c.entry x.index) x = some (t, st, h))
include hx hruns hsteps

/-- An entry whose steps have ended OK lands. -/
theorem exec_caddieEntryLand_of_ok (hok : st = Code.ok) :
    exec (.caddieEntryLand q ctx no i) s =
      .next (settle (landEntry t (caddieKey q ctx no) c (c.entry x.index) x h)) := by
  simp only [exec_caddieEntryLand, execCaddieEntryLand, hc, hx, hruns, hsteps, Bool.false_eq_true, if_false, if_pos hok]

/-- An entry whose steps have ended with another status fails its stream with it. -/
theorem exec_caddieEntryLand_of_failed (hbad : st ≠ Code.ok) :
    exec (.caddieEntryLand q ctx no i) s =
      .next (settle (closeCaddie (failEntry t (caddieKey q ctx no) x st) (caddieKey q ctx no))) := by
  simp only [exec_caddieEntryLand, execCaddieEntryLand, hc, hx, hruns, hsteps, Bool.false_eq_true, if_false, if_neg hbad]

end

/-! ## Deadlines (R319) -/

/-- Whether an entry in flight is the one of an index, past its deadline and not counted yet. -/
def CaddieStream.newlyLate (c : CaddieStream) (s : State) (i : Nat) (x : FlyEntry) : Bool :=
  x.index == i && !x.missed && overdue s (c.entry i) (c.reference (c.entry i) x.pass (some x.reference))

/-- An entry in flight past its deadline is counted, once. -/
theorem exec_caddieDeadlineMiss_of_late {x : FlyEntry} (hx : c.flying.find? (c.newlyLate s i) = some x) :
    exec (.caddieDeadlineMiss q ctx no i) s = .next (missEntry s (caddieKey q ctx no) x) := by
  unfold CaddieStream.newlyLate at hx
  simp only [exec_caddieDeadlineMiss, execCaddieDeadlineMiss, hc, hx]

/-- A stream that has counted the miss of an entry that it has not started, in a pass. -/
def CaddieStream.waitCounted (i p : Nat) (c : CaddieStream) : CaddieStream :=
  { c with waitMissed := c.waitMissed ++ [(i, p)] }

/-- An entry not started past its deadline is counted, once a pass, and goes on waiting. -/
theorem exec_caddieDeadlineMiss_of_waiting {p : Nat} (hnone : c.flying.find? (c.newlyLate s i) = none)
    (hpass : c.waitPass i = some p) (hnew : c.waitMissed.contains (i, p) = false)
    (hlate : overdue s (c.entry i) (c.reference (c.entry i) p (c.waitFrom (c.entry i) i p)) = true) :
    exec (.caddieDeadlineMiss q ctx no i) s =
      .next (modCaddie (countMiss s (caddieKey q ctx no) i) (caddieKey q ctx no) (CaddieStream.waitCounted i p)) := by
  unfold CaddieStream.newlyLate at hnone
  simp only [exec_caddieDeadlineMiss, execCaddieDeadlineMiss, hc, hnone, hpass, hnew, hlate]
  rfl

end

/-- Settles O35: an entry that can start, one that lands or fails, and one late in flight or not yet started. -/
theorem caddieEntriesStartAndLand : Obligations.CaddieEntriesStartAndLand := by
  refine ⟨?starts, ?ends, ?late, ?waiting⟩
  case starts =>
    intro s q ctx no c hc hready hruns
    exact exec_caddieEntryStart_of_canStart hc hready hruns
  case ends =>
    intro s t q ctx no i c x st h hc hx hruns hsteps
    by_cases hok : st = Code.ok
    · rw [if_pos hok, exec_caddieEntryLand_of_ok hc hx hruns hsteps hok]
    · rw [if_neg hok, exec_caddieEntryLand_of_failed hc hx hruns hsteps hok]
  case late =>
    intro s q ctx no i c x hc hx
    exact exec_caddieDeadlineMiss_of_late hc hx
  case waiting =>
    intro s q ctx no i p c hc hnone hpass hnew hlate
    exact exec_caddieDeadlineMiss_of_waiting hc hnone hpass hnew hlate

end Sys2Proof.Machine
end

section
/-! PROOFS. Contexts: creation, stop, resumption of a queue and group entries through the dictionary (R333 to R337,
R345, R349, R350), and the drain, generation step and clear phase of a teardown (R339 to R343, R345). -/

namespace Sys2Proof.Machine

/-! ## The commands and their meanings -/

theorem exec_contextCreate (via : Via) (c : Nat) (s : State) :
    exec (.contextCreate via c) s = execContextCreate via c s := rfl

theorem exec_contextTeardown (via : Via) (c : Nat) (s : State) :
    exec (.contextTeardown via c) s = execContextTeardown via c s := rfl

theorem exec_contextReset (via : Via) (c : Nat) (s : State) :
    exec (.contextReset via c) s = execContextReset via c s := rfl

theorem exec_queueResumeDict (via : Via) (c n : Nat) (s : State) :
    exec (.queueResumeDict via c n) s = execQueueResumeDict via c n s := rfl

theorem exec_groupEntryWrite (via : Via) (c : Nat) (b : Bytes) (s : State) :
    exec (.groupEntryWrite via c b) s = execGroupEntryWrite via c b s := rfl

theorem exec_teardownDrainEnd (c : Nat) (s : State) :
    exec (.teardownDrainEnd c) s = execTeardownDrainEnd c s := rfl

theorem exec_teardownDrainLimit (c : Nat) (s : State) :
    exec (.teardownDrainLimit c) s = execTeardownDrainLimit c s := rfl

theorem exec_clearPhaseEnd (c : Nat) (s : State) : exec (.clearPhaseEnd c) s = execClearPhaseEnd c s := rfl

/-! ## Writes of a context's record (R349) -/

/-- A write to the record of a context there is, which passes its checks, is performed. -/
theorem guardedCtx_ok {s : State} {w : Who} {c sub v : Nat} (hc : c < 4096)
    (hw : writeStatus s w (ctxIdx c) sub v = Code.ok) (k : State → State × Answer) :
    guardedCtx s w c sub v k = k s := by
  rw [guardedCtx, if_neg (Nat.not_le.mpr hc), guarded_ok hw]

/-! ## CONTROL: creation, teardown and reset (R333 to R337, R345) -/

/-- What a teardown or reset leaves, and what it is answered with. -/
theorem answersTo_teardown (s t : State) (via : Via) (c : Nat) (again : Bool) :
    answersTo s (teardown t c again).1 via (answer (teardown t c again).2) =
      if c = 0 ∨ ctxState t c ≠ 1 then answersTo s t via (answer Code.locked)
      else answersTo s (stopContext t c again) via (answer Code.ok) := by
  by_cases h : c = 0 ∨ ctxState t c ≠ 1
  · rw [teardown, if_pos h, if_pos h]
  · rw [teardown, if_neg h, if_neg h]

section
variable {s t : State} {via : Via} {w : Who} {c : Nat} (ha : askedBy s via = some (t, w)) (hc : c < 4096)
include ha hc

/-- A CONTEXT_CREATE makes the context or leaves the state, by the status of its checks. -/
theorem exec_contextCreate_of_allowed (hw : writeStatus t w (ctxIdx c) 0x03 1 = Code.ok) :
    exec (.contextCreate via c) s =
      answersTo s (if createStatus t c = Code.ok then makeContext t c else t) via (answer (createStatus t c)) := by
  rw [exec_contextCreate, execContextCreate, withVia_asked ha, guardedCtx_ok hc hw, plainAnswer, control, createContext]

theorem exec_contextTeardown_of_allowed (hw : writeStatus t w (ctxIdx c) 0x03 2 = Code.ok) :
    exec (.contextTeardown via c) s =
      if c = 0 ∨ ctxState t c ≠ 1 then answersTo s t via (answer Code.locked)
      else answersTo s (stopContext t c false) via (answer Code.ok) := by
  rw [exec_contextTeardown, execContextTeardown, withVia_asked ha, guardedCtx_ok hc hw, plainAnswer, control,
    answersTo_teardown]

theorem exec_contextReset_of_allowed (hw : writeStatus t w (ctxIdx c) 0x03 3 = Code.ok) :
    exec (.contextReset via c) s =
      if c = 0 ∨ ctxState t c ≠ 1 then answersTo s t via (answer Code.locked)
      else answersTo s (stopContext t c true) via (answer Code.ok) := by
  rw [exec_contextReset, execContextReset, withVia_asked ha, guardedCtx_ok hc hw, plainAnswer, control,
    answersTo_teardown]

/-! ## Resumption of a queue (R349) -/

theorem exec_queueResumeDict_of_open {n : Nat} (hw : writeStatus t w (ctxIdx c) 0x22 n = Code.ok)
    (hctx : namedCtxStatus t c = Code.ok) (hn : n < 1024) (hq : (queueOf t c n).isNone = false) :
    exec (.queueResumeDict via c n) s = answersTo s (resumeQueue t c n false) via (answer Code.ok) := by
  have hr : resumeByDict t c n = (resumeQueue t c n false, Code.ok) := by
    simp [resumeByDict, firstOf, hctx, hq, Nat.not_le.mpr hn]
  rw [exec_queueResumeDict, execQueueResumeDict, withVia_asked ha, guardedCtx_ok hc hw, plainAnswer, hr]

end

/-! ## Group entries (R350) -/

/-- The flags word of a group entry as it is written. -/
def groupFlags (b : Bytes) : BitVec 64 := BitVec.ofNat 64 (ofLe ((b.drop 2).take 8))

/-- The group that a written entry of a context sets, at the context's generation. -/
def writtenGroup (t : State) (c : Nat) (b : Bytes) : GroupEntry :=
  { kind := bits (groupFlags b) 1 1, ctx := c, gen := ctxGen t c, srcBase := bits (groupFlags b) 40 12
    srcMask := bits (groupFlags b) 52 12, members := memberWords (b.drop 10) }

/-- The groups once an entry of a context is written: its group set where it is VALID, and cleared where not. -/
def groupsWritten (t : State) (c : Nat) (b : Bytes) : Tbl GroupEntry :=
  if bit (groupFlags b) 0 then tset t.net.groups (ofLe (b.take 2)) (writtenGroup t c b)
  else tdel t.net.groups (ofLe (b.take 2))

/-- A well-formed group entry: its number, its reserved bit, its length, and the members of one that is VALID. -/
structure GroupEntryFormed (b : Bytes) : Prop where
  number : ofLe (b.take 2) ≤ 4095
  reserved : bit (groupFlags b) 39 = false
  length : b.length = 10 + 4 * bits (groupFlags b) 30 9
  members : bit (groupFlags b) 0 = true → 0 < bits (groupFlags b) 30 9 ∧ bits (groupFlags b) 30 9 ≤ 256 ∧
    (memberWords (b.drop 10)).any (memberBad (bits (groupFlags b) 1 1)) = false

/-- The members of a well-formed entry pass their check: there are 1 to 256 of them, none of them bad. -/
theorem GroupEntryFormed.members_ok {b : Bytes} (hb : GroupEntryFormed b) :
    (bit (groupFlags b) 0 && (bits (groupFlags b) 30 9 == 0 || decide (256 < bits (groupFlags b) 30 9) ||
      (memberWords (b.drop 10)).any (memberBad (bits (groupFlags b) 1 1)))) = false := by
  cases hv : bit (groupFlags b) 0 with
  | false => rfl
  | true =>
    obtain ⟨hpos, hmax, hgood⟩ := hb.members hv
    simp [hpos.ne', Nat.not_lt.mpr hmax, hgood]

/-- A well-formed entry in its context's range is written. -/
theorem writeGroupEntry_of_formed {t : State} {c : Nat} {b : Bytes} (hb : GroupEntryFormed b)
    (hctx : namedCtxStatus t c = Code.ok)
    (hrange : c ≠ 0 → reg t (ctxIdx c) 0x1F ≤ ofLe (b.take 2) ∧
      ofLe (b.take 2) < reg t (ctxIdx c) 0x1F + reg t (ctxIdx c) 0x20) :
    writeGroupEntry t c b = ({ t with net := { t.net with groups := groupsWritten t c b } }, Code.ok) := by
  have hshort : ¬b.length < 10 := by have := hb.length; omega
  have hin : (c != 0 && !(decide (reg t (ctxIdx c) 0x1F ≤ ofLe (b.take 2)) &&
      decide (ofLe (b.take 2) < reg t (ctxIdx c) 0x1F + reg t (ctxIdx c) 0x20))) = false := by
    simpa using hrange
  have hflags : BitVec.ofNat 64 (ofLe ((b.drop 2).take 8)) = groupFlags b := rfl
  simp only [writeGroupEntry, hflags, firstOf, hb.members_ok, hb.reserved, hin, hctx, ← hb.length,
    decide_eq_false hshort, decide_eq_false (Nat.not_lt.mpr hb.number), bne_self_eq_false, Bool.or_false,
    Bool.false_eq_true, if_false]
  rfl

theorem exec_groupEntryWrite_of_formed {s t : State} {via : Via} {w : Who} {c : Nat} {b : Bytes}
    (ha : askedBy s via = some (t, w)) (ho : otherTransfer t via (ctxIdx c) 0x30 = false) (hc : c < 4096)
    (hw : writeStatus t w (ctxIdx c) 0x30 0 = Code.ok) (hb : GroupEntryFormed b) (hctx : namedCtxStatus t c = Code.ok)
    (hrange : c ≠ 0 → reg t (ctxIdx c) 0x1F ≤ ofLe (b.take 2) ∧
      ofLe (b.take 2) < reg t (ctxIdx c) 0x1F + reg t (ctxIdx c) 0x20) :
    exec (.groupEntryWrite via c b) s =
      answersTo s { t with net := { t.net with groups := groupsWritten t c b } } via (answer Code.ok) := by
  rw [exec_groupEntryWrite, execGroupEntryWrite, withVia_asked ha, ho, if_neg Bool.false_ne_true,
    guardedCtx_ok hc hw, plainAnswer, writeGroupEntry_of_formed hb hctx hrange]

/-- Settles O36: each command by the write it makes, past that write's checks. -/
theorem contextsAreMadeAndStopped : Obligations.ContextsAreMadeAndStopped := by
  refine ⟨fun s t via w c => exec_contextCreate_of_allowed, fun s t via w c => exec_contextTeardown_of_allowed,
    fun s t via w c => exec_contextReset_of_allowed,
    fun s t via w c n ha hc => exec_queueResumeDict_of_open ha hc, ?group⟩
  case group =>
    rintro s t via w c _ _ _ _ b _ ha ho hc hw rfl rfl rfl rfl rfl hnum hres hlen hmem hctx hrange
    exact exec_groupEntryWrite_of_formed ha ho hc hw ⟨hnum, hres, hlen, hmem⟩ hctx hrange

/-! ## The drain (R339, R340) -/

theorem exec_teardownDrainEnd_of_drained {s : State} {c : Nat} (hst : ctxState s c = 2) (hd : drained s c = true) :
    exec (.teardownDrainEnd c) s = .next (settle (generationStep s c)) := by
  rw [exec_teardownDrainEnd, execTeardownDrainEnd, if_pos ⟨hst, hd⟩]

/-- What a drain past its limit leaves: descriptors and requests abandoned, and a record (R340). -/
def drainAbandoned (s : State) (c : Nat) : State :=
  raise (abandonRequests (abandonFlights s c) c) { cls := 0x0F, status := Code.contextRetired, ctx := some c }

theorem exec_teardownDrainLimit_of_passed {s : State} {c : Nat} {x : Teardown} (hx : tget s.ctx.teardowns c = some x)
    (hst : ctxState s c = 2) (hp : passedUs s x.since (reg s 0x7000 0x81) = true) :
    exec (.teardownDrainLimit c) s = .next (settle (generationStep (drainAbandoned s c) c)) := by
  simp only [exec_teardownDrainLimit, execTeardownDrainLimit, hx]
  rw [if_pos ⟨hst, hp⟩]
  rfl

/-! ## The clear phase (R342, R343, R345) -/

/-- The state with a clear time kept where it is the longest so far (7000:84). -/
def keepClearTime (s : State) (since : Nat) : State :=
  setReg s 0x7000 0x84 (max (reg s 0x7000 0x84) (usSince s since))

/-- A context once its clear phase has ended: pages and records freed, the clear time kept, its teardown over. -/
def cleared (s : State) (c since : Nat) : State :=
  let u := keepClearTime (freeRecords (freePages s c) c) since
  { u with ctx := { u.ctx with teardowns := tdel u.ctx.teardowns c } }

/-- A context's policy block and its own sessions are gone. -/
def disowned (s : State) (c : Nat) : State :=
  closeSessions { s with dict := { s.dict with blocks := tdel s.dict.blocks (ctxIdx c * 256 + 0x21) } }
    fun x => x.principal == 1 && x.ctx == c

/-- A FREE context made again after its reset; checks that fail leave a record (R345). -/
def madeAgain (s : State) (c : Nat) : State :=
  let r := createContext s c
  if r.2 = Code.ok then r.1 else raise r.1 { cls := 0x10, status := r.2, ctx := some c }

section
variable {s : State} {c : Nat} {x : Teardown} (hst : ctxState s c = 3) (hx : tget s.ctx.teardowns c = some x)
include hst hx

theorem exec_clearPhaseEnd_of_reset (hr : x.reset = true) (hg : x.exhausted = false) :
    exec (.clearPhaseEnd c) s = .next (madeAgain (setCtxState (cleared s c x.clearFrom) c 0) c) := by
  simp only [exec_clearPhaseEnd, execClearPhaseEnd, hst, hx, Option.getD_some, hr, hg, and_self, if_true, ne_eq,
    not_true_eq_false, if_false, Bool.false_eq_true]
  rw [madeAgain, apply_ite Host.Outcome.next]
  rfl

theorem exec_clearPhaseEnd_of_over (h : x.reset = false ∨ x.exhausted = true) :
    exec (.clearPhaseEnd c) s =
      .next (setCtxState (disowned (cleared s c x.clearFrom) c) c (if x.exhausted then 4 else 0)) := by
  have hover : ¬(x.reset = true ∧ x.exhausted = false) := by
    rintro ⟨hr, hg⟩
    simp [hr, hg] at h
  simp only [exec_clearPhaseEnd, execClearPhaseEnd, hst, hx, Option.getD_some, if_neg hover, ne_eq,
    not_true_eq_false, if_false]
  rfl

end

/-- Settles O37: the two ends of a drain, and the two ends of a clear phase. -/
theorem teardownDrainsStepsAndClears : Obligations.TeardownDrainsStepsAndClears := by
  refine ⟨fun s c => exec_teardownDrainEnd_of_drained, fun s c x => exec_teardownDrainLimit_of_passed, ?clear⟩
  case clear =>
    rintro s _ c x hst hx rfl
    exact ⟨exec_clearPhaseEnd_of_reset hst hx, exec_clearPhaseEnd_of_over hst hx⟩

end Sys2Proof.Machine
end

section
/-! PROOFS. The command at the front of the queue, fault records raised, what a reset keeps, and the default directions
of the ports (R360, R373, R374, R438, R463, R481, R486, R487). -/

namespace Sys2Proof.Machine

/-! ## One step -/

theorem step_of_pending {c : Instr} {rest : List Instr} {s : State} (h : s.pending = c :: rest) :
    step s = exec c { s with pending := rest } := by
  simp only [step, h]
  rfl

theorem step_of_idle {s : State} (h : s.pending = []) : step s = .next s := by
  simp only [step, h]

/-- Settles O1: the two cases of a step, by the queue. -/
theorem stepTakesTheFrontCommand : Obligations.StepTakesTheFrontCommand :=
  ⟨fun _ _ _ => step_of_pending, fun _ _ => step_of_pending rfl, fun _ => step_of_idle⟩

/-! ## A fault record raised (R373, R374) -/

section
variable {s : State} {f : FaultInfo}

/-- A record raised advances SEQ, whether it is held or lost. -/
theorem reg_raise_seq (hcls : f.cls < 256) :
    reg (raise s f) 0x8000 0x06 = (reg s 0x8000 0x06 + 1) % 2 ^ 32 := by
  rw [reg_raise (by decide)]
  by_cases hroom : s.recov.faults.length < (if f.critical then 4096 else 4032)
  · rw [noteFault_held hroom, reg_setReg_ne (by decide)]
    exact reg_setReg_self (draw s) 0x8000 0x06 _
  · rw [noteFault_lost (Nat.not_lt.1 hroom), reg_setReg_ne (by decide), reg_bump_ne (by omega), reg_setReg_self]

section
variable (hroom : s.recov.faults.length < (if f.critical then 4096 else 4032))
include hroom

theorem faults_raise_of_room : (raise s f).recov.faults = s.recov.faults ++ [faultRecord s f] := by
  rw [raise_recov, noteFault_held hroom]
  rfl

theorem reg_raise_count_of_room : reg (raise s f) 0x8000 0x02 = s.recov.faults.length + 1 := by
  rw [reg_raise (by decide), noteFault_held hroom, reg_setReg_self]

theorem reg_raise_summary_of_room : reg (raise s f) 0x8000 0x03 = reg s 0x8000 0x03 := by
  rw [reg_raise (by decide), noteFault_held hroom, reg_setReg_ne (by decide)]
  exact reg_setReg_ne (by decide) (draw s) _

end

section
variable (hfull : (if f.critical then 4096 else 4032) ≤ s.recov.faults.length)
include hfull

theorem faults_raise_of_full : (raise s f).recov.faults = s.recov.faults := by
  rw [raise_recov, noteFault_lost hfull]
  rfl

theorem reg_raise_summary_of_full (hcls : f.cls < 256) :
    reg (raise s f) 0x8000 0x03 = reg s 0x8000 0x03 ||| (if f.critical then 2 else 1) := by
  rw [reg_raise (by decide), noteFault_lost hfull, reg_setReg_self, reg_bump_ne (by omega), reg_setReg_ne (by decide)]
  rfl

/-- The lost counter of the record's class advances within its width. -/
theorem reg_raise_lost_of_full (hcls : f.cls < 256)
    (hwidth : reg s 0x8010 f.cls + 1 < 2 ^ entryBits 0x8010 f.cls) :
    reg (raise s f) 0x8010 f.cls = reg s 0x8010 f.cls + 1 := by
  have hsame : reg (setReg (draw s) 0x8000 0x06 ((reg s 0x8000 0x06 + 1) % 2 ^ 32)) 0x8010 f.cls = reg s 0x8010 f.cls :=
    reg_setReg_ne (by omega) (draw s) _
  rw [reg_raise (by omega), noteFault_lost hfull, reg_setReg_ne (by omega),
    reg_bump_self (hsame ▸ hwidth), hsame]

end

end

/-- Settles O6: the SEQ of every record, and then a record held and a record lost. -/
theorem faultRecordsAreNeverOverwritten : Obligations.FaultRecordsAreNeverOverwritten := by
  intro s f hcls
  refine ⟨reg_raise_seq hcls, raise_mem s f, raise_pending s f, fun hroom => ?held, fun hfull => ?lost⟩
  case held =>
    exact ⟨faultRecord s f, faults_raise_of_room hroom, rfl, rfl, rfl, rfl, reg_raise_count_of_room hroom,
      reg_raise_summary_of_room hroom⟩
  case lost =>
    exact ⟨faults_raise_of_full hfull, reg_raise_summary_of_full hfull hcls, reg_raise_lost_of_full hfull hcls⟩

/-! ## A reset (R360, R438, R463, R486, R487) -/

/-- The incarnation that a reset leaves: one more after a warm one, 0 after a cold one (R360). -/
def incAfter (s : State) (warm : Bool) : Nat := if warm then (s.recov.incarnation + 1) % 2 ^ 32 else 0

/-- What a reset does to its base state: to the entries, to the layout and to the mark of the deferral. -/
theorem recordReset_eq (b : State) (held : Tbl Nat) (inc code upd : Nat) (count : Bool) (now : Nat) :
    ∃ od layout since, noteDeferral (layOut (noteReset (takePending b held) inc code upd count)) now =
      { b with dict := { b.dict with od := od }, mem := { b.mem with layout := layout }
               fw := { b.fw with clearSince := since } } := by
  obtain ⟨_, hpending⟩ := takePending_od held b
  obtain ⟨_, hnoted⟩ := noteReset_od (takePending b held) inc code upd count
  obtain ⟨since, hsince⟩ := noteDeferral_fw (layOut (noteReset (takePending b held) inc code upd count)) now
  rw [hsince, hnoted, hpending]
  exact ⟨_, _, since, rfl⟩

section
variable {s : State} (hfirst : s.pwr.resetAt ≠ some s.now)
include hfirst

/-- The first reset of a cycle leaves its base state, but for the entries, the layout and the deferral's mark. -/
theorem resetPart_eq_base (warm : Bool) (code : Nat) : ∃ od layout since,
    resetPart s warm code =
      let b := resetBase s warm (incAfter s warm)
      { b with dict := { b.dict with od := od }, mem := { b.mem with layout := layout }
               fw := { b.fw with clearSince := since } } := by
  rw [resetPart_alone hfirst]
  exact recordReset_eq (resetBase s warm (incAfter s warm)) _ _ code _ warm _

/-- The entries that a reset records itself in (R360, R487). -/
theorem reg_resetPart_noted (warm : Bool) (code : Nat) :
    reg (resetPart s warm code) 0x9000 0x12 = code ∧ reg (resetPart s warm code) 0x8100 0x09 = incAfter s warm := by
  rw [resetPart_alone hfirst]
  simp only [reg_noteDeferral]
  rw [reg_layOut (by decide) (by decide), reg_layOut (by decide) (by decide),
    reg_noteReset (by decide) (by decide), reg_noteReset (by decide) (by decide)]
  exact ⟨rfl, rfl⟩

/-- A warm reset with no count pending is counted. -/
theorem reg_resetPart_warmCount (code : Nat) (hnone : ∀ p ∈ s.dict.atReset, p.1 ≠ 0x9000 * 256 + 0x13) :
    reg (resetPart s true code) 0x9000 0x13 = (reg s 0x9000 0x13 + 1) % 2 ^ 32 := by
  rw [resetPart_alone hfirst]
  simp only [reg_noteDeferral, if_true]
  rw [reg_layOut (by decide) (by decide), reg_noteReset (by decide) (by decide), if_pos ⟨rfl, rfl⟩, if_pos rfl,
    reg_takePending_ne _ _ hnone, reg_resetBase (by decide) (by decide)]

end

/-- Settles O7: the base state of a reset, the entries that it records, and the entries that a warm one keeps. -/
theorem aWarmResetKeepsTheAlwaysOnBank : Obligations.AWarmResetKeepsTheAlwaysOnBank := by
  refine ⟨?left, ?kept, ?pending, fun s code hfirst => reg_resetPart_warmCount hfirst code⟩
  case left =>
    intro s warm code hfirst
    obtain ⟨hcode, hinc⟩ := reg_resetPart_noted hfirst warm code
    obtain ⟨od, layout, since, hbase⟩ := resetPart_eq_base hfirst warm code
    refine ⟨?_, ?_, ?_, ?_, ?_, ?_, ?_, ?_, ?_, ?_, ?_, ?_, ?_, hcode, ?_, hinc, ?_⟩ <;> rw [hbase] <;> rfl
  case kept =>
    intro s code idx sub hfirst hsub hkept hnone hown
    rw [reg_resetPart_warm hfirst code hsub hkept hown, reg_takePending_ne _ _ hnone,
      reg_resetBase hsub (by simp [hkept])]
  case pending =>
    intro s code idx sub v hfirst hsub hkept hmem hall hown
    rw [reg_resetPart_warm hfirst code hsub hkept hown, reg_takePending_eq hsub _ _ hmem hall]

/-! ## Default directions (R481) -/

/-- The state in which the default directions are taken: the straps sampled, and the role in force. -/
def strapped (s : State) (x : Straps) : State :=
  let s := setPwr s { s.pwr with straps := x }
  let s := setReg (setReg s 0x1000 0x06 (x.id % 4096)) 0x1000 0x0A (x.role % 4 + 4 * (x.taper % 4))
  let o := reg s 0x1000 0x08
  setReg s 0x1000 0x07 (if o = 0xFF then x.role % 4 else o)

theorem sampleStraps_eq (s : State) (x : Straps) : sampleStraps s x = defaultPorts (strapped s x) := rfl

/-- The role in force: that of the straps unless 1000:08 overrides it (R1). -/
theorem role_strapped (s : State) (x : Straps) :
    role (strapped s x) = if reg s 0x1000 0x08 = 0xFF then x.role % 4 else reg s 0x1000 0x08 := by
  have hkept : ∀ u v w, reg (setReg (setReg (setPwr s u) 0x1000 0x06 v) 0x1000 0x0A w) 0x1000 0x08 = reg s 0x1000 0x08 := by
    intro u v w
    rw [reg_setReg_ne (by decide), reg_setReg_ne (by decide)]
    rfl
  rw [strapped, role, reg_setReg_self, hkept]

section
variable {s : State} {x : Straps} {hot : Bool} (hfree : heldReset s = false)
include hfree

theorem role_releaseReset : role (releaseReset s x hot) = role (strapped s x) := by
  rw [role, reg_releaseReset (by decide) (by decide) hfree, ← role, sampleStraps_eq, role_defaultPorts]

theorem dir_releaseReset {n : Nat} (hn : n < 64) :
    reg (releaseReset s x hot) 0x3C00 (n + 1) = defaultDir (role (releaseReset s x hot)) (x.taper % 4) n := by
  rw [role_releaseReset hfree, reg_releaseReset (by omega) (.inl rfl) hfree, sampleStraps_eq]
  exact (reg_defaultPorts_dir (strapped s x) n hn).1

theorem quarantine_releaseReset {n : Nat} (hn : n < 64) :
    reg (releaseReset s x hot) (0x3000 + n) 0x02 = if role (releaseReset s x hot) = 3 then 16 else 0 := by
  rw [role_releaseReset hfree, reg_releaseReset (by decide) (by omega) hfree, sampleStraps_eq]
  exact (reg_defaultPorts_dir (strapped s x) n hn).2

end

/-- Settles O8: the direction of a port is that of Table 3 for the role in force and TAPER. -/
theorem portsTakeTheirDefaultDirections : Obligations.PortsTakeTheirDefaultDirections := by
  intro s x hot n hfree hn t d
  have hdir : d = defaultDir (role t) (x.taper % 4) n := dir_releaseReset hfree hn
  refine ⟨(role_releaseReset hfree).trans (role_strapped s x), fun hrole => ?plain, fun hrole => ?tray,
    fun hrole => ?spine, fun hrole => ⟨?test, ?quarantined⟩⟩
  case quarantined => rw [quarantine_releaseReset hfree hn, if_pos hrole]; rfl
  all_goals rw [hrole] at hdir
  case test => exact hdir
  all_goals exact ⟨fun ht => by rw [hdir, ht]; rfl, fun ht => by rw [hdir, ht]; rfl, fun ht => by rw [hdir, ht]; rfl,
    fun ht => by rw [hdir, ht]; rfl⟩

end Sys2Proof.Machine
end

section
/-! PROOFS. Failure and recovery through the dictionary: a fence by command, rebuilds and innings, the fault queue and
the suspect scores (R359, R368 to R373, R377, R378). -/

namespace Sys2Proof.Machine

/-! ## The commands and their meanings -/

theorem exec_rebuildStart (via : Via) (data : Bytes) (s : State) :
    exec (.rebuildStart via data) s = execRebuildStart via data s := rfl

theorem exec_rebuildRecordDone (c k : Nat) (s : State) :
    exec (.rebuildRecordDone c k) s = execRebuildRecordDone c k s := rfl

theorem exec_adoptInnings (via : Via) (data : Bytes) (s : State) :
    exec (.adoptInnings via data) s = execAdoptInnings via data s := rfl

theorem exec_inningsReplay (via : Via) (c : Nat) (s : State) :
    exec (.inningsReplay via c) s = execInningsReplay via c s := rfl

theorem exec_faultRecordsConsume (via : Via) (n : Nat) (s : State) :
    exec (.faultRecordsConsume via n) s = execFaultRecordsConsume via n s := rfl

theorem exec_faultSummaryClear (via : Via) (v : Nat) (s : State) :
    exec (.faultSummaryClear via v) s = execFaultSummaryClear via v s := rfl

theorem exec_suspectDecay (s : State) : exec .suspectDecay s = execSuspectDecay s := rfl

theorem exec_unitRestore (via : Via) (v : Nat) (s : State) :
    exec (.unitRestore via v) s = execUnitRestore via v s := rfl

/-! ## Numbers as bytes (R145) -/

@[simp] theorem length_leBytes (n x : Nat) : (leBytes n x).length = n := by
  induction n generalizing x with
  | zero => rfl
  | succ n ih => rw [leBytes, List.length_cons, ih]

/-- A number of n bytes is the number that its bytes give. -/
theorem ofLe_leBytes {n x : Nat} (hx : x < 256 ^ n) : ofLe (leBytes n x) = x := by
  induction n generalizing x with
  | zero => simp only [leBytes, ofLe]; omega
  | succ n ih =>
    have hdiv : x / 256 < 256 ^ n := Nat.div_lt_of_lt_mul (by rwa [Nat.pow_succ, Nat.mul_comm] at hx)
    rw [leBytes, ofLe, ih hdiv, BitVec.toNat_ofNat]
    exact Nat.mod_add_div x 256

/-! ## A fence by command (R359) -/

/-- T, once the operator key is written, and F may write any node ID to 8100:02. -/
theorem writeStatus_fence {t : State} {w : Who} {n : Nat}
    (hw : w.principal = 0 ∧ t.fw.operatorKey.isSome = true ∨ w.principal = 3) (hn : n < 4096) :
    writeStatus t w 0x8100 0x02 n = Code.ok := by
  have hentry : entryAt 0x8100 0x02 = some (ent 0x8100 0x02 .u16 .wo 0 0 4095) := by decide
  have hmay : mayWrite t w 0x8100 0x02 n = true := by
    rcases hw with ⟨hp, hkey⟩ | hp
    · simp [mayWrite, hp, hkey, policyOk, isCtxIdx]
    · simp [mayWrite, hp, policyOk, isCtxIdx]
  have hadmits : (Ty.u16).admits n = true := by
    simp only [Ty.admits, Ty.bytes, Option.map_some, Option.getD_some, decide_eq_true_eq]
    omega
  have hrange : rangeOk t (ent 0x8100 0x02 .u16 .wo 0 0 4095) 0x8100 0x02 n = true := by
    have htied : tiedOk t 0x8100 0x02 n = true := rfl
    simp [rangeOk, ent, htied, Nat.mod_one, Nat.le_of_lt_succ hn]
  simp only [writeStatus, hentry, firstOf, hmay, hrange]
  simp [ent, hadmits]

/-- Settles O38: the write passes its checks, and the fence that it decides. -/
theorem aFenceCommandIsADecision : Obligations.AFenceCommandIsADecision := by
  intro s t via w n ha hw hn
  have hallowed := exec_fenceCommand_of_allowed ha (writeStatus_fence hw hn)
  refine ⟨fun hown => ?own, fun inc hother hinc => ?other⟩
  case own => rw [hallowed, if_pos hown]
  case other => rw [hallowed, if_neg hother, decideFence, hinc, Option.getD_some]

/-! ## REBUILD_START (R368) -/

/-- The checks of R368, as they pass. -/
structure RebuildAllowed (t : State) (c lost spare : Nat) : Prop where
  ctxNo : c < 4096
  lostNo : lost < 4096
  spareNo : spare < 4096
  differ : lost ≠ spare
  lostOther : lost ≠ nodeId t
  spareOther : spare ≠ nodeId t
  ctx : namedCtxStatus t c = Code.ok
  named : (recordsNaming t c lost).isEmpty = false
  fenced : isFenced t lost = true
  ledger : (ledgerOf t c).state = 0 ∨ (ledgerOf t c).state = 6
  idle : rebuilding t c = false

/-- A rebuild entered, with one record's work started for each record that names the lost part. -/
def rebuildStarted (t : State) (c lost spare : Nat) : State :=
  (recordsNaming t c lost).foldl (startRebuild lost spare) (setRecov t { t.recov with
    rebuilds := tset t.recov.rebuilds c { lost := lost, spare := spare, records := (recordsNaming t c lost).length } })

theorem rebuildByDict_of_allowed {t : State} {c lost spare : Nat} (h : RebuildAllowed t c lost spare) :
    rebuildByDict t (leBytes 2 c ++ leBytes 2 lost ++ leBytes 2 spare) = (rebuildStarted t c lost spare, Code.ok) := by
  have hc : ofLe (leBytes 2 c) = c := ofLe_leBytes (Nat.lt_trans h.ctxNo (by decide))
  have hlost : ofLe (leBytes 2 lost) = lost := ofLe_leBytes (Nat.lt_trans h.lostNo (by decide))
  have hspare : ofLe (leBytes 2 spare) = spare := ofLe_leBytes (Nat.lt_trans h.spareNo (by decide))
  have hledger : ((ledgerOf t c).state != 0 && (ledgerOf t c).state != 6) = false := by
    rcases h.ledger with hl | hl <;> simp [hl]
  have hword0 : ofLe (((leBytes 2 c ++ leBytes 2 lost ++ leBytes 2 spare).drop (2 * 0)).take 2) = c := hc
  have hword1 : ofLe (((leBytes 2 c ++ leBytes 2 lost ++ leBytes 2 spare).drop (2 * 1)).take 2) = lost := hlost
  have hword2 : ofLe (((leBytes 2 c ++ leBytes 2 lost ++ leBytes 2 spare).drop (2 * 2)).take 2) = spare := hspare
  have hform : ((leBytes 2 c ++ leBytes 2 lost ++ leBytes 2 spare).length != 6 || decide (4095 < c) || decide (4095 < lost) ||
      decide (4095 < spare) || lost == spare || lost == nodeId t || spare == nodeId t) = false := by
    simp [h.differ, h.lostOther, h.spareOther, Nat.le_of_lt_succ h.ctxNo, Nat.le_of_lt_succ h.lostNo,
      Nat.le_of_lt_succ h.spareNo]
  simp only [rebuildByDict, hword0, hword1, hword2, firstOf, hform, h.ctx, h.named, h.fenced, hledger, h.idle]
  rfl

theorem exec_rebuildStart_of_allowed {s t : State} {via : Via} {w : Who} {c lost spare : Nat}
    (ha : askedBy s via = some (t, w)) (ho : otherTransfer t via 0x8100 0x03 = false)
    (hw : writeStatus t w 0x8100 0x03 0 = Code.ok) (h : RebuildAllowed t c lost spare) :
    exec (.rebuildStart via (leBytes 2 c ++ leBytes 2 lost ++ leBytes 2 spare)) s =
      answersTo s (rebuildStarted t c lost spare) via (answer Code.ok) := by
  rw [exec_rebuildStart, execRebuildStart, withVia_asked ha, guardedBlock_ok ho hw, plainAnswer,
    rebuildByDict_of_allowed h]

/-! ## REBUILD_RECORD_DONE (R369, R370) -/

/-- The status of a rebuild once a record's work has ended: the first that was not OK. -/
def rebuildStatus (r : Rebuild) (j : Job) : Status := if r.status = Code.ok then j.status else r.status

/-- A rebuild that has counted one more record, and what that record wrote. -/
def Rebuild.counted (r : Rebuild) (j : Job) (written : Nat) : Rebuild :=
  { r with
    done := r.done + 1, written := r.written + written, status := rebuildStatus r j
    state := if r.records ≤ r.done + 1 then (if rebuildStatus r j = Code.ok then 2 else 3) else r.state }

/-- The state with a record's work over and counted. -/
def rebuildCounted (s : State) (c : Nat) (j : Job) (p : ParityRec) (r : Rebuild) (st : Stream) : State :=
  let u := endJob s j.kind
  setRecov u { u.recov with rebuilds := tset u.recov.rebuilds c (r.counted j (rebuildWritten s p st r j)) }

/-- A parity record with the spare in the lost part's place. -/
def spareInPlace (s : State) (k : Nat) (p : ParityRec) (r : Rebuild) : State :=
  { s with step := { s.step with parity := tmod s.step.parity k fun p' =>
    { p' with nodes := p.nodes.set ((lostIndex p r.lost).getD 0) r.spare } } }

/-- The record of a parity record that could not be rebuilt (R370). -/
def rebuildFault (t : State) (c : Nat) (j : Job) (p : ParityRec) (r : Rebuild) : FaultInfo :=
  { cls := 0x19, quarter := some p.quarter, status := j.status, ctx := some c, node := some r.lost
    d0 := domainWord (domainOf t r.lost) }

theorem exec_rebuildRecordDone_of_done {s t : State} {c k : Nat} {j : Job} {p : ParityRec} {r : Rebuild} {st : Stream}
    (hj : jobOf s (.rebuild k) = some j) (hp : tget s.step.parity k = some p) (hr : tget s.recov.rebuilds c = some r)
    (hst : tget s.step.streams k = some st) (hdone : j.isDone = true) (hctx : p.ctx = c)
    (ht : t = rebuildCounted s c j p r st) :
    exec (.rebuildRecordDone c k) s =
      if j.status = Code.ok then .next (settle (spareInPlace t k p r))
      else if j.status = Code.contextRetired then .next (settle t)
      else .next (settle (raise t (rebuildFault t c j p r))) := by
  have hruns : ¬(j.isDone = false ∨ p.ctx ≠ c) := by simp [hdone, hctx]
  simp only [exec_rebuildRecordDone, execRebuildRecordDone, hj, hp, hr, hst, if_neg hruns, decide_eq_true_eq, ht]
  rfl

/-! ## Adoption and replay of an innings (R371, R372) -/

/-- A ledger that adopts COMMITTED: the next innings opens at an instant, with REPLAYING set. -/
def Ledger.adopted (l : Ledger) (v : Nat) (now : FT) : Ledger :=
  { l with committed := v, innings := min (v + 1) (2 ^ 32 - 1), replaying := true, openFt := now, commitFt := now }

theorem exec_adoptInnings_of_fresh {s t : State} {via : Via} {w : Who} {c v : Nat} (ha : askedBy s via = some (t, w))
    (ho : otherTransfer t via 0x8100 0x06 = false) (hw : writeStatus t w 0x8100 0x06 0 = Code.ok) (hc : c < 4096)
    (hpos : 0 < v) (hv : v < 2 ^ 32) (hctx : namedCtxStatus t c = Code.ok) (hstate : (ledgerOf t c).state = 0)
    (hinnings : (ledgerOf t c).innings = 1) (hcommitted : (ledgerOf t c).committed = 0)
    (hstreams : tany t.step.streams (fun _ x => x.ctx == c) = false) :
    exec (.adoptInnings via (leBytes 2 c ++ leBytes 4 v)) s =
      answersTo s (modLedger t c fun l => l.adopted v (ftOf t (c % 4))) via (answer Code.ok) := by
  have hctxNo : ofLe (leBytes 2 c) = c := ofLe_leBytes (Nat.lt_trans hc (by decide))
  have hvalue : ofLe (leBytes 4 v) = v := ofLe_leBytes hv
  have hword0 : ofLe ((leBytes 2 c ++ leBytes 4 v).take 2) = c := hctxNo
  have hword1 : ofLe ((leBytes 2 c ++ leBytes 4 v).drop 2) = v := hvalue
  have hform : ((leBytes 2 c ++ leBytes 4 v).length != 6 || decide (4095 < c) || v == 0) = false := by
    simp [Nat.le_of_lt_succ hc, hpos.ne']
  have hfresh : ((ledgerOf t c).state != 0 || (ledgerOf t c).innings != 1 || (ledgerOf t c).committed != 0 ||
      tany t.step.streams (fun _ x => x.ctx == c)) = false := by
    simp [hstate, hinnings, hcommitted, hstreams]
  rw [exec_adoptInnings, execAdoptInnings, withVia_asked ha, guardedBlock_ok ho hw, plainAnswer]
  simp only [adoptByDict, hword0, hword1, firstOf, hform, hctx, hfresh]
  rfl

/-- A ledger whose innings after COMMITTED opens again, with REPLAYING set. -/
def Ledger.reopened (l : Ledger) (now : FT) : Ledger :=
  { l with
    state := 0, innings := min (l.committed + 1) (2 ^ 32 - 1), replaying := true, openFt := now
    abortRecorded := false, prepareSent := false, voted := false }

/-- A ledger with REPLAYING set. -/
def Ledger.replayed (l : Ledger) : Ledger := { l with replaying := true }

section
variable {s t : State} {via : Via} {w : Who} {c : Nat} (ha : askedBy s via = some (t, w))
  (hw : writeStatus t w 0x8100 0x07 c = Code.ok) (hctx : namedCtxStatus t c = Code.ok)
include ha hw hctx

theorem exec_inningsReplay_of_aborted (hstate : (ledgerOf t c).state = 6) :
    exec (.inningsReplay via c) s =
      answersTo s (retryApplies (modLedger (reopenStreams t c) c fun l => l.reopened (ftOf t (c % 4))) c) via
        (answer Code.ok) := by
  rw [exec_inningsReplay, execInningsReplay, withVia_asked ha, guarded_ok hw]
  simp only [replayByDict, hctx, hstate]
  rfl

theorem exec_inningsReplay_of_open (hstate : (ledgerOf t c).state = 0) :
    exec (.inningsReplay via c) s =
      answersTo s (retryApplies (modLedger t c Ledger.replayed) c) via (answer Code.ok) := by
  rw [exec_inningsReplay, execInningsReplay, withVia_asked ha, guarded_ok hw]
  simp only [replayByDict, hctx, hstate]
  rfl

end

/-- Settles O41: a rebuild that starts, a record's end by its status, an adoption, and a replay by the ledger's state. -/
theorem rowsAreRebuiltAndInningsReplayed : Obligations.RowsAreRebuiltAndInningsReplayed := by
  refine ⟨?start, ?recordDone, ?adopt, ?replay⟩
  case start =>
    intro s t via w c lost spare ha ho hw hc hlost hspare hdiffer hlostOther hspareOther hctx hnamed hfenced hledger
      hidle
    have hallowed : RebuildAllowed t c lost spare :=
      ⟨hc, hlost, hspare, hdiffer, hlostOther, hspareOther, hctx, hnamed, hfenced, hledger, hidle⟩
    rw [exec_rebuildStart_of_allowed ha ho hw hallowed, rebuildStarted]
  case recordDone =>
    rintro s t c k j p r st _ hj hp hr hst hdone hctx rfl ht
    exact exec_rebuildRecordDone_of_done hj hp hr hst hdone hctx ht
  case adopt =>
    intro s t via w c v ha ho hw hc hpos hv hctx hstate hinnings hcommitted hstreams
    exact exec_adoptInnings_of_fresh ha ho hw hc hpos hv hctx hstate hinnings hcommitted hstreams
  case replay =>
    intro s t via w c ha hw hctx
    exact ⟨exec_inningsReplay_of_aborted ha hw hctx, exec_inningsReplay_of_open ha hw hctx⟩

/-! ## The fault queue (R373) -/

/-- The head of the fault queue consumed, and the count of the rest shown. -/
def faultsConsumed (t : State) (n : Nat) : State :=
  setReg (setRecov t { t.recov with faults := t.recov.faults.drop n }) 0x8000 0x02 (t.recov.faults.length - n)

theorem consumeFaults_eq (t : State) (n : Nat) :
    consumeFaults t n =
      if n ≤ t.recov.faults.length then (faultsConsumed t n, Code.ok) else (t, Code.misaligned) := by
  by_cases hn : n ≤ t.recov.faults.length
  · rw [if_pos hn, consumeFaults, if_neg (Nat.not_lt.2 hn), faultsConsumed, ← List.length_drop]
  · rw [if_neg hn, consumeFaults, if_pos (Nat.not_le.1 hn)]

/-! ## Suspect scores (R377, R378) -/

theorem exec_suspectDecay_of_passed {s : State} (hpassed : passedMs s s.recov.decayedAt 1000 = true) :
    exec .suspectDecay s = .next (setRecov s { s.recov with
      decayedAt := s.now, suspects := tmap s.recov.suspects fun _ x => { x with score := x.score - x.score / 64 } }) := by
  rw [exec_suspectDecay, execSuspectDecay, if_pos hpassed]

/-- A unit named by a byte of its kind and two of its index is restored where it exists. -/
theorem restoreByDict_of_fields (t : State) {kind unit : Nat} (hkind : kind < 256) (hunit : unit < 65536) :
    restoreByDict t (leBytes 3 (kind + 256 * unit)) =
      if unitExists kind unit then (restoreUnit t kind unit, Code.ok) else (t, Code.misaligned) := by
  have hdiv : (kind + 256 * unit) / 256 = unit := by omega
  have hbytes : leBytes 3 (kind + 256 * unit) = leBytes 1 (kind + 256 * unit) ++ leBytes 2 unit := by
    rw [leBytes, hdiv]
    rfl
  have hkindOf : ofLe ((leBytes 3 (kind + 256 * unit)).take 1) = kind := by
    show (BitVec.ofNat 8 (kind + 256 * unit)).toNat + 256 * 0 = kind
    rw [BitVec.toNat_ofNat]
    omega
  have hunitOf : ofLe ((leBytes 3 (kind + 256 * unit)).drop 1) = unit := by
    rw [hbytes]
    exact ofLe_leBytes hunit
  simp only [restoreByDict, hkindOf, hunitOf, length_leBytes]
  cases unitExists kind unit <;> rfl

theorem exec_unitRestore_of_fields {s t : State} {via : Via} {w : Who} {kind unit : Nat}
    (ha : askedBy s via = some (t, w)) (ho : otherTransfer t via 0x8200 0x02 = false)
    (hw : writeStatus t w 0x8200 0x02 0 = Code.ok) (hkind : kind < 256) (hunit : unit < 65536) :
    exec (.unitRestore via (kind + 256 * unit)) s =
      if unitExists kind unit then answersTo s (restoreUnit t kind unit) via (answer Code.ok)
      else answersTo s t via (answer Code.misaligned) := by
  rw [exec_unitRestore, execUnitRestore, withVia_asked ha, guardedBlock_ok ho hw, if_neg (by omega), plainAnswer,
    restoreByDict_of_fields t hkind hunit]
  split <;> rfl

/-- Settles O42: the count of a consumption against what is held, the summary, the decay, and a unit restored. -/
theorem faultsAreConsumedAndUnitsRestored : Obligations.FaultsAreConsumedAndUnitsRestored := by
  refine ⟨?consume, ?summary, fun s => exec_suspectDecay_of_passed, ?restore⟩
  case consume =>
    intro s t via w n ha hw
    rw [exec_faultRecordsConsume, execFaultRecordsConsume, withVia_asked ha, guarded_ok hw, plainAnswer,
      consumeFaults_eq]
    split <;> rfl
  case summary =>
    intro s t via w ha hw
    rw [exec_faultSummaryClear, execFaultSummaryClear, withVia_asked ha, guarded_ok hw, plainAnswer, clearSummary,
      if_pos rfl]
  case restore =>
    intro s t via w kind unit ha ho hw hkind hunit
    exact exec_unitRestore_of_fields ha ho hw hkind hunit

end Sys2Proof.Machine
end

section
/-! PROOFS. Resets and their release, emergency off, the reference clocks, the thermal ladder and the power governor
(R367, R399, R480 to R498). -/

namespace Sys2Proof.Machine

/-! ## The commands and their meanings -/

theorem exec_powerOkRise (x : Straps) (cold hot : Bool) (s : State) :
    exec (.powerOkRise x cold hot) s = execPowerOkRise x cold hot s := rfl

theorem exec_powerOkFall (lost : Bool) (s : State) : exec (.powerOkFall lost) s = execPowerOkFall lost s := rfl

theorem exec_resetN (s : State) : exec .resetN s = execResetN s := rfl

theorem exec_resetNRelease (x : Straps) (s : State) : exec (.resetNRelease x) s = execResetNRelease x s := rfl

theorem exec_resetCommand (via : Via) (v : Nat) (s : State) :
    exec (.resetCommand via v) s = execResetCommand via v s := rfl

theorem exec_epoAssert (s : State) : exec .epoAssert s = execEpoAssert s := rfl

theorem exec_epoRelease (s : State) : exec .epoRelease s = execEpoRelease s := rfl

theorem exec_referenceClockLoss (c : RefClock) (s : State) :
    exec (.referenceClockLoss c) s = execReferenceClockLoss c s := rfl

theorem exec_referenceClockReturn (c : RefClock) (s : State) :
    exec (.referenceClockReturn c) s = execReferenceClockReturn c s := rfl

theorem exec_thermalSample (q : Nat) (x : Option Int) (s : State) :
    exec (.thermalSample q x) s = execThermalSample q x s := rfl

theorem exec_thermalStepClear (q : Nat) (s : State) : exec (.thermalStepClear q) s = execThermalStepClear q s := rfl

theorem exec_governorLimitWrite (via : Via) (n : Nat) (s : State) :
    exec (.governorLimitWrite via n) s = execGovernorLimitWrite via n s := rfl

theorem exec_powerSample (n : Nat) (s : State) : exec (.powerSample n) s = execPowerSample n s := rfl

theorem exec_governorStep (n : Nat) (s : State) : exec (.governorStep n) s = execGovernorStep n s := rfl

theorem exec_governorRelax (n : Nat) (s : State) : exec (.governorRelax n) s = execGovernorRelax n s := rfl

/-! ## The release of a reset (R480 to R482, R488) -/

section
variable {s : State} (x : Straps) (hot : Bool)

theorem releaseReset_of_held (h : heldReset s = true) : releaseReset s x hot = s := by
  rw [releaseReset, if_pos h]

section
variable (h : heldReset s = false)
include h

/-- The state once straps are sampled and firmware is loaded. -/
theorem releaseReset_of_free :
    releaseReset s x hot =
      let t := bootFirmware (sampleStraps s x)
      if t.pwr.epo then setReg { t with core := { t.core with stopped := true } } 0x9000 0x11 3
      else if hot || hotterThan t 760 then setReg t 0x9000 0x11 2 else beginStart t := by
  rw [releaseReset, if_neg (by simp [h])]

theorem reg_releaseReset_of_epo (hepo : (bootFirmware (sampleStraps s x)).pwr.epo = true) :
    reg (releaseReset s x hot) 0x9000 0x11 = 3 := by
  rw [releaseReset_of_free x hot h]
  simp only [hepo, if_true, reg_setReg_self]

variable (hepo : (bootFirmware (sampleStraps s x)).pwr.epo = false)
include hepo

theorem releaseReset_of_hot (hhot : hot = true ∨ hotterThan (bootFirmware (sampleStraps s x)) 760 = true) :
    releaseReset s x hot = setReg (bootFirmware (sampleStraps s x)) 0x9000 0x11 2 := by
  have hor : (hot || hotterThan (bootFirmware (sampleStraps s x)) 760) = true := by simpa using hhot
  rw [releaseReset_of_free x hot h]
  simp only [hepo, hor, if_true, Bool.false_eq_true, if_false]

end

theorem releaseReset_of_cool (h : heldReset s = false) (hepo : (bootFirmware (sampleStraps s x)).pwr.epo = false)
    (hcool : hotterThan (bootFirmware (sampleStraps s x)) 760 = false) :
    releaseReset s x false = beginStart (bootFirmware (sampleStraps s x)) := by
  rw [releaseReset_of_free x false h]
  simp only [hepo, hcool, Bool.or_self, Bool.false_eq_true, if_false]

end

/-! ## PWR_OK, RESET_N and the reset command (R485 to R487) -/

theorem exec_powerOkRise_of_low {s : State} (x : Straps) (cold hot : Bool) (hlow : s.pwr.pwrOk = false) :
    exec (.powerOkRise x cold hot) s =
      let t := setPwr s { s.pwr with pwrOk := true }
      .next (releaseReset (if cold = true ∨ s.pwr.warm = false then resetPart t false 1 else t) x hot) := by
  simp only [exec_powerOkRise, execPowerOkRise, hlow, Bool.false_eq_true, if_false, Bool.or_eq_true, Bool.not_eq_true']

theorem exec_powerOkFall_of_high {s t : State} (hhigh : s.pwr.pwrOk = true)
    (ht : t = setPwr s { s.pwr with pwrOk := false }) :
    exec (.powerOkFall false) s = .next (resetPart t true 2) ∧
      exec (.powerOkFall true) s =
        .next (setPwr (resetPart t false 1) { (resetPart t false 1).pwr with warm := false }) := by
  have hacts : ∀ p, ¬(s.pwr.pwrOk = false ∧ p) := by simp [hhigh]
  constructor <;> rw [exec_powerOkFall, execPowerOkFall, if_neg (hacts _), ht] <;> rfl

theorem exec_resetN_of_high {s t : State} (hpower : s.pwr.pwrOk = true) (hhigh : s.pwr.resetNLow = false)
    (ht : t = sendGasp s 3 15) :
    exec .resetN s = .next (resetPart (setPwr t { t.pwr with resetNLow := true }) true 3) := by
  rw [exec_resetN, execResetN, if_neg (by simp [hpower, hhigh]), ht]

theorem exec_resetNRelease_of_low {s : State} (x : Straps) (hlow : s.pwr.resetNLow = true) :
    exec (.resetNRelease x) s = .next (releaseReset (setPwr s { s.pwr with resetNLow := false }) x false) := by
  rw [exec_resetNRelease, execResetNRelease, if_pos hlow]

theorem exec_resetCommand_of_allowed {s t : State} {via : Via} {w : Who} {v : Nat} (ha : askedBy s via = some (t, w))
    (hw : writeStatus t w 0x9000 0x10 v = Code.ok) :
    exec (.resetCommand via v) s =
      answersTo s (releaseReset (resetPart (sendGasp t 3 15) true 4) t.pwr.straps false) via (answer Code.ok) := by
  rw [exec_resetCommand, execResetCommand, withVia_asked ha, guarded_ok hw, plainAnswer, resetByDict]

/-- Settles O57: each pin and command, and a release by what holds the part. -/
theorem resetsHoldAndReleaseThePart : Obligations.ResetsHoldAndReleaseThePart := by
  refine ⟨?rise, fun s t => exec_powerOkFall_of_high, fun s t => exec_resetN_of_high,
    fun s => exec_resetNRelease_of_low, fun s t via w v => exec_resetCommand_of_allowed,
    fun s => releaseReset_of_held, ?release⟩
  case rise =>
    rintro s _ x cold hot hlow rfl
    exact exec_powerOkRise_of_low x cold hot hlow
  case release =>
    intro s t x hot hfree ht
    rw [ht]
    refine ⟨reg_releaseReset_of_epo x hot hfree, releaseReset_of_hot x hot hfree, fun hepo hhot hcool => ?_⟩
    rw [hhot, releaseReset_of_cool x hfree hepo hcool]

/-! ## EPO_N (R488, R489) -/

/-- One more assertion of EPO_N counted. -/
def epoCounted (s : State) : State := setReg s 0x9000 0x15 ((reg s 0x9000 0x15 + 1) % 2 ^ 32)

theorem exec_epoAssert_of_powered {s : State} (hpower : s.pwr.pwrOk = true) :
    exec .epoAssert s = .next (if s.pwr.epo then epoCounted s else
      setReg (haltEngines (quietPorts (setPwr (epoCounted s) { (epoCounted s).pwr with epo := true }))) 0x9000 0x11 3) := by
  rw [exec_epoAssert, execEpoAssert, if_neg (by simp [hpower]), apply_ite Host.Outcome.next]
  rfl

theorem exec_epoRelease_of_asserted {s : State} (hepo : s.pwr.epo = true) (hpower : s.pwr.pwrOk = true) :
    exec .epoRelease s =
      .next (releaseReset (resetPart (setPwr s { s.pwr with epo := false }) true 5) s.pwr.straps false) := by
  rw [exec_epoRelease, execEpoRelease, if_pos ⟨hepo, hpower⟩]

/-! ## Reference clocks (R497, R498) -/

/-- A clock that is now lost. -/
def clockLost (s : State) (n : Nat) : State := setPwr s { s.pwr with clocksLost := s.pwr.clocksLost ++ [n] }

/-- What a port does when its quarter's serdes clock is lost: RECOVER from ACTIVE, DETECT from training (R399). -/
def loseSerdes (s : State) (p : Nat) : State :=
  if portActive s p then enterRecover s p true
  else if 2 ≤ portState s p ∧ portState s p ≤ 5 then enterDetect s p else s

section
variable {s : State}

/-- A part whose core or management clock is lost is held. -/
theorem heldReset_clockLost {c : RefClock} (hc : c = .core ∨ c = .mgmt) : heldReset (clockLost s (clockNo c)) = true := by
  rcases hc with rfl | rfl <;> simp [heldReset, clockLost, setPwr, clockNo]

theorem exec_referenceClockLoss_of_base {c : RefClock} (hc : c = .core ∨ c = .mgmt) (hnew : clockNo c ∉ s.pwr.clocksLost) :
    exec (.referenceClockLoss c) s =
      .next (if s.pwr.pwrOk then resetPart (clockLost s (clockNo c)) true 2 else clockLost s (clockNo c)) := by
  rcases hc with rfl | rfl <;>
    rw [exec_referenceClockLoss, execReferenceClockLoss, if_neg (by simpa using hnew)] <;> rfl

theorem exec_referenceClockLoss_of_serdes {q : Nat} (hnew : 1 + q % 4 ∉ s.pwr.clocksLost) :
    exec (.referenceClockLoss (.serdes q)) s =
      .next (settle ((List.range 16).foldl (fun s i => loseSerdes s (16 * (q % 4) + i)) (clockLost s (1 + q % 4)))) := by
  rw [exec_referenceClockLoss, execReferenceClockLoss, if_neg (by simpa [clockNo] using hnew)]
  rfl

theorem exec_referenceClockLoss_of_eth (hnew : 5 ∉ s.pwr.clocksLost) :
    exec (.referenceClockLoss .eth) s =
      .next ((List.range 8).foldl (fun s e => if ethUp s e then ethDown s e else s) (clockLost s 5)) := by
  rw [exec_referenceClockLoss, execReferenceClockLoss, if_neg (by simpa [clockNo] using hnew)]
  rfl

theorem exec_referenceClockReturn_of_lost {c : RefClock} (hlost : clockNo c ∈ s.pwr.clocksLost) :
    exec (.referenceClockReturn c) s =
      let t := setPwr s { s.pwr with clocksLost := s.pwr.clocksLost.filter fun x => x != clockNo c }
      .next (if heldReset s then releaseReset t t.pwr.straps false else t) := by
  rw [exec_referenceClockReturn, execReferenceClockReturn, if_pos (by simpa using hlost)]

end

/-! ## The thermal ladder (R494 to R496) -/

/-- The record of a ladder step taken (R495). -/
def stepFault (q step : Nat) : FaultInfo :=
  { cls := 0x15, critical := true, quarter := some q, unitKind := 1, unit := q, d0 := step }

/-- The ladder step that a temperature calls for. -/
theorem stepFor_ranges (x : Int) :
    (x < 95 * 8 → stepFor x = 0) ∧ (95 * 8 ≤ x → x < 105 * 8 → stepFor x = 1) ∧
      (105 * 8 ≤ x → x < 115 * 8 → stepFor x = 2) ∧ (115 * 8 ≤ x → stepFor x = 3) := by
  unfold stepFor
  refine ⟨fun h => ?_, fun h h' => ?_, fun h h' => ?_, fun h => ?_⟩ <;> split_ifs <;> omega

section
variable {s : State} {q : Nat}

theorem exec_thermalSample_of_shut (x : Option Int) (hshut : ladderOf s q = 3) : exec (.thermalSample q x) s = .next s := by
  rw [exec_thermalSample]
  exact if_pos (.inr (.inr hshut))

section
variable (hq : q < 4) (hpower : s.pwr.pwrOk = true) (hopen : ladderOf s q ≠ 3)
include hq hpower hopen

theorem exec_thermalSample_of_reading {t : State} {x : Int} (ht : t = setReg s (0x2000 + q) 0x02 (BitVec.ofInt 32 x).toNat) :
    exec (.thermalSample q (some x)) s = .next (
      if ladderOf t q < stepFor x then
        (if stepFor x = 3 then shutQuarter t q else raise (setLadder t q (stepFor x)) (stepFault q (stepFor x)))
      else noteCool t q x) := by
  have hruns : ¬(4 ≤ q ∨ s.pwr.pwrOk = false ∨ ladderOf s q = 3) := by simp [hpower, hopen, hq]
  simp only [exec_thermalSample, execThermalSample, if_neg hruns, ht]
  simp only [apply_ite Host.Outcome.next]
  rfl

theorem exec_thermalSample_of_none :
    exec (.thermalSample q none) s = .next (
      if ladderOf s q < 2 then raise (setLadder s q 2) (stepFault q 2)
      else setPwr s { s.pwr with coolSince := tdel s.pwr.coolSince q }) := by
  have hruns : ¬(4 ≤ q ∨ s.pwr.pwrOk = false ∨ ladderOf s q = 3) := by simp [hpower, hopen, hq]
  simp only [exec_thermalSample, execThermalSample, if_neg hruns]
  simp only [apply_ite Host.Outcome.next]
  rfl

end

theorem exec_thermalStepClear_of_passed {t : Nat} (ht : tget s.pwr.coolSince q = some t) (hq : q < 4)
    (hstep : ladderOf s q = 1 ∨ ladderOf s q = 2) (hpassed : passedMs s t 100 = true) :
    exec (.thermalStepClear q) s = .next (setLadder s q (ladderOf s q - 1)) := by
  simp only [exec_thermalStepClear, execThermalStepClear, ht]
  rw [if_pos ⟨hq, hstep, hpassed⟩]

end

theorem reg_haltEngines (s : State) (idx sub : Nat) : reg (haltEngines s) idx sub = reg s idx sub := rfl

/-- A quarter shut down shows it, and the core is stopped (R367). -/
theorem shutQuarter_stops (s : State) (q : Nat) :
    (shutQuarter s q).core.stopped = true ∧ reg (shutQuarter s q) (0x2000 + q) 0x01 = 2 := by
  simp only [shutQuarter]
  exact ⟨rfl, by rw [reg_haltEngines, reg_setReg_self]⟩

/-- Settles O59: EPO_N, each kind of clock, and a sample by the step that it calls for. -/
theorem emergencyOffClocksAndTheThermalLadder : Obligations.EmergencyOffClocksAndTheThermalLadder := by
  refine ⟨⟨?epo, fun s => exec_epoRelease_of_asserted, ?base, ?serdes, ?eth, ?returned⟩, fun s t q x => ?reading,
    fun s q => exec_thermalSample_of_none, fun s q t => exec_thermalStepClear_of_passed, stepFor_ranges,
    fun s q => exec_thermalSample_of_shut, shutQuarter_stops⟩
  case epo =>
    intro s t u hpower ht hu
    rw [exec_epoAssert_of_powered hpower, haltEngines, epoCounted, hu, ht]
  case base =>
    rintro s _ c hc hnew rfl
    exact ⟨heldReset_clockLost hc, exec_referenceClockLoss_of_base hc hnew⟩
  case serdes =>
    rintro s _ q _ hnew rfl rfl
    exact exec_referenceClockLoss_of_serdes hnew
  case eth =>
    rintro s _ hnew rfl
    exact exec_referenceClockLoss_of_eth hnew
  case returned =>
    rintro s _ c hlost rfl
    exact exec_referenceClockReturn_of_lost hlost
  case reading =>
    intro hq hpower hopen ht
    exact exec_thermalSample_of_reading hq hpower hopen ht

/-! ## The limit and the samples of the governor (R490, R491) -/

/-- A limit written is clamped to the ceiling, and under the bench complex only a lower one is taken. -/
theorem limitByDict_eq (t : State) (n : Nat) :
    limitByDict t n =
      let v := min n (reg t 0x9000 0x02)
      if t.pwr.benchLimit.all (fun b => decide (v < b)) then
        setReg (if t.pwr.benchLimit = none then t else setPwr t { t.pwr with benchLimit := some v }) 0x9000 0x01 v
      else t := by
  cases hb : t.pwr.benchLimit with
  | none => simp [limitByDict, hb]
  | some b => simp [limitByDict, hb]

theorem exec_governorLimitWrite_of_allowed {s t : State} {via : Via} {w : Who} {n : Nat}
    (ha : askedBy s via = some (t, w)) (hw : writeStatus t w 0x9000 0x01 n = Code.ok) :
    exec (.governorLimitWrite via n) s = answersTo s (limitByDict t n) via (answer Code.ok) := by
  rw [exec_governorLimitWrite, execGovernorLimitWrite, withVia_asked ha, guarded_ok hw]

section
variable {s : State} {n : Nat} (hup : s.pwr.up = true)
include hup

theorem exec_powerSample_of_passed (hpassed : passedMs s s.pwr.lastSample 1 = true) :
    exec (.powerSample n) s =
      .next (setReg (chargeStage (setPwr s { s.pwr with lastSample := s.now })) 0x9000 0x03 (n % 2 ^ 32)) := by
  rw [exec_powerSample, execPowerSample, if_pos ⟨hup, hpassed⟩]

theorem exec_governorStep_of_passed {t : State} (hpassed : passedUs s s.pwr.lastStep 10 = true)
    (ht : t = chargeStage (setPwr s { s.pwr with lastStep := s.now })) :
    exec (.governorStep n) s =
      .next (if reg t 0x9000 0x01 < n then showStage (nextStage t) else setPwr t { t.pwr with overSince := none }) := by
  rw [exec_governorStep, execGovernorStep, if_neg (by simp [hup, hpassed]), apply_ite Host.Outcome.next, ht]

theorem exec_governorRelax_of_passed {t : State} (hpassed : passedUs s s.pwr.lastRelax 100 = true)
    (hbelow : n * 100 < reg s 0x9000 0x01 * 95)
    (ht : t = chargeStage (setPwr s { s.pwr with lastRelax := s.now, overSince := none })) :
    exec (.governorRelax n) s = .next (showStage (undoStage t)) := by
  rw [exec_governorRelax, execGovernorRelax, if_pos ⟨hup, hpassed, hbelow⟩, ht]

end

/-! ## The stages of throttling (R492, R493) -/

/-- The next stage, in order: the background pauses, the clock falls to its floor, the tiers are paced. -/
theorem nextStage_cases (s : State) :
    (s.pwr.paused = false → nextStage s = setPwr s { s.pwr with paused := true }) ∧
    (s.pwr.paused = true → reg s 0x9000 0x04 + 100 * (s.pwr.clockSteps + 1) ≤ 3600 →
      nextStage s = setPwr s { s.pwr with clockSteps := s.pwr.clockSteps + 1 }) ∧
    (s.pwr.paused = true → 3600 < reg s 0x9000 0x04 + 100 * (s.pwr.clockSteps + 1) → s.pwr.paceSteps < 8 →
      nextStage s = setPwr s { s.pwr with paceSteps := s.pwr.paceSteps + 1 }) := by
  refine ⟨fun hruns => ?pause, fun hpaused hclock => ?clock, fun hpaused hfloor hpace => ?pace⟩
  case pause => rw [nextStage, if_pos hruns]
  case clock => rw [nextStage, if_neg (by simp [hpaused]), if_pos hclock]
  case pace => rw [nextStage, if_neg (by simp [hpaused]), if_neg (Nat.not_le.2 hfloor), if_pos hpace]

/-- The last stage undone, in the reverse order. -/
theorem undoStage_cases (s : State) :
    (0 < s.pwr.paceSteps → undoStage s = setPwr s { s.pwr with paceSteps := s.pwr.paceSteps - 1 }) ∧
    (s.pwr.paceSteps = 0 → 0 < s.pwr.clockSteps →
      undoStage s = setPwr s { s.pwr with clockSteps := s.pwr.clockSteps - 1 }) ∧
    (s.pwr.paceSteps = 0 → s.pwr.clockSteps = 0 → undoStage s = setPwr s { s.pwr with paused := false }) := by
  refine ⟨fun hpace => ?pace, fun hnone hclock => ?clock, fun hnone hnoclock => ?pause⟩
  case pace => rw [undoStage, if_pos hpace]
  case clock => rw [undoStage, if_neg (by omega), if_pos hclock]
  case pause => rw [undoStage, if_neg (by omega), if_neg (by omega)]

/-! ## Engine clocks -/

/-- The engine clock in force in a quarter: the lower of the governor's and of its ladder's. -/
def engineClock (s : State) (q : Nat) : Nat := min (3600 - 100 * s.pwr.clockSteps) (ladderClock (reg s 0x9000 (8 + q)))

/-- One quarter's engine clock shown. -/
def setClock (s : State) (q : Nat) : State := setReg s (0x2000 + q) 0x03 (engineClock s q)

theorem setClocks_eq_foldl (s : State) : setClocks s = (List.range 4).foldl setClock s := rfl

theorem engineClock_setClock (s : State) {p : Nat} (hp : p < 4) (q : Nat) :
    engineClock (setClock s p) q = engineClock s q := by
  rw [engineClock, setClock, reg_setReg_ne (by omega)]
  rfl

/-- A quarter among those whose clocks are shown shows the clock in force. -/
theorem reg_foldl_setClock (q : Nat) (l : List Nat) (hl : ∀ p ∈ l, p < 4) (s : State) :
    reg (l.foldl setClock s) (0x2000 + q) 0x03 = if q ∈ l then engineClock s q else reg s (0x2000 + q) 0x03 := by
  induction l generalizing s with
  | nil => simp
  | cons p l ih =>
    have hp : p < 4 := hl p (List.mem_cons_self ..)
    rw [List.foldl_cons, ih (fun x hx => hl x (List.mem_cons_of_mem _ hx)), engineClock_setClock s hp q]
    by_cases hpq : q = p
    · subst hpq
      simp [setClock]
    · have hkept : reg (setClock s p) (0x2000 + q) 0x03 = reg s (0x2000 + q) 0x03 := reg_setReg_ne (by omega) _ _
      simp [hkept, hpq]

theorem reg_setClocks (s : State) {q : Nat} (hq : q < 4) : reg (setClocks s) (0x2000 + q) 0x03 = engineClock s q := by
  rw [setClocks_eq_foldl, reg_foldl_setClock q _ fun p hp => List.mem_range.1 hp, if_pos (List.mem_range.2 hq)]

/-- Settles O60: a limit written, the governor's events, its stages in order and in reverse, and the clocks. -/
theorem theGovernorThrottlesInOrder : Obligations.TheGovernorThrottlesInOrder := by
  refine ⟨?limit, fun s n => exec_powerSample_of_passed, fun s t n hup hpassed ht => exec_governorStep_of_passed hup hpassed ht, nextStage_cases,
    fun s t n hup hpassed hbelow ht => exec_governorRelax_of_passed hup hpassed hbelow ht, undoStage_cases, fun s q => reg_setClocks s⟩
  case limit =>
    intro s t via w n ha hw
    rw [exec_governorLimitWrite_of_allowed ha hw, limitByDict_eq]

end Sys2Proof.Machine
end

section
/-! PROOFS. Fabric lanes and link bring-up: SERVE, equalisation and lock, the capability exchange, frames and recovery
(R386 to R406). -/

namespace Sys2Proof.Machine

/-! ## The commands and their meanings -/

theorem exec_commaLock (n i : Nat) (s : State) : exec (.commaLock n i) s = execCommaLock n i s := rfl

theorem exec_commaLockLost (n i : Nat) (s : State) : exec (.commaLockLost n i) s = execCommaLockLost n i s := rfl

theorem exec_serveMessageSend (n : Nat) (s : State) : exec (.serveMessageSend n) s = execServeMessageSend n s := rfl

theorem exec_serveMessage (n i : Nat) (m : BitVec 128) (s : State) :
    exec (.serveMessage n i m) s = execServeMessage n i m s := rfl

theorem exec_serveTimeout (n : Nat) (s : State) : exec (.serveTimeout n) s = execServeTimeout n s := rfl

theorem exec_trainingFrame (n i : Nat) (req st : BitVec 32) (content : Bool) (s : State) :
    exec (.trainingFrame n i req st content) s = execTrainingFrame n i req st content s := rfl

theorem exec_trainingFrameSend (n : Nat) (s : State) : exec (.trainingFrameSend n) s = execTrainingFrameSend n s := rfl

theorem exec_equaliseTimeout (n : Nat) (s : State) : exec (.equaliseTimeout n) s = execEqualiseTimeout n s := rfl

theorem exec_alignBlock (n i : Nat) (w : BitVec 64) (block clean skew : Nat) (s : State) :
    exec (.alignBlock n i w block clean skew) s = execAlignBlock n i w block clean skew s := rfl

theorem exec_lockTimeout (n : Nat) (s : State) : exec (.lockTimeout n) s = execLockTimeout n s := rfl

theorem exec_capFragment (n : Nat) (p : Packet) (s : State) : exec (.capFragment n p) s = execCapFragment n p s := rfl

theorem exec_capFragmentTimeout (n msg : Nat) (s : State) :
    exec (.capFragmentTimeout n msg) s = execCapFragmentTimeout n msg s := rfl

theorem exec_capMessageRepeat (n : Nat) (s : State) : exec (.capMessageRepeat n) s = execCapMessageRepeat n s := rfl

theorem exec_hello (n : Nat) (s : State) : exec (.hello n) s = execHello n s := rfl

theorem exec_confirm (n : Nat) (s : State) : exec (.confirm n) s = execConfirm n s := rfl

theorem exec_resume (n : Nat) (s : State) : exec (.resume n) s = execResume n s := rfl

theorem exec_ready (n : Nat) (s : State) : exec (.ready n) s = execReady n s := rfl

theorem exec_capabilityTimeout (n : Nat) (s : State) : exec (.capabilityTimeout n) s = execCapabilityTimeout n s := rfl

theorem exec_heldBackoffEnd (n : Nat) (s : State) : exec (.heldBackoffEnd n) s = execHeldBackoffEnd n s := rfl

theorem exec_linkFrame (n : Nat) (w : BitVec 64) (body tag : Bytes) (s : State) :
    exec (.linkFrame n w body tag) s = execLinkFrame n w body tag s := rfl

theorem exec_lossOfSignal (n i : Nat) (s : State) : exec (.lossOfSignal n i) s = recoverOn s n i := rfl

theorem exec_alignMissing (n i : Nat) (s : State) : exec (.alignMissing n i) s = recoverOn s n i := rfl

theorem exec_symbolErrorLimit (n i : Nat) (s : State) : exec (.symbolErrorLimit n i) s = recoverOn s n i := rfl

theorem exec_uncorrectableLimit (n i count : Nat) (s : State) :
    exec (.uncorrectableLimit n i count) s = execUncorrectableLimit n i count s := rfl

theorem exec_tagFailureLimit (n : Nat) (s : State) : exec (.tagFailureLimit n) s = execTagFailureLimit n s := rfl

theorem exec_recoveryNotice (n : Nat) (s : State) : exec (.recoveryNotice n) s = execRecoveryNotice n s := rfl

theorem exec_recoverEnd (n : Nat) (s : State) : exec (.recoverEnd n) s = execRecoverEnd n s := rfl

/-! ## SERVE (R390 to R392, R397) -/

section
variable {s : State} {n i : Nat} (hn : n < 64)
include hn

section
variable (hi : i < 4) (hup : s.pwr.up = true) (hclock : s.pwr.clocksLost.contains (1 + n / 16) = false)
include hi hup hclock

theorem exec_commaLock_of_detect (hst : portState s n = stDetect) :
    exec (.commaLock n i) s = .next (enterServe (modLane s n i fun x => { x with comma := true }) n) := by
  rw [exec_commaLock, execCommaLock, if_neg (by simp [hn, hi, hup, hclock, -List.contains_eq_mem]), if_pos hst]

theorem exec_commaLock_of_serve (hst : portState s n = stServe) :
    exec (.commaLock n i) s = .next (modLane s n i fun x => { x with comma := true }) := by
  rw [exec_commaLock, execCommaLock, if_neg (by simp [hn, hi, hup, hclock, -List.contains_eq_mem]), if_neg (by rw [hst]; decide), if_pos hst]

end

section
variable (hst : portState s n = stServe)
include hst

theorem exec_commaLockLost_of_serve :
    exec (.commaLockLost n i) s = .next (modLane s n i fun x => { x with comma := false }) := by
  rw [exec_commaLockLost, execCommaLockLost, if_pos ⟨hn, hst⟩]

theorem exec_serveMessageSend_of_serve :
    exec (.serveMessageSend n) s =
      .next ((List.range 4).foldl (fun s i => send s (.linkWord n 1 (leBytes 16 (serveWord s (linkOf s n) i)))) s) := by
  rw [exec_serveMessageSend, execServeMessageSend, if_pos ⟨hn, hst⟩]

/-- A well-formed message gives the peer's ATTEMPT, and is taken by its type. -/
theorem exec_serveMessage_of_formed {m : BitVec 128} (hcomma : ((linkOf s n).lane i).comma = true)
    (hkind : bits m 4 4 = 1) (hres : bits m 25 7 = 0) (htop : bits m 112 16 = 0) :
    exec (.serveMessage n i m) s =
      let t := modLink s n fun l => { l with peerAttempt := bits m 80 16 }
      .next (if bits m 0 4 = 1 then takeOffer t n m else if bits m 0 4 = 2 then takeAccept t n m else t) := by
  rw [exec_serveMessage, execServeMessage, if_neg (by simp [hn, hst, hcomma]), if_neg (by simp [hkind, hres, htop])]
  simp only
  split
  case h_1 h => rw [if_pos h]
  case h_2 h => rw [if_neg (by omega), if_pos h]
  case h_3 hoffer haccept => rw [if_neg hoffer, if_neg haccept]

theorem exec_serveTimeout_of_passed (hpassed : passedUs s (linkOf s n).since (reg s 0x3B00 0x01) = true) :
    exec (.serveTimeout n) s = .next (enterDetect s n) := by
  rw [exec_serveTimeout, execServeTimeout, if_pos ⟨hn, hst, hpassed⟩]

end

end

/-- Settles O43: comma lock by the port's state, a message sent and one taken, and the time limit. -/
theorem portsServe : Obligations.PortsServe := by
  refine ⟨?comma, fun s n => exec_serveMessageSend_of_serve, ?message,
    fun s n => exec_serveTimeout_of_passed⟩
  case message =>
    intro s n i m hn hst hcomma hkind hres htop
    exact exec_serveMessage_of_formed hn hst hcomma hkind hres htop
  case comma =>
    intro s n i hn hi hup hclock
    exact ⟨exec_commaLock_of_detect hn hi hup hclock, fun hst =>
      ⟨exec_commaLock_of_serve hn hi hup hclock hst, exec_commaLockLost_of_serve hn hst⟩⟩

/-! ## Training frames (R393 to R396) -/

/-- The port's lanes begin comma lock anew, and it enters SERVE. -/
def serveAnew (s : State) (n : Nat) : State := enterServe (modLanes s n fun x => { x with comma := false }) n

section
variable {s : State} {n i : Nat} (hn : n < 64)
include hn

/-- The state once a training frame's request is taken: whether the receiver is content, until COUNTDOWN runs, and the
request where its CRC is good. -/
def requestTaken (s : State) (n i : Nat) (req : BitVec 32) (content : Bool) : State :=
  let u := if (linkOf s n).countdown.isNone then modLane s n i (fun x => { x with done := content }) else s
  if crc8Ok req then takeRequest u n i req else u

theorem exec_trainingFrame_of_equalise (req st : BitVec 32) (content : Bool) (hst : portState s n = stEqualise)
    (hlane : (linkOf s n).rxLanes.testBit i = true) :
    exec (.trainingFrame n i req st content) s =
      let t := requestTaken s n i req content
      .next (if crc8Ok st then takeStatus t n i st else t) := by
  rw [exec_trainingFrame, execTrainingFrame, if_neg (by simp [hn, hlane]), if_neg (by rw [hst]; decide),
    if_neg (by simp [hst])]
  rfl

theorem exec_trainingFrame_of_lock (req st : BitVec 32) (content : Bool) (hst : portState s n = stLock)
    (hlane : (linkOf s n).rxLanes.testBit i = true) :
    exec (.trainingFrame n i req st content) s =
      .next (if crc8Ok st = true ∧ bits st 10 4 = 0 then modLink s n fun l => { l with peerStarted := true } else s) := by
  rw [exec_trainingFrame, execTrainingFrame, if_neg (by simp [hn, hlane]), if_pos hst]
  cases hcrc : crc8Ok st with
  | false => simp
  | true => simp only [if_true, true_and, notePeerStart]

/-- COUNTDOWN of the next frame: it runs once both sides are content on every lane in use. -/
def Link.nextCountdown (l : Link) : Option Nat :=
  if l.countdown.isSome then l.countdown.map (· - 1)
  else if (lanesIn l.rxLanes).all (fun i => (l.lane i).done && (l.lane i).peerDone) then some 14 else none

/-- A training frame sent on a lane. -/
def sendTraining (n : Nat) (s : State) (i : Nat) : State :=
  send s (.linkWord n 2 (leBytes 4 (trainingWords s n (linkOf s n) ((linkOf s n).lane i)).1 ++
    leBytes 4 (trainingWords s n (linkOf s n) ((linkOf s n).lane i)).2))

theorem exec_trainingFrameSend_of_equalise {t : State} {count : Option Nat} (hst : portState s n = stEqualise)
    (hcount : count = (linkOf s n).nextCountdown)
    (ht : t = (lanesIn (linkOf s n).txLanes).foldl (sendTraining n) (modLink s n fun l => { l with countdown := count })) :
    exec (.trainingFrameSend n) s =
      .next (if count = some 0 then
        modLink (setPortState t n stLock) n fun l => { l with failures := tdel l.failures l.rate } else t) := by
  rw [exec_trainingFrameSend, execTrainingFrameSend, if_neg (by simp [hn, hst]), apply_ite Host.Outcome.next, ht, hcount]
  cases hcd : (linkOf s n).countdown <;> simp only [Link.nextCountdown, hcd] <;> rfl

/-- A failed EQUALISE counts against its rate, and the third in succession leaves the rate out (R397). -/
def Link.failedAt (k : Nat) (l : Link) : Link :=
  { l with
    failures := tset l.failures l.rate k
    leftOut := if 3 ≤ k ∧ l.leftOut.contains l.rate = false then l.rate :: l.leftOut else l.leftOut }

theorem exec_equaliseTimeout_of_due {k : Nat} (hst : portState s n = stEqualise)
    (hdue : (if (linkOf s n).fast then passedUs s (linkOf s n).since 50
      else passedMs s (linkOf s n).since (reg s 0x3B00 0x03)) = true)
    (hk : k = (tget (linkOf s n).failures (linkOf s n).rate).getD 0 + 1) :
    exec (.equaliseTimeout n) s =
      .next (serveAnew (modLink (bump s (0x3000 + n) 0x0A) n (Link.failedAt k)) n) := by
  rw [exec_equaliseTimeout, execEqualiseTimeout, if_pos ⟨hn, hst, hdue⟩, hk]
  rfl

theorem exec_lockTimeout_of_passed (hst : portState s n = stLock)
    (hpassed : passedUs s (linkOf s n).since 100 = true) : exec (.lockTimeout n) s = .next (serveAnew s n) := by
  rw [exec_lockTimeout, execLockTimeout, if_pos ⟨hn, hst, hpassed⟩]
  rfl

/-! ## ALIGN blocks (R385, R398, R399) -/

section
variable {w : BitVec 64} {block clean skew : Nat} (hlane : (linkOf s n).rxLanes.testBit i = true)
  (hkind : bits w 4 4 = 3) (hzero : bits w 0 4 = 0) (hres : bits w 18 14 = 0) (htop : bits w 48 16 = 0)
include hlane hkind hzero hres htop

/-- On an ACTIVE port a block is noted, or asks for RECOVER. -/
theorem exec_alignBlock_of_active (hst : portState s n = stActive) :
    exec (.alignBlock n i w block clean skew) s =
      .next (settle (if bit w 17 then enterRecover (noteCorrected s n) n false
        else modLane (noteCorrected s n) n i fun x => { x with lastAlign := some block })) := by
  rw [exec_alignBlock, execAlignBlock, if_neg (by simp [hn, hst, hlane, hkind]), if_neg (by simp [hzero, hres, htop]),
    if_neg (by rw [hst]; exact fun h => absurd h.1 (by decide)), if_pos hst]

/-- Whether an ALIGN block stands in its place: 4,000 blocks after the last, after 64 clean codewords, within the
skew. -/
def inPlace (s : State) (n i block clean skew : Nat) : Bool :=
  ((linkOf s n).lane i).lastAlign == some (block - 4000) && decide (4000 ≤ block) && decide (64 ≤ clean) &&
    decide (skew ≤ 256)

/-- A lane that has received an ALIGN block in LOCK. -/
def Lane.aligned (good peer : Bool) (block : Nat) (x : Lane) : Lane :=
  { x with locked := good, peerLocked := peer, lastAlign := some block }

theorem exec_alignBlock_of_lock (hst : portState s n = stLock) (hstarted : (linkOf s n).peerStarted = true) :
    exec (.alignBlock n i w block clean skew) s =
      let t := modLane (noteCorrected s n) n i (Lane.aligned (inPlace s n i block clean skew) (bit w 16) block)
      .next (if ((lanesIn (linkOf t n).rxLanes).all fun i => ((linkOf t n).lane i).locked) = true ∧
        ((lanesIn (linkOf t n).rxLanes).any fun i => ((linkOf t n).lane i).peerLocked) = true
        then enterCapability t n else t) := by
  rw [exec_alignBlock, execAlignBlock, if_neg (by simp [hn, hst, hlane, hkind]), if_neg (by simp [hzero, hres, htop]),
    if_neg (by simp [hstarted]), if_neg (by rw [hst]; decide)]
  simp only [hst, true_and, apply_ite Host.Outcome.next]
  rfl

end

end

/-- Settles O44: a training frame by the port's state, one sent, an ALIGN block by the port's state, and the limits. -/
theorem lanesEqualiseAndLock : Obligations.LanesEqualiseAndLock := by
  refine ⟨?equalise, ?lock, ?sent, ?failed, ?align, fun s n hn => exec_lockTimeout_of_passed hn⟩
  case equalise =>
    rintro s _ n i req st content hn hst hlane rfl
    exact exec_trainingFrame_of_equalise hn req st content hst hlane
  case lock =>
    intro s n i req st content hn hst hlane
    exact exec_trainingFrame_of_lock hn req st content hst hlane
  case sent =>
    intro s t n count hn hst hcount ht
    exact exec_trainingFrameSend_of_equalise hn hst hcount ht
  case failed =>
    intro s n k hn hst hdue hk
    exact exec_equaliseTimeout_of_due hn hst hdue hk
  case align =>
    intro s n i w block clean skew hn hlane hkind hzero hres htop
    exact ⟨exec_alignBlock_of_active hn hlane hkind hzero hres htop,
      exec_alignBlock_of_lock hn hlane hkind hzero hres htop⟩

/-! ## Messages of the capability exchange (R400) -/

section
variable {s : State} {n : Nat} (hn : n < 64)
include hn

section
variable (hst : portState s n = stCapability)
include hst

/-- A well-formed fragment joins the fragments of its message. -/
theorem exec_capFragment_of_formed {msg index last : Nat} {p : Packet} {got : Tbl Bytes} {old : Collect}
    (hop : p.op = 0xE0) (hhdr : unsequencedBad p = false) (hmsg : msg = bits p.ext 0 8) (hindex : index = bits p.ext 8 4)
    (hlast : last = bits p.ext 12 4) (hpos : 1 ≤ msg) (hmax : msg ≤ 4) (hle : index ≤ last)
    (hold : old = (let o := (tget (linkOf s n).collects msg).getD { last := last, since := s.now }
      if o.last = last then o else { last := last, since := s.now }))
    (hgot : got = tset old.got index (leBytes 14 (bits p.ext 16 112))) :
    exec (.capFragment n p) s =
      if got.length = last + 1 then
        .next (modLink s n fun l =>
          { l with collects := tdel l.collects msg, inbox := tset l.inbox msg (got.map (·.2)).flatten })
      else .next (modLink s n fun l => { l with collects := tset l.collects msg { old with got := got } }) := by
  subst hmsg hindex hlast
  have hformed : ¬(p.op ≠ 0xE0 ∨ unsequencedBad p = true ∨ bits p.ext 0 8 = 0 ∨ 4 < bits p.ext 0 8 ∨
      bits p.ext 12 4 < bits p.ext 8 4) := by
    simp only [hop, hhdr, ne_eq, not_true_eq_false, Bool.false_eq_true, false_or]
    omega
  rw [exec_capFragment, execCapFragment, if_neg (by simp [hn, hst])]
  simp only [if_neg hformed]
  rw [hgot, hold]

/-- Messages sent, sent again: READY goes in an encrypted frame, which is counted. -/
def repeatMessage (n : Nat) (s : State) (m : Nat × Bytes) : State :=
  if m.1 = 4 then countFrame (send s (.capability n m.1 m.2)) n else send s (.capability n m.1 m.2)

theorem exec_capMessageRepeat_of_passed (hpassed : passedUs s (linkOf s n).repeatedAt 20 = true) :
    exec (.capMessageRepeat n) s =
      let t := (linkOf s n).sent.foldl (repeatMessage n) s
      .next (modLink t n fun l => { l with repeatedAt := t.now }) := by
  rw [exec_capMessageRepeat, execCapMessageRepeat, if_pos ⟨hn, hst, hpassed⟩]
  rfl

theorem exec_capabilityTimeout_of_passed (hpassed : passedMs s (linkOf s n).since 1 = true) :
    exec (.capabilityTimeout n) s = .next (serveAnew s n) := by
  rw [exec_capabilityTimeout, execCapabilityTimeout, if_pos ⟨hn, hst, hpassed⟩]
  rfl

end

theorem exec_heldBackoffEnd_of_passed (hst : portState s n = stHeld)
    (hpassed : passedMs s (linkOf s n).since (reg s 0x3B00 0x05) = true) :
    exec (.heldBackoffEnd n) s = .next (enterDetect s n) := by
  rw [exec_heldBackoffEnd, execHeldBackoffEnd, if_pos ⟨hn, hst, hpassed⟩]

end

theorem exec_capFragmentTimeout_of_passed {s : State} {n msg : Nat} {c : Collect}
    (hc : tget (linkOf s n).collects msg = some c) (hpassed : passedUs s c.since 10 = true) :
    exec (.capFragmentTimeout n msg) s = .next (modLink s n fun l => { l with collects := tdel l.collects msg }) := by
  simp only [exec_capFragmentTimeout, execCapFragmentTimeout, hc, hpassed, if_true]

/-- Settles O45: a fragment, each message once it has been collected, and the time limits. -/
theorem portsExchangeCapabilities : Obligations.PortsExchangeCapabilities := by
  refine ⟨?fragment, fun s n msg c => exec_capFragmentTimeout_of_passed,
    fun s n hn => exec_capMessageRepeat_of_passed hn, ?hello, ?confirm, ?resume, ?ready,
    fun s n hn => exec_capabilityTimeout_of_passed hn, fun s n hn => exec_heldBackoffEnd_of_passed hn⟩
  case fragment =>
    intro s n msg index last p got old hn hst hop hhdr hmsg hindex hlast hpos hmax hle hold hgot
    exact exec_capFragment_of_formed hn hst hop hhdr hmsg hindex hlast hpos hmax hle hold hgot
  case hello =>
    intro s n common b shared hn hst hfull hfirst hb hcommon hshared
    obtain ⟨c, hc, rfl⟩ := Option.map_eq_some_iff.1 hb
    have hruns : ¬(64 ≤ n ∨ portState s n ≠ stCapability ∨ (linkOf s n).fast = true ∨ (linkOf s n).peerHello ≠ []) := by
      simp [hn, hst, hfull, hfirst]
    simp only [exec_hello, execHello, hc, if_neg hruns]
    rw [hcommon, hshared]
  case confirm =>
    intro s n b hn hst hheard hnew hb
    obtain ⟨c, hc, rfl⟩ := Option.map_eq_some_iff.1 hb
    have hruns : ¬(64 ≤ n ∨ portState s n ≠ stCapability ∨ (linkOf s n).peerHello = [] ∨ (linkOf s n).confirmed = true) := by
      simp [hn, hst, hheard, hnew]
    simp only [exec_confirm, execConfirm, hc, if_neg hruns]
  case resume =>
    intro s n b key hn hst hfast hnew hb hkey
    obtain ⟨c, hc, rfl⟩ := Option.map_eq_some_iff.1 hb
    have hruns : ¬(64 ≤ n ∨ portState s n ≠ stCapability ∨ (linkOf s n).fast = false ∨ (linkOf s n).confirmed = true) := by
      simp [hn, hst, hfast, hnew]
    simp only [exec_resume, execResume, hc, if_neg hruns]
    rw [hkey]
  case ready =>
    intro s n inc b hn hst hsent hb hinc
    have hruns : ¬(64 ≤ n ∨ portState s n ≠ stCapability ∨ (linkOf s n).readySent = false) := by
      simp [hn, hst, hsent]
    simp only [exec_ready, execReady, hb, if_neg hruns]
    rw [hinc]

/-! ## Frames (R386 to R388) -/

theorem exec_linkFrame_of_formed {s : State} {n : Nat} {w : BitVec 64} {body tag : Bytes} (hn : n < 64)
    (hst : portState s n = stCapability ∨ portState s n = stActive) (hkind : bits w 4 4 = 1) (hzero : bits w 0 4 = 0)
    (hres : bit w 31 = false) (htop : bits w 48 16 = 0) :
    exec (.linkFrame n w body tag) s =
      .next (if body.length < 8 * bits w 8 11 ∨ tag.length < 16 then bump s (0x3000 + n) 0x0D else
        (openFrame s n w body tag).elim (dropFrame s n (bit w 30)) fun x =>
        if portState s n = stCapability then send x.1 (.inner n (bits w 19 11) (packetOf x.2))
        else settle (takePacket x.1 n (bits w 19 11) (packetOf x.2))) := by
  have hruns : ¬(64 ≤ n ∨ (portState s n ≠ stCapability ∧ portState s n ≠ stActive)) := by
    rintro (h | ⟨hc, ha⟩)
    · omega
    · exact hst.elim hc ha
  rw [exec_linkFrame, execLinkFrame, if_neg hruns, if_neg (by omega), if_neg (by simp [hkind]),
    if_neg (by simp [hzero, hres, htop])]
  by_cases hcut : body.length < 8 * bits w 8 11 ∨ tag.length < 16
  · rw [if_pos hcut, if_pos hcut]
  · rw [if_neg hcut, if_neg hcut]
    cases openFrame s n w body tag with
    | none => rfl
    | some x =>
      simp only [Option.elim_some]
      rw [apply_ite Host.Outcome.next]

/-! ## Causes of recovery, and its end (R399) -/

theorem recoverOn_of_inUse {s : State} {n i : Nat} (hn : n < 64) (hlane : laneInUse s n i = true) :
    recoverOn s n i = .next (settle (enterRecover s n true)) := by
  rw [recoverOn, if_pos ⟨hn, hlane⟩]

section
variable {s : State} {n i : Nat} (hn : n < 64)
include hn

theorem exec_uncorrectableLimit_of_inUse {t : State} {count : Nat} (hlane : laneInUse s n i = true)
    (ht : t = bumpBy s (0x3000 + n) 0x08 count) :
    exec (.uncorrectableLimit n i count) s =
      if reg t 0x3B00 0x02 ≤ count then .next (settle (enterRecover t n true)) else .next t := by
  rw [exec_uncorrectableLimit, execUncorrectableLimit, if_pos ⟨hn, hlane⟩, ht]

theorem exec_tagFailureLimit_of_reached (hactive : portActive s n = true)
    (hlimit : reg s 0x3B00 0x06 ≤ ((linkOf s n).tagFails.filter fun t => !passedMs s t 1).length) :
    exec (.tagFailureLimit n) s = .next (settle (enterRecover s n true)) := by
  rw [exec_tagFailureLimit, execTagFailureLimit, if_pos ⟨hn, hactive, hlimit⟩]

theorem exec_recoveryNotice_of_active (hactive : portActive s n = true) :
    exec (.recoveryNotice n) s = .next (settle (enterRecover s n false)) := by
  rw [exec_recoveryNotice, execRecoveryNotice, if_pos ⟨hn, hactive⟩]

theorem exec_recoverEnd_of_passed (hst : portState s n = stRecover)
    (hpassed : passedUs s (linkOf s n).since 1 = true) : exec (.recoverEnd n) s = .next (serveAnew s n) := by
  rw [exec_recoverEnd, execRecoverEnd, if_pos ⟨hn, hst, hpassed⟩]
  rfl

end

/-- Settles O46: a frame by how far it goes, each cause of recovery, and the end of RECOVER. -/
theorem framesArriveAndLinksRecover : Obligations.FramesArriveAndLinksRecover := by
  refine ⟨?frame, ?lanes, ?codewords, ?port, fun s n hn => exec_recoverEnd_of_passed hn⟩
  case frame =>
    intro s n w body tag hn hst hkind hzero hres htop
    exact exec_linkFrame_of_formed hn hst hkind hzero hres htop
  case lanes =>
    intro s n i hn hlane
    rw [exec_lossOfSignal, exec_alignMissing, exec_symbolErrorLimit, recoverOn_of_inUse hn hlane]
    exact ⟨rfl, rfl, rfl⟩
  case codewords =>
    intro s t n i count hn hlane ht
    exact exec_uncorrectableLimit_of_inUse hn hlane ht
  case port =>
    intro s n hn hactive
    exact ⟨exec_tagFailureLimit_of_reached hn hactive, exec_recoveryNotice_of_active hn hactive⟩

end Sys2Proof.Machine
end

section
/-! PROOFS. RoCEv2 requests arrive and are performed; queue pairs and UDP doorbells; the Ethernet ports and their time
(R412 to R428). -/

namespace Sys2Proof.Machine

/-! ## The commands and their meanings -/

theorem exec_rdmaWrite (k : RocePkt) (s : State) : exec (.rdmaWrite k) s = roceRequest k .write s := rfl

theorem exec_rdmaWritePush (k : RocePkt) (s : State) : exec (.rdmaWritePush k) s = roceRequest k .push s := rfl

theorem exec_rdmaRead (k : RocePkt) (s : State) : exec (.rdmaRead k) s = roceRequest k .read s := rfl

theorem exec_sendWithImmediate (k : RocePkt) (s : State) : exec (.sendWithImmediate k) s = roceRequest k .send s := rfl

theorem exec_fetchAdd (k : RocePkt) (s : State) : exec (.fetchAdd k) s = roceRequest k .add s := rfl

theorem exec_compareSwap (k : RocePkt) (s : State) : exec (.compareSwap k) s = roceRequest k .swap s := rfl

theorem exec_roceUnsupportedOpcode (k : RocePkt) (s : State) :
    exec (.roceUnsupportedOpcode k) s = execRoceUnsupportedOpcode k s := rfl

theorem exec_queuePairCreate (via : Via) (data : Bytes) (s : State) :
    exec (.queuePairCreate via data) s = execQueuePairCreate via data s := rfl

theorem exec_queuePairDestroy (via : Via) (n : Nat) (s : State) :
    exec (.queuePairDestroy via n) s = execQueuePairDestroy via n s := rfl

theorem exec_udpDoorbell (port source : Nat) (data : Bytes) (s : State) :
    exec (.udpDoorbell port source data) s = execUdpDoorbell port source data s := rfl

theorem exec_ptpMessage (e domain : Nat) (m : PtpMsg) (s : State) :
    exec (.ptpMessage e domain m) s = execPtpMessage e domain m s := rfl

theorem exec_ptpAnnounceTimeout (s : State) : exec .ptpAnnounceTimeout s = execPtpAnnounceTimeout s := rfl

theorem exec_ethernetLinkUp (e rate : Nat) (s : State) : exec (.ethernetLinkUp e rate) s = execEthernetLinkUp e rate s := rfl

theorem exec_ethernetLinkDown (e : Nat) (s : State) : exec (.ethernetLinkDown e) s = execEthernetLinkDown e s := rfl

theorem exec_managementAutonegTimeout (s : State) :
    exec .managementAutonegTimeout s = execManagementAutonegTimeout s := rfl

theorem exec_arpRequest (e address : Nat) (s : State) : exec (.arpRequest e address) s = execArpRequest e address s := rfl

theorem exec_neighborSolicitation (e address : Nat) (s : State) :
    exec (.neighborSolicitation e address) s = execNeighborSolicitation e address s := rfl

theorem exec_icmpEcho (e : Nat) (data : Bytes) (s : State) : exec (.icmpEcho e data) s = execIcmpEcho e data s := rfl

theorem exec_ethernetFrameDiscard (e : Nat) (s : State) :
    exec (.ethernetFrameDiscard e) s = execEthernetFrameDiscard e s := rfl

/-! ## The arrival of a request (R415, R425, R426) -/

/-- A packet to a ready queue pair of its running port, of a number of extended header bytes, as the ingress buffer
takes it. -/
structure RoceTaken (s u : State) (k : RocePkt) (ext : Nat) (p : QueuePair) (marked : Bool) : Prop where
  pair : qpOf s k.qpn = some p
  ready : p.state = 1
  port : p.port = k.port
  up : ethUp s k.port = true
  taken : ethIn (colourPacket s (k.port / 2) p.ctx (roceSize p.ipv6 ext k.data.length)).2 k.port
    (colourPacket s (k.port / 2) p.ctx (roceSize p.ipv6 ext k.data.length)).1
    (roceSize p.ipv6 ext k.data.length) k.ect = (u, some marked)

/-- The state after the CNP that answers a marked packet. -/
def cnpAnswered (u : State) (k : RocePkt) (p : QueuePair) (marked : Bool) : State :=
  if marked || k.ce then sendCnp u k.qpn p else u

section
variable {s u : State} {k : RocePkt} {p : QueuePair} {marked : Bool}

/-- A packet taken is answered with a CNP where it is marked, and acts. -/
theorem roceArrive_of_taken {ext : Nat} (h : RoceTaken s u k ext p marked) (act : State → QueuePair → State) :
    roceArrive s k ext act = .next (settle (act (cnpAnswered u k p marked) p)) := by
  have hruns : ¬(p.state ≠ 1 ∨ p.port ≠ k.port ∨ ethUp s k.port = false) := by simp [h.ready, h.port, h.up]
  simp only [roceArrive, h.pair, if_neg hruns, h.taken]
  rfl

theorem roceRequest_of_taken {op : RoceOp} (h : RoceTaken s u k (extBytes op p.ud k.first k.last) p marked) :
    roceRequest k op s = .next (settle (if p.ud then udRequest (cnpAnswered u k p marked) p op k
      else rcRequest (cnpAnswered u k p marked) k.qpn p op k)) := by
  have hud : ((qpOf s k.qpn).map (·.ud)).getD false = p.ud := by rw [h.pair]; rfl
  rw [roceRequest, hud, roceArrive_of_taken h]

/-- A packet of an unsupported opcode, by the kind of its queue pair and, on RC, by its place in the sequence. -/
theorem exec_roceUnsupportedOpcode_of_taken (h : RoceTaken s u k 0 p marked) :
    exec (.roceUnsupportedOpcode k) s =
      let v := cnpAnswered u k p marked
      .next (settle (if p.ud then bump v 0x4200 0x04
        else if (k.psn + 2 ^ 24 - p.expectedPsn) % 2 ^ 24 = 0 then roceFail v k.qpn k.psn Code.misaligned
        else if 2 ^ 23 ≤ (k.psn + 2 ^ 24 - p.expectedPsn) % 2 ^ 24 ∨ p.nakSent = true then v
        else roceSend (modQp v k.qpn fun p => { p with nakSent := true }) k.qpn p.expectedPsn 7 [])) := by
  rw [exec_roceUnsupportedOpcode, execRoceUnsupportedOpcode, roceArrive_of_taken h]

end

/-! ## The order of requests (R67, R315, R419) -/

section
variable {s : State} {qpn : Nat} {p : QueuePair}

/-- A request in sequence waits its turn. -/
theorem rcRequest_of_inSequence {k : RocePkt} (op : RoceOp) (hpsn : k.psn = p.expectedPsn) :
    rcRequest s qpn p op k = pumpQp (p.waiting.length + 2) (modQp s qpn fun p => { p with
      expectedPsn := (k.psn + psnCount p op k) % 2 ^ 24, nakSent := false
      waiting := p.waiting ++ [{ op := op, pkt := k }] }) qpn := by
  have hnext : (k.psn + 2 ^ 24 - p.expectedPsn) % 2 ^ 24 = 0 := by omega
  simp only [rcRequest, hnext, if_true]

section
variable {n : Nat} {w : RoceWait} {ws : List RoceWait} (hp : qpOf s qpn = some p) (hw : p.waiting = w :: ws)
  (hnone : w.refused = none)
include hp hw hnone

/-- The first waiting request, with no guard on it, is performed. -/
theorem pumpQp_of_free (hfree : (w.held || rocePasses s qpn p w.op w.pkt) = false ∨
      heldBy s (.pair qpn) p.ctx (roceSpan s p w.op w.pkt) = none) :
    pumpQp (n + 1) s qpn =
      pumpQp n (startCursors (performRoce (modQp s qpn fun p => { p with waiting := ws }) qpn p w.held w.op w.pkt)) qpn := by
  have hguard : (if (w.held || rocePasses s qpn p w.op w.pkt) = true then
      heldBy s (.pair qpn) p.ctx (roceSpan s p w.op w.pkt) else none) = none := by
    rcases hfree with h | h
    · rw [if_neg (by simp [h])]
    · rw [h, ite_self]
  simp only [pumpQp, hp, hw, hnone, hguard]

/-- One that a guard holds waits on, its checks passed. -/
theorem pumpQp_of_held {u : State} (hpasses : (w.held || rocePasses s qpn p w.op w.pkt) = true)
    (hheld : heldBy s (.pair qpn) p.ctx (roceSpan s p w.op w.pkt) = some u) :
    pumpQp (n + 1) s qpn = modQp u qpn fun p => { p with waiting := { w with held := true } :: ws } := by
  simp only [pumpQp, hp, hw, hnone, hpasses, if_true, hheld]

end

/-! ## What a request does (R418, R421) -/

variable {u : State} {held : Bool} {k : RocePkt} {va : Nat}

/-- A single-packet WRITE past its checks stores its data and is acknowledged. -/
theorem performRoce_write_of_passed (hfirst : k.first = true) (hlast : k.last = true) (hrun : p.run = none)
    (hlen : k.data.length = k.len) (hcheck : roceCheck s p held k.rkey k.va k.len .write = (u, .ok va))
    (hstored : (storeVa u p.ctx va k.data).status = Code.ok) :
    performRoce s qpn p held .write k =
      roceSend (modQp (storeVa u p.ctx va k.data).st qpn fun p => { p with run := none }) qpn k.psn 0 [] := by
  have hplace : writePlace s qpn p held k = (u, .ok va) := by
    simp [writePlace, hfirst, hlast, hrun, roceSizeOk, hlen, hcheck]
  simp only [performRoce, performRoceWrite, hplace, hstored, hlast, ne_eq, not_true_eq_false, if_false, if_true]

/-- A READ past its checks returns its data in packets of PMTU. -/
theorem performRoce_read_of_passed {a : Access1} (hcheck : roceCheck s p held k.rkey k.va k.len .read = (u, .ok va))
    (ha : a = readVa u p.ctx va k.len) (hread : a.status = Code.ok) :
    performRoce s qpn p held .read k =
      ((if k.len = 0 then [(0, 0)] else piecesOf p.pmtuBytes k.len).zipIdx).foldl (fun s x =>
        roceSend s qpn ((k.psn + x.2) % 2 ^ 24) 1 ((a.data.drop x.1.1).take x.1.2)) a.st := by
  simp only [performRoce, performRoceRead, hcheck, ← ha, hread, ne_eq, not_true_eq_false, if_false]

/-- The old value of an atomic kept among the responder's resources, of which the oldest goes. -/
def QueuePair.keepAtomic (psn old : Nat) (p : QueuePair) : QueuePair :=
  { p with
    atomics := List.drop ((p.atomics.filter fun x => x.1 != psn).length + 1 - p.maxRd)
      (p.atomics.filter fun x => x.1 != psn) ++ [(psn, BitVec.ofNat 64 old)] }

/-- The opcode of an atomic: an add, or a compare and swap. -/
def atomicOp (add : Bool) : RoceOp := if add then .add else .swap

theorem performRoce_atomicOp (s : State) (qpn : Nat) (p : QueuePair) (held add : Bool) (k : RocePkt) :
    performRoce s qpn p held (atomicOp add) k = performRoceAtomic s qpn p held (atomicOp add) k := by
  cases add <;> rfl

theorem atomicOp_eq_add (add : Bool) : (atomicOp add = .add) = (add = true) := by cases add <;> simp [atomicOp]

/-- An atomic past its checks writes the new value, and keeps and returns the old. -/
theorem performRoce_atomic_of_passed {pa old new : Nat} {add : Bool} {a b : Access1}
    (hcheck : roceCheck s p held k.rkey k.va 8 .atomic = (u, .ok va)) (hpa : pa = (paOf u p.ctx va).getD 0)
    (hroom : (atomicQueue u (controllerOf pa)).length < 1024)
    (ha : a = readVa (queueAtomic u pa (if add then 0x11 else 0x45)) p.ctx va 8) (hread : a.status = Code.ok)
    (hold : old = ofLe a.data)
    (hnew : new = (if add then atomicResult 0x11 old k.operand.toNat
      else if old = k.compare.toNat then k.operand.toNat else old))
    (hb : b = storeVa (touchLine a.st pa) p.ctx va (leBytes 8 new)) (hstored : b.status = Code.ok) :
    performRoce s qpn p held (atomicOp add) k =
      roceSend (modQp b.st qpn (QueuePair.keepAtomic k.psn old)) qpn k.psn 2 (leBytes 8 old) := by
  simp only [performRoce_atomicOp, performRoceAtomic, hcheck, atomicOp_eq_add, ← hpa, if_neg (Nat.not_le.2 hroom), ← ha,
    hread, ← hold, ← hnew, ← hb, hstored, ne_eq, not_true_eq_false, if_false]
  rfl

end

/-- Settles O47: the arrival of each kind of request, its turn, and what a WRITE, a READ and an atomic do. -/
theorem roceRequestsArriveAndArePerformed : Obligations.RoceRequestsArriveAndArePerformed := by
  refine ⟨?arrives, fun s qpn p op k hpsn _ => rcRequest_of_inSequence op hpsn, ?turn, ?write, ?read, ?atomic, ?unsupported⟩
  case arrives =>
    intro s u v k op p c marked r hpair hready hport hup hc htaken hv hr
    subst hc
    have ht : RoceTaken s u k (extBytes op p.ud k.first k.last) p marked := ⟨hpair, hready, hport, hup, htaken⟩
    have hrequest : roceRequest k op s = r := by rw [roceRequest_of_taken ht, hr, hv, cnpAnswered]
    rw [exec_rdmaWrite, exec_rdmaWritePush, exec_rdmaRead, exec_sendWithImmediate, exec_fetchAdd, exec_compareSwap]
    refine ⟨?_, ?_, ?_, ?_, ?_, ?_⟩ <;> (intro hop; rw [← hrequest, hop])
  case turn =>
    intro s n qpn p w ws hp hw hnone
    exact ⟨pumpQp_of_free hp hw hnone, fun u hpasses hheld => pumpQp_of_held hp hw hnone hpasses hheld⟩
  case write =>
    intro s u qpn va p held k hfirst hlast hrun hlen hcheck hstored
    exact performRoce_write_of_passed hfirst hlast hrun hlen hcheck hstored
  case read =>
    intro s u qpn va p held k a hcheck ha hread
    exact performRoce_read_of_passed hcheck ha hread
  case atomic =>
    intro s u qpn va pa old new p held k add a b hcheck hpa hroom ha hread hold hnew hb hstored
    exact performRoce_atomic_of_passed hcheck hpa hroom ha hread hold hnew hb hstored
  case unsupported =>
    intro s u v k p c marked hpair hready hport hup hc htaken hv
    subst hc
    rw [exec_roceUnsupportedOpcode_of_taken ⟨hpair, hready, hport, hup, htaken⟩, hv, cnpAnswered]

/-! ## Queue pairs (R416, R423) -/

/-- Where a number from 2 is free, the number chosen is one that is. -/
theorem freeQpn_is_free {t : State} (hfree : ∃ i, 2 ≤ i ∧ i < 2 ^ 24 ∧ thas t.eth.qps i = false) :
    2 ≤ freeQpn t ∧ freeQpn t < 2 ^ 24 ∧ thas t.eth.qps (freeQpn t) = false := by
  obtain ⟨i, hlow, hhigh, hi⟩ := hfree
  obtain ⟨haccepts, hlt⟩ := pickBelow_accepts (p := fun i => !thas t.eth.qps (i + 2)) (limit := 2 ^ 24 - 2) (k := i - 2)
    t.fresh (by omega) (by simp [Nat.sub_add_cancel hlow, hi])
  refine ⟨Nat.le_add_right 2 _, by rw [freeQpn]; omega, ?_⟩
  rw [freeQpn, Nat.add_comm]
  simpa using haccepts

section
variable {s t : State} {via : Via} {w : Who} (ha : askedBy s via = some (t, w))
include ha

/-- A record that passes its checks enters its queue pair under the number chosen. -/
theorem exec_queuePairCreate_of_allowed {data : Bytes} {x : BitVec 512} {p : QueuePair}
    (ho : otherTransfer t via 0x4200 0x01 = false) (hw : writeStatus t w 0x4200 0x01 0 = Code.ok)
    (hlen : data.length = 64) (hx : x = BitVec.ofNat 512 (ofLe data)) (hp : p = qpOfRecord x)
    (hown : w.principal = 1 → p.ctx = w.ctx) (hform : qpMisaligned t x = false) (hctx : namedCtxStatus t p.ctx = Code.ok)
    (hroom : qpRoom t p = true) :
    exec (.queuePairCreate via data) s =
      answersTo s (setQps (draw t) (tset t.eth.qps (freeQpn t) p)) via { status := Code.ok, detail := freeQpn t } := by
  have hmay : (w.principal == 1 && p.ctx != w.ctx) = false := by simpa using hown
  have hcreate : createQp t w data =
      (setQps (draw t) (tset t.eth.qps (freeQpn t) p), { status := Code.ok, detail := freeQpn t }) := by
    simp only [createQp, ← hx, ← hp, firstOf, hlen, hmay, hform, hctx, hroom]
    rfl
  rw [exec_queuePairCreate, execQueuePairCreate, withVia_asked ha, guardedBlock_ok ho hw, hcreate]

theorem exec_queuePairDestroy_of_allowed {n : Nat} (hw : writeStatus t w 0x4200 0x02 n = Code.ok) :
    exec (.queuePairDestroy via n) s =
      if thas t.eth.qps n then
        let u := qpError t n Code.targetLost
        answersTo s (setQps u (tdel u.eth.qps n)) via (answer Code.ok)
      else answersTo s t via (answer Code.misaligned) := by
  rw [exec_queuePairDestroy, execQueuePairDestroy, withVia_asked ha, guarded_ok hw, plainAnswer, destroyQp]
  split <;> rfl

end

/-! ## UDP doorbells (R422) -/

/-- Bytes of a doorbell's datagram with its headers, by its source address: IPv6 from 2^32. -/
def doorbellSize (source : Nat) (data : Bytes) : Nat := (if 2 ^ 32 ≤ source then 66 else 46) + data.length

/-- A slot that has heard a sequence number, with those it still remembers. -/
def Doorbell.heardSeq (b : Doorbell) (seq : Nat) : Doorbell :=
  let top := max seq (b.highest.getD 0)
  { b with highest := some top, seen := (seq :: b.seen).filter fun x => decide (top < x + 64) }

theorem exec_udpDoorbell_of_taken {s u : State} {port source slot : Nat} {data : Bytes} {h : BitVec 256} {b : Doorbell}
    {c : Nat × State} {marked : Bool} (hport : port < 8) (hup : ethUp s port = true) (heven : port % 2 = 0)
    (hh : h = BitVec.ofNat 256 (ofLe (data.take 32))) (hslot : slot = bits h 8 8) (hb : tget s.eth.doorbells slot = some b)
    (hc : c = colourPacket s (port / 2) b.ctx (doorbellSize source data))
    (htaken : ethIn c.2 port c.1 (doorbellSize source data) false = (u, some marked)) :
    exec (.udpDoorbell port source data) s =
      if doorbellOk b source data then
        let v := { u with eth := { u.eth with doorbells := tset u.eth.doorbells slot (b.heardSeq (bits h 64 64)) } }
        .next (settle (hostPush v b.ctx (ctxGen v b.ctx) (bits h 16 10) b.proxy (data.drop 32)).1)
      else .next (bump u 0x4400 0x02) := by
  subst hc hslot hh
  rw [exec_udpDoorbell, execUdpDoorbell, if_neg (by simp [hport, hup]), if_neg (by omega)]
  unfold doorbellSize at htaken
  simp only [hb, htaken]
  rfl

/-- Settles O49: a queue pair made and one destroyed, and a doorbell by whether it passes its checks. -/
theorem queuePairsAndDoorbells : Obligations.QueuePairsAndDoorbells := by
  refine ⟨?create, fun s t via w n ha => exec_queuePairDestroy_of_allowed ha, ?doorbell⟩
  case create =>
    intro s t via w data x p ha ho hw hlen hx hp hown hform hctx hroom hfree n
    obtain ⟨hlow, hhigh, hunused⟩ := freeQpn_is_free hfree
    exact ⟨hlow, hhigh, hunused, exec_queuePairCreate_of_allowed ha ho hw hlen hx hp hown hform hctx hroom⟩
  case doorbell =>
    intro s u port source slot data h b c marked hport hup heven hh hslot hb hc htaken
    exact exec_udpDoorbell_of_taken hport hup heven hh hslot hb hc htaken

/-! ## PTP (R427) -/

section
variable {s u : State} {e : Nat} {marked : Bool} (he : e < 8) (hup : ethUp s e = true)
  (hclient : (reg s 0x4500 0x03).testBit e = true) (htaken : ethIn s e 0 100 false = (u, some marked))
include he hup hclient htaken

theorem exec_ptpMessage_announce {rank identity utc interval : Nat} {scale leap : Bool} :
    exec (.ptpMessage e (reg u 0x4500 0x02) (.announce rank identity scale utc leap interval)) s =
      let c := ((ethPort u e).ptp.getD {}).takeIn u (.announce rank identity scale utc leap interval)
      let v := ptpElect (setEthPort u e { ethPort u e with ptp := some c })
      .next (if v.eth.ptpActive = some e then ptpAnnounced v else v) := by
  rw [exec_ptpMessage, execPtpMessage, if_neg (by simp [he, hup, hclient])]
  simp only [htaken, ne_eq, not_true_eq_false, if_false, ptpCorrected]

/-- A Sync exchange is taken in with the latency corrections of its port. -/
theorem exec_ptpMessage_sync {time delay : Nat} {offset tx rx : Int} {c : PtpClient} (hc : (ethPort u e).ptp = some c)
    (htx : tx = (BitVec.ofNat 32 (reg u (0x4100 + e) 0x08)).toInt)
    (hrx : rx = (BitVec.ofNat 32 (reg u (0x4100 + e) 0x09)).toInt) :
    exec (.ptpMessage e (reg u 0x4500 0x02) (.sync offset time delay)) s =
      let offset' := offset + (tx - rx) / 2000
      let time' := (time - (tx - rx) / 2000).toNat
      let m : PtpMsg := .sync offset' time' (delay - (tx + rx) / 2000).toNat
      let v := setEthPort u e { ethPort u e with ptp := some (c.takeIn u m) }
      .next (if v.eth.ptpActive = some e then ptpSteer v offset' time' else v) := by
  rw [exec_ptpMessage, execPtpMessage, if_neg (by simp [he, hup, hclient])]
  simp only [htaken, ne_eq, not_true_eq_false, if_false, ptpCorrected, ptpCorrection, hc, ← htx, ← hrx, Option.getD_some]

end

theorem exec_ptpAnnounceTimeout_of_passed {s : State} {e : Nat} {c : PtpClient} (hactive : s.eth.ptpActive = some e)
    (hc : activeClient s = some c) (hpassed : passedMs s c.heard (3 * c.interval) = true) :
    exec .ptpAnnounceTimeout s = .next (ptpElect (setEthPort s e { ethPort s e with ptp := none })) := by
  simp only [exec_ptpAnnounceTimeout, execPtpAnnounceTimeout, hactive, hc, hpassed, if_true]

/-! ## The order of frames (R426) -/

/-- A port with an event or control frame sends the first one of the best rank it has. -/
theorem nextFrame_rank {s : State} {p q : EthPort} {f : EthFrame} (h : nextFrame s p = some (f, q)) :
    (p.egress.any (fun x => x.rank == 1) = true → f.rank = 1) ∧
    (p.egress.any (fun x => x.rank == 1) = false → p.egress.any (fun x => x.rank == 2) = true → f.rank = 2) := by
  have hfound : ∀ r, p.egress.any (fun x => x.rank == r) = true →
      ∃ g, p.egress.find? (fun x => x.rank == r) = some g ∧ g.rank = r := by
    intro r hany
    obtain ⟨g, hg⟩ := Option.isSome_iff_exists.1 (List.find?_isSome.2 (List.any_eq_true.1 hany))
    exact ⟨g, hg, by simpa using List.find?_some hg⟩
  constructor
  · intro hevent
    obtain ⟨g, hg, hrank⟩ := hfound 1 hevent
    simp only [nextFrame, hg, Option.some_or, Option.some.injEq, Prod.mk.injEq] at h
    rw [← h.1, hrank]
  · intro hnone hcontrol
    obtain ⟨g, hg, hrank⟩ := hfound 2 hcontrol
    have hno : p.egress.find? (fun x => x.rank == 1) = none := List.find?_eq_none.2 (List.any_eq_false.1 hnone)
    simp only [nextFrame, hno, rankControl, hg, Option.none_or, Option.some.injEq, Prod.mk.injEq] at h
    rw [← h.1, hrank]

/-! ## Links and answers (R412 to R414, R428) -/

section
variable {s : State} {e : Nat}

theorem exec_ethernetLinkUp_of_offered {rate i : Nat} (hrate : rateIndex rate = some i) (he : e < 8)
    (hrun : lanesMayRun s = true) (hclock : s.pwr.clocksLost.contains 5 = false) (hi : i ≤ reg s (0x4100 + e) 0x02) :
    exec (.ethernetLinkUp e rate) s =
      .next (setReg (setEthPort s e { ethPort s e with up := true, rate := rate, bufferedAt := s.now })
        (0x4100 + e) 0x01 (i + 1)) := by
  simp only [exec_ethernetLinkUp, execEthernetLinkUp, hrate]
  rw [if_pos ⟨he, hrun, hclock, hi⟩]

theorem exec_ethernetLinkDown_of_up (he : e < 8) (hup : ethUp s e = true) :
    exec (.ethernetLinkDown e) s = .next (ptpElect (setReg (setEthPort s e {}) (0x4100 + e) 0x01 0)) := by
  rw [exec_ethernetLinkDown, execEthernetLinkDown, if_pos ⟨he, hup⟩, ethDown]

theorem exec_ethernetFrameDiscard_of_up (he : e < 8) (hup : ethUp s e = true) :
    exec (.ethernetFrameDiscard e) s = .next (bump s (0x4100 + e) 0x0A) := by
  rw [exec_ethernetFrameDiscard, execEthernetFrameDiscard, if_pos ⟨he, hup⟩]

theorem exec_managementAutonegTimeout_of_passed (hauto : reg s 0x4000 0x06 = 2) (hmode : s.eth.mgmtMode = 0)
    (hpower : s.pwr.pwrOk = true) (hpassed : passedMs s s.eth.mgmtSince 1000 = true) :
    exec .managementAutonegTimeout s = .next { s with eth := { s.eth with mgmtMode := 1, mgmtSince := s.now } } := by
  rw [exec_managementAutonegTimeout, execManagementAutonegTimeout, if_pos ⟨hauto, hmode, hpower, hpassed⟩]

/-- A port that answers gives its address where the request is for it, and an echo. -/
theorem exec_requests_of_answers (address : Nat) (data : Bytes) (h : answers s e = true) :
    exec (.arpRequest e address) s =
      .next (if ipv4Of s e = some address then ethAnswer s e 0 (macOf e) else s) ∧
    exec (.neighborSolicitation e address) s =
      .next (if address = linkLocal e ∨ ipv6Of s e = some address then ethAnswer s e 1 (macOf e) else s) ∧
    exec (.icmpEcho e data) s = .next (ethAnswer s e 2 data) := by
  simp only [exec_arpRequest, execArpRequest, exec_neighborSolicitation, execNeighborSolicitation, exec_icmpEcho,
    execIcmpEcho, h, true_and, if_true, and_self]

/-- One that does not answers nothing. -/
theorem exec_requests_of_silent (address : Nat) (data : Bytes) (h : answers s e = false) :
    exec (.arpRequest e address) s = .next s ∧ exec (.neighborSolicitation e address) s = .next s ∧
      exec (.icmpEcho e data) s = .next s := by
  simp only [exec_arpRequest, execArpRequest, exec_neighborSolicitation, execNeighborSolicitation, exec_icmpEcho,
    execIcmpEcho, h, Bool.false_eq_true, false_and, if_false, and_self]

end

/-- Settles O50: the two PTP messages, the frame that leaves next, the links, and what a port answers. -/
theorem ethernetPortsAndTheirTime : Obligations.EthernetPortsAndTheirTime := by
  refine ⟨?announce, ?sync, fun s p q f => nextFrame_rank, fun s e c => exec_ptpAnnounceTimeout_of_passed, ?up,
    fun s e he hup => ⟨exec_ethernetLinkDown_of_up he hup, exec_ethernetFrameDiscard_of_up he hup⟩,
    fun s => exec_managementAutonegTimeout_of_passed, fun s e => exec_requests_of_answers,
    fun s e => exec_requests_of_silent⟩
  case announce =>
    intro s u e rank identity utc interval scale leap marked he hup hclient htaken
    exact exec_ptpMessage_announce he hup hclient htaken
  case sync =>
    intro s u e time delay offset tx rx c marked he hup hclient htaken hc htx hrx
    exact exec_ptpMessage_sync he hup hclient htaken hc htx hrx
  case up =>
    intro s e rate i hrate he hrun hclock hi
    exact exec_ethernetLinkUp_of_offered hrate he hrun hclock hi

end Sys2Proof.Machine
end

section
/-! PROOFS. Dexol sessions, the requests of the object dictionary, subscriptions, and pushes through the dictionary
(R434 to R451, R508). -/

namespace Sys2Proof.Machine

/-! ## The commands and their meanings -/

theorem exec_openSession (port : Nat) (address d : Bytes) (s : State) :
    exec (.openSession port address d) s = execOpenSession port address d s := rfl

theorem exec_close (id seq : Nat) (s : State) : exec (.close id seq) s = execClose id seq s := rfl

theorem exec_keepalive (id seq : Nat) (s : State) : exec (.keepalive id seq) s = execKeepalive id seq s := rfl

theorem exec_sessionIdleTimeout (id : Nat) (s : State) :
    exec (.sessionIdleTimeout id) s = execSessionIdleTimeout id s := rfl

theorem exec_dexolDatagramDiscard (s : State) : exec .dexolDatagramDiscard s = execDexolDatagramDiscard s := rfl

theorem exec_dexolRead (via : Via) (idx sub offset length : Nat) (arg : Bytes) (s : State) :
    exec (.dexolRead via idx sub offset length arg) s = execDexolRead via idx sub offset length arg s := rfl

theorem exec_dexolWrite (via : Via) (idx sub group offset : Nat) (last : Bool) (b : Bytes) (s : State) :
    exec (.dexolWrite via idx sub group offset last b) s = execDexolWrite via idx sub group offset last b s := rfl

theorem exec_commit (via : Via) (group : Nat) (scope : Option Nat) (s : State) :
    exec (.commit via group scope) s = execCommit via group scope s := rfl

theorem exec_discard (via : Via) (group : Nat) (scope : Option Nat) (s : State) :
    exec (.discard via group scope) s = execDiscard via group scope s := rfl

theorem exec_subscribe (id seq subId idx sub : Nat) (periodic : Bool) (period : Nat) (s : State) :
    exec (.subscribe id seq subId idx sub periodic period) s = execSubscribe id seq subId idx sub periodic period s := rfl

theorem exec_unsubscribe (id seq subId : Nat) (s : State) :
    exec (.unsubscribe id seq subId) s = execUnsubscribe id seq subId s := rfl

theorem exec_notify (id k : Nat) (s : State) : exec (.notify id k) s = execNotify id k s := rfl

theorem exec_c0QueuePush (via : Via) (q : Nat) (b : Bytes) (s : State) :
    exec (.c0QueuePush via q b) s = execC0QueuePush via q b s := rfl

theorem exec_fQueueOpen (via : Via) (q : Nat) (b : Bytes) (s : State) :
    exec (.fQueueOpen via q b) s = execFQueueOpen via q b s := rfl

/-! ## OPEN (R442, R443) -/

/-- An OPEN of the right layout and of an admitted key: its signature and the shared secret decide. The two draws are
the part's own secret and its nonce. -/
theorem exec_openSession_of_admitted {s : State} {port : Nat} {address d : Bytes} (hpower : s.pwr.pwrOk = true)
    (hform : openLayoutOk d = true) (hport : carriesDexol s port = true) (hkey : admitsOpen s port (openFields d) = true) :
    exec (.openSession port address d) s =
      let secret := Config.randomBytes s.fresh 32
      let shared := Config.x25519 secret (openFields d).ephemeral
      .next (if Config.ed25519Verify (openFields d).key (dexolName ++ d.take 116) ((d.drop 116).take 64) = false then
          discardDatagram s
        else if shared.all (· == 0) then discardDatagram (draw (draw s))
        else answerOpen (draw (draw s)) port address d secret (padTo 16 (Config.randomBytes (draw s).fresh 16)) shared) := by
  rw [exec_openSession, execOpenSession, if_neg (by simp [hpower])]
  simp only [hform, hport, hkey, Bool.not_true, Bool.or_self, Bool.false_or, Bool.not_eq_true', apply_ite Host.Outcome.next]
  rfl

/-! ## Requests of a session (R444) -/

/-- The session of a request, heard now. -/
def sessionHeard (s : State) (id : Nat) : State := modSession s id fun x => { x with heard := s.now }

section
variable {s : State} {id seq : Nat} {x : Session} (hx : tget s.dict.sessions id = some x)
include hx

theorem withSession_of_below (k : State → Session → State × Answer) (hcase : x.seqCase seq = .below) :
    withSession s id seq k = discardDatagram s := by
  simp only [withSession, hx, hcase]

theorem withSession_of_answered (k : State → Session → State × Answer) {d : Bytes} (hcase : x.seqCase seq = .answered d) :
    withSession s id seq k = dexolOut (sessionHeard s id) x.port id x.address d := by
  simp only [withSession, hx, hcase]
  rfl

theorem withSession_of_new (k : State → Session → State × Answer) (hcase : x.seqCase seq = .new) :
    withSession s id seq k = replyTo (k (sessionHeard s id) x).1 x id seq (k (sessionHeard s id) x).2 := by
  simp only [withSession, hx, hcase]
  rfl

theorem exec_keepalive_of_new (hcase : x.seqCase seq = .new) :
    exec (.keepalive id seq) s = .next (replyTo (sessionHeard s id) x id seq (answer Code.ok)) := by
  rw [exec_keepalive, execKeepalive, withSession_of_new hx _ hcase]

/-- A CLOSE is answered, and then the session is gone. -/
theorem exec_close_of_new (hcase : x.seqCase seq = .new) :
    exec (.close id seq) s = .next (closeSession (replyTo (sessionHeard s id) x id seq (answer Code.ok)) id) := by
  have hnew : isNew s id seq = true := by simp only [isNew, hx, hcase, beq_self_eq_true]
  simp only [exec_close, execClose, hnew, if_true, withSession_of_new hx _ hcase]

theorem exec_sessionIdleTimeout_of_open :
    exec (.sessionIdleTimeout id) s =
      .next (if passedMs s x.heard (reg s 0x1010 0x03) then closeSession s id else s) := by
  simp only [exec_sessionIdleTimeout, execSessionIdleTimeout, hx]

end

/-- Settles O51: an OPEN, a request by its number, and the two ends of a session. -/
theorem sessionsOpenLiveAndClose : Obligations.SessionsOpenLiveAndClose := by
  refine ⟨?opened, ?request, ?closed, fun s id x => exec_sessionIdleTimeout_of_open, fun s => rfl⟩
  case opened =>
    rintro s port _ _ address d _ hpower hform hport hkey rfl rfl rfl
    exact exec_openSession_of_admitted hpower hform hport hkey
  case request =>
    intro s id seq x k hx
    exact ⟨withSession_of_below hx k, fun d => withSession_of_answered hx k, withSession_of_new hx k⟩
  case closed =>
    rintro s _ id seq x hx hcase rfl
    exact ⟨exec_keepalive_of_new hx hcase, exec_close_of_new hx hcase⟩

/-! ## READ and WRITE (R434 to R438, R447) -/

section
variable {s t : State} {via : Via} {w : Who} (ha : askedBy s via = some (t, w))
include ha

theorem exec_dexolRead_of_asked (idx sub offset length : Nat) (arg : Bytes) :
    exec (.dexolRead via idx sub offset length arg) s = answersTo s t via (dictRead t w idx sub offset length arg) := by
  rw [exec_dexolRead, execDexolRead, withVia_asked ha]

/-- A write of a value of its entry's length that passes its checks is accepted. -/
theorem exec_dexolWrite_of_allowed {e : Entry} {idx sub group : Nat} (offset : Nat) (last : Bool) {b : Bytes}
    (he : entryAt idx sub = some e) (hty : e.ty ≠ .domain) (hgroup : group ≤ 255) (hstaged : group ≠ 0 → e.access = .rws)
    (hlen : b.length = e.ty.bytes.getD 0) (hw : writeStatus t w idx sub (ofLe b) = Code.ok) :
    exec (.dexolWrite via idx sub group offset last b) s =
      answersTo s (acceptWrite t w e idx sub group b).1 via (answer (acceptWrite t w e idx sub group b).2) := by
  have hfits : ¬(255 < group ∨ (group ≠ 0 ∧ e.access ≠ .rws)) := by
    rintro (h | ⟨h, hno⟩)
    · omega
    · exact hno (hstaged h)
  have hwrite : dictWrite t via w idx sub group offset last b = plainAnswer (acceptWrite t w e idx sub group b) := by
    simp only [dictWrite, he, if_neg hfits, if_neg hty, hlen, ne_eq, not_true_eq_false, if_false, guarded_ok hw]
  rw [exec_dexolWrite, execDexolWrite, withVia_asked ha, hwrite, plainAnswer]

end

/-- A whole DOMAIN value of the firmware's that passes its checks is written by its block. -/
theorem exec_dexolWrite_of_block {s : State} {e : Entry} {idx sub : Nat} (offset : Nat) (last : Bool) {b : Bytes}
    (he : entryAt idx sub = some e) (hty : e.ty = .domain) (hother : ¬(idx = 0xA000 ∧ sub = 0x04))
    (hlen : b.length ≤ 2 ^ 20) (hw : writeStatus s { principal := 3 } idx sub 0 = Code.ok) :
    exec (.dexolWrite .firmware idx sub 0 offset last b) s =
      answersTo s (writeBlock s { principal := 3 } idx sub b).1 .firmware (writeBlock s { principal := 3 } idx sub b).2 := by
  have ha : askedBy s .firmware = some (s, { principal := 3 }) := rfl
  have hwrite : dictWrite s .firmware { principal := 3 } idx sub 0 offset last b = writeBlock s { principal := 3 } idx sub b := by
    have hshort : ¬1048576 < b.length := Nat.not_lt.2 hlen
    simp [dictWrite, he, hty, writeDomain, otherTransfer, hother, hshort, guarded_ok hw]
  rw [exec_dexolWrite, execDexolWrite, withVia_asked ha, hwrite]

/-! ## COMMIT and DISCARD (R436, R449) -/

section
variable {s t : State} {via : Via} {w : Who} {group : Nat} {scope : Option Nat} (ha : askedBy s via = some (t, w))
  (hgroup : group ≤ 255)
include ha hgroup

theorem exec_commit_of_scope {c : Nat} (hc : scopeOf w scope = .ok c) :
    exec (.commit via group scope) s =
      let r := applyShadows t c group
      answersTo s r.1 via { status := if r.2.2 = 0 then Code.ok else Code.misaligned, detail := r.2.1 } := by
  rw [exec_commit, execCommit, withVia_asked ha]
  simp only [commitByDict, if_neg (Nat.not_lt.2 hgroup), hc]

theorem exec_discard_of_scope {c : Nat} (hc : scopeOf w scope = .ok c) :
    exec (.discard via group scope) s =
      let u := dropShadows t c group
      answersTo s u via { detail := t.dict.shadows.length - u.dict.shadows.length } := by
  rw [exec_discard, execDiscard, withVia_asked ha]
  simp only [discardByDict, if_neg (Nat.not_lt.2 hgroup), hc]

/-- A scope that may not be named is refused by both. -/
theorem exec_commit_discard_of_refused {st : Status} (hst : scopeOf w scope = .error st) :
    exec (.commit via group scope) s = answersTo s t via (answer st) ∧
      exec (.discard via group scope) s = answersTo s t via (answer st) := by
  rw [exec_commit, execCommit, withVia_asked ha, exec_discard, execDiscard, withVia_asked ha]
  simp only [commitByDict, discardByDict, if_neg (Nat.not_lt.2 hgroup), hst, and_self]

end

/-- Settles O52: a READ, a WRITE by its entry's class and one of a block, and an apply of a scope. -/
theorem dictionaryReadsWritesAndCommits : Obligations.DictionaryReadsWritesAndCommits := by
  refine ⟨?read, ?write, ?block, ?scope, ?refused⟩
  case read =>
    intro s t via w idx sub offset length arg ha
    exact exec_dexolRead_of_asked ha idx sub offset length arg
  case write =>
    intro s t via w e idx sub group offset last b ha he hty hgroup hstaged hlen hw
    rw [exec_dexolWrite_of_allowed ha offset last he hty hgroup hstaged hlen hw, acceptWrite, stageWrite]
  case block =>
    intro s e idx sub offset last b he hty hother hlen hw
    exact exec_dexolWrite_of_block offset last he hty hother hlen hw
  case scope =>
    intro s t via w group c scope ha hgroup hc
    exact ⟨exec_commit_of_scope ha hgroup hc, exec_discard_of_scope ha hgroup hc⟩
  case refused =>
    intro s t via w group scope st ha hgroup hst
    exact exec_commit_discard_of_refused ha hgroup hst

/-! ## Subscriptions (R450, R451) -/

section
variable {s : State} {id seq : Nat} {x : Session} (hx : tget s.dict.sessions id = some x)
include hx

section
variable (hcase : x.seqCase seq = .new)
include hcase

/-- The subscription that a SUBSCRIBE makes: it begins with the value and the fault queue's head of that moment. -/
def subscriptionOf (t : State) (idx sub : Nat) (periodic : Bool) (period : Nat) : Subscription :=
  { idx := idx, sub := sub, periodic := periodic, period := period, since := t.now, lastValue := watchedValue t idx sub
    nextFault := headSeq t }

theorem exec_subscribe_of_allowed {subId idx sub period : Nat} {periodic : Bool}
    (hst : subscribeStatus (sessionHeard s id) { principal := x.principal, ctx := x.ctx } x subId idx sub periodic period =
      Code.ok) :
    exec (.subscribe id seq subId idx sub periodic period) s =
      .next (replyTo (modSession (sessionHeard s id) id fun x =>
        { x with subs := tset x.subs subId (subscriptionOf (sessionHeard s id) idx sub periodic period) })
        x id seq (answer Code.ok)) := by
  rw [exec_subscribe, execSubscribe, withSession_of_new hx _ hcase]
  simp only [hst, ne_eq, not_true_eq_false, if_false]
  rfl

theorem exec_unsubscribe_of_new (subId : Nat) :
    exec (.unsubscribe id seq subId) s =
      .next (replyTo (modSession (sessionHeard s id) id fun x => { x with subs := tdel x.subs subId }) x id seq
        (answer Code.ok)) := by
  rw [exec_unsubscribe, execUnsubscribe, withSession_of_new hx _ hcase]

end

theorem exec_notify_of_due {k n : Nat} {y : Subscription} (hy : tget x.subs k = some y) (hdue : notifyDue s y = true)
    (hn : n = (x.notified + 1) % 2 ^ 32) :
    exec (.notify id k) s =
      .next (dexolOut (modSession s id fun x => { x with notified := n, subs := tset x.subs k (noteSent s y) })
        x.port id x.address (dexolSealed s x id 0x22 n 2 (notifyBody s k y))) := by
  simp only [exec_notify, execNotify, hx, hy, hdue, Bool.true_eq_false, if_false, ← hn]

end

/-! ## Pushes to queues of C0, and F-queues (R508) -/

/-- A queue of C0 that takes a push of some descriptors: open, of the quarter and the principal's kind, with room. -/
structure TakesPush (t : State) (w : Who) (q queue n : Nat) (r : Queue) : Prop where
  queue : queueOf t 0 queue = some r
  notClosed : r.state ≠ .closed
  notDraining : r.state ≠ .draining
  quarter : r.quarter = q
  kind : r.fQueue = (w.principal == 3)
  room : n ≤ ringFree r

theorem TakesPush.status_ok {t : State} {w : Who} {q queue n : Nat} {r : Queue} (h : TakesPush t w q queue n r) :
    c0PushStatus t w q queue n = Code.ok := by
  have hown : ¬(r.quarter ≠ q ∨ r.fQueue ≠ (w.principal == 3)) := by simp [h.quarter, h.kind]
  simp only [c0PushStatus, h.queue, if_neg h.notClosed, if_neg h.notDraining, if_neg hown, if_neg (Nat.not_lt.2 h.room)]

section
variable {s t : State} {via : Via} {w : Who} {q : Nat} {b : Bytes} (ha : askedBy s via = some (t, w))
  (hctx : namedCtxStatus t 0 = Code.ok)
include ha hctx

theorem exec_c0QueuePush_of_taken {queue n : Nat} {r : Queue} (ho : otherTransfer t via (0x2000 + q) 0x22 = false)
    (hw : writeStatus t w (0x2000 + q) 0x22 0 = Code.ok) (hqueue : queue = ofLe (b.take 2)) (hlen : b.length = 2 + 64 * n)
    (hmin : 4 ≤ n) (hmax : n ≤ 128) (hno : queue < 1024) (h : TakesPush t w q queue n r) :
    exec (.c0QueuePush via q b) s =
      answersTo s (appendDescs t 0 queue (descsOf (b.drop 2)) none) via (answer Code.ok) := by
  have hn : (b.length - 2) / 64 = n := by omega
  have hform : ¬(b.length ≠ 2 + 64 * n ∨ n < 4 ∨ 128 < n ∨ 1024 ≤ queue) := by omega
  have hpush : pushByDict t w q b = (appendDescs t 0 queue (descsOf (b.drop 2)) none, Code.ok) := by
    simp only [pushByDict, hn, ← hqueue, if_neg hform, hctx, h.status_ok, ne_eq, not_true_eq_false, if_false, if_true]
  rw [exec_c0QueuePush, execC0QueuePush, withVia_asked ha, guardedBlock_ok ho hw, hpush, plainAnswer]

/-- A record that OPEN_QUEUE would accept opens an F-queue. -/
theorem exec_fQueueOpen_of_allowed {x : BitVec 96} {r : Queue} (ho : otherTransfer t via (0x2000 + q) 0x23 = false)
    (hw : writeStatus t w (0x2000 + q) 0x23 0 = Code.ok) (hlen : b.length = 12) (hx : x = BitVec.ofNat 96 (ofLe b))
    (hr : r = queueRecord x 0) (hform : queueMisaligned x = false) (hzero : bits x 0 12 = 0) (hquarter : r.quarter = q)
    (hnew : queueOf t 0 r.queue = none) (hfits : queueFits t r = true) :
    exec (.fQueueOpen via q b) s = answersTo s (enterQueue t { r with fQueue := true }) via (answer Code.ok) := by
  have hopen : openFByDict t q b = (enterQueue t { r with fQueue := true }, Code.ok) := by
    have hformed : (b.length != 12 || queueMisaligned x || bits x 0 12 != 0 || r.quarter != q) = false := by
      simp [hlen, hform, hzero, hquarter]
    simp only [openFByDict, ← hx, ← hr, firstOf, hformed, hctx, hnew, hfits]
    rfl
  rw [exec_fQueueOpen, execFQueueOpen, withVia_asked ha, guardedBlock_ok ho hw, hopen, plainAnswer]

end

/-- Settles O53: a subscription made, removed and due, a push to a queue of C0, and an F-queue opened. -/
theorem subscriptionsAndFirmwareQueues : Obligations.SubscriptionsAndFirmwareQueues := by
  refine ⟨?subscribe, fun s id seq subId x hx hcase => exec_unsubscribe_of_new hx hcase subId, ?notify, ?push, ?opened⟩
  case subscribe =>
    rintro s _ _ id seq subId idx sub period periodic x _ hx hcase rfl hst rfl rfl
    exact exec_subscribe_of_allowed hx hcase hst
  case notify =>
    intro s id k n x y hx hy hdue hn
    exact exec_notify_of_due hx hy hdue hn
  case push =>
    intro s t via w q queue b n r ha ho hw hqueue hlen hmin hmax hno hctx hr hopen hlive hquarter hkind hroom
    exact exec_c0QueuePush_of_taken ha hctx ho hw hqueue hlen hmin hmax hno ⟨hr, hopen, hlive, hquarter, hkind, hroom⟩
  case opened =>
    intro s t via w q b x r ha ho hw hlen hx hr hform hzero hquarter hctx hnew hfits
    exact exec_fQueueOpen_of_allowed ha hctx ho hw hlen hx hr hform hzero hquarter hnew hfits

end Sys2Proof.Machine
end

section
/-! PROOFS. Firmware: updates of the inactive bank, the cores and their watchdogs, host-loaded items and attestation
(R461 to R474). -/

namespace Sys2Proof.Machine

/-! ## The commands and their meanings -/

theorem exec_imageSegmentWrite (via : Via) (offset : Nat) (b : Bytes) (s : State) :
    exec (.imageSegmentWrite via offset b) s = execImageSegmentWrite via offset b s := rfl

theorem exec_updateVerify (via : Via) (s : State) : exec (.updateVerify via) s = execUpdateVerify via s := rfl

theorem exec_updateActivate (via : Via) (s : State) : exec (.updateActivate via) s = execUpdateActivate via s := rfl

theorem exec_updateCancel (via : Via) (s : State) : exec (.updateCancel via) s = execUpdateCancel via s := rfl

theorem exec_updateCommit (via : Via) (s : State) : exec (.updateCommit via) s = execUpdateCommit via s := rfl

theorem exec_firmwareRestart (via : Via) (s : State) : exec (.firmwareRestart via) s = execFirmwareRestart via s := rfl

theorem exec_activationDeferralEnd (s : State) : exec .activationDeferralEnd s = execActivationDeferralEnd s := rfl

theorem exec_trialFail (s : State) : exec .trialFail s = execTrialFail s := rfl

theorem exec_firmwareCoreRunning (core : Nat) (s : State) :
    exec (.firmwareCoreRunning core) s = execFirmwareCoreRunning core s := rfl

theorem exec_watchdogExpire (core : Nat) (s : State) : exec (.watchdogExpire core) s = execWatchdogExpire core s := rfl

theorem exec_operatorKeyWrite (via : Via) (key : Bytes) (s : State) :
    exec (.operatorKeyWrite via key) s = execOperatorKeyWrite via key s := rfl

theorem exec_trustListLoad (via : Via) (data : Bytes) (s : State) :
    exec (.trustListLoad via data) s = execTrustListLoad via data s := rfl

theorem exec_topologyMapLoad (via : Via) (data : Bytes) (s : State) :
    exec (.topologyMapLoad via data) s = execTopologyMapLoad via data s := rfl

theorem exec_tenantPolicyLoad (via : Via) (data : Bytes) (s : State) :
    exec (.tenantPolicyLoad via data) s = execTenantPolicyLoad via data s := rfl

theorem exec_attestationQuote (via : Via) (nonce : Bytes) (s : State) :
    exec (.attestationQuote via nonce) s = execAttestationQuote via nonce s := rfl

/-! ## Segments and the update commands (R468 to R471) -/

/-- A segment that fits goes into the bank that is not active. -/
theorem writeSegment_of_fits {t : State} {offset : Nat} {b : Bytes} (hsec : inService t 0 = true)
    (hst : updState t = 0 ∨ updState t = 1 ∨ updState t = 5) (hfit : offset + b.length ≤ bankSize) :
    writeSegment t offset b =
      (setUpd (setFw t (if reg t 0xA000 0x01 = 0 then { t.fw with bankB := writeRun t.fw.bankB offset b }
        else { t.fw with bankA := writeRun t.fw.bankA offset b })) 1, Code.ok) := by
  have hopen : ¬(inService t 0 = false ∨ ¬(updState t = 0 ∨ updState t = 1 ∨ updState t = 5)) := by simp [hsec, hst]
  simp only [writeSegment, if_neg hopen, if_neg (Nat.not_lt.2 hfit)]
  by_cases hactive : reg t 0xA000 0x01 = 0
  · simp only [hactive, if_true, bankOf, Nat.sub_zero, Nat.one_ne_zero, if_false]
  · have hother : 1 - reg t 0xA000 0x01 = 0 := by omega
    simp only [hactive, if_false, bankOf, hother, if_true]

/-- A verify in state 1 tells by the images of the bank that is not active. -/
theorem verifyBank_of_written {t : State} (hsec : inService t 0 = true) (hst : updState t = 1) :
    verifyBank t = (setUpd t (if (bankImages t (1 - reg t 0xA000 0x01)).toBool then 2 else 5),
      statusOf (bankImages t (1 - reg t 0xA000 0x01))) := by
  have hopen : ¬(updState t ≠ 1 ∨ inService t 0 = false) := by simp [hsec, hst]
  simp only [verifyBank, if_neg hopen]
  cases bankImages t (1 - reg t 0xA000 0x01) with
  | ok images => rfl
  | error st => rfl

theorem activate_of_verified {t : State} (hsec : inService t 0 = true) (hst : updState t = 2)
    (hidle : t.fw.activating = false) :
    activate t = if deferred t then (setUpd (setFw t { t.fw with deferred := 1 }) 3, Code.deferred)
      else (swapBank t true, Code.ok) :=
  if_neg (by simp [hsec, hst, hidle])

theorem cancelUpdate_of_deferred {t : State} (hsec : inService t 0 = true) (hst : updState t = 3) :
    cancelUpdate t = (setUpd (setFw t { t.fw with deferred := 0 }) 2, Code.ok) :=
  if_neg (by simp [hsec, hst])

theorem commitUpdate_of_running {t : State} (hsec : inService t 0 = true) (hst : updState t = 0 ∨ updState t = 4)
    (hsvn : reg t 0xA000 0x02 ≤ 64) :
    commitUpdate t = if deferred t then (setFw t { t.fw with deferred := 2 }, Code.deferred)
      else (commitFuses t, Code.ok) :=
  (if_neg (by simp [hsec, hst])).trans (if_neg (Nat.not_lt.2 hsvn))

/-- A commit blows the fuses up to the SVN of the active bank, and never down. -/
theorem reg_commitFuses_fuses (s : State) :
    reg (commitFuses s) 0xA000 0x03 = max (reg s 0xA000 0x03) (reg s 0xA000 0x02) := by
  rw [commitFuses, setUpd, reg_setReg_ne (by decide), reg_setReg_self]

theorem updState_setUpd (s : State) (n : Nat) : updState (setUpd s n) = n := reg_setReg_self s _ _ n

section
variable {s t : State} {via : Via} {w : Who} (ha : askedBy s via = some (t, w))
include ha

theorem exec_imageSegmentWrite_of_asked (offset : Nat) (b : Bytes) (ho : otherTransfer t via 0xA000 0x04 = false)
    (hw : writeStatus t w 0xA000 0x04 0 = Code.ok) :
    exec (.imageSegmentWrite via offset b) s =
      answersTo s (writeSegment t offset b).1 via (answer (writeSegment t offset b).2) := by
  rw [exec_imageSegmentWrite, execImageSegmentWrite, withVia_asked ha, guardedBlock_ok ho hw, plainAnswer]

theorem exec_updateVerify_of_asked (hw : writeStatus t w 0xA000 0x05 1 = Code.ok) :
    exec (.updateVerify via) s = answersTo s (verifyBank t).1 via (answer (verifyBank t).2) := by
  rw [exec_updateVerify, execUpdateVerify, withVia_asked ha, guarded_ok hw, plainAnswer, updateCommand]

theorem exec_updateActivate_of_asked (hw : writeStatus t w 0xA000 0x05 2 = Code.ok) :
    exec (.updateActivate via) s = answersTo s (activate t).1 via (answer (activate t).2) := by
  rw [exec_updateActivate, execUpdateActivate, withVia_asked ha, guarded_ok hw, plainAnswer, updateCommand]

theorem exec_updateCancel_of_asked (hw : writeStatus t w 0xA000 0x05 3 = Code.ok) :
    exec (.updateCancel via) s = answersTo s (cancelUpdate t).1 via (answer (cancelUpdate t).2) := by
  rw [exec_updateCancel, execUpdateCancel, withVia_asked ha, guarded_ok hw, plainAnswer, updateCommand]

theorem exec_updateCommit_of_asked (hw : writeStatus t w 0xA000 0x05 4 = Code.ok) :
    exec (.updateCommit via) s = answersTo s (commitUpdate t).1 via (answer (commitUpdate t).2) := by
  rw [exec_updateCommit, execUpdateCommit, withVia_asked ha, guarded_ok hw, plainAnswer, updateCommand]

theorem exec_firmwareRestart_of_asked (hw : writeStatus t w 0xA000 0x05 5 = Code.ok) :
    exec (.firmwareRestart via) s = answersTo s (reloadCores t) via (answer Code.ok) := by
  rw [exec_firmwareRestart, execFirmwareRestart, withVia_asked ha, guarded_ok hw, plainAnswer]
  rfl

end

/-- A second after the last deferring condition, what was deferred goes on. -/
theorem exec_activationDeferralEnd_of_clear {s : State} {t : Nat} (hclear : s.fw.clearSince = some t)
    (hdeferred : s.fw.deferred ≠ 0) (hnow : deferring s = false) (hpassed : passedMs s t 1000 = true) :
    exec .activationDeferralEnd s = .next (if s.fw.deferred = 1 then swapBank s true else commitFuses s) := by
  have hdue : ¬(s.fw.deferred = 0 ∨ deferring s = true ∨ passedMs s t 1000 = false) := by simp [hdeferred, hnow, hpassed]
  simp only [exec_activationDeferralEnd, execActivationDeferralEnd, hclear, if_neg hdue, apply_ite Host.Outcome.next]

/-- Settles O54: each update command by the state of Table 6 that takes it, the deferral, and the trial. -/
theorem updateCommandsFollowTheTable : Obligations.UpdateCommandsFollowTheTable := by
  refine ⟨?segment, ?verify, ?activate, ?cancel, ?commit, ?restart, ?deferral, ?trial, ?fuses⟩
  case segment =>
    rintro s t _ via w offset b ha ho hw hsec hst hfit rfl
    rw [exec_imageSegmentWrite_of_asked ha offset b ho hw, writeSegment_of_fits hsec hst hfit]
  case verify =>
    rintro s t via w _ ha hw hsec hst rfl
    rw [exec_updateVerify_of_asked ha hw, verifyBank_of_written hsec hst]
  case activate =>
    intro s t via w ha hw hsec hst hidle
    rw [exec_updateActivate_of_asked ha hw, activate_of_verified hsec hst hidle]
    split <;> rfl
  case cancel =>
    intro s t via w ha hw hsec hst
    rw [exec_updateCancel_of_asked ha hw, cancelUpdate_of_deferred hsec hst]
  case commit =>
    intro s t via w ha hw hsec hst hsvn
    rw [exec_updateCommit_of_asked ha hw, commitUpdate_of_running hsec hst hsvn]
    split <;> rfl
  case restart =>
    intro s t via w ha hw
    exact exec_firmwareRestart_of_asked ha hw
  case deferral =>
    intro s t hclear hdeferred hnow hpassed
    exact exec_activationDeferralEnd_of_clear hclear hdeferred hnow hpassed
  case trial =>
    intro s htrial hfailed
    exact if_pos ⟨htrial, hfailed⟩
  case fuses =>
    intro s
    exact ⟨reg_commitFuses_fuses s, updState_setUpd _ 0, rfl, rfl, rfl, rfl⟩

/-! ## Cores and watchdogs (R461, R469, R473) -/

theorem exec_firmwareCoreRunning_bench {s : State} (hpower : s.pwr.pwrOk = true) (himages : s.fw.images ≠ []) :
    exec (.firmwareCoreRunning 7) s = .next (setFw s { s.fw with bench := true }) := by
  have hruns : ¬(s.pwr.pwrOk = false ∨ s.fw.images.isEmpty = true ∨ 7 < 7) := by simp [hpower, himages]
  rw [exec_firmwareCoreRunning, execFirmwareCoreRunning, if_neg hruns, if_pos rfl]

/-- A core that runs enters service, behind a bench complex that runs. -/
theorem exec_firmwareCoreRunning_core {s t u : State} {core : Nat} (hpower : s.pwr.pwrOk = true)
    (himages : s.fw.images ≠ []) (hcore : core < 7) (hbench : s.fw.bench = true)
    (hgoes : ((tget s.fw.cores core).map (·.stopped)).getD false = false) (ht : t = setService s core true)
    (hu : u = if reg t 0xA000 0x0D &&& 0x7F = 0x7F then setService t 7 false else t) :
    exec (.firmwareCoreRunning core) s =
      .next (if core = 0 ∧ u.fw.activating = true then setUpd (setFw u { u.fw with activating := false }) 4 else u) := by
  have hruns : ¬(s.pwr.pwrOk = false ∨ s.fw.images.isEmpty = true ∨ 7 < core) := by
    simp [hpower, himages, Nat.not_lt.2 (Nat.le_of_lt hcore)]
  have hstarts : ¬(s.fw.bench = false ∨ ((tget s.fw.cores core).map (·.stopped)).getD false = true) := by
    simp only [hbench, hgoes, Bool.true_eq_false, Bool.false_eq_true, or_self, not_false_eq_true]
  rw [exec_firmwareCoreRunning, execFirmwareCoreRunning, if_neg hruns, if_neg (Nat.ne_of_lt hcore), if_neg hstarts, hu, ht]
  rfl

/-- When a core has last expired. -/
def expiredAt (s : State) (core : Nat) : Option Nat := (tget s.fw.cores core).bind (·.expired)

/-- The state after an expiry is counted and noted for its core. -/
def expiryNoted (s : State) (core : Nat) : State :=
  setFw (bump s 0xA000 0x0F)
    { s.fw with
      cores := tset s.fw.cores core { expired := some s.now }
      twice := s.fw.twice || (expiredAt s core).isSome }

/-- Whether an expiry of a core is its second within 60 s. -/
def expiresTwice (s : State) (core : Nat) : Bool := (expiredAt s core).any fun x => !passedMs s x 60000

theorem expiresTwice_of_all {s : State} {core : Nat}
    (hfirst : (expiredAt s core).all (fun x => passedMs s x 60000) = true) : expiresTwice s core = false := by
  rw [expiresTwice]
  cases hbefore : expiredAt s core with
  | none => rfl
  | some x =>
    rw [hbefore, Option.all_some] at hfirst
    rw [Option.any_some, hfirst, Bool.not_true]

theorem expiresTwice_of_soon {s : State} {core x : Nat} (hbefore : expiredAt s core = some x)
    (hsoon : passedMs s x 60000 = false) : expiresTwice s core = true := by
  rw [expiresTwice, hbefore, Option.any_some, hsoon, Bool.not_false]

/-- The state after the bench complex has failed. -/
def benchFailed (s : State) : State := setService (setFw s { s.fw with bench := false }) 7 false

/-- The state after the bench complex has failed for good: nothing is in service. -/
def benchStopped (s : State) : State :=
  setReg (setFw s { s.fw with cores := tset s.fw.cores 7 { expired := some s.now, stopped := true } }) 0xA000 0x0D 0

theorem expiryNoted_mem (s : State) (core : Nat) : (expiryNoted s core).mem = s.mem := rfl

theorem expiryNoted_pwr (s : State) (core : Nat) : (expiryNoted s core).pwr = s.pwr := rfl

theorem benchFailed_bench (s : State) : (benchFailed s).fw.bench = false := rfl

theorem benchFailed_mem (s : State) : (benchFailed s).mem = s.mem := rfl

theorem benchFailed_pwr (s : State) : (benchFailed s).pwr = s.pwr := rfl

theorem reg_benchStopped (s : State) : reg (benchStopped s) 0xA000 0x0D = 0 := reg_setReg_self _ _ _ 0

theorem benchStopped_bench (s : State) : (benchStopped s).fw.bench = s.fw.bench := rfl

theorem benchStopped_mem (s : State) : (benchStopped s).mem = s.mem := rfl

theorem benchStopped_pwr (s : State) : (benchStopped s).pwr = s.pwr := rfl

/-- An expiry of what runs: the bench complex, or a core in service. -/
theorem exec_watchdogExpire_of_running {s : State} {core : Nat}
    (hruns : ¬(7 < core ∨ (if core = 7 then !s.fw.bench else !inService s core) = true)) :
    exec (.watchdogExpire core) s =
      if core = 7 then
        .next (if expiresTwice s core then benchStopped (benchFailed (expiryNoted s core))
          else benchFailed (expiryNoted s core))
      else
        .next (if expiresTwice s core then handOver (setService (expiryNoted s core) core false) core
          else setService (expiryNoted s core) core false) := by
  rw [exec_watchdogExpire, execWatchdogExpire, if_neg hruns, expiresTwice]
  cases hbefore : expiredAt s core with
  | none =>
    rw [expiredAt] at hbefore
    simp only [hbefore, expiryNoted, expiredAt]
    rfl
  | some x =>
    rw [expiredAt] at hbefore
    simp only [hbefore, expiryNoted, expiredAt]
    rfl

section
variable {s : State} {core : Nat} (hcore : core < 7) (hon : inService s core = true)
include hcore hon

theorem exec_watchdogExpire_core :
    exec (.watchdogExpire core) s =
      .next (if expiresTwice s core then handOver (setService (expiryNoted s core) core false) core
        else setService (expiryNoted s core) core false) := by
  have hne : core ≠ 7 := Nat.ne_of_lt hcore
  rw [exec_watchdogExpire_of_running (by simp [hne, hon, Nat.le_of_lt hcore]), if_neg hne]

/-- A first expiry takes the core out of service, to be loaded again. -/
theorem exec_watchdogExpire_first (hfirst : (expiredAt s core).all (fun x => passedMs s x 60000) = true) :
    exec (.watchdogExpire core) s = .next (setService (expiryNoted s core) core false) := by
  rw [exec_watchdogExpire_core hcore hon, expiresTwice_of_all hfirst, if_neg Bool.false_ne_true]

/-- A second expiry within 60 s hands the core's duties to the bench complex. -/
theorem exec_watchdogExpire_second {x : Nat} (hbefore : expiredAt s core = some x) (hsoon : passedMs s x 60000 = false) :
    exec (.watchdogExpire core) s = .next (handOver (setService (expiryNoted s core) core false) core) := by
  rw [exec_watchdogExpire_core hcore hon, expiresTwice_of_soon hbefore hsoon, if_pos rfl]

end

section
variable {s : State} (hbench : s.fw.bench = true)
include hbench

theorem exec_watchdogExpire_bench :
    exec (.watchdogExpire 7) s =
      .next (if expiresTwice s 7 then benchStopped (benchFailed (expiryNoted s 7)) else benchFailed (expiryNoted s 7)) := by
  rw [exec_watchdogExpire_of_running (by simp [hbench]), if_pos rfl]

theorem exec_watchdogExpire_bench_first (hbefore : expiredAt s 7 = none) :
    exec (.watchdogExpire 7) s = .next (benchFailed (expiryNoted s 7)) := by
  rw [exec_watchdogExpire_bench hbench, expiresTwice, hbefore, Option.any_none, if_neg Bool.false_ne_true]

theorem exec_watchdogExpire_bench_second {x : Nat} (hbefore : expiredAt s 7 = some x) (hsoon : passedMs s x 60000 = false) :
    exec (.watchdogExpire 7) s = .next (benchStopped (benchFailed (expiryNoted s 7))) := by
  rw [exec_watchdogExpire_bench hbench, expiresTwice_of_soon hbefore hsoon, if_pos rfl]

/-- The bench complex in the place of the power-management core caps the governor at 1,650 W. -/
theorem reg_handOver_governor : reg (handOver s 1) 0x9000 0x01 = min (reg s 0x9000 0x01) 1650 := by
  have hlimit (v : State) : reg (setService v 7 true) 0x9000 0x01 = reg v 0x9000 0x01 := reg_setReg_ne (by decide) v _
  simp only [handOver, setFw, hbench, if_true, and_self, setService_fw, reg_setReg_self, hlimit]
  rfl

end

/-- Settles O55: a core's start, its first and second expiry, and those of the bench complex. -/
theorem watchdogsResetCoresThenHandOver : Obligations.WatchdogsResetCoresThenHandOver := by
  refine ⟨?bench, ?core, ?first, ?second, ?benchFirst, ?benchSecond, fun s => reg_handOver_governor⟩
  case bench =>
    intro s hpower himages
    exact exec_firmwareCoreRunning_bench hpower himages
  case core =>
    intro s t u core hpower himages hcore hbench hgoes ht hu
    exact exec_firmwareCoreRunning_core hpower himages hcore hbench hgoes ht hu
  case first =>
    rintro s _ core _ hcore hon rfl rfl hfirst
    exact exec_watchdogExpire_first hcore hon hfirst
  case second =>
    rintro s _ core x _ hcore hon hbefore hsoon rfl rfl
    rw [exec_watchdogExpire_second hcore hon hbefore hsoon, expiryNoted, expiredAt, hbefore, Option.isSome_some,
      Bool.or_true]
    rfl
  case benchFirst =>
    rintro s _ _ hbench hbefore rfl rfl
    rw [exec_watchdogExpire_bench_first hbench hbefore, benchFailed, expiryNoted, expiredAt, hbefore, Option.isSome_none,
      Bool.or_false]
    rfl
  case benchSecond =>
    intro s x hbench hbefore hsoon
    refine ⟨_, exec_watchdogExpire_bench_second hbench hbefore hsoon, reg_benchStopped _, ?_, ?_, ?_⟩
    · rw [benchStopped_bench, benchFailed_bench]
    · rw [benchStopped_mem, benchFailed_mem, expiryNoted_mem]
    · rw [benchStopped_pwr, benchFailed_pwr, expiryNoted_pwr]

/-! ## The operator key, host-loaded items and the quote (R462 to R467, R474) -/

section
variable {s t : State} {via : Via} {w : Who} (ha : askedBy s via = some (t, w))
include ha

theorem exec_operatorKeyWrite_of_asked {key : Bytes} (hw : writeStatus t w 0xA000 0x07 0 = Code.ok)
    (hlen : key.length = 32) :
    exec (.operatorKeyWrite via key) s =
      if t.fw.operatorKey.isSome then answersTo s t via (answer Code.locked)
      else answersTo s (setFw t { t.fw with operatorKey := some key }) via (answer Code.ok) := by
  rw [exec_operatorKeyWrite, execOperatorKeyWrite, withVia_asked ha, guarded_ok hw, plainAnswer, if_neg (by simp [hlen])]
  split <;> rfl

theorem exec_trustListLoad_of_asked (data : Bytes) (ho : otherTransfer t via 0xA000 0x08 = false)
    (hw : writeStatus t w 0xA000 0x08 0 = Code.ok) :
    exec (.trustListLoad via data) s = answersTo s (loadTrust t data).1 via (answer (loadTrust t data).2) := by
  rw [exec_trustListLoad, execTrustListLoad, withVia_asked ha, guardedBlock_ok ho hw, plainAnswer]

theorem exec_topologyMapLoad_of_asked (data : Bytes) (ho : otherTransfer t via 0xA000 0x09 = false)
    (hw : writeStatus t w 0xA000 0x09 0 = Code.ok) :
    exec (.topologyMapLoad via data) s = answersTo s (loadMap t data).1 via (answer (loadMap t data).2) := by
  rw [exec_topologyMapLoad, execTopologyMapLoad, withVia_asked ha, guardedBlock_ok ho hw, plainAnswer]

theorem exec_tenantPolicyLoad_of_asked (data : Bytes) (ho : otherTransfer t via 0xA000 0x0A = false)
    (hw : writeStatus t w 0xA000 0x0A 0 = Code.ok) :
    exec (.tenantPolicyLoad via data) s = answersTo s (loadPolicy t data).1 via (answer (loadPolicy t data).2) := by
  rw [exec_tenantPolicyLoad, execTenantPolicyLoad, withVia_asked ha, guardedBlock_ok ho hw, plainAnswer]

theorem exec_attestationQuote_of_asked {nonce : Bytes} (hread : mayRead w 0xA000 = true) (hlen : nonce.length = 32) :
    exec (.attestationQuote via nonce) s =
      if inService t 0 then answersTo s t via { status := Code.ok, length := 480, values := [quoteBlock t nonce] }
      else answersTo s t via (answer Code.locked) := by
  rw [exec_attestationQuote, execAttestationQuote, withVia_asked ha, attest, if_neg (by simp [hread]),
    if_neg (by simp [hlen])]
  cases inService t 0 with
  | true => rfl
  | false => rfl

end

/-- Whether a trust list closes a session: its key stood in the last list, and neither in this one nor is the operator's. -/
def losesTrust (t : State) (i : Item) (x : Session) : Bool :=
  x.principal == 0 && inTrust t.fw.trust x.key && !inTrust (some i) x.key && !(t.fw.operatorKey == some x.key)

/-- A trust list of the right layout: the item's checks decide. -/
theorem loadTrust_of_formed {t : State} {data : Bytes} {i : Item} (hi : i = itemOf data) (hrows : i.body.length % 40 = 0)
    (hmax : i.body.length ≤ 64 * 40)
    (hentries : ∀ e ∈ cutRuns 40 (i.body.length + 1) i.body, hdrField e 32 1 ≤ 3 ∧ hdrField e 33 7 = 0) :
    loadTrust t data =
      if itemStatus t 8 t.fw.trust data ≠ Code.ok then (t, itemStatus t 8 t.fw.trust data)
      else (closeSessions (setFw t { t.fw with trust := some i }) (losesTrust t i), Code.ok) := by
  have hany : (cutRuns 40 (i.body.length + 1) i.body).any
      (fun e => decide (3 < hdrField e 32 1) || hdrField e 33 7 != 0) = false := by
    rw [List.any_eq_false]
    intro e he
    simp [hentries e he]
  have hformed : (i.body.length % 40 != 0 || decide (64 * 40 < i.body.length) ||
      (cutRuns 40 (i.body.length + 1) i.body).any fun e => decide (3 < hdrField e 32 1) || hdrField e 33 7 != 0) = false := by
    rw [hany, hrows, decide_eq_false (Nat.not_lt.2 hmax)]
    rfl
  simp only [loadTrust, ← hi, hformed, Bool.false_eq_true, if_false]
  rfl

/-- A policy of the right layout: the item's checks decide. -/
theorem loadPolicy_of_formed {t : State} {data : Bytes} {i : Item} (hi : i = itemOf data) (hlen : i.body.length = 65536)
    (hentries : ∀ e ∈ cutRuns 16 (i.body.length + 1) i.body, ofLe e / 2 ^ 41 = 0) :
    loadPolicy t data =
      if itemStatus t 10 t.fw.policy data ≠ Code.ok then (t, itemStatus t 10 t.fw.policy data)
      else (setFw t { t.fw with policy := some i }, Code.ok) := by
  have hany : (cutRuns 16 (i.body.length + 1) i.body).any (fun e => ofLe e / 2 ^ 41 != 0) = false := by
    rw [List.any_eq_false]
    intro e he
    simp only [hentries e he, bne_self_eq_false, Bool.false_eq_true, not_false_eq_true]
  have hformed : ¬(i.body.length ≠ 65536 ∨
      ((cutRuns 16 (i.body.length + 1) i.body).any fun e => ofLe e / 2 ^ 41 != 0) = true) := by
    rw [hany, hlen]
    decide
  simp only [loadPolicy, ← hi, if_neg hformed]

/-- Settles O56: the operator key once, each item by its checks, and the quote while the security core runs. -/
theorem hostLoadedItemsAreCheckedAndInstalled : Obligations.HostLoadedItemsAreCheckedAndInstalled := by
  refine ⟨?key, ?trust, ?map, ?policy, ?locked, ?quote⟩
  case key =>
    intro s t via w key ha hw hlen
    exact exec_operatorKeyWrite_of_asked ha hw hlen
  case trust =>
    rintro s t _ via w data i _ ha ho hw hi hrows hmax hentries rfl rfl
    rw [exec_trustListLoad_of_asked ha data ho hw, loadTrust_of_formed hi hrows hmax hentries]
    split <;> rfl
  case map =>
    intro s t u via w data i ha ho hw hi hu
    rw [exec_topologyMapLoad_of_asked ha data ho hw, hu, hi]
    simp only [loadMap]
    split
    · rfl
    · split <;> rfl
  case policy =>
    intro s t via w data i ha ho hw hi hlen hentries
    rw [exec_tenantPolicyLoad_of_asked ha data ho hw, loadPolicy_of_formed hi hlen hentries]
    split <;> rfl
  case locked =>
    intro s kind last data hstopped
    exact if_pos hstopped
  case quote =>
    intro s t via w nonce ha hread hlen
    exact exec_attestationQuote_of_asked ha hread hlen

end Sys2Proof.Machine
end
